-- ==== Sys2Proof/Word.lean ====
section
/-! DEFINITION. The plain word types, and the sparse table in which the model holds indexed state. -/

namespace Sys2Proof

/-- One byte. -/
abbrev Byte := BitVec 8
/-- A 32-bit word. -/
abbrev Word32 := BitVec 32
/-- A 64-bit word. -/
abbrev Word64 := BitVec 64

/-- A sparse table: entries in strictly rising key order; an unlisted key holds the table's default. -/
abbrev Tbl (α : Type) := List (Nat × α)

end Sys2Proof
end

