-- ==== Sys2Proof/Syntax.lean ====
section
/-! DEFINITION. The commands and events of the module: one constructor of `Instr` per row of spec/opcode_table.json. -/

namespace Sys2Proof

/-- Who makes a register write or a mailbox request (R17): a host port or a host core. -/
inductive Agent where
  | port (p : Fin 4)
  | hcore (n : Fin 16)
deriving DecidableEq, Repr

/-- R77: one burst on the data bits: 32 data bytes (byte 0 least significant) and the 48 check-bit lanes. -/
structure Burst where
  data : BitVec 256
  check : BitVec 48
deriving DecidableEq, Repr

/-- R81 `SCFG`: what the word loads and its payload. -/
structure ScfgOp where
  loadCfg : Bool
  loadScale : Bool
  loadPat : Bool
  config : BitVec 32
  scale : Burst
  pat0 : Burst
  pat1 : Burst
deriving DecidableEq, Repr

/-- R81 `SLD` as one unit receives it: vector, first chunk, column offset, payload. -/
structure SldOp where
  first : Bool
  vec : Fin 8
  colOff : Nat
  payload : List Burst
deriving DecidableEq, Repr

/-- R59: the loading commands, which a unit may hold during a step. -/
inductive LoadCmd where
  | cfg (c : ScfgOp)
  | vec (c : SldOp)
  | lut (payload : List Burst)
deriving DecidableEq, Repr

/-- R81 `SLOG`: the function code `FN`. -/
inductive LogFn where
  | and | or | xor | andn | not
deriving DecidableEq, Repr

/-- R81 `SELT`: the operation code `EOP`. -/
inductive EltOp where
  | add | sub | mul | sadd | min | max | clamp | lut
deriving DecidableEq, Repr

/-- The token-bearing operations (R60); row operands are those of R80 (bit 15 `BSEL`, bits 14:0 `ROW`). -/
inductive RowCmd where
  | mac (nrows : Nat) (w : BitVec 16) (abase : Nat)
  | copy (d x : BitVec 16)
  | init (d : BitVec 16)
  | log (fn : LogFn) (d x y : BitVec 16)
  | elt (op : EltOp) (d x y : BitVec 16)
  | nrm (x : BitVec 16) (cFirst cLast : Nat)
deriving DecidableEq, Repr

/-- R84: the follower of `SBRD`. -/
inductive Follower where
  | cfg (c : ScfgOp)
  | init (d : BitVec 16)
  | copy (d x : BitVec 16)
  | log (fn : LogFn) (d x y : BitVec 16)
deriving DecidableEq, Repr

/-- R91: a pair refresh falls due, or the controller issues one. -/
inductive RefreshAct where
  | due | issue
deriving DecidableEq, Repr

/-- R282: who made an access. -/
inductive Requester where
  | host | hostCore | frond | sequencer | scrub | mgmt | controller
deriving DecidableEq, Repr

/-- One ordinary access to a bank pair (R94): a read or a full-column write of a physical column; a host's CXL.mem read or write of a
line, by its two physical columns (R95: it counts as two). -/
inductive OrdAccess where
  | read (req : Requester) (col : Nat)
  | write (req : Requester) (col : Nat) (data : BitVec 256) (poison : Bool)
  | lineRead (p : Fin 4) (a b : Nat)
  | lineWrite (p : Fin 4) (a b : Nat) (line : BitVec 512) (be : Word64) (poison : Bool)
deriving DecidableEq, Repr

/-- R118: the modes of the matrix array. -/
inductive MmaMode where
  | int8 | int4 | fp8 | bf16 | int4seg | int8seg
deriving DecidableEq, Repr

/-- R190: the scales of FP8 and bf16 weights. -/
inductive FltScale where
  | none | bf16 | fp32
deriving DecidableEq, Repr

/-- R118: one `MMA`. The operands lie in core memory: element (i, k) of the activation tile at `aBase + i * aPitch`
onwards, element (k, j) of the weight tile in row j at `bBase + j * bPitch` onwards; scales at `sBase + j * sPitch`, one per group of
`group` weights: int16 in segment mode (R122), of `fScale` for FP8 and bf16 weights (R190). -/
structure MmaOp where
  mode : MmaMode
  acc : Nat
  m : Nat
  n : Nat
  k : Nat
  aUnsigned : Bool
  aE5m2 : Bool
  bE5m2 : Bool
  aBase : Nat
  aPitch : Nat
  bBase : Nat
  bPitch : Nat
  sBase : Nat
  sPitch : Nat
  group : Nat
  fScale : FltScale := .none
deriving DecidableEq, Repr

/-- The element types of a core operation's vector or tile operand: the lane types of R125, and the formats that core memory
holds besides (R62, R118). -/
inductive Lane where
  | int8 | int16 | int32 | fp32 | int4 | uint8 | bf16 | e4m3 | e5m2
deriving DecidableEq, Repr

/-- Where a core operation's vector or tile operand lies (R117). -/
inductive CoreRef where
  | vreg (v : Nat)
  | tile (t : Nat)
  | acc (t : Nat)
  | mem (addr : Nat)
deriving DecidableEq, Repr

/-- The further operand of a chain stage in a core (R125, R127). -/
inductive StageSrc where
  | none
  | imm (v : BitVec 32)
  | vreg (v : Nat)
  | tile (t : Nat)
  | rowBcast (v : Nat)
  | colBcast (v : Nat)
deriving DecidableEq, Repr

/-- One chain stage of a core: the `STAGE_OP` code and `ARG` of R140, its operand, its second immediate. -/
structure CoreStage where
  op : Nat
  src : StageSrc
  imm2 : BitVec 32
  arg : Nat
deriving DecidableEq, Repr

/-- R124: the mask register that an operation names, and the remainder mask, if any, that the dispatcher builds in it first. -/
structure MaskUse where
  reg : Nat
  build : Option (BitVec 1024)
deriving DecidableEq, Repr

/-- R117: `DRAIN` and `VCHAIN`: input, stages, output, lane types, mask register and policy (R124). -/
structure ChainOp where
  src : CoreRef
  dst : CoreRef
  inLane : Lane
  outLane : Lane
  stages : List CoreStage
  mask : MaskUse
  zero : Bool
  segment : Bool
deriving DecidableEq, Repr

/-- R128: the reductions. -/
inductive RedFn where
  | sum | prod | max | min | argmax | argmin
deriving DecidableEq, Repr

/-- R128: the three forms of a reduction. -/
inductive RedForm where
  | axis1 (tile : Nat)
  | axis0 (tile : Nat)
  | whole (vreg : Nat)
deriving DecidableEq, Repr

/-- R117 `REDUCE` of a core. Bit i of `stored`: the tile stores result i into the record's destination (R130). -/
structure ReduceOp where
  fn : RedFn
  form : RedForm
  lane : Lane
  resInt32 : Bool
  mask : MaskUse
  dst : Nat
  stored : BitVec 64
deriving DecidableEq, Repr

/-- R135: what a core's check bits or parity found. -/
inductive CoreFaultKind where
  | corrected | uncorrectable | regParity
deriving DecidableEq, Repr

/-- Who claims tickets (R149, R176): a frond core or a frond DMA engine, by global number. -/
inductive Claimant where
  | core (c : Fin 64)
  | engine (e : Fin 64)
deriving DecidableEq, Repr

/-- R230: the nodes of the barrier tree of this module. -/
inductive BNode where
  | frond (f : Fin 4)
  | rachis
deriving DecidableEq, Repr

/-- R230 to R232, R238, R357: what comes from another member for a group-scope barrier. -/
inductive RemoteArr where
  /-- At the group root: a member's message of arrivals, with their `COUNT`. -/
  | arrivals (member : Fin 16) (num count : Nat)
  /-- The root's answer to the oldest arrivals that this member has sent: the first is number `place` of generation `gen`. -/
  | accepted (num : Nat) (gen : Word32) (place : Nat)
  /-- The root's refusal of the oldest arrivals that this member has sent. -/
  | refused (num : Nat)
  /-- A member's context that holds the barrier has lost its owner. -/
  | ownerLost
deriving DecidableEq, Repr

/-- R236: the scope of the deadlock detector. -/
inductive Scope where
  | module
  | context (c : Nat)
deriving DecidableEq, Repr

/-- R30: the quantities whose balance the module keeps, power quanta apart; rhizoid credits with their port. -/
inductive Quantity where
  | fabricCredits | arrivals | dmaBytes | tickets | streams | flags | packCharge
  | rhizoidCredits (n : Fin 8)
deriving DecidableEq, Repr

/-- R286: the command that failed its parity, by kind: an ordinary read of columns, by the record (queue, sequence) that it serves, by a
host's CXL.mem read, by a host core's access, by another requester, or for the record at a queue's `HEAD`; an ordinary write of columns, for
a host's CXL.mem write when `cxl`, whose poisoning write fails in turn when `again` (R287); a sorus command; a refresh; a sorus word as its
unit received it (R83). -/
inductive ParityCmd where
  | recRead (q : Nat) (seq : BitVec 32) (cols : List Nat)
  | hostRead (p : Fin 4) (cols : List Nat)
  | coreRead (n : Fin 16) (addr : Nat) (cols : List Nat)
  | otherRead (req : Requester) (cols : List Nat)
  | headRead (q : Nat) (cols : List Nat)
  | write (req : Requester) (cols : List Nat) (cxl : Bool) (again : Bool)
  | sorus (su : Nat) (q : Nat) (seq : BitVec 32)
  | refresh (su : Nat)
  | word (su : Nat) (q : Nat) (seq : BitVec 32) (w : BitVec 64)
deriving DecidableEq, Repr

/-- R242: what a host's commit of an HDM decoder asks for; `other` is another commit error of the standard; not `on`: the host clears the
commit. -/
structure HdmCommit where
  dec : Fin 4
  base : Nat
  size : Nat
  skip : Nat
  ways : Nat
  other : Bool
  on : Bool := true
deriving DecidableEq, Repr

/-- R179: an acknowledging read of a ticket: the ticket, and how many of its bytes lie before the read. -/
structure AckPoint where
  ticket : Nat
  bytes : Nat
deriving DecidableEq, Repr

/-- R180: how a host read completes: with data for a ticket, or with an error. -/
inductive HostReadRes where
  | data (ticket : Nat) (bytes : List Byte)
  | ur | ca
deriving DecidableEq, Repr

/-- A host-core access (R251), or `fence` (R252) or `fence.i` (R249), which touch no address. -/
inductive AccKind where
  | load | store (data : Word64) | fetch | fenceI | fence
deriving DecidableEq, Repr

/-- The holders of R297: a core's level, a stack's eighths, a rhizoid port, the sorus tokens together or that of one unit, and the fixed
allotments of the rachis and of a frond's uncore. -/
inductive Holder where
  | core (c : Fin 64)
  | stack (s : Fin 32)
  | rport (n : Fin 8)
  | tokens
  | token (su : Nat)
  | rachis
  | uncore (f : Fin 4)
deriving DecidableEq, Repr

/-- R298, R304: what a holder sends to the arbiter: a request for units, or units that it gives back of its own accord. -/
inductive QuantaMsg where
  | ask (units : Nat)
  | giveBack (units : Nat)
deriving DecidableEq, Repr

/-- R298, R30: what a ledger check compares: the quanta that holders count themselves, and the other quantities that the module finds out
of balance, each with the unit identifier of the block. -/
structure LedgerCounts where
  held : List (Holder × Nat)
  found : List (Quantity × Nat)
deriving DecidableEq, Repr

/-- R325, R326: what a retention has drawn from the pack when it ends: the charge, and the power measured at the pack's terminals. -/
structure RetentionUse where
  chargeUsed : Nat
  powerMw : Nat
deriving DecidableEq, Repr

/-- R22, R23: the retrain of a fabric link: it begins, or it is done. -/
inductive LinkRetrain where
  | begins (l : Fin 8)
  | done (l : Fin 8)
deriving DecidableEq, Repr

/-- R332: what the training of a byte lane finds: the lane (10 × channel + 5 × pseudo-channel + byte lane, the check lane last), the
centres of its write and read delays, and the width of its eye, in steps of 1/64 unit interval. `full`: the lane was swept in full. -/
structure LaneFit where
  lane : Nat
  write : Nat
  read : Nat
  width : Nat
  full : Bool := false
deriving DecidableEq, Repr

/-- R332, R341, R342, R393: the outcome of a readmission's training, test or retrain; what the training of a channel's lanes finds. -/
structure Readmission where
  passes : Bool
  lanes : List LaneFit := []
deriving DecidableEq, Repr

/-- R307: one domain's samples, sensor by sensor; `none` when the sensor gives no reading. `lanes`: what a short retrain of the stack finds
where the sample changes its band (R314). -/
structure DomSample where
  dom : Nat
  reads : List (Option Int)
  lanes : List LaneFit := []
deriving DecidableEq, Repr

/-- R313: the cause of a root step down: a logic domain (entry index of `GET_THERMAL`), the coolant outlet, the input power
in mW over 5 ms, the input current in mA over 1 ms. -/
inductive StepCause where
  | logic (dom : Nat)
  | outlet
  | power (mw : Nat)
  | current (ma : Nat)
deriving DecidableEq, Repr

/-- R320, R321, R324: what the pack answers at a poll; the charge that the module has measured at its terminals since the last poll that
it answered, in and out; the present week, counted as `MFG_WEEK` is. -/
structure PackReading where
  serial : BitVec 64
  model : BitVec 16
  mfgWeek : BitVec 16
  ratedMwh : BitVec 32
  soh : Nat
  soc : Nat
  cellTemp : Int
  storedMc : Nat
  storedMwh : Nat
  inMc : Nat
  outMc : Nat
  charging : Bool
  week : Nat
deriving DecidableEq, Repr

/-- R322: the pack's answer to a challenge: absent, silent, or the verdicts on certificate, serial and signature. -/
inductive PackReply where
  | absent
  | silent
  | answer (certOk serialOk sigOk : Bool)
deriving DecidableEq, Repr

/-- R331, R345: what the header of a firmware slot says: version, security version, whether it asks for the minimum security
version to be raised, the length and the SHA-384 digest of the image. -/
structure FwHeader where
  version : BitVec 32
  security : BitVec 16
  raises : Bool
  length : Nat
  digest : BitVec 384
deriving DecidableEq, Repr

/-- R319: the input as measured: millivolts, milliamperes, milliwatts, averaged over 1 ms. -/
structure InputReading where
  mv : Nat
  ma : Nat
  mw : Nat
deriving DecidableEq, Repr

/-- R332: what a lane's training finds at a root step (0 is 8.0, 1 is 6.4, 2 is 4.8 GHz). -/
structure RootFit where
  root : Nat
  fit : LaneFit
deriving DecidableEq, Repr

/-- R329 to R333: what a start-up meets outside the model: `DBG_EN`; the header of each slot whose signature and digest verify
(R331); fabric links that do not train, frond cores and host cores that fail BIST (step 4); what the training of lanes finds (R332); the
pack's answer to its challenge (R322). -/
structure StartReport where
  dbgEn : Bool
  slotA : Option FwHeader
  slotB : Option FwHeader
  badLinks : List (Fin 8)
  badCores : List (Fin 64)
  badHostCores : List (Fin 16)
  fits : List RootFit
  pack : PackReply
deriving DecidableEq, Repr

/-- R347: a received flit; `crcOk` is the verdict on its `CRC`. -/
structure Flit where
  seq : BitVec 12
  ack : BitVec 12
  nak : Bool
  control : Bool
  credD : Nat
  credC : Nat
  payload : List Byte
  crcOk : Bool
deriving DecidableEq, Repr

/-- R351: a join message of another member: its number, token and set, its module's serial number, and whether its own neighbours stand
where it expects them and it has a route to every member. -/
structure JoinMsg where
  member : Fin 16
  token : BitVec 64
  members : BitVec 16
  serial : BitVec 64
  routesOk : Bool
deriving DecidableEq, Repr

/-- R335: who asks for a frond reset. -/
inductive ResetBy where
  | port (p : Fin 4)
  | firmware
deriving DecidableEq, Repr

/-- The commands and events, one per row of the table. `mb` is a mailbox (4p + m for mailbox m of port p, 16 + n for
host core n), `q` a queue number, `seq` a record's sequence, `su` a global sorus number, `at` a timebase instant. -/
inductive Instr where
  | getCaps (mb : Fin 32)
  | getVersion (mb : Fin 32)
  | claim (mb : Fin 32)
  | renewLease (mb : Fin 32)
  | release (mb : Fin 32)
  | handover (mb : Fin 32)
  | takeover (mb : Fin 32)
  | getOwner (mb : Fin 32)
  | setLayout (mb : Fin 32) (nvmOk : Bool)
  | getLayout (mb : Fin 32)
  | ctxCreate (mb : Fin 32)
  | ctxDestroy (mb : Fin 32)
  | ctxSuspend (mb : Fin 32)
  | ctxSuspendTimeout (mb : Fin 32) (at_ : Nat)
  | ctxResume (mb : Fin 32)
  | ctxAdopt (mb : Fin 32)
  | qCreate (mb : Fin 32)
  | qDestroy (mb : Fin 32)
  | qDrain (mb : Fin 32)
  | qDrainTimeout (mb : Fin 32) (at_ : Nat)
  | streamAlloc (mb : Fin 32)
  | streamFree (mb : Fin 32)
  | streamSet (mb : Fin 32)
  | flagWindowMap (mb : Fin 32)
  | setEnvelope (mb : Fin 32)
  | envelopeLowerEdge
  | getPower (mb : Fin 32)
  | setSorusLimit (mb : Fin 32)
  | getThermal (mb : Fin 32)
  | scrub (mb : Fin 32)
  | getErrlog (mb : Fin 32)
  | setBucket (mb : Fin 32)
  | flipMaskArm (mb : Fin 32)
  | repairRow (mb : Fin 32)
  | unitDisable (mb : Fin 32)
  | unitDisableTimeout (mb : Fin 32) (at_ : Nat)
  | unitReadmit (mb : Fin 32) (outcome : Readmission)
  | secureErase (mb : Fin 32) (badColumns : List Nat)
  | packStatus (mb : Fin 32)
  | packAuth (mb : Fin 32) (reply : PackReply)
  | retainArm (mb : Fin 32)
  | groupJoin (mb : Fin 32)
  | groupLeave (mb : Fin 32)
  | getEventLog (mb : Fin 32)
  | getShutdownRecord (mb : Fin 32)
  | clearShutdown (mb : Fin 32)
  | fwStage (mb : Fin 32)
  | fwActivate (mb : Fin 32) (header : Option FwHeader)
  | mailboxRing (mb : Fin 32)
  | mailboxWatchdogTimeout (mb : Fin 32) (at_ : Nat) (columnsDone : Nat)
  | matmul (q : Nat) (seq : Word32)
  | matmulQ (q : Nat) (seq : Word32)
  | gemvMem (q : Nat) (seq : Word32)
  | memRowop (q : Nat) (seq : Word32)
  | memEw (q : Nat) (seq : Word32)
  | memNorm (q : Nat) (seq : Word32)
  | ewChain (q : Nat) (seq : Word32)
  | reduce (q : Nat) (seq : Word32)
  | norm (q : Nat) (seq : Word32)
  | copy (q : Nat) (seq : Word32)
  | permute (q : Nat) (seq : Word32)
  | gather (q : Nat) (seq : Word32)
  | scatterAdd (q : Nat) (seq : Word32)
  | hostWrite (q : Nat) (seq : Word32)
  | hostRead (q : Nat) (seq : Word32)
  | sporeWrite (q : Nat) (seq : Word32)
  | collective (q : Nat) (seq : Word32) (others : List (List (Word32 × Bool))) (agree : Bool)
  | flagSet (q : Nat) (seq : Word32)
  | flagWait (q : Nat)
  | barrier (q : Nat) (seq : Word32)
  | scfg (su : Nat) (ctx : Nat) (mid : Bool) (c : ScfgOp)
  | sld (gpc : Nat) (ctx : Nat) (mid : Bool) (umask : BitVec 16) (c : SldOp)
  | slut (su : Nat) (ctx : Nat) (mid : Bool) (payload : List Burst)
  | smac (su : Nat) (ctx : Nat) (nrows : Nat) (w : BitVec 16) (abase : Nat)
  | sfet (su : Nat) (ctx : Nat) (status : Bool) (nent : Nat)
  | scpy (su : Nat) (ctx : Nat) (d x : BitVec 16)
  | sini (su : Nat) (ctx : Nat) (d : BitVec 16)
  | slog (su : Nat) (ctx : Nat) (fn : LogFn) (d x y : BitVec 16)
  | selt (su : Nat) (ctx : Nat) (op : EltOp) (d x y : BitVec 16)
  | snrm (su : Nat) (ctx : Nat) (x : BitVec 16) (cFirst cLast : Nat)
  | sbrd (ch : Nat) (ctx : Nat) (pcsel : BitVec 2) (umask : BitVec 16) (reps : Nat) (f : Follower)
  | heldCommandApply (su : Nat)
  | sorusTokenGrant (su : Nat)
  | sorusParityRerun (su : Nat)
  | pairRefresh (su : Nat) (act : RefreshAct)
  | ordinaryAccessServe (su : Nat) (arrived : List OrdAccess)
  | mma (c : Fin 64) (o : MmaOp)
  | accClose (c : Fin 64) (acc : Nat)
  | drain (c : Fin 64) (o : ChainOp)
  | vchain (c : Fin 64) (o : ChainOp)
  | coreReduce (c : Fin 64) (o : ReduceOp)
  | tload (c : Fin 64) (t addr : Nat)
  | tstore (c : Fin 64) (t addr : Nat)
  | vload (c : Fin 64) (v addr : Nat)
  | vstore (c : Fin 64) (v addr : Nat)
  | coreFault (c : Fin 64) (kind : CoreFaultKind)
  | claimTicket (q : Nat) (seq : Word32) (who : Claimant) (serial : BitVec 16)
  | commitRequest (q : Nat) (seq : Word32) (who : Claimant) (ticket epoch : Nat)
  | commitDone (q : Nat) (seq : Word32) (who : Claimant) (ticket : Nat)
  | ticketHoldTimeout (q : Nat) (seq : Word32) (who : Claimant) (at_ : Nat)
  | doorbellTail (by_ : Agent) (q : Nat) (v : Word32)
  | cqHeadWrite (by_ : Agent) (q : Nat) (v : Word32)
  | recordIssue (q : Nat)
  | recordStart (q : Nat) (seq : Word32)
  | epilogue (q : Nat) (seq : Word32) (n : Nat)
  | wideningRerun (q : Nat) (seq : Word32)
  | recordComplete (q : Nat) (seq : Word32)
  | flagPageSet (by_ : Agent) (ctx : Nat) (n : BitVec 16)
  | flagPageClear (by_ : Agent) (ctx : Nat) (n : BitVec 16)
  | setMask (by_ : Agent) (ctx slot : Nat) (mask : Word64)
  | clearMask (by_ : Agent) (ctx slot : Nat) (mask : Word64)
  | flagWaitTimeout (q : Nat) (at_ : Nat)
  | flagMirrorWrite (block : Nat)
  | barrierArrival (b : Nat) (node : BNode) (remote : Option RemoteArr)
  | barrierForward (b : Nat) (node : BNode)
  | barrierRelease (b : Nat) (gen : Word32)
  | deadlockDetected (sc : Scope) (at_ : Nat)
  | memrd (p : Fin 4) (hpa : Nat)
  | memwr (p : Fin 4) (hpa : Nat) (line : BitVec 512) (poison : Bool)
  | memwrptl (p : Fin 4) (hpa : Nat) (line : BitVec 512) (be : Word64) (poison : Bool)
  | meminv (p : Fin 4) (hpa : Nat) (line : BitVec 512)
  | bucketLeak (st : Fin 32) (at_ : Nat)
  | logNvmCopy (at_ : Nat)
  | ledgerNvmCopy (at_ : Nat)
  | commandParityError (gpc : Nat) (cmd : ParityCmd) (at_ : Nat)
  | autoColumnRepair (bank column : Nat) (at_ : Nat)
  | hdmDecoderCommit (p : Fin 4) (c : HdmCommit)
  | hostLinkUp (p : Fin 4) (width : Nat) (rate64 : Bool)
  | hostLinkRetrain (p : Fin 4)
  | hostLinkLost (p : Fin 4)
  | portReset (p : Fin 4)
  | hostAckReadComplete (q : Nat) (seq : Word32) (at_ : AckPoint)
  | hostReadCompletion (q : Nat) (seq : Word32) (res : HostReadRes)
  | hostCompletionTimeout (q : Nat) (seq : Word32)
  | portFenceSet (p : Fin 4)
  | portFenceClear (p : Fin 4)
  | evlogAckWrite (by_ : Agent) (v : Word64)
  | registerWrite (by_ : Agent) (off size : Nat) (v : Word64)
  | warmModuleReset (p : Fin 4) (key : Byte)
  | frondReset (by_ : ResetBy) (f : Fin 4) (key : Byte) (bistOk : List (Fin 64))
  | contextReset (p : Fin 4) (ctx : Nat) (key : Byte)
  | hostCoreRun (p : Fin 4) (n : Fin 16) (w : Word32)
  | hostCoreStop (p : Fin 4) (n : Fin 16) (w : Word32)
  | hostCoreReset (p : Fin 4) (n : Fin 16) (w : Word32)
  | hostCoreAccess (n : Fin 16) (addr size : Nat) (kind : AccKind)
  | cboClean (n : Fin 16) (addr : Nat)
  | cboFlush (n : Fin 16) (addr : Nat)
  | cboInval (n : Fin 16) (addr : Nat)
  | ownershipWindowClose (at_ : Nat)
  | leaseExpiry (at_ : Nat)
  | quantaRequest (h : Holder) (m : QuantaMsg)
  | quantaGrant (at_ : Nat)
  | coreLend (c : Fin 64)
  | coreRegrant (c : Fin 64)
  | arbiterLedgerCheck (counts : LedgerCounts)
  | thermalSample (at_ : Nat) (samples : List DomSample) (input : InputReading)
  | throttleStepDown (at_ : Nat) (cause : StepCause)
  | throttleStepUp (at_ : Nat)
  | rootRetarget
  | refclkLost (at_ : Nat)
  | refclkWarning (ppm : Int)
  | inputPowerLost (at_ : Nat)
  | inputOvervoltage (at_ : Nat) (mv : Nat)
  | inputOvercurrent (at_ : Nat) (ma : Nat)
  | inputVoltageWarning (at_ : Nat) (mv : Nat)
  | packReserveReached (e : RetentionUse)
  | packSelfDisconnect (e : RetentionUse)
  | retentionExit (nsHeld chargeUsed powerMw : Nat)
  | startUp (r : StartReport)
  | readyReached (at_ : Nat)
  | fwTrialFallback (at_ : Nat) (watchdog : Bool)
  | packPoll (at_ : Nat) (reading : Option PackReading)
  | packDetect (reading : PackReading) (reply : PackReply)
  | packRemoved
  | packLedgerCheck (storedNow : Nat)
  | frontPathLost (f : Fin 4)
  | frondPathReturn (f : Fin 4)
  | fabricLinkRetrain (l : LinkRetrain)
  | fabricLinkFence (l : Fin 8)
  | fabricRouteRelease (source granule : Nat)
  | rhizoidFlitReceive (n : Fin 8) (f : Flit)
  | rhizoidRetrainDone (n : Fin 8) (freeD freeC : Nat)
  | rhizoidRetrainTimeout (n : Fin 8) (at_ : Nat)
  | rhizoidTrainRetry (n : Fin 8) (at_ : Nat) (serial : Option Word64)
  | groupJoinMessage (msg : JoinMsg)
  | memberUnreachable (m : Fin 16) (at_ : Nat)
  | groupBreak
  | collectiveCancel (q : Nat) (members : BitVec 16) (k : Nat)
  | sbIdent
  | sbState
  | sbThermal
  | sbPower
  | sbShutdown
  | sbClear
  | sbPack
  | sbClaimPrio (w : Option Word32)
  | sbFwRecover (slot : Nat) (off : Nat) (data : List Byte)
  | sbAlertResponse
  | bypass (die : Fin 37) (tdi : List Bool)
  | idcode (die : Fin 37)
  | samplePreload (die : Fin 37) (preload : List Bool)
  | extest (die : Fin 37)
  | busMasteringChange (p : Fin 4) (on : Bool)
  | rhizoidPortTrained (n : Fin 8) (serial : Word64)
  | rhizoidLinkRetrain (n : Fin 8)
deriving DecidableEq, Repr

end Sys2Proof
end

