-- ==== Sys2Proof/Decode.lean ====
section
/-! DEFINITION. The command that a word spells by the bits of the command table. -/

namespace Sys2Proof

/-- The command that a word spells by the table's bits: no row of spec/opcode_table.json gives bits, so none. The
bit encodings that the spec does give (command words, requests, records) are read by the meanings. -/
def decodeTableWord (_nbits _w : Nat) : Option Instr := none

end Sys2Proof
end

