-- ==== Sys2Proof/Machine/Bits.lean ====
section
/-! DEFINITION. Bit fields, signed values, rounding shift, little-endian bytes, and the operations of sparse tables. -/

namespace Sys2Proof.Machine

open Sys2Proof

/-- The entry of a sparse table at index `i`, the default `d` where none is listed. -/
def Tbl.get {α : Type} (d : α) : Tbl α → Nat → α
  | [], _ => d
  | (k, v) :: r, i => if i = k then v else Tbl.get d r i

/-- A sparse table without index `i`. -/
def Tbl.erase {α : Type} : Tbl α → Nat → Tbl α
  | [], _ => []
  | (k, v) :: r, i => if i = k then Tbl.erase r i else (k, v) :: Tbl.erase r i

/-- Insert an entry before the first larger index. -/
def Tbl.insert {α : Type} : Tbl α → Nat → α → Tbl α
  | [], i, x => [(i, x)]
  | (k, v) :: r, i, x => if i < k then (i, x) :: (k, v) :: r else (k, v) :: Tbl.insert r i x

/-- Set index `i` to `x`; the entry is listed unless it is the default and `keep` is false. -/
def Tbl.putKeep {α : Type} [DecidableEq α] (keep : Bool) (d : α) (m : Tbl α) (i : Nat) (x : α) : Tbl α :=
  if x = d ∧ keep = false then Tbl.erase m i else Tbl.insert (Tbl.erase m i) i x

/-- Set index `i` to `x` in a sparse table with default `d`. -/
def Tbl.put {α : Type} [DecidableEq α] (d : α) (m : Tbl α) (i : Nat) (x : α) : Tbl α :=
  Tbl.putKeep false d m i x

/-- Set the indices from `base` on to the values of a list. -/
def Tbl.putRange {α : Type} [DecidableEq α] (d : α) (m : Tbl α) (base : Nat) (xs : List α) : Tbl α :=
  m.filter (fun e => decide (e.1 < base)) ++ ((xs.zipIdx.map fun e => (base + e.2, e.1)).filter fun e => decide (e.2 ≠ d))
    ++ m.filter (fun e => decide (base + xs.length ≤ e.1))

/-- The canonical form of a sparse table: indices strictly rising, no entry the default. -/
def Tbl.wf {α : Type} [DecidableEq α] (d : α) : Tbl α → Bool
  | [] => true
  | [(_, v)] => v != d
  | (k, v) :: (k', v') :: r => v != d && decide (k < k') && Tbl.wf d ((k', v') :: r)

/-- Bits [lo + len - 1 : lo] of a number (R4: bit 0 is the least significant). -/
def bits (x lo len : Nat) : Nat := (x >>> lo) % 2 ^ len

/-- One bit of a number. -/
def bit (x i : Nat) : Bool := x.testBit i

/-- A number of `w` bits read as two's complement (R182). -/
def toSigned (w x : Nat) : Int := if x % 2 ^ w < 2 ^ (w - 1) then ((x % 2 ^ w : Nat) : Int) else ((x % 2 ^ w : Nat) : Int) - ((2 ^ w : Nat) : Int)

/-- The two's complement pattern of an integer in `w` bits. -/
def ofSigned (w : Nat) (z : Int) : Nat := (z % ((2 ^ w : Nat) : Int)).toNat

/-- An integer limited to a range, and whether that changed it (R69 `sat`). -/
def satTo (lo hi z : Int) : Int × Bool := if z < lo then (lo, true) else if hi < z then (hi, true) else (z, false)

/-- The range of a signed format of `w` bits. -/
def satS (w : Nat) (z : Int) : Int × Bool := satTo (-((2 ^ (w - 1) : Nat) : Int)) (((2 ^ (w - 1) : Nat) : Int) - 1) z

/-- R69 `rshift(v, s)`: v divided by 2^s, rounded to nearest, ties to even. -/
def rshift (v : Int) (s : Nat) : Int :=
  if s = 0 then v
  else
    let p : Int := ((2 ^ s : Nat) : Int)
    let q := v / p
    let r := v - q * p
    let h : Int := ((2 ^ (s - 1) : Nat) : Int)
    if r > h ∨ (r = h ∧ q % 2 = 1) then q + 1 else q

/-- The `n` little-endian bytes of a number. -/
def bytesOf : Nat → Nat → List Byte
  | 0, _ => []
  | n + 1, x => BitVec.ofNat 8 x :: bytesOf n (x / 256)

/-- The number that little-endian bytes spell. -/
def natOf : List Byte → Nat
  | [] => 0
  | b :: r => b.toNat + 256 * natOf r

/-- The even parity of the low `n` bits of a number: 1 when an odd number of them is set. -/
def parityOf : Nat → Nat → Bool
  | 0, _ => false
  | n + 1, x => (x.testBit n) != parityOf n x

/-- Byte `i` of a column. -/
def colByte (d : BitVec 256) (i : Nat) : Byte := d.extractLsb' (8 * i) 8

/-- A column with byte `i` replaced. -/
def setColByte (d : BitVec 256) (i : Nat) (b : Byte) : BitVec 256 :=
  (d &&& ~~~(BitVec.ofNat 256 (255 <<< (8 * i)))) ||| BitVec.ofNat 256 (b.toNat <<< (8 * i))

/-- R275 `PARITY`: bit i is the XOR of the bits of data byte i. -/
def parityField (d : BitVec 256) : Nat :=
  (List.range 32).foldl (fun acc i => if parityOf 8 (colByte d i).toNat then acc + 2 ^ i else acc) 0

/-- R275 `MEND`: the XOR of the 32 data bytes. -/
def mendField (d : BitVec 256) : Byte :=
  (List.range 32).foldl (fun acc i => acc ^^^ colByte d i) 0

/-- R73, R276: the check bits of a full-column write: parity, mend, `MEND_VALID` 1, poison as delivered. -/
def freshCheck (d : BitVec 256) (poison : Bool) : BitVec 48 :=
  BitVec.ofNat 48 (parityField d + (mendField d).toNat * 2 ^ 32 + 2 ^ 40 + (if poison then 2 ^ 41 else 0))

/-- R275: the check bits of a zero column. -/
def zeroCheck : BitVec 48 := BitVec.ofNat 48 (2 ^ 40)

/-- The list with the element at index `i` replaced. -/
def setAt {α : Type} : List α → Nat → α → List α
  | [], _, _ => []
  | _ :: r, 0, x => x :: r
  | a :: r, i + 1, x => a :: setAt r i x

/-- The sum of a list of numbers. -/
def sumNat : List Nat → Nat
  | [] => 0
  | a :: r => a + sumNat r

/-- The product of a list of numbers. -/
def prodNat : List Nat → Nat
  | [] => 1
  | a :: r => a * prodNat r

/-- The elements of a list without repeats, first occurrences kept. -/
def dedup {α : Type} [DecidableEq α] (l : List α) : List α :=
  (l.foldl (fun acc x => if x ∈ acc then acc else x :: acc) []).reverse

/-- `x` divided by `y`, rounded up. -/
def ceilDiv (x y : Nat) : Nat := (x + y - 1) / y

/-- R272 step 4: the nearest value of a range. -/
def clampNat (lo hi x : Nat) : Nat := if x < lo then lo else if hi < x then hi else x

end Sys2Proof.Machine
end

