-- ==== Sys2Proof/Config.lean ====
section
/-! DEFINITION. The values that the spec leaves open, as opaque constants (no body, so no proof can see a value). -/

namespace Sys2Proof.Config

/-- R8: the byte that undefined memory content reads as: the tag of the undefined content, the physical byte address. -/
opaque freeByte : Nat → Nat → BitVec 8
/-- R8: the 48 check bits of an undefined column: the tag of the undefined content, the physical column. -/
opaque freeCheck : Nat → Nat → BitVec 48
/-- R23, R30: the credits of a fabric link. -/
opaque fabricCredits : Nat
/-- A value the spec does not give, fresh for each value of the state's free-value counter. -/
opaque freeWord : Nat → BitVec 64
/-- R25: the bank pairs whose refreshes controllers pull in at a root retarget; the free-value counter. -/
opaque pulledRefreshes : Nat → List Nat
/-- R126: exp2 of an fp32 (within 1 ulp; the same bits for the same input). -/
opaque exp2 : BitVec 32 → BitVec 32
/-- R126: log2 of an fp32 (within 1 ulp; the same bits for the same input). -/
opaque log2 : BitVec 32 → BitVec 32
/-- R126: reciprocal of an fp32 (within 1 ulp; the same bits for the same input). -/
opaque recip : BitVec 32 → BitVec 32
/-- R126: reciprocal square root of an fp32 (within 1 ulp; the same bits for the same input). -/
opaque rsqrt : BitVec 32 → BitVec 32
/-- R139 `MEM_NORM` variant 1: the scalar unit's reciprocal square root: sum of squares, `COUNT`, `EPS`. -/
opaque normRsqrt : Int → Nat → BitVec 32 → BitVec 32
/-- R139 `MEM_NORM` variant 2: the scalar unit's reciprocal of the sum. -/
opaque normRecip : Int → BitVec 32
/-- R139 `NORM`: one output element, whose formula and rounding the spec does not give: variant, `EPS`, the
input elements along the dimension, gain, bias, index of the element (all as fp32 patterns). -/
opaque normElem : Nat → BitVec 32 → List (BitVec 32) → Option (BitVec 32) → Option (BitVec 32) → Nat → BitVec 32
/-- R111: what the frond vector engine forms of the tail buffer of a stream for an output row: the activations of the vector (as
patterns), the value bytes of the buffer's tokens, the row. -/
opaque tailSum : List Nat → List (List (BitVec 8)) → Nat → Int
/-- R116: where in core memory the dispatcher places an operand's chunk: ticket, operand. -/
opaque tilePlace : Nat → Nat → Nat
/-- R347: the 64-bit CRC of a flit's first 248 bytes, whose polynomial the spec does not give. -/
opaque flitCrc : Nat → BitVec 64
/-- R331: the measurement: the SHA-384 digest of a header (version, security version, whether it raises the minimum, image length, image
digest) and its image. -/
opaque measurement : BitVec 32 → BitVec 16 → Bool → Nat → BitVec 384 → BitVec 384
/-- R380: the 64-bit module serial number. -/
opaque moduleSerial : BitVec 64
/-- R390: the crozier ROM version. -/
opaque romVersion : BitVec 32
/-- R331: the firmware version and security version that the factory image carries (both slots). -/
opaque factoryVersion : BitVec 32
/-- R331: the security version that the factory image carries. -/
opaque factorySecurity : BitVec 16
/-- R331: the length of the factory image. -/
opaque factoryLength : Nat
/-- R331: the SHA-384 digest of the factory image. -/
opaque factoryDigest : BitVec 384
/-- R382: what a pin of a die's boundary register drives or samples that no operand gives. -/
opaque boundaryPins : Nat → BitVec 64

end Sys2Proof.Config
end

