-- ==== Sys2Proof/Machine/State.lean ====
section
/-! DEFINITION. The state of the module: all that the spec gives it, as plain data, and its value at cold power-on. -/

namespace Sys2Proof.Machine

open Sys2Proof

/-- Why a step stops with a fault. No meaning raises one today: the module has no trap; its failures are statuses. -/
inductive Fault where
  /-- An access beyond the 2,048 GiB of R12 that no status of the spec covers; no meaning raises it. Safe: the machine stops. -/
  | noSuchAddress
deriving DecidableEq, Repr

/-- Why a step has no meaning. -/
inductive Refusal where
  /-- Raised only by an arm of `exec` that has no meaning yet. Safe: nothing is claimed of that command. -/
  | notModelled (mnemonic : String)
deriving DecidableEq, Repr

/-- R381 `PHASE`, and the unpowered module. -/
inductive Phase where
  | off | starting | ready | retention | logicShut | fullShut | held
deriving DecidableEq, Repr

/-- Whether a unit is in service; `draining`: `UNIT_DISABLE` runs and what is bound to it finishes; `disabled` by
`UNIT_DISABLE`, `fenced` by the module. -/
inductive Svc where
  | inService | draining | disabled | fenced
deriving DecidableEq, Repr

/-- R24 to R26: timebase, LCLK of its fraction, root step, requested step, holdover of the PLL. -/
structure Time where
  now : Nat := 0
  frac : Nat := 0
  root : Nat := 0
  wantRoot : Option Nat := none
  holdover : Bool := false
deriving DecidableEq, Repr

/-- R44: the applied layout. `mode` 0 per-frond sets, 1 one module-wide set. -/
structure Layout where
  mode : Nat := 0
  n0 : Nat := 128
  n1 : Nat := 128
  n2 : Nat := 128
  n3 : Nat := 128
  gen : Nat := 0
deriving DecidableEq, Repr

/-- R331: one firmware slot as NVM holds it: what its header says, whether it verifies, and what has been staged into it since. -/
structure Slot where
  valid : Bool
  version : Word32
  security : BitVec 16
  rejected : Bool := false
  trial : Bool := false
  raises : Bool := false
  length : Nat := 0
  digest : BitVec 384 := 0
  staged : List (Nat × List Byte) := []
deriving DecidableEq, Repr

/-- R331, R344, R345: the slots, which one is active and which runs. -/
structure Firmware where
  slotA : Slot
  slotB : Slot
  active : Nat := 0
  running : Nat := 0
  minSecurity : BitVec 16
  bootAt : Nat := 0
deriving DecidableEq, Repr

/-- R288: an armed flip mask. -/
structure Flip where
  dataMask : BitVec 256
  checkMask : BitVec 48
deriving DecidableEq, Repr

/-- R290, R291: a repaired row of a bank: the spare that serves it, and whether it is a fuse repair. -/
structure RowRepair where
  spare : Nat
  fuse : Bool
deriving DecidableEq, Repr

/-- Device memory: data bytes by physical byte address, check bits by physical column, what is undefined (R8); armed flip masks
by channel, repaired rows and spares used by bank, column groups repaired by pseudo-channel (32 × bank + column, time). -/
structure DMem where
  bytes : List Host.Cell := []
  check : Tbl (BitVec 48) := []
  undef : Tbl Nat := []
  flips : Tbl (Option Flip) := []
  repairs : Tbl (Tbl (Option RowRepair)) := []
  mainUsed : Tbl Nat := []
  scaleUsed : Tbl Nat := []
  colRepairs : Tbl (List (Nat × Nat)) := []
deriving DecidableEq, Repr

/-- R282: one error-log entry. -/
structure ErrEntry where
  seq : Nat
  time : Nat
  dpa : Nat
  byte : Nat
  kind : Nat
  requester : Nat
  unit : Nat
  rep : Nat
deriving DecidableEq, Repr

/-- R280, R281: one stack's leaky bucket. -/
structure Bucket where
  count : Nat := 0
  leakS : Nat := 10
  threshold : Nat := 64
  above : Bool := false
  nextLeak : Nat := 10000000000
deriving DecidableEq, Repr

/-- R280 to R283: error log (newest first), its NVM copy, buckets, last logged read of each poisoned column. -/
structure Integrity where
  log : List ErrEntry := []
  nextSeq : Nat := 1
  nvm : List ErrEntry := []
  buckets : Tbl Bucket := []
  poisonSeen : Tbl (Option Nat) := []
  nextCopy : Nat := 0
deriving DecidableEq, Repr

/-- R43, R287: a channel's service state, the times of its command-parity errors of the last second, and the request port that its
controller served last (R93; by the lowest bit of the port's field in `CC_PORT_PRIO`). -/
structure Chan where
  svc : Svc := .inService
  parityAt : List Nat := []
  lastPort : Nat := 16
deriving DecidableEq, Repr

/-- R58: one output FIFO entry: the eight words, their count, kind and poison. -/
structure FifoEntry where
  words : List Word32
  count : Nat
  snrm : Bool
  poison : Bool
deriving DecidableEq, Repr

/-- R53: the state of a sorus unit. The activation buffer and table are sparse (default 0, and entry i holding i). -/
structure Sorus where
  act : Tbl Byte := []
  scale : BitVec 256 := 0
  accs : List (BitVec 48) := [0, 0, 0, 0, 0, 0, 0, 0]
  fifo : List FifoEntry := []
  lut : Option (List Byte) := none
  pat : BitVec 512 := 0
  cfg : Word32 := 0
  actPoison : BitVec 8 := 0
  scalePoison : Bool := false
  lutPoison : Bool := false
  patPoison : Bool := false
  resultPoison : Bool := false
  satCount : Nat := 0
deriving DecidableEq, Repr

/-- A step of a unit (R59, R60): a row command on one row, the part of the row (0 all of it; 1 and 2 its halves at V from 5 to 8), and
the number of its operation within the command. -/
structure UStep where
  cmd : RowCmd
  part : Nat
  op : Nat
deriving DecidableEq, Repr

/-- R100: what the controller keeps for the re-run of a step: the steps from it on, the accumulators, the FIFO, the count of saturations
and `RESULT_POISON` at its start, the columns that it read as they stood then, the masked columns, and whether the row's first half was
poisoned. -/
structure Rerun where
  steps : List UStep
  accs : List (BitVec 48)
  fifo : List FifoEntry
  sat : Nat
  poison : Bool
  rows : List (Nat × BitVec 256 × BitVec 48)
  bad : List Nat
  carry : Bool
deriving DecidableEq, Repr

/-- One bank pair: its unit, and what its channel controller keeps for it. `rows`: the open row of each row buffer (R50; 2 × bank of
the pair, plus 1 for the scale subarray). `todo`: iterations of a broadcast follower that wait for a token (R86). `owed`, `nextRef`: pair
refreshes postponed less those pulled in, and when the next falls due (R91). -/
structure Pair where
  unit : Sorus := {}
  rows : Tbl (Option Nat) := []
  lastCtx : Option Nat := none
  token : Bool := false
  held : Option LoadCmd := none
  rerun : Option Rerun := none
  todo : List UStep := []
  owed : Int := 0
  nextRef : Nat := 0
  ordQ : List OrdAccess := []
  mustStep : Bool := false
deriving DecidableEq, Repr

/-- A value in the module's arithmetic: an integer, or an fp32 (every float format widens to fp32 exactly). -/
inductive Val where
  | int (z : Int)
  | flt (x : Word32)
deriving DecidableEq, Repr

/-- A destination element that is to be written: its index, pattern, poison, the saturations that it counts, whether it is a reduction
over no element (R130). `acc`: contributions, from the format of a code, that are added onto what the element held (R152, R169). -/
structure OutElem where
  ix : List Nat
  pat : Nat
  poison : Bool
  sat : Nat := 0
  empty : Bool := false
  acc : Option (Nat × List Val) := none
deriving DecidableEq, Repr

/-- R152: the pre-image of a record's ticket: the destination bytes with their poison. -/
structure PreImage where
  q : Nat
  seq : Word32
  ticket : Nat
  bytes : List (Nat × Byte × Bool)
deriving DecidableEq, Repr

/-- R21, R107, R110, R111, R152, R172: a frond: its path, completions held while the path is lost, the sums of its reduction store, the
running maximum of the sums of each record, the pre-images of tickets, the tail buffers (for a stream, the value bytes of each of its
last tokens). -/
structure Frond where
  path : Bool := true
  heldDone : List (Nat × Word32) := []
  sums : List (Nat × Word32 × Nat × Nat × Int × Bool) := []
  maxima : List (Nat × Word32 × Int) := []
  preImages : List PreImage := []
  tails : Tbl (List (List Byte)) := []
deriving DecidableEq, Repr

/-- R22, R23: a fabric link: whether it retrains, and its replay buffer: the requests sent on it and not delivered, with their sources
(a frond, or 4 for the rachis), oldest first. Each holds one of the link's credits. -/
structure FLink where
  svc : Svc := .inService
  retraining : Bool := false
  replay : List (Nat × OrdAccess) := []
deriving DecidableEq, Repr

/-- R114, R134, R135, R149: a frond core. Sparse tables: accumulator and tile elements by 4,096 * tile + 64 * row +
column, core memory by byte, vector registers by 1,024 * register + byte, mask registers as 1,024-bit words. `waiting`: the operations
that grant level 0 holds, the oldest first (R133); `lastOp`: when it last ran one (R235); `resident`: the weight block in core memory
(R148; queue and sequence of its record, first tile along N, chunk along K). -/
structure Core where
  accs : Tbl Word32 := []
  tiles : Tbl Word32 := []
  cmem : Tbl Byte := []
  vregs : Tbl Byte := []
  masks : Tbl (BitVec 1024) := []
  satCount : Nat := 0
  empty : Bool := false
  memPoison : Tbl Bool := []
  accPoison : Tbl Bool := []
  tilePoison : Tbl Bool := []
  vregPoison : Tbl Bool := []
  corrected : Nat := 0
  svc : Svc := .inService
  lastCtx : Option Nat := none
  level : Nat := 0
  lentLevel : Option Nat := none
  waiting : List Instr := []
  lastOp : Nat := 0
  resident : Option (List Nat) := none
deriving DecidableEq, Repr

/-- R176: a frond DMA engine. -/
structure Engine where
  svc : Svc := .inService
deriving DecidableEq, Repr

/-- R198: an address window, in bytes. -/
structure Window where
  base : Nat
  size : Nat
  write : Bool
deriving DecidableEq, Repr

/-- R218: a slot of a context's flag window. -/
structure FSlot where
  block : Nat := 0
  mapped : Bool := false
  mirror : Bool := false
  msix : Bool := false
  vector : Nat := 0
  addr : Word64 := 0
deriving DecidableEq, Repr

/-- R200: the states of a context. -/
inductive CtxState where
  | free | active | suspended | orphaned
deriving DecidableEq, Repr

/-- R198: a context. `suspending`: `CTX_SUSPEND` runs and holds its records. -/
structure Ctx where
  st : CtxState := .free
  suspending : Bool := false
  windows : List Window := []
  slots : Tbl FSlot := []
  barBase : Nat := 0
  barCount : Nat := 0
  queueLimit : Nat := 0
  strFirst : Nat := 0
  strCount : Nat := 0
  priv : Bool := false
  dlWindowMs : Nat := 0
  lastAct : Nat := 0
  dlReported : Bool := false
deriving DecidableEq, Repr

/-- R201, R202, R215: a queue. `cancelTo`: cancelled unissued records up to here still await their completion
records; `drainTo`: `Q_DRAIN` runs the records up to here; `waited`: time a `FLAG_WAIT` at `HEAD` has counted. -/
structure Queue where
  live : Bool := false
  ctx : Nat := 0
  entries : Nat := 64
  ring : Nat := 0
  cqRing : Nat := 0
  prio : Nat := 0
  weight : Nat := 1
  tail : Word32 := 0
  head : Word32 := 0
  cqTail : Word32 := 0
  cqHead : Word32 := 0
  drainTo : Option Word32 := none
  cancelTo : Option Word32 := none
  waitFrom : Option Nat := none
  waited : Nat := 0
deriving DecidableEq, Repr

/-- R207: the scheduler, by level: consecutive issues from higher levels while the level had a ready queue; the queue whose turn it
is, plus 1, and what it has issued in its turn. -/
structure Sched where
  passed : Tbl Nat := []
  turn : Tbl (Nat × Nat) := []
deriving DecidableEq, Repr

/-- R160: a tensor descriptor as the sequencer read it at decode. -/
structure Desc where
  at_ : Nat
  fmt : Nat
  scaled : Bool
  group : Nat
  scaleFmt : Nat
  base : Nat
  ext : List Nat
  stride : List Int
  scaleRef : Nat
  outIdx : Nat
  outCount : Nat
  outData : Nat
  outChans : List Nat := []
deriving DecidableEq, Repr

/-- R103: a placement-map entry. -/
structure MapEntry where
  rowOp : BitVec 16
  unit : Nat
  window : Nat
  nrows : Nat
  outFirst : Nat
  kslice : Nat
deriving DecidableEq, Repr

/-- R141: a row-op list entry. -/
structure RowEntry where
  d : BitVec 16
  x : BitVec 16
  y : BitVec 16
  nrows : Nat
  window : Nat
  unit : Nat
  vec : Nat
deriving DecidableEq, Repr

/-- R149: the states of a ticket. -/
inductive TState where
  | unclaimed
  | claimed (who : Claimant) (epoch : Nat)
  | committing (who : Claimant) (epoch : Nat)
  | committed
deriving DecidableEq, Repr

/-- R149, R178: one ticket of a record: state, epoch, when it was claimed, its bytes acknowledged, the offsets of its bytes that no
controller accepted, whether its read requests are sent, the host data that has arrived for it. -/
structure Ticket where
  st : TState := .unclaimed
  epoch : Nat := 0
  since : Nat := 0
  acked : Nat := 0
  dropped : List Nat := []
  asked : Bool := false
  got : List Byte := []
deriving DecidableEq, Repr

/-- R149, R150: what the dispatcher keeps per claimant of a record; `barred`: readmitted after the record's dispatch (R342). -/
structure ClaimSt where
  held : Nat := 0
  lastSerial : Option (BitVec 16) := none
  lastTicket : Option Nat := none
  barred : Bool := false
deriving DecidableEq, Repr

/-- R156: a range of granules, and whether it is written. -/
structure Range where
  lo : Nat
  hi : Nat
  write : Bool
deriving DecidableEq, Repr

/-- R149, R146: the tickets of a record: the grid, their states, the reissue list, the claimants. -/
structure Tickets where
  gridM : Nat := 0
  gridN : Nat := 0
  order : Nat := 0
  total : Nat := 0
  tab : Tbl Ticket := []
  reissue : List Nat := []
  claimants : Tbl ClaimSt := []
  done : Nat := 0
deriving DecidableEq, Repr

/-- A Filast record in flight (R136 to R159): read once (`raw`), decoded once. `code` is the status that a failure has set (R360
precedence), `outs` the outputs formed, each with the ticket that will commit it (R152), `paused`: it has stopped at a boundary with its
context (R215), `sweptTo` the output rows that the passes of R107 have swept, `doneRows` the output rows that the epilogue has written,
`halted` a host transfer that has halted (R256), `lostUnits` (each with the rows swept until then, `lostAt`) and `lostTickets` the sorus
units and tickets whose work is abandoned (R151, R153), `lostRows` output rows whose sums a frond reset has dropped, `gonePcs` the
pseudo-channels that decode saw out of service for a broadcast (R215), `badCols` columns whose read for the record failed (R286), `skipUnit`
the unit identifier of the first pseudo-channel that a broadcast skips (R86). -/
structure Rec where
  q : Nat
  seq : Word32
  ctx : Nat
  raw : BitVec 1024
  descs : List (Option Desc) := []
  wide : Option Desc := none
  outX : Option Desc := none
  outW : Option Desc := none
  mapE : List MapEntry := []
  rowE : List RowEntry := []
  batch : List (Nat × Nat) := []
  posA : List Nat := []
  posB : List Nat := []
  idx : List Int := []
  vcount : Nat := 0
  engine : Nat := 0
  ranges : List Range := []
  clamps : Nat := 0
  started : Bool := false
  paused : Bool := false
  workDone : Bool := false
  swept : Bool := false
  sweptTo : Nat := 0
  outs : List (Nat × OutElem) := []
  doneRows : List Nat := []
  lostUnits : List Nat := []
  lostAt : Tbl Nat := []
  lostRows : List Nat := []
  gonePcs : List Nat := []
  lostTickets : List Nat := []
  badCols : List Nat := []
  skipUnit : Nat := 0
  pass : Nat := 1
  sat : Nat := 0
  satFirst : Nat := 0
  produced : Nat := 0
  spilled : Bool := false
  empty : Bool := false
  codes : List (Nat × Nat) := []
  evSeq : Nat := 0
  tickets : Tickets := {}
  halted : Bool := false
  collK : Nat := 0
  arrived : Bool := false
  gen : Option Word32 := none
deriving DecidableEq, Repr

/-- R209: the states of a stream. -/
inductive StrState where
  | free | active | faulted
deriving DecidableEq, Repr

/-- R209: a stream table entry. -/
structure Stream where
  st : StrState := .free
  ctx : Nat := 0
  pos : Word32 := 0
  keys : Word64 := 0
  values : Word64 := 0
  kvFmt : BitVec 6 := 0
  actZp : BitVec 16 := 0
  actScale : Word32 := 0
  batchId : BitVec 16 := 0
  lastSeq : Word32 := 0
  lastQueue : BitVec 16 := 0
deriving DecidableEq, Repr

/-- R229: what a mirrored block still owes its host: a mirror write, a message. -/
structure Mirror where
  write : Bool := false
  msg : Bool := false
deriving DecidableEq, Repr

/-- R230, R232: an arrival, or a message of arrivals from another member, waiting at or counted by a node. -/
structure Arrival where
  q : Nat
  seq : Word32
  scope : Nat
  count : Nat
  frond : Nat
  wait : Bool
  num : Nat := 1
  member : Option Nat := none
deriving DecidableEq, Repr

/-- R230 to R233: a barrier: what its first arrival fixed, its root count and generation, arrivals waiting at each
node's input, pending arrivals at each node, those sent to the group root that it has not answered, the generations of those that a
group root elsewhere has accepted and not released, waiters by generation, generations to release. -/
structure Barrier where
  scope : Nat := 0
  count : Nat := 0
  frond : Nat := 0
  fixed : Bool := false
  rootCount : Nat := 0
  gen : Word32 := 0
  inF : Tbl (List Arrival) := []
  inR : List Arrival := []
  pendF : Tbl (List Arrival) := []
  pendR : List Arrival := []
  sent : List Arrival := []
  away : List Word32 := []
  waiters : List (Nat × Word32 × Word32) := []
  released : List Word32 := []
  touched : Bool := false
deriving DecidableEq, Repr

/-- R260: the ownership states. -/
inductive OwnSt where
  | window | owned (p : Fin 4) | vacant
deriving DecidableEq, Repr

/-- A claim held in the window (R263): port, mailbox, take-over disposal, applied lease. -/
structure HeldClaim where
  port : Fin 4
  mb : Nat
  takeover : Bool
  dispose : Nat
  leaseMs : Nat
deriving DecidableEq, Repr

/-- R260 to R266, R391: ownership. -/
structure Owner where
  st : OwnSt := .window
  gen : Nat := 0
  leaseEnd : Nat := 0
  windowEnd : Nat := 0
  claims : List HeldClaim := []
  prioAtOpen : List Nat := [0, 0, 0, 0]
  cause : Nat := 0
  nvmPrio : List Nat := [0, 0, 0, 0]
deriving DecidableEq, Repr

/-- R271: one entry of the clamp report. -/
structure Clamp where
  off : Nat
  lsb : Nat
  widthM1 : Nat
  requested : Nat
  applied : Nat
deriving DecidableEq, Repr

/-- R270: a response. `body` is the little-endian number of the `bodyLen` body bytes. -/
structure Resp where
  opcode : Nat := 0
  tag : Nat := 0
  status : Nat := 0
  bodyLen : Nat := 0
  body : Nat := 0
  clamps : List Clamp := []
  execUs : Word32 := 0
deriving DecidableEq, Repr

/-- R268: the states of a mailbox. -/
inductive MbState where
  | idle | busy | complete
deriving DecidableEq, Repr

/-- R267 to R270: a mailbox: request area, the copy that firmware took, response, control page. `cur`: the copy is a request
that firmware has accepted, at its doorbell `acceptAt`, and not ended. `startAt`: when it starts (R273). `begun`: it executes and waits for
the end of its work, with its time-out and clamps. `slow`: the root has stood at 4.8 GHz since then (R343). `discard`: a port reset has
discarded its response (R258); `behind` holds requests accepted since, with their doorbells, which wait. -/
structure Mbox where
  req : BitVec 32768 := 0
  sram : BitVec 32768 := 0
  resp : Resp := {}
  st : MbState := .idle
  ringErr : Bool := false
  irqEn : Bool := false
  lastStatus : Nat := 0
  lastTag : Nat := 0
  cur : Bool := false
  begun : Bool := false
  deadline : Nat := 0
  clamps : List Clamp := []
  acceptAt : Nat := 0
  startAt : Nat := 0
  slow : Bool := false
  discard : Bool := false
  behind : List (BitVec 32768 × Bool × Nat) := []
deriving DecidableEq, Repr

/-- R242: an HDM decoder. -/
structure Hdm where
  base : Nat := 0
  size : Nat := 0
  skip : Nat := 0
  dpaStart : Nat := 0
  on : Bool := false
deriving DecidableEq, Repr

/-- R251, R284: the access faults of a host core. -/
inductive Trap where
  | fetch | load | store
deriving DecidableEq, Repr

/-- What leaves the module. -/
inductive Out where
  /-- R244: read data of a CXL.mem read on a port, with poison. -/
  | cxlData (p : Fin 4) (line : BitVec 512) (poison : Bool)
  /-- R243: the completion of a CXL.mem write. -/
  | cxlDone (p : Fin 4)
  /-- R243: an uncorrectable non-fatal error reported to a port's host. -/
  | aer (p : Fin 4)
  /-- R248: an MSI-X message: the port, the vector, its address and data. -/
  | msix (p : Fin 4) (vector addr data : Nat)
  /-- R268: a host core's local interrupt at mailbox completion. -/
  | coreIrq (n : Fin 16)
  /-- R229: a mirror write. -/
  | mirror (p : Fin 4) (addr : Word64) (flags : Word64)
  /-- R179: a posted write to host memory: port, address, bytes, poison. -/
  | hostPost (p : Fin 4) (addr : Nat) (bytes : List Byte) (poison : Bool)
  /-- R179: a read request to host memory: port, address, length (0: the acknowledging read). -/
  | hostReq (p : Fin 4) (addr len : Nat)
  /-- R78: bursts that `SFET` returns: entries, or the configuration and status words. -/
  | entry (su : Nat) (b : Burst)
  | status (su : Nat) (b : Burst)
  /-- R149: the dispatcher's answer to a claim or a commit request. -/
  | grant (who : Claimant) (ticket epoch : Nat)
  | already (who : Claimant) (ticket : Option Nat)
  | exhausted (who : Claimant)
  | go (who : Claimant) (ticket : Nat)
  | stale (who : Claimant) (ticket : Nat)
  /-- R94: data of a queued ordinary read. -/
  | ordData (req : Requester) (col : Nat) (data : BitVec 256) (poison : Bool)
  /-- R251, R284: a host core's access: its data, or an access fault, of a kind. -/
  | coreData (n : Fin 16) (data : Word64)
  | coreFault (n : Fin 16) (kind : Trap) (addr : Nat)
  /-- R242: the outcome of a decoder commit. -/
  | hdmCommit (p : Fin 4) (dec : Fin 4) (ok : Bool)
  /-- R380: a sideband answer: the status byte and the data bytes. -/
  | sideband (status : Nat) (data : List Byte)
  /-- R382: bits shifted out of a die. -/
  | tdo (die : Fin 37) (bits : List Bool)
  /-- R348: an acknowledgement or a replay request sent on a rhizoid port. -/
  | flitAck (n : Fin 8) (ack : BitVec 12) (nak : Bool)
  /-- R348: a flit replayed on a rhizoid port. -/
  | flitReplay (n : Fin 8) (seq : BitVec 12)
  /-- R351: a join message sent to the other members. -/
  | joinMsg (token : Word64) (members : BitVec 16) (member : Nat)
  /-- R354: a cancel for count k sent to the other members of a set. -/
  | collCancel (q : Nat) (members : BitVec 16) (k : Nat)
  /-- R230, R231, R238, R357: arrivals sent to the group root on another member; the root's answer to a member: the number of
  arrivals, and the generation and place of the first, or a refusal; word of a lost owner; a release sent to the members. -/
  | barArrivals (b num count : Nat)
  | barAnswer (member b num : Nat) (first : Option (Word32 × Nat))
  | barOwnerLost (b : Nat)
  | barRelease (b : Nat) (gen : Word32)
  /-- R352: the group is broken, sent to the other members. -/
  | groupBroken
deriving DecidableEq, Repr

/-- R179, R240 to R243, R248, R255, R258, R369: a host port. `width` is the code of `WIDTH`; `retrainAt`: when its retrain began;
`heldOut`: what waits for the link while it retrains, oldest first; `msixMask`: MSI-X's Function Mask; `msixOpen`: the vectors that the
host has unmasked; `msixMsg`: the message address and data of each; `maxPayload`, `maxRead`: Max_Payload_Size and
Max_Read_Request_Size, in bytes; `bar0`, `bar2`: the base address registers. -/
structure Port where
  linkUp : Bool := false
  retraining : Bool := false
  retrainAt : Nat := 0
  heldOut : List Out := []
  width : Nat := 0
  rate64 : Bool := false
  fence : Bool := false
  discarded : Nat := 0
  aerAt : Option Nat := none
  busMaster : Bool := false
  maxPayload : Nat := 128
  maxRead : Nat := 512
  msixOn : Bool := false
  msixMask : Bool := false
  msixOpen : Tbl Bool := []
  msixPend : Tbl Bool := []
  msixMsg : Tbl (Nat × Nat) := []
  hdm : Tbl Hdm := []
  bar0 : Word64 := 0
  bar2 : Word64 := 0
  resetRefused : Bool := false
  mirrorHeld : Bool := false
deriving DecidableEq, Repr

/-- R368: one reader's copy of the interrupt page. -/
structure Intr where
  modErr : Bool := false
  bucket : Bool := false
  ownership : Bool := false
  mbDone : BitVec 4 := 0
  ovf : Word32 := 0
  ack : Nat := 0
deriving DecidableEq, Repr

/-- R362: one event-log entry. -/
structure EvEntry where
  seq : Nat
  time : Nat
  kind : Nat
  status : Nat
  cont : Nat := 0
  isCont : Bool := false
  unit : Nat
  d0 : Nat := 0
  d1 : Nat := 0
  d2 : Nat := 0
  d3 : Nat := 0
  d4 : Nat := 0
deriving DecidableEq, Repr

/-- R362 to R364, R368: the event log (newest first), its NVM copy, the last module error. -/
structure EvLog where
  log : List EvEntry := []
  nextSeq : Nat := 1
  nvm : List EvEntry := []
  errStatus : Nat := 0
  errEvent : Nat := 0
deriving DecidableEq, Repr

/-- R249, R285: a line in the host cores' coherent caches: data, dirty, poison, bytes stored since the fill, and the host
core that last stored to it. -/
structure Line where
  data : BitVec 512
  by_ : Nat := 0
  dirty : Bool := false
  poison : Bool := false
  written : Word64 := 0
deriving DecidableEq, Repr

/-- R249: the registers of an RV64GC core: `pc`, the integer and the floating-point registers, the control and status registers, by
number. -/
structure CoreRegs where
  pc : Word64 := 0
  x : Tbl Word64 := []
  f : Tbl Word64 := []
  csr : Tbl Word64 := []
deriving DecidableEq, Repr

/-- R249, R253, R254: a host core: its control block, its registers, the lines of its instruction L1 with their poison. -/
structure HCore where
  run : Bool := false
  stopped : Bool := true
  ctrlErr : Bool := false
  ctx : Nat := 0
  entry : Word64 := 0
  lastCtx : Option Nat := none
  svc : Svc := .inService
  regs : CoreRegs := {}
  il1 : Tbl (Option (BitVec 512 × Bool)) := []
deriving DecidableEq, Repr

/-- R299: a waiting request for quanta: holder, quanta, since when, whether it is the re-grant of a waking core (R305). -/
structure QReq where
  holder : Holder
  quanta : Nat
  since : Nat
  regrant : Bool := false
deriving DecidableEq, Repr

/-- R304: a lien in a core's name: the free quanta reserved for it. -/
structure Lien where
  core : Nat
  reserved : Nat
deriving DecidableEq, Repr

/-- R299, R304: a grant: its holder, its quanta, when it was asked for, and, when it is borrowed, what it took from which core's lien. -/
structure Grant where
  holder : Holder
  quanta : Nat
  since : Nat
  parts : List (Nat × Nat)
deriving DecidableEq, Repr

/-- R296 to R306: the arbiter. `tokens` counts the tokens held; `stackEighths` the granted eighths of each stack (default 1,
the floor); `grants`: the grants of levels, eighths and ports, newest first; `stopped`: R32 has stopped its grants. -/
structure Power where
  envelope : Nat := 18000
  lowerTo : Option Nat := none
  tokens : Nat := 0
  stackEighths : Tbl Nat := []
  rports : Tbl Bool := []
  waiting : List QReq := []
  liens : List Lien := []
  grants : List Grant := []
  stopped : Bool := false
  inbankBatch : Nat := 8
  tokenLimit : Nat := 8192
  prio : Word32 := 0x00013547#32
  inputMv : Nat := 0
  inputMa : Nat := 0
  inputMw : Nat := 0
deriving DecidableEq, Repr

/-- R307 to R309: one sensor: how many samples in a row have had no reading of it, whether it is excluded or substituted, since when it has
read within 15 degrees of a usable neighbour, whether a reset has yet to find it in range. -/
structure Sensor where
  missed : Nat := 0
  out : Bool := false
  okSince : Option Nat := none
  recheck : Bool := false
deriving DecidableEq, Repr

/-- R307 to R312: one thermal domain: whether it has been sampled, reading in 1/16 degree, level, band, counters of R311, since when at
throttle. -/
structure Domain where
  sampled : Bool := false
  reading : Int := 0
  level : Nat := 0
  band : Nat := 0
  subst : Bool := false
  warnUp : Nat := 0
  warnDown : Nat := 0
  thrUp : Nat := 0
  thrDown : Nat := 0
  shutUp : Nat := 0
  shutDown : Nat := 0
  throttleAt : Option Nat := none
  sensors : Tbl Sensor := []
deriving DecidableEq, Repr

/-- R307 to R314: the thermal manager: domains by entry index of `GET_THERMAL`; root step causes. -/
structure Therm where
  doms : Tbl Domain := []
  powerHigh : Bool := false
  clearedAt : Option Nat := none
  lastUp : Nat := 0
deriving DecidableEq, Repr

/-- R332: the delays of the lanes, write and read: the sets that NVM keeps for each root step, and those in force. -/
structure Delays where
  sets : Tbl (Tbl (Nat × Nat)) := []
  inForce : Tbl (Nat × Nat) := []
deriving DecidableEq, Repr

/-- R315 to R318: the shut-down record and the latch. -/
structure Shut where
  time : Nat := 0
  kind : Nat := 0
  read : Bool := false
  cause : Nat := 0
  sensor : Nat := 0
  root : Nat := 0
  unit : Nat := 0
  reading : Int := 0
  threshold : Int := 0
  envelope : Nat := 0
  held : Nat := 0
  latched : Bool := false
deriving DecidableEq, Repr

/-- R320 to R327: the retention pack as the module keeps it; `cycleMc`: the charge out since the last whole cycle;
`disconnected`: by the module at a cell temperature (R310); `cut`: by its own protection (R327). -/
structure Pack where
  serial : Word64 := 0
  model : BitVec 16 := 0
  mfgWeek : BitVec 16 := 0
  ratedMwh : Word32 := 0
  cycles : Nat := 0
  cycleMc : Nat := 0
  soh : Nat := 0
  present : Bool := false
  authentic : Bool := false
  armed : Bool := true
  charging : Bool := false
  eol : Bool := false
  faulted : Bool := false
  hot : Bool := false
  disconnected : Bool := false
  cut : Bool := false
  soc : Nat := 0
  cellTemp : Int := 0
  inMc : Nat := 0
  outMc : Nat := 0
  storedMc : Nat := 0
  storedMwh : Nat := 0
  sensorOk : Bool := true
  missed : Nat := 0
  lastIn : Nat := 0
  lastOut : Nat := 0
  lastStored : Nat := 0
  retMw : Nat := 30000
  nvmIn : Nat := 0
  nvmOut : Nat := 0
  nextCopy : Nat := 0
deriving DecidableEq, Repr

/-- R346 to R349: a rhizoid port. `freeD` and `freeC` are the free buffers of its receiver: a delivered payload leaves its buffer in
the command that brings it. `heldC` counts the control flits that wait for a credit or for the end of a retrain. -/
structure RPort where
  svc : Svc := .inService
  up : Bool := false
  retraining : Bool := false
  mismatch : Bool := false
  serial : Word64 := 0
  txSeq : BitVec 12 := 0
  rxSeq : BitVec 12 := 0xFFF
  credD : Nat := 480
  credC : Nat := 32
  freeD : Nat := 480
  freeC : Nat := 32
  heldC : Nat := 0
  unacked : List (BitVec 12 × Bool) := []
  naks : Nat := 0
  nakSeq : BitVec 12 := 0
  retrainAt : Nat := 0
  retryAt : Nat := 0
  rx : List (List Byte) := []
deriving DecidableEq, Repr

/-- R351 to R354: group membership, the pending join, collective counts and cancels. -/
structure Group where
  inGroup : Bool := false
  broken : Bool := false
  member : Nat := 0
  token : Word64 := 0
  members : BitVec 16 := 0
  joinMb : Option (Fin 32) := none
  msgs : List JoinMsg := []
  counts : List (Nat × Nat × Nat) := []
  cancels : List (Nat × Nat × Nat) := []
deriving DecidableEq, Repr

/-- R376, R381: the pins. `READY` and `THERM_TRIP#` follow from the phase and the latch; `SMB_ALERT#` is kept. -/
structure Side where
  alert : Bool := false
deriving DecidableEq, Repr

/-- R382: one die's TAP. Instruction: 0 BYPASS, 1 IDCODE, 2 SAMPLE/PRELOAD, 3 EXTEST. -/
structure Tap where
  ir : Nat := 1
  boundary : List Bool := []
  driving : Bool := false
deriving DecidableEq, Repr

/-- R382: the debug port: whether boundary scan is entered (`DBG_EN` high at power-on), and the TAPs. -/
structure Debug where
  enabled : Bool := false
  taps : Tbl Tap := []
deriving DecidableEq, Repr

/-- The state of the module. Sparse tables give the default of their type at an unlisted index. `oldLinks`: R23, the links that carried
traffic before each change of routes, oldest first; `routeNew`: the sources and granules that have released their requests, each with the
number of changes until then; `fabricHeld`: the requests that their sources hold. `stopped`: R32, the quantities whose pools grant nothing.
`resetBusy`: R335 `BUSY`, a warm module reset on its way to ready, which `resetBy` ordered. -/
structure State where
  time : Time := {}
  phase : Phase := .starting
  valid : Bool := false
  fw : Firmware
  lay : Layout := {}
  mem : DMem := {}
  integ : Integrity := {}
  chans : Tbl Chan := []
  pairs : Tbl Pair := []
  fronds : Tbl Frond := []
  flinks : Tbl FLink := []
  oldLinks : List (BitVec 8) := []
  routeNew : List (Nat × Nat × Nat) := []
  fabricHeld : List (Nat × OrdAccess) := []
  stopped : List Quantity := []
  cores : Tbl Core := []
  engines : Tbl Engine := []
  ctxs : Tbl Ctx := []
  queues : Tbl Queue := []
  sched : Sched := {}
  recs : List Rec := []
  streams : Tbl Stream := []
  flags : Tbl Word64 := []
  mirrors : Tbl Mirror := []
  bars : Tbl Barrier := []
  own : Owner := {}
  mboxes : Tbl Mbox := []
  ports : Tbl Port := []
  intrs : Tbl Intr := []
  evlog : EvLog := {}
  hcores : Tbl HCore := []
  lines : Tbl (Option Line) := []
  power : Power := {}
  therm : Therm := {}
  delays : Delays := {}
  shut : Shut := {}
  pack : Pack := {}
  rports : Tbl RPort := []
  group : Group := {}
  side : Side := {}
  jtag : Debug := {}
  booted : Bool := false
  resetBusy : Bool := false
  resetBy : Option (Fin 4) := none
  voltLogAt : Option Nat := none
  lastAct : Nat := 0
  dlReported : Bool := false
  out : List Out := []
  free : Nat := 0
  pending : List Instr := []
deriving DecidableEq, Repr

/-- The slot as shipped: factory firmware in both slots (00_scope.md, ordering table). -/
def Slot.factory : Slot :=
  { valid := true, version := Config.factoryVersion, security := Config.factorySecurity, length := Config.factoryLength
    digest := Config.factoryDigest }

/-- Every pseudo-channel undefined, as before the initialisation of R333. -/
def undefAll (tag : Nat) : Tbl Nat := (List.range 2048).map fun g => (g, tag)

/-- The module at cold power-on, before start-up: every field at the value the spec gives for reset, or the value
that the assumption log names. -/
def State.reset : State :=
  { fw := { slotA := Slot.factory, slotB := Slot.factory, minSecurity := Config.factorySecurity },
    mem := { undef := undefAll 1 },
    free := 2 }

end Sys2Proof.Machine
end

