-- ==== Sys2Proof/Machine/Layout.lean ====
section
/-! DEFINITION. Pools, windows and address decode (02_address_map.md): device physical addresses and physical columns. -/

namespace Sys2Proof.Machine

open Sys2Proof

/-- R36: the channel selection order. -/
def selectionOrder : List Nat :=
  [0, 16, 8, 24, 4, 20, 12, 28, 2, 18, 10, 26, 6, 22, 14, 30,
   1, 17, 9, 25, 5, 21, 13, 29, 3, 19, 11, 27, 7, 23, 15, 31]

/-- R36: n(f), the interleaved pseudo-channels of frond f. -/
def Layout.n (l : Layout) (f : Nat) : Nat :=
  match f with
  | 0 => l.n0
  | 1 => l.n1
  | 2 => l.n2
  | _ => l.n3

/-- R37: I, the GiB of the interleaved pool and the number of the first bank-local window. -/
def Layout.first (l : Layout) : Nat := l.n0 + l.n1 + l.n2 + l.n3

/-- R37: the base, in GiB, of frond f's set in per-frond mode. -/
def Layout.base (l : Layout) (f : Nat) : Nat := sumNat ((List.range f).map l.n)

/-- A physical place in device memory: global pseudo-channel, bank, row, column (R12, R14). -/
structure Loc where
  gpc : Nat
  bank : Nat
  row : Nat
  col : Nat
deriving DecidableEq, Repr

/-- The physical column number of a place; its bytes are the 32 physical byte addresses from 32 times it. -/
def Loc.num (p : Loc) : Nat := ((p.gpc * 32 + p.bank) * 32768 + p.row) * 32 + p.col

/-- The place of a physical column number. -/
def locOf (c : Nat) : Loc :=
  { gpc := c / 33554432, bank := c / 1048576 % 32, row := c / 32 % 32768, col := c % 32 }

/-- R38: the interleaved decode of an offset in a set: member set size, fronds by the set's mode. -/
def interleaved (moduleWide : Bool) (frond members off : Nat) : Loc :=
  let g := off / 256
  let j0 := g % members
  let q := g / members
  let f := if moduleWide then j0 % 4 else frond
  let j := if moduleWide then j0 / 4 else j0
  let stack := 8 * f + j % 8
  let k := j / 8
  let channel := selectionOrder.getD (k / 2) 0
  { gpc := 2 * (32 * stack + channel) + k % 2
    bank := (bits q 2 5) ^^^ (bits q 7 5)
    row := bits q 7 15
    col := 8 * bits q 0 2 + bits off 5 3 }

/-- R40: the bank-local channels of a stack of frond f, ascending. -/
def Layout.localChannels (l : Layout) (f : Nat) : List Nat :=
  (List.range 32).filter fun c => !((selectionOrder.take (l.n f / 16)).contains c)

/-- R40: the global pseudo-channel of the i-th bank-local window, counted through the fronds from `f` on. -/
def Layout.localPc (l : Layout) : Nat → Nat → Nat → Nat
  | 0, _, _ => 0
  | fuel + 1, f, i =>
    let cnt := 512 - l.n f
    if i < cnt then
      let per := cnt / 8
      let stack := 8 * f + i / per
      let r := i % per
      let ch := (l.localChannels f).getD (r / 2) 0
      2 * (32 * stack + ch) + r % 2
    else Layout.localPc l fuel (f + 1) (i - cnt)

/-- The frond whose per-frond set holds GiB `w` of the interleaved pool. -/
def Layout.frondOfGiB (l : Layout) (w : Nat) : Nat :=
  if w < l.base 1 then 0 else if w < l.base 2 then 1 else if w < l.base 3 then 2 else 3

/-- R38, R40: the place of a DPA below 2,048 GiB. -/
def Layout.loc (l : Layout) (dpa : Nat) : Loc :=
  let w := dpa / 2 ^ 30
  if w < l.first then
    if l.mode = 1 then interleaved true 0 (4 * l.n0) dpa
    else
      let f := l.frondOfGiB w
      interleaved false f (l.n f) (dpa - l.base f * 2 ^ 30)
  else
    { gpc := l.localPc 4 0 (w - l.first)
      bank := bits dpa 25 5
      row := bits dpa 10 15
      col := bits dpa 5 5 }

/-- The physical column of a DPA. -/
def Layout.colOf (l : Layout) (dpa : Nat) : Nat := (l.loc dpa).num

/-- The physical byte address of a DPA. -/
def Layout.phys (l : Layout) (dpa : Nat) : Nat := 32 * l.colOf dpa + dpa % 32

/-- R36: whether a pseudo-channel belongs to the interleaved pool. -/
def Layout.inPool (l : Layout) (gpc : Nat) : Bool :=
  (selectionOrder.take (l.n (gpc / 512) / 16)).contains (gpc / 2 % 32)

/-- The number of bank-local pseudo-channels before a bank-local pseudo-channel, in the order of R40. -/
def Layout.localIndex (l : Layout) (gpc : Nat) : Nat :=
  let f := gpc / 512
  let before := sumNat ((List.range f).map fun g => 512 - l.n g)
  let per := (512 - l.n f) / 8
  let chs := l.localChannels f
  before + (gpc / 64 % 8) * per + 2 * (chs.takeWhile (· != gpc / 2 % 32)).length + gpc % 2

/-- R282: the DPA of a physical column under the layout in force. -/
def Layout.dpaOf (l : Layout) (c : Nat) : Nat :=
  let p := locOf c
  if l.inPool p.gpc then
    let f := p.gpc / 512
    let k := 2 * ((selectionOrder.takeWhile (· != p.gpc / 2 % 32)).length) + p.gpc % 2
    let j := 8 * k + p.gpc / 64 % 8
    let q := p.row * 128 + (p.bank ^^^ (p.row % 32)) * 4 + p.col / 8
    let g := if l.mode = 1 then q * (4 * l.n0) + (4 * j + f) else q * l.n f + j
    let base := if l.mode = 1 then 0 else l.base f * 2 ^ 30
    base + g * 256 + (p.col % 8) * 32
  else
    (l.first + l.localIndex p.gpc) * 2 ^ 30 + p.bank * 2 ^ 25 + p.row * 2 ^ 10 + p.col * 32

/-- R44: the clamp of an `IL_COUNT`: above 512 becomes 512, else the nearest multiple of 16, ties downward. -/
def clampCount (x : Nat) : Nat := if 512 < x then 512 else if x % 16 ≤ 8 then x - x % 16 else x - x % 16 + 16

/-- R14: the channel, stack and bank pair of a physical column. -/
def colChannel (c : Nat) : Nat := (locOf c).gpc / 2
/-- R14: the stack of a physical column. -/
def colStack (c : Nat) : Nat := (locOf c).gpc / 64
/-- R14: the global sorus number of the unit that serves a physical column's bank pair. -/
def colUnit (c : Nat) : Nat := 16 * (locOf c).gpc + (locOf c).bank / 2
/-- R14: the global bank number of a physical column. -/
def colBank (c : Nat) : Nat := 32 * (locOf c).gpc + (locOf c).bank

/-- R80: the global bank and row that a row operand of unit `su` names. -/
def rowBank (su : Nat) (r : BitVec 16) : Nat := 32 * (su / 16) + 2 * (su % 16) + (if r.getLsbD 15 then 1 else 0)
/-- R80: the row that a row operand names. -/
def rowNum (r : BitVec 16) : Nat := (r.extractLsb' 0 15).toNat
/-- The physical column of column `c` of the row that a row operand of unit `su` names. -/
def rowCol (su : Nat) (r : BitVec 16) (c : Nat) : Nat := (rowBank su r * 32768 + rowNum r) * 32 + c

/-- R84: the pair-linear number of a row operand, 2 × `ROW` + `BSEL`. -/
def pairLinear (r : BitVec 16) : Nat := 2 * rowNum r + (if r.getLsbD 15 then 1 else 0)
/-- R84: the row operand of a pair-linear number. -/
def ofPairLinear (n : Nat) : BitVec 16 := BitVec.ofNat 16 (n / 2 % 32768 + (n % 2) * 32768)

/-- R15: a unit identifier. -/
def unitId (kind index : Nat) : Nat := kind * 2 ^ 28 + index

/-- R15: the number of units of each kind; 0 for a reserved kind. -/
def kindRange (kind : Nat) : Nat :=
  [1, 4, 32, 1024, 2048, 65536, 32768, 64, 4, 16, 8, 8, 64].getD kind 0

/-- R16: whether a unit identifier names a unit. -/
def unitOk (u : Nat) : Bool := decide (bits u 0 28 < kindRange (bits u 28 4))

end Sys2Proof.Machine
end

