-- ==== Sys2Proof/Machine/Ops.lean ====
section
/-! DEFINITION. Named operations over the state: time, outputs, logs, interrupts, device memory, power counts. -/

namespace Sys2Proof.Machine

open Sys2Proof

/-! ## Status codes (R359) -/

namespace Status
/-- Completed. -/
abbrev ok : Nat := 0x00
/-- Completed, with one or more fields clamped. -/
abbrev okClamped : Nat := 0x01
/-- Completed, using accumulator spill. -/
abbrev okSpilled : Nat := 0x02
/-- A stored reduction came from an empty set. -/
abbrev okEmpty : Nat := 0x03
/-- Completed after a re-run in a wider format. -/
abbrev okWidened : Nat := 0x04
/-- A field with no meaningful clamp, or a non-zero reserved field. -/
abbrev fieldRange : Nat := 0x10
/-- Bank-level alignment broken. -/
abbrev misaligned : Nat := 0x11
/-- Overlap that is not permitted. -/
abbrev overlap : Nat := 0x12
/-- Aliased destination. -/
abbrev destAlias : Nat := 0x13
/-- Accumulators, core memory, spares or an allotment exhausted. -/
abbrev capacity : Nat := 0x14
/-- Outside windows or DPA space, or an index out of range. -/
abbrev outOfBounds : Nat := 0x15
/-- A combination that the part does not support, or verification failed. -/
abbrev unsupported : Nat := 0x16
/-- The requester lacks the authority. -/
abbrev notOwner : Nat := 0x20
/-- The object waited on lost its owner. -/
abbrev ownerLost : Nat := 0x21
/-- Not legal in the present state. -/
abbrev contextState : Nat := 0x22
/-- A doorbell would pass the ring's size. -/
abbrev queueFull : Nat := 0x23
/-- A time limit expired. -/
abbrev timeout : Nat := 0x24
/-- Stopped by a service command or a reset. -/
abbrev cancelled : Nat := 0x25
/-- A unit that was needed is out of service. -/
abbrev outOfService : Nat := 0x26
/-- Uncorrectable memory or command error. -/
abbrev uncorrectable : Nat := 0x30
/-- Results delivered with poison. -/
abbrev poison : Nat := 0x31
/-- The host link was lost or fenced. -/
abbrev hostLinkLost : Nat := 0x32
/-- Rhizoid credit mismatch. -/
abbrev linkCredit : Nat := 0x33
/-- A stream position would pass 0xFFFF_FFFF, or the stream is faulted. -/
abbrev positionExhausted : Nat := 0x34
/-- A barrier pending count would saturate. -/
abbrev saturated : Nat := 0x35
/-- Deadlock detected. -/
abbrev deadlock : Nat := 0x36
/-- Refused while latched after shut-down. -/
abbrev thermal : Nat := 0x37
/-- The quanta or tokens needed cannot be held. -/
abbrev powerDenied : Nat := 0x38
/-- Internal inconsistency or NVM failure. -/
abbrev internal : Nat := 0x3F
end Status

/-- R360: the precedence rank of an error status: lower is reported first. -/
def errRank (c : Nat) : Nat :=
  match c with
  | 0x3F => 0
  | 0x30 => 1
  | 0x25 => 2
  | 0x21 => 3
  | 0x26 => 4
  | 0x32 => 5
  | 0x24 => 6
  | 0x31 => 7
  | 0x35 => 8
  | c => 16 + c

/-- R360: the status and unit to report among those that arose: the first of lowest rank. -/
def worst : List (Nat × Nat) → Option (Nat × Nat)
  | [] => none
  | (c, u) :: r =>
    match worst r with
    | none => some (c, u)
    | some (c', u') => if errRank c' < errRank c then some (c', u') else some (c, u)

/-! ## State accessors -/

/-- A host port. -/
def State.port (s : State) (p : Nat) : Port := Tbl.get {} s.ports p
/-- Set a host port. -/
def State.setPort (s : State) (p : Nat) (v : Port) : State := { s with ports := Tbl.put {} s.ports p v }
/-- A context. -/
def State.ctx (s : State) (c : Nat) : Ctx := Tbl.get {} s.ctxs c
/-- Set a context. -/
def State.setCtx (s : State) (c : Nat) (v : Ctx) : State := { s with ctxs := Tbl.put {} s.ctxs c v }
/-- A queue. -/
def State.queue (s : State) (q : Nat) : Queue := Tbl.get {} s.queues q
/-- Set a queue. -/
def State.setQueue (s : State) (q : Nat) (v : Queue) : State := { s with queues := Tbl.put {} s.queues q v }
/-- A stream table entry. -/
def State.stream (s : State) (i : Nat) : Stream := Tbl.get {} s.streams i
/-- Set a stream table entry. -/
def State.setStream (s : State) (i : Nat) (v : Stream) : State := { s with streams := Tbl.put {} s.streams i v }
/-- A mailbox. -/
def State.mbox (s : State) (mb : Nat) : Mbox := Tbl.get {} s.mboxes mb
/-- Set a mailbox. -/
def State.setMbox (s : State) (mb : Nat) (v : Mbox) : State := { s with mboxes := Tbl.put {} s.mboxes mb v }
/-- A bank pair with its unit. -/
def State.pair (s : State) (su : Nat) : Pair := Tbl.get {} s.pairs su
/-- Set a bank pair. -/
def State.setPair (s : State) (su : Nat) (v : Pair) : State := { s with pairs := Tbl.put {} s.pairs su v }
/-- A channel. -/
def State.chan (s : State) (c : Nat) : Chan := Tbl.get {} s.chans c
/-- Set a channel. -/
def State.setChan (s : State) (c : Nat) (v : Chan) : State := { s with chans := Tbl.put {} s.chans c v }
/-- A frond. -/
def State.frond (s : State) (f : Nat) : Frond := Tbl.get {} s.fronds f
/-- Set a frond. -/
def State.setFrond (s : State) (f : Nat) (v : Frond) : State := { s with fronds := Tbl.put {} s.fronds f v }
/-- A frond core. -/
def State.core (s : State) (c : Nat) : Core := Tbl.get {} s.cores c
/-- Set a frond core. -/
def State.setCore (s : State) (c : Nat) (v : Core) : State := { s with cores := Tbl.put {} s.cores c v }
/-- A frond DMA engine. -/
def State.engine (s : State) (e : Nat) : Engine := Tbl.get {} s.engines e
/-- Set a frond DMA engine. -/
def State.setEngine (s : State) (e : Nat) (v : Engine) : State := { s with engines := Tbl.put {} s.engines e v }
/-- A barrier. -/
def State.bar (s : State) (b : Nat) : Barrier := Tbl.get {} s.bars b
/-- Set a barrier. -/
def State.setBar (s : State) (b : Nat) (v : Barrier) : State := { s with bars := Tbl.put {} s.bars b v }
/-- A host core. -/
def State.hcore (s : State) (n : Nat) : HCore := Tbl.get {} s.hcores n
/-- Set a host core. -/
def State.setHCore (s : State) (n : Nat) (v : HCore) : State := { s with hcores := Tbl.put {} s.hcores n v }
/-- A rhizoid port. -/
def State.rport (s : State) (n : Nat) : RPort := Tbl.get {} s.rports n
/-- Set a rhizoid port. -/
def State.setRPort (s : State) (n : Nat) (v : RPort) : State := { s with rports := Tbl.put {} s.rports n v }
/-- A fabric link. -/
def State.flink (s : State) (l : Nat) : FLink := Tbl.get {} s.flinks l
/-- Set a fabric link. -/
def State.setFLink (s : State) (l : Nat) (v : FLink) : State := { s with flinks := Tbl.put {} s.flinks l v }
/-- A thermal domain, by entry index of `GET_THERMAL`. -/
def State.dom (s : State) (d : Nat) : Domain := Tbl.get {} s.therm.doms d
/-- Set a thermal domain. -/
def State.setDom (s : State) (d : Nat) (v : Domain) : State :=
  { s with therm := { s.therm with doms := Tbl.put {} s.therm.doms d v } }
/-- A stack's leaky bucket. -/
def State.bucket (s : State) (st : Nat) : Bucket := Tbl.get {} s.integ.buckets st
/-- Set a stack's leaky bucket. -/
def State.setBucket (s : State) (st : Nat) (v : Bucket) : State :=
  { s with integ := { s.integ with buckets := Tbl.put {} s.integ.buckets st v } }
/-- One block of 64 flags. -/
def State.flagBlock (s : State) (b : Nat) : Word64 := Tbl.get 0 s.flags b
/-- A reader's copy of the interrupt page: 0 to 3 the ports, 4 to 19 the host cores. -/
def State.intr (s : State) (i : Nat) : Intr := Tbl.get {} s.intrs i
/-- Set a reader's copy of the interrupt page. -/
def State.setIntr (s : State) (i : Nat) (v : Intr) : State := { s with intrs := Tbl.put {} s.intrs i v }

/-- The reader index of an agent's interrupt page. -/
def agentIdx : Agent → Nat
  | .port p => p.val
  | .hcore n => 4 + n.val

/-! ## Time -/

/-- Whether the rachis is powered from the input: in every phase but off and retention. -/
def Phase.powered : Phase → Bool
  | .off => false
  | .retention => false
  | _ => true

/-- R315: whether the compute rails may be up: not in a shut-down, nor while the ROM has found no firmware. -/
def Phase.compute : Phase → Bool
  | .ready => true
  | .starting => true
  | _ => false

/-- R26: the timebase at an instant; it never decreases, and stands still in retention (R326). -/
def State.advance (s : State) (at_ : Nat) : State :=
  { s with time := { s.time with now := if s.phase.powered then Nat.max s.time.now at_ else s.time.now } }

/-- R26: one LCLK of a powered module: 1 ns at 8.0 GHz, 5 ns over 4 LCLK at 6.4 GHz, 5 ns over 3 LCLK at 4.8 GHz. -/
def State.tick (s : State) : State :=
  let per := if s.time.root = 0 then 1 else if s.time.root = 1 then 4 else 3
  let add := if s.time.root = 0 then 1 else 5
  -- `frac` counts the LCLK of the period; the fraction owed is add * frac / per
  let f := s.time.frac + 1
  let step := add * f / per - add * s.time.frac / per
  { s with time := { s.time with
      now := if s.phase.powered then s.time.now + step else s.time.now
      frac := if !s.phase.powered then s.time.frac else if per ≤ f then 0 else f } }

/-- A value that the spec does not give: the model's counter moves on, the value is `Config.freeWord` of it. -/
def State.fresh (s : State) : State := { s with free := s.free + 1 }

/-! ## Outputs and interrupts -/

/-- Append to what leaves the module (newest first). -/
def State.emit (s : State) (o : Out) : State := { s with out := o :: s.out }

/-- R229, R256, R370: whether a port's host can be reached: link up, bus mastering enabled, not fenced. -/
def Port.reach (p : Port) : Bool := p.linkUp && p.busMaster && !p.fence

/-- R255, R256: what a port sends its host: it waits while the link retrains, and is lost while the link is down. -/
def State.toHost (s : State) (p : Fin 4) (o : Out) : State :=
  let pt := s.port p
  if !pt.linkUp then s
  else if pt.retraining then s.setPort p { pt with heldOut := pt.heldOut ++ [o] }
  else s.emit o

/-- R248: the message of a vector of a port. -/
def Port.message (pt : Port) (p : Fin 4) (v : Nat) : Out :=
  .msix p v (Tbl.get (0, 0) pt.msixMsg v).1 (Tbl.get (0, 0) pt.msixMsg v).2

/-- R248: whether the message of a vector of a port can be sent. -/
def Port.canSend (pt : Port) (v : Nat) : Bool := pt.msixOn && !pt.msixMask && Tbl.get false pt.msixOpen v && pt.reach

/-- R248: send a vector on a port: a masked vector sets its pending bit. DEDUCED (log entry 85): so does one whose host cannot be
reached. -/
def State.msix (s : State) (p : Fin 4) (v : Nat) : State :=
  let pt := s.port p
  if !pt.msixOn then s
  else if pt.canSend v then s.toHost p (pt.message p v)
  else s.setPort p { pt with msixPend := Tbl.put false pt.msixPend v true }

/-- R248: the pending messages of a port that can be sent are sent; their pending bits clear. -/
def State.msixFlush (s : State) (p : Fin 4) : State :=
  let due := ((s.port p).msixPend.filter fun e => e.2 && (s.port p).canSend e.1).map (·.1)
  due.foldl (fun s v =>
    let pt := s.port p
    (s.setPort p { pt with msixPend := Tbl.put false pt.msixPend v false }).toHost p (pt.message p v)) s

/-- R248: send a vector on every port whose host has enabled MSI-X. -/
def State.msixAll (s : State) (v : Nat) : State := (((s.msix 0 v).msix 1 v).msix 2 v).msix 3 v

/-- Change every reader's copy of the interrupt page (R368). -/
def State.eachIntr (s : State) (f : Intr → Intr) : State :=
  (List.range 20).foldl (fun s i => s.setIntr i (f (s.intr i))) s

/-- R248 vector 3, R368 `OWNERSHIP`. -/
def State.ownershipIrq (s : State) : State := (s.eachIntr fun i => { i with ownership := true }).msixAll 3

/-! ## Logs -/

/-- R364: the newest 16,384 entries; groups are overwritten whole. -/
def trimEv (l : List EvEntry) : List EvEntry :=
  if l.length ≤ 16384 then l else ((l.take 16384).reverse.dropWhile (·.isCont)).reverse

/-- R368: `EVLOG_PENDING` of a reader. -/
def State.evPending (s : State) (i : Nat) : Bool := decide ((s.intr i).ack < s.evlog.nextSeq - 1)

/-- R362, R368: write an event-log entry; a reader whose `EVLOG_PENDING` goes from 0 to 1 is sent vector 2. -/
def State.evAdd (s : State) (e : EvEntry) : State :=
  let e' := { e with seq := s.evlog.nextSeq, time := s.time.now }
  let s' := { s with evlog := { s.evlog with log := trimEv (e' :: s.evlog.log), nextSeq := s.evlog.nextSeq + 1 } }
  [0, 1, 2, 3].foldl (fun (t : State) (p : Fin 4) => if s.evPending p then t else t.msix p 2) s'

/-- R363: write an event-log entry of a kind. -/
def State.ev (s : State) (kind status unit : Nat) (d0 : Nat := 0) (d1 : Nat := 0) (d2 : Nat := 0) (d3 : Nat := 0)
    (d4 : Nat := 0) : State :=
  s.evAdd { seq := 0, time := 0, kind, status, unit, d0, d1, d2, d3, d4 }

/-- The `SEQ` of the newest event-log entry. -/
def State.evNewest (s : State) : Nat := s.evlog.nextSeq - 1

/-- R363: a queue and sequence pair as a detail word. -/
def qseq (q : Nat) (seq : Word32) : Nat := q + seq.toNat * 2 ^ 32

/-- R32, R237, R248: raise the module error interrupt for the newest event-log entry. -/
def State.moduleError (s : State) (status : Nat) : State :=
  let s := { s with evlog := { s.evlog with errStatus := status, errEvent := s.evNewest } }
  (s.eachIntr fun i => { i with modErr := true }).msixAll 0

/-- R31, R32: a quantity of R30 (by row) does not balance: `ERR_INTERNAL` is logged and the error interrupt raised. -/
def State.conservation (s : State) (unit row : Nat) : State :=
  (s.ev 0x0F Status.internal unit row).moduleError Status.internal

/-- R282: the requester code of an error-log entry. -/
def reqCode : Requester → Nat
  | .host => 0
  | .hostCore => 1
  | .frond => 2
  | .sequencer => 3
  | .scrub => 4
  | .mgmt => 5
  | .controller => 6

/-- R282, R283: make an error-log entry, or add 1 to `REPEAT` of an identical newest entry within 1 s. -/
def State.err (s : State) (kind dpa byte requester unit : Nat) : State :=
  let fresh : ErrEntry :=
    { seq := s.integ.nextSeq, time := s.time.now, dpa, byte, kind, requester, unit, rep := 0 }
  match s.integ.log with
  | e :: r =>
    if e.dpa = dpa ∧ e.kind = kind ∧ e.unit = unit ∧ s.time.now ≤ e.time + 1000000000 then
      { s with integ := { s.integ with log := { e with rep := Nat.min 0xFFFF (e.rep + 1) } :: r } }
    else { s with integ := { s.integ with log := (fresh :: s.integ.log).take 16384, nextSeq := s.integ.nextSeq + 1 } }
  | [] => { s with integ := { s.integ with log := [fresh], nextSeq := s.integ.nextSeq + 1 } }

/-- R280: the effect of an overflow: an error-log entry of kind 7, `BUCKET_OVF` and vector 2. -/
def State.bucketOver (s : State) (st : Nat) : State :=
  let s := s.err 7 0 0 (reqCode .controller) (unitId 2 st)
  (s.eachIntr fun i => { i with bucket := true, ovf := i.ovf ||| BitVec.ofNat 32 (2 ^ st) }).msixAll 2

/-- R280: a corrected event of a stack: its bucket rises by 1, and overflows when that takes it above `THRESHOLD`. -/
def State.corrected (s : State) (st : Nat) : State :=
  let b := s.bucket st
  let c := Nat.min 65535 (b.count + 1)
  let s' := s.setBucket st { b with count := c, above := b.above || decide (b.threshold < c) }
  if b.threshold < c ∧ b.above = false then s'.bucketOver st else s'

/-! ## Device memory -/

/-- R8: the tag of a physical column's pseudo-channel: 0 when unlisted content is zero, else undefined. -/
def DMem.tag (m : DMem) (col : Nat) : Nat := Tbl.get 0 m.undef (locOf col).gpc

/-- What an unlisted physical byte address reads as: zero (R333), or undefined (R8). -/
def DMem.unlisted (m : DMem) (a : Nat) : Byte := if m.tag (a / 32) = 0 then 0 else Config.freeByte (m.tag (a / 32)) a

/-- The byte at a physical address. -/
def DMem.byteAt (m : DMem) (a : Nat) : Byte := Tbl.get (m.unlisted a) m.bytes a

/-- The listed cells of a physical column. -/
def DMem.cells (m : DMem) (col : Nat) : List Host.Cell := m.bytes.filter fun c => c.1 / 32 == col

/-- The 32 data bytes of a physical column, as one number. -/
def DMem.data (m : DMem) (col : Nat) : BitVec 256 :=
  let cs := m.cells col
  BitVec.ofNat 256 (natOf ((List.range 32).map fun i => Tbl.get (m.unlisted (32 * col + i)) cs (32 * col + i)))

/-- The 48 check bits of a physical column. -/
def DMem.chk (m : DMem) (col : Nat) : BitVec 48 :=
  Tbl.get (if m.tag col = 0 then zeroCheck else Config.freeCheck (m.tag col) col) m.check col

/-- The cells of a column's bytes that the canonical form lists: all of them in an undefined pseudo-channel,
the non-zero ones elsewhere. -/
def colCells (keep : Bool) (col : Nat) (d : BitVec 256) : List Host.Cell :=
  ((List.range 32).map fun i => (32 * col + i, colByte d i)).filter fun c => keep || c.2 != 0

/-- Store the data bytes of one column in the list of cells. -/
def storeBytes (keep : Bool) (l : List Host.Cell) (col : Nat) (d : BitVec 256) : List Host.Cell :=
  l.filter (fun c => decide (c.1 < 32 * col)) ++ colCells keep col d ++ l.filter (fun c => decide (32 * col + 32 ≤ c.1))

/-- Store data and check bits of one physical column as they are given. -/
def DMem.store (m : DMem) (col : Nat) (d : BitVec 256) (k : BitVec 48) : DMem :=
  let keep := m.tag col != 0
  { m with bytes := storeBytes keep m.bytes col d, check := Tbl.putKeep keep zeroCheck m.check col k }

/-- The canonical form of device memory: cells in strictly rising address order, and a zero cell or zero-column check
bits listed only in an undefined pseudo-channel. -/
def DMem.wf (m : DMem) : Bool :=
  decide (List.Pairwise (fun a b : Host.Cell => a.1 < b.1) m.bytes)
    && m.bytes.all (fun c => c.2 != 0 || m.tag (c.1 / 32) != 0)
    && decide (List.Pairwise (fun a b : Nat × BitVec 48 => a.1 < b.1) m.check)
    && m.check.all (fun c => c.2 != zeroCheck || m.tag c.1 != 0)

/-- R278: the outcomes of a column read. -/
inductive ReadOut where
  | clean | mend | parity (b : Nat) | data (b : Nat) | uncorrectable | poisoned
deriving DecidableEq, Repr

/-- Whether an outcome is a corrected one. -/
def ReadOut.corrected : ReadOut → Bool
  | .mend => true
  | .parity _ => true
  | .data _ => true
  | _ => false

/-- Whether a column read with this outcome delivers good data. -/
def ReadOut.good : ReadOut → Bool
  | .uncorrectable => false
  | .poisoned => false
  | _ => true

/-- R278: the bytes whose parity fails. -/
def badBytes (d : BitVec 256) (k : BitVec 48) : List Nat :=
  (List.range 32).filter fun i => parityOf 8 (colByte d i).toNat != k.getLsbD i

/-- R278: the outcome of a read, and the data it delivers. -/
def decodeCol (d : BitVec 256) (k : BitVec 48) : ReadOut × BitVec 256 :=
  let m := mendField d
  let mend := k.extractLsb' 32 8
  let valid := k.getLsbD 40
  if k.getLsbD 41 then (.poisoned, d)
  else
    match badBytes d k with
    | [] => if valid && m != mend then (.mend, d) else (.clean, d)
    | [b] =>
      if !valid then (.uncorrectable, d)
      else if m = mend then (.parity b, d)
      else
        let r := colByte d b ^^^ m ^^^ mend
        if parityOf 8 r.toNat = k.getLsbD b then (.data b, setColByte d b r) else (.uncorrectable, d)
    | _ => (.uncorrectable, d)

/-- R278: the outcome of reading a physical column, and the data it delivers. -/
def State.readCol (s : State) (col : Nat) : ReadOut × BitVec 256 := decodeCol (s.mem.data col) (s.mem.chk col)

/-- R23, R43: whether a pseudo-channel is in service: its channel is, and its frond can reach the rachis. -/
def State.pcUp (s : State) (gpc : Nat) : Bool :=
  let v := (s.chan (gpc / 2)).svc
  (v == .inService || v == .draining) && (s.frond (gpc / 512)).path

/-- R215: whether a new decode sees a pseudo-channel in service. -/
def State.pcFree (s : State) (gpc : Nat) : Bool :=
  (s.chan (gpc / 2)).svc == .inService && (s.frond (gpc / 512)).path

/-- Whether a column's pseudo-channel is in service (R43). -/
def State.colUp (s : State) (col : Nat) : Bool := s.pcUp (locOf col).gpc

/-- R276, R288: a full-column write from a source other than a correction write-back: the channel's armed flip mask is
applied and disarmed, and logged. -/
def State.writeFull (s : State) (req : Requester) (col : Nat) (d : BitVec 256) (poison : Bool) : State :=
  let k := freshCheck d poison
  match Tbl.get none s.mem.flips (colChannel col) with
  | none => { s with mem := s.mem.store col d k }
  | some f =>
    let m := (s.mem.store col (d ^^^ f.dataMask) (k ^^^ f.checkMask))
    let s := { s with mem := { m with flips := Tbl.put none m.flips (colChannel col) none } }
    s.err 5 (s.lay.dpaOf col) 0 (reqCode req) (unitId 3 (colChannel col))

/-- The data mask bits of the bytes that a byte mask names. -/
def byteMask (be : Nat) : BitVec 256 :=
  BitVec.ofNat 256 ((List.range 32).foldl (fun acc i => if be.testBit i then acc + 255 <<< (8 * i) else acc) 0)

/-- R276, R277, R288: a byte-masked write: data and `PARITY` of the written bytes, `MEND_VALID` cleared, `POISON` set when
the data is delivered with poison; only the written bytes' part of an armed flip mask applies. -/
def State.writeMasked (s : State) (req : Requester) (col : Nat) (d : BitVec 256) (be : Nat) (poison : Bool) : State :=
  let bm := byteMask be
  let pm : BitVec 48 := BitVec.ofNat 48 (be % 2 ^ 32)
  let old := s.mem.data col
  let oldK := s.mem.chk col
  let d' := (old &&& ~~~bm) ||| (d &&& bm)
  let k0 := ((oldK &&& ~~~pm) ||| (freshCheck d' false &&& pm)) &&& ~~~(BitVec.ofNat 48 (2 ^ 40))
  let k' := if poison then k0 ||| BitVec.ofNat 48 (2 ^ 41) else k0
  match Tbl.get none s.mem.flips (colChannel col) with
  | none => { s with mem := s.mem.store col d' k' }
  | some f =>
    let m := s.mem.store col (d' ^^^ (f.dataMask &&& bm)) (k' ^^^ (f.checkMask &&& pm))
    let s := { s with mem := { m with flips := Tbl.put none m.flips (colChannel col) none } }
    s.err 5 (s.lay.dpaOf col) 0 (reqCode req) (unitId 3 (colChannel col))

/-- R276: a write of the bytes that a mask names: a full-column write when it names all 32. -/
def State.writeBytes (s : State) (req : Requester) (col : Nat) (d : BitVec 256) (be : Nat) (poison : Bool) : State :=
  if s.colUp col then
    if be % 2 ^ 32 = 2 ^ 32 - 1 then s.writeFull req col d poison
    else if be % 2 ^ 32 = 0 then s
    else s.writeMasked req col d be poison
  else s

/-- R244, R276: a partial write: byte-masked whatever bytes it names. -/
def State.writePart (s : State) (req : Requester) (col : Nat) (d : BitVec 256) (be : Nat) (poison : Bool) : State :=
  if s.colUp col && be % 2 ^ 32 != 0 then s.writeMasked req col d be poison else s

/-- R280, R282: the error log and the stack's bucket record a corrected outcome. -/
def State.noteCorrected (s : State) (req : Requester) (col : Nat) (o : ReadOut) : State :=
  let (kind, byte) := match o with
    | .data b => (0, b)
    | .parity b => (1, b)
    | _ => (2, 0)
  (s.err kind (s.lay.dpaOf col) byte (reqCode req) (unitId 5 (colBank col))).corrected (colStack col)

/-- R278, R279: the effect of a corrected outcome: the corrected column is written back (not through the flip mask), and recorded. -/
def State.correct (s : State) (req : Requester) (col : Nat) (o : ReadOut) (d : BitVec 256) : State :=
  ({ s with mem := s.mem.store col d (freshCheck d false) } : State).noteCorrected req col o

/-- R284: log an uncorrectable or poisoned read; a poisoned one only for the first read of that column per second. -/
def State.logBad (s : State) (req : Requester) (col : Nat) (poisoned : Bool) : State :=
  if poisoned then
    let due := match Tbl.get none s.integ.poisonSeen col with
      | none => true
      | some t => decide (t + 1000000000 ≤ s.time.now)
    if due then
      let s := { s with integ := { s.integ with poisonSeen := Tbl.put none s.integ.poisonSeen col (some s.time.now) } }
      s.err 8 (s.lay.dpaOf col) 0 (reqCode req) (unitId 5 (colBank col))
    else s
  else s.err 3 (s.lay.dpaOf col) 0 (reqCode req) (unitId 5 (colBank col))

/-- R278 to R284: what a column read leaves in the module's state, whatever the requester. -/
def State.noteRead (s : State) (req : Requester) (col : Nat) : State :=
  if s.colUp col then
    match s.readCol col with
    | (.clean, _) => s
    | (.uncorrectable, _) => s.logBad req col false
    | (.poisoned, _) => s.logBad req col true
    | (o, d) => s.correct req col o d
  else s

/-- What reading a list of columns leaves in the state. -/
def State.noteReads (s : State) (req : Requester) (cols : List Nat) : State :=
  cols.foldl (fun s c => s.noteRead req c) s

/-- The byte that a read of a DPA delivers, and whether it is poisoned (poisoned, uncorrectable, R284). -/
def State.readByte (s : State) (dpa : Nat) : Byte × Bool :=
  let r := s.readCol (s.lay.colOf dpa)
  (colByte r.2 (dpa % 32), !r.1.good)

/-- The columns that `n` bytes from a DPA touch. -/
def State.colsOf (s : State) (dpa n : Nat) : List Nat :=
  if n = 0 then [] else (List.range ((dpa + n - 1) / 32 - dpa / 32 + 1)).map fun i => s.lay.colOf (32 * (dpa / 32 + i))

/-- The number that a list of columns spells, the first column least significant. -/
def colsNum : List (BitVec 256) → Nat
  | [] => 0
  | d :: r => d.toNat + 2 ^ 256 * colsNum r

/-- A read of `n` bytes from a DPA: the little-endian number, and whether any byte is poisoned. -/
def State.readNum (s : State) (dpa n : Nat) : Nat × Bool :=
  let cs := (s.colsOf dpa n).map s.readCol
  (bits (colsNum (cs.map (·.2))) (8 * (dpa % 32)) (8 * n), cs.any fun c => !c.1.good)

/-- Half of a line: its first 32 bytes, or its last. -/
def lineHalf (line : BitVec 512) (i : Nat) : BitVec 256 := line.extractLsb' (256 * i) 256

/-- One byte to be written: DPA, value, poison. -/
structure DWrite where
  dpa : Nat
  val : Byte
  poison : Bool
deriving DecidableEq, Repr

/-- The bytes of a number as writes from a DPA on. -/
def writesOf (dpa n x : Nat) (poison : Bool) : List DWrite :=
  (List.range n).map fun i => { dpa := dpa + i, val := BitVec.ofNat 8 (x >>> (8 * i)), poison }

/-- Gather writes by column (later writes win): the column, its data, its byte mask, its poison. -/
def gatherWrites (l : Layout) (ws : List DWrite) : Tbl (BitVec 256 × Nat × Bool) :=
  ws.foldl (fun t w =>
    let col := l.colOf w.dpa
    let e := Tbl.get (0, 0, false) t col
    Tbl.put (0, 0, false) t col
      (setColByte e.1 (w.dpa % 32) w.val, e.2.1 ||| 2 ^ (w.dpa % 32), e.2.2 || w.poison)) []

/-- R276: perform writes: full-column where a whole column is covered, byte-masked elsewhere. -/
def State.writeAll (s : State) (req : Requester) (ws : List DWrite) : State :=
  (gatherWrites s.lay ws).foldl (fun s e => s.writeBytes req e.1 e.2.1 e.2.2.1 e.2.2.2) s

/-! ## Service and power -/

/-- The channels of a stack that are in service. -/
def State.stackUp (s : State) (st : Nat) : Bool :=
  (List.range 32).any fun c => (s.chan (32 * st + c)).svc == .inService || (s.chan (32 * st + c)).svc == .draining

/-- The eighths granted to a stack: the floor (1) while any channel is in service (R297, R306). DEDUCED (log entry 22): an interface without
power holds nothing. -/
def State.eighths (s : State) (st : Nat) : Nat :=
  if s.stackUp st && s.phase.compute then Tbl.get 1 s.power.stackEighths st else 0

/-- R319 `CORE_Q`: quanta held by frond cores. -/
def State.coreQ (s : State) : Nat := 30 * sumNat (s.cores.map fun c => c.2.level)
/-- R319 `STACK_Q`: quanta held by stack interfaces. -/
def State.stackQ (s : State) : Nat := 63 * sumNat ((List.range 32).map s.eighths)
/-- R319 `FIXED_Q`: rachis, frond uncore while it is powered (R297), and rhizoid ports. -/
def State.fixedQ (s : State) : Nat := 1000 + (if s.phase.compute then 1600 else 0) + 100 * (s.power.rports.filter (·.2)).length
/-- R319 `HELD_Q`: quanta held. -/
def State.heldQ (s : State) : Nat := s.fixedQ + s.coreQ + s.stackQ + s.power.tokens
/-- R319 `FREE_Q`: quanta free. -/
def State.freeQ (s : State) : Nat := s.power.envelope - s.heldQ
/-- R304: quanta reserved by liens. -/
def State.reservedQ (s : State) : Nat := sumNat (s.power.liens.map (·.reserved))
/-- R319 `BORROWED_Q`. -/
def State.borrowedQ (s : State) : Nat := sumNat (s.power.grants.map fun b => sumNat (b.parts.map (·.2)))

/-- The highest of a list. -/
def maxInt : List Int → Option Int
  | [] => none
  | a :: r => match maxInt r with
    | none => some a
    | some b => some (if a < b then b else a)

/-- R314: a stack's DRAM band, 1 to 3. -/
def State.band (s : State) (st : Nat) : Nat := Nat.max 1 (s.dom (37 + st)).band
/-- R314: the token figure of the hottest stack's band. -/
def State.bandFigure (s : State) : Nat :=
  let b := (List.range 32).foldl (fun m st => Nat.max m (s.band st)) 1
  if b = 1 then 8192 else if b = 2 then 6144 else 4096
/-- R300, R314: the token pool: the figure of the hottest stack's band, limited by `TOKEN_LIMIT`. -/
def State.pool (s : State) : Nat := Nat.min s.bandFigure s.power.tokenLimit

/-- The owner's port, when the module is owned. -/
def State.ownerPort (s : State) : Option (Fin 4) :=
  match s.own.st with
  | .owned p => some p
  | _ => none

/-- Whether a port owns the module. -/
def State.isOwner (s : State) (p : Fin 4) : Bool := s.ownerPort == some p

end Sys2Proof.Machine
end

