-- ==== Sys2Proof/Machine/Traffic.lean ====
section
/-! DEFINITION. What else a bank pair meets: the fabric's routes (R22, R23), port priorities (R93), ordinary accesses (R94 to R98), pair
refreshes (R91). -/

namespace Sys2Proof.Machine

open Sys2Proof

/-! ## Routes (R22, R23) -/

/-- The fabric's source that is no frond: the rachis. -/
def rachis : Nat := 4

/-- R22: the ring links from frond `a` to frond `b`, in ascending or in descending frond order. -/
def ringLinks : Nat → Bool → Nat → Nat → List Nat
  | 0, _, _, _ => []
  | n + 1, up, a, b =>
    if a = b then []
    else if up then (4 + a) :: ringLinks n up ((a + 1) % 4) b
    else (4 + (a + 3) % 4) :: ringLinks n up ((a + 3) % 4) b

/-- R22, R23: the routes between the rachis and a frond, the preferred first: its own link, then the link of a frond `h` ring links away
and the ring. DESIGN CHOICE (log entry 107): of two detours of one length, granules of even number take that through the ascending
neighbour. -/
def rachisRoutes (f granule : Nat) : List (List Nat) :=
  [f] :: (([1, 2, 3].map fun h =>
    let a := ((f + h) % 4) :: ringLinks 3 false ((f + h) % 4) f
    let b := ((f + 4 - h) % 4) :: ringLinks 3 true ((f + 4 - h) % 4) f
    if granule % 2 = 0 then [a, b] else [b, a]).flatten)

/-- R22, R23: the routes from a source to a frond for a granule, the preferred first. -/
def routes (src dst granule : Nat) : List (List Nat) :=
  if src = dst then [[]]
  else if src = rachis then rachisRoutes dst granule
  else if dst = rachis then rachisRoutes src granule
  else if (src + 2) % 4 = dst then [ringLinks 3 (granule % 2 == 0) src dst, ringLinks 3 (granule % 2 != 0) src dst]
  else if (src + 1) % 4 = dst then [ringLinks 3 true src dst, ringLinks 3 false src dst]
  else [ringLinks 3 false src dst, ringLinks 3 true src dst]

/-- R22, R23: the route that a request takes: the first whose links all carry traffic. -/
def routeOf (up : Nat → Bool) (src dst granule : Nat) : Option (List Nat) := (routes src dst granule).find? fun r => r.all up

/-- Whether a fabric link carries traffic. -/
def State.linkUp (s : State) (l : Nat) : Bool := (s.flink l).svc == .inService

/-- The route of a request as the links stand. -/
def State.route (s : State) (src dst granule : Nat) : Option (List Nat) := routeOf s.linkUp src dst granule

/-- R23, R30: the credits that a link's sender has. -/
def FLink.credits (l : FLink) : Nat := Config.fabricCredits - l.replay.length

/-! ## Ordinary accesses (R94 to R98, R244) -/

/-- The columns that an access names. -/
def ordCols : OrdAccess → List Nat
  | .read _ c => [c]
  | .write _ c _ _ => [c]
  | .lineRead _ a b => [a, b]
  | .lineWrite _ a b _ _ _ => [a, b]

/-- R282: who made an access. -/
def ordReq : OrdAccess → Requester
  | .read r _ => r
  | .write r _ _ _ => r
  | .lineRead _ _ _ => .host
  | .lineWrite _ _ _ _ _ _ => .host

/-- R93: the request port of an access, by the lowest bit of its field in `CC_PORT_PRIO`: host path, core and DMA path, scrub.
DEDUCED (log entry 104): which port each requester uses. -/
def ordPort (a : OrdAccess) : Nat :=
  match ordReq a with
  | .host | .hostCore | .mgmt => 8
  | .frond | .sequencer => 12
  | .scrub | .controller => 16

/-- R243, R244: a host's write of the bytes of a line that `be` names: of two whole columns when it names all, else byte-masked. -/
def State.writeHost (s : State) (a b : Nat) (line : BitVec 512) (be : Word64) (poison : Bool) : State :=
  if be = BitVec.allOnes 64 then
    (s.writeBytes .host a (lineHalf line 0) (2 ^ 32 - 1) poison).writeBytes .host b (lineHalf line 1) (2 ^ 32 - 1) poison
  else
    (s.writePart .host a (lineHalf line 0) (be.toNat % 2 ^ 32) poison).writePart .host b (lineHalf line 1) (be.toNat / 2 ^ 32) poison

/-- The line that two columns hold as it is read, and whether it is delivered with poison: a bad column, or one out of service (R43,
R244). -/
def State.readPair (s : State) (a b : Nat) : BitVec 512 × Bool :=
  ((s.readCol b).2 ++ (s.readCol a).2, !(s.readCol a).1.good || !(s.readCol b).1.good || !s.colUp a || !s.colUp b)

/-- R94: serve one ordinary access. -/
def State.serveOne (s : State) (a : OrdAccess) : State :=
  match a with
  | .read req col =>
    let r := s.readCol col
    (s.noteRead req col).emit (.ordData req col r.2 (!r.1.good || !s.colUp col))
  | .write req col data poison => if s.colUp col then s.writeFull req col data poison else s
  | .lineRead p a b =>
    let l := s.readPair a b
    (s.noteReads .host [a, b]).toHost p (.cxlData p l.1 l.2)
  | .lineWrite p a b line be poison => (s.writeHost a b line be poison).toHost p (.cxlDone p)

/-- R50: the row buffer of its bank pair that a column's row opens in. -/
def rowBuffer (col : Nat) : Nat := 2 * ((locOf col).bank % 2) + (if 31744 ≤ (locOf col).row then 1 else 0)

/-- R50: open the rows of columns, each in its row buffer. DEDUCED (log entry 105): a row opened takes the place of its buffer's. -/
def Pair.openRows (p : Pair) (cols : List Nat) : Pair :=
  { p with rows := cols.foldl (fun t c => Tbl.put none t (rowBuffer c) (some (locOf c).row)) p.rows }

/-- R93: the port that is served next: of the ports with a request, the highest priority; of equals, the next in turn. DESIGN CHOICE (log
entry 143): the turn goes host path, core and DMA path, scrub, and round again. -/
def nextPort (prio : Word32) (last : Nat) (q : List OrdAccess) : Option Nat :=
  let turn := [8, 12, 16].filter (fun k => decide (last < k)) ++ [8, 12, 16].filter (fun k => decide (k ≤ last))
  (turn.filter fun k => q.any fun a => ordPort a == k).foldl (fun best k =>
    match best with
    | none => some k
    | some b => if bits prio.toNat b 3 < bits prio.toNat k 3 then some k else some b) none

/-- The oldest request of a port, and the others. -/
def takePort (k : Nat) : List OrdAccess → Option (OrdAccess × List OrdAccess)
  | [] => none
  | a :: r =>
    if ordPort a = k then some (a, r)
    else match takePort k r with
      | none => none
      | some (b, r') => some (b, a :: r')

/-- R93: the access of a pair's queue that the controller serves next, and the others. -/
def State.nextAccess (s : State) (su : Nat) : Option (OrdAccess × List OrdAccess) :=
  match nextPort s.power.prio (s.chan (su / 32)).lastPort (s.pair su).ordQ with
  | none => none
  | some k => takePort k (s.pair su).ordQ

/-- Serve an access of a pair's queue that has been chosen: `rest` is what still waits. -/
def State.served (s : State) (su : Nat) (a : OrdAccess) (rest : List OrdAccess) : State :=
  let s := s.setChan (su / 32) { s.chan (su / 32) with lastPort := ordPort a }
  let s := s.setPair su (({ s.pair su with ordQ := rest } : Pair).openRows (ordCols a))
  if (ordCols a).all fun c => colUnit c == su then s.serveOne a else s

/-- R93, R95: serve queued accesses of a pair, at most `fuel` of them and at most `cols` columns. DESIGN CHOICE (log entry 143): an access
of two columns that is next ends the serving when one column is left, though a later access would fit. -/
def State.serve (s : State) (su : Nat) : Nat → Nat → State
  | 0, _ => s
  | fuel + 1, cols =>
    match s.nextAccess su with
    | none => s
    | some (a, rest) =>
      if (ordCols a).length ≤ cols then State.serve (s.served su a rest) su fuel (cols - (ordCols a).length) else s

/-- R93: serve what waits for a pair ahead of a request of port `k`: at most `fuel` accesses of ports of its priority or a higher one.
DESIGN CHOICE (log entry 143): of equal priorities, what waits already goes first. -/
def State.serveBefore (s : State) (su k : Nat) : Nat → State
  | 0 => s
  | fuel + 1 =>
    match s.nextAccess su with
    | none => s
    | some (a, rest) =>
      if bits s.power.prio.toNat k 3 ≤ bits s.power.prio.toNat (ordPort a) 3 then State.serveBefore (s.served su a rest) su k fuel
      else s

/-- R91: a refresh of a pair that has reached its limit is issued ahead of every other request to the pair; its rows close. -/
def State.refreshFirst (s : State) (su : Nat) : State :=
  let p := s.pair su
  if 4 ≤ p.owed then s.setPair su { p with owed := p.owed - 1, rows := [] } else s

/-- R95: the accesses that a step boundary of a computing unit serves: at most 32 columns. -/
def State.boundary (s : State) (su : Nat) : State := (s.refreshFirst su).serve su 32 32

/-- R94, R95, R100: serve what waits for a pair as far as its unit allows: nothing during a re-run, nor before a computing unit has run a
further step; else 32 columns at a boundary of a computing unit, and everything where none computes. -/
def State.serveNow (s : State) (su : Nat) : State :=
  let p := s.pair su
  if p.ordQ.isEmpty || p.rerun.isSome || (p.token && p.mustStep) then s
  else if p.token then
    let t := s.boundary su
    t.setPair su { t.pair su with mustStep := true }
  else (s.refreshFirst su).serve su p.ordQ.length (2 * p.ordQ.length)

/-- An access reaches its bank pair's queue. -/
def State.arrive (s : State) (a : OrdAccess) : State :=
  match ordCols a with
  | c :: _ =>
    let su := colUnit c
    (s.setPair su { s.pair su with ordQ := (s.pair su).ordQ ++ [a] }).serveNow su
  | [] => s

/-! ## Requests on the fabric (R22, R23) -/

/-- R22: the granule of an access. -/
def State.ordGranule (s : State) (a : OrdAccess) : Nat := s.lay.dpaOf ((ordCols a).headD 0) / 256

/-- The frond that an access goes to. -/
def ordFrond (a : OrdAccess) : Nat := (locOf ((ordCols a).headD 0)).gpc / 512

/-- R23: of the changes of routes, how many came before a source last released its requests to a granule. -/
def State.releasedAt (s : State) (src granule : Nat) : Nat :=
  match s.routeNew.find? fun e => e.1 == src && e.2.1 == granule with
  | some e => e.2.2
  | none => 0

/-- R23: whether a source holds its requests to a granule: its route is another than when the source last released them. -/
def State.moving (s : State) (src dst granule : Nat) : Bool :=
  match s.oldLinks[s.releasedAt src granule]? with
  | none => false
  | some m => (s.route src dst granule).isSome && routeOf m.getLsbD src dst granule != s.route src dst granule

/-- R22, R23: a request goes its route: a link that retrains keeps it in its replay buffer, while it has a credit for it. -/
def State.dispatch (s : State) (src : Nat) (a : OrdAccess) : State :=
  match (s.route src (ordFrond a) (s.ordGranule a)).bind fun r => r.find? fun l => (s.flink l).retraining with
  | some l =>
    if 0 < (s.flink l).credits then s.setFLink l { s.flink l with replay := (s.flink l).replay ++ [(src, a)] }
    else { s with fabricHeld := s.fabricHeld ++ [(src, a)] }
  | none => s.arrive a

/-- Whether a source holds a request to a granule already. -/
def State.holding (s : State) (src granule : Nat) : Bool := s.fabricHeld.any fun h => h.1 == src && s.ordGranule h.2 == granule

/-- R23, R32: whether a source holds a request to a granule: its route has changed, it holds others to the granule, or no link grants
credits. -/
def State.held (s : State) (src dst granule : Nat) : Bool :=
  s.stopped.contains .fabricCredits || s.moving src dst granule || s.holding src granule

/-- The requests that links keep in their replay buffers, or that their sources hold. -/
def State.underway (s : State) : List (Nat × OrdAccess) := (s.flinks.map fun e => e.2.replay).flatten ++ s.fabricHeld

/-- Whether an access is a host's write on a port. -/
def OrdAccess.writeOf (p : Fin 4) : OrdAccess → Bool
  | .lineWrite q _ _ _ _ _ => q == p
  | _ => false

/-- R246: whether a port's read waits for an earlier write of the port that is still on its way. -/
def State.readWaits (s : State) (a : OrdAccess) : Bool :=
  match a with
  | .lineRead p _ _ => s.underway.any fun h => OrdAccess.writeOf p h.2
  | _ => false

/-- R23, R246: a source sends a request, or holds it. -/
def State.send (s : State) (src : Nat) (a : OrdAccess) : State :=
  if s.held src (ordFrond a) (s.ordGranule a) || s.readWaits a then
    { s with fabricHeld := s.fabricHeld ++ [(src, a)] }
  else s.dispatch src a

/-- The requests under way that a test names are delivered, in their order: the retrains of their links end and their sources release
them. -/
def State.deliver (s : State) (f : Nat × OrdAccess → Bool) : State :=
  let now := s.underway.filter f
  let t := { s with
    flinks := s.flinks.map fun e => (e.1, { e.2 with replay := e.2.replay.filter fun h => !f h })
    fabricHeld := s.fabricHeld.filter fun h => !f h }
  now.foldl (fun s h => s.arrive h.2) t

/-- R23: the requests that sources hold go out again, where nothing holds them any more. -/
def State.resendHeld (s : State) : State :=
  let held := s.fabricHeld
  held.foldl (fun s h => s.send h.1 h.2) { s with fabricHeld := [] }

/-- Whether an access of a requester to a column is served at once: no route holds it, its pair's unit lets it in, and no refresh of the
pair comes first (R91). -/
def State.clearCol (s : State) (src col : Nat) : Bool :=
  let p := s.pair (colUnit col)
  let f := (locOf col).gpc / 512
  let g := s.lay.dpaOf col / 256
  p.rerun.isNone && !(p.token && p.mustStep) && p.ordQ.isEmpty && decide (p.owed < 4) && !s.held src f g
    && (match s.route src f g with
      | some r => r.all fun l => !(s.flink l).retraining
      | none => true)

/-! ## The rows -/

/-- R91: tREFI of a pair, in nanoseconds, by the band of its stack. -/
def State.tRefi (s : State) (su : Nat) : Nat :=
  let b := s.band (su / 1024)
  if b = 1 then 3900 else if b = 2 then 1950 else 975

/-- R91: a pair refresh is issued, up to 4 ahead of when they fall due; the pair's rows close. -/
def State.issueRefresh (s : State) (su : Nat) : State :=
  let p := s.pair su
  if -4 < p.owed ∧ p.rerun.isNone = true then s.setPair su { p with owed := p.owed - 1, rows := [] } else s

/-- `PAIR_REFRESH` (R91, R92): a refresh of the pair falls due, one per tREFI, or is issued, when the pair's rows close. Up to 4 may be
postponed (one that is due beyond them is issued first) and up to 4 pulled in. -/
def execPairRefresh (su : Nat) (act : RefreshAct) (s : State) : Host.Outcome State Fault Refusal :=
  let p := s.pair su
  .next (match act with
    | .due =>
      if p.nextRef ≤ s.time.now then
        let next := p.nextRef + s.tRefi su
        if p.owed < 4 then s.setPair su { p with owed := p.owed + 1, nextRef := next }
        else s.setPair su { p with nextRef := next, rows := [] }
      else s
    | .issue => s.issueRefresh su)

end Sys2Proof.Machine
end

