-- ==== Sys2Proof/Machine/Flags.lean ====
section
/-! DEFINITION. The flag store (R217 to R229), discarded writes (R243), and serial numbers (R203). -/

namespace Sys2Proof.Machine

open Sys2Proof

/-- R220: the context and slot that a block is bound to, with the slot. -/
def State.binding (s : State) (b : Nat) : Option (Nat × Nat × FSlot) :=
  s.ctxs.findSome? fun (c, x) => x.slots.findSome? fun (i, f) => if f.mapped && f.block == b then some (c, i, f) else none

/-- R218: the block and bit of a context flag number; `none` when its slot is not mapped (R219). -/
def Ctx.flag (c : Ctx) (n : Nat) : Option (Nat × Nat) :=
  let f := Tbl.get ({} : FSlot) c.slots (n / 64)
  if f.mapped then some (f.block, n % 64) else none

/-- R229: what a change of a block owes its host: a mirror write, and a message for a 0-to-1 change. -/
def State.owe (s : State) (b : Nat) (old new : Word64) : State :=
  match s.binding b with
  | none => s
  | some (_, _, f) =>
    if old = new then s
    else
      let m := Tbl.get ({} : Mirror) s.mirrors b
      let m' : Mirror := { write := m.write || f.mirror, msg := m.msg || (f.msix && (new &&& ~~~old) != 0) }
      { s with mirrors := Tbl.put {} s.mirrors b m' }

/-- R221: one flag-store operation on a block. -/
def State.putBlock (s : State) (b : Nat) (new : Word64) : State :=
  ({ s with flags := Tbl.put 0 s.flags b new } : State).owe b (s.flagBlock b) new

/-- R220: the hardware clear of a block: no interrupt, no mirror write, no wait satisfied. -/
def State.hwClear (s : State) (b : Nat) : State :=
  { s with flags := Tbl.put 0 s.flags b 0, mirrors := Tbl.put {} s.mirrors b {} }

/-- Set or clear one flag. -/
def State.putFlag (s : State) (v : Bool) (b i : Nat) : State :=
  let m : Word64 := BitVec.ofNat 64 (2 ^ i)
  s.putBlock b (if v then s.flagBlock b ||| m else s.flagBlock b &&& ~~~m)

/-- R226: set or clear the flags of a list (context flag numbers of context `c`); unmapped numbers change nothing. -/
def State.putFlags (s : State) (c : Nat) (v : Bool) (ns : List Nat) : State :=
  ns.foldl (fun s n => match (s.ctx c).flag n with
    | some (b, i) => s.putFlag v b i
    | none => s) s

/-- R218: the state of a context flag; `none` when its slot is not mapped. -/
def State.flagVal (s : State) (c n : Nat) : Option Bool :=
  match (s.ctx c).flag n with
  | some (b, i) => some ((s.flagBlock b).getLsbD i)
  | none => none

/-- R223: whether a wait list of mapped flags is satisfied. -/
def State.waitSat (s : State) (c : Nat) (any : Bool) (ns : List Nat) : Bool :=
  if ns.isEmpty then true
  else if any then ns.any fun n => s.flagVal c n == some true
  else ns.all fun n => s.flagVal c n == some true

/-- R236: what ends a deadlock window of the module and of a context besides its records: a flag written by a host, a host core or the
management processor, an arrival from another module. -/
def State.touch (s : State) (c : Nat) : State :=
  let s := s.setCtx c { s.ctx c with lastAct := s.time.now }
  { s with lastAct := s.time.now }

/-- R236, R237: a record of a context has issued or completed: its windows start afresh, and its scope is reported again. -/
def State.active (s : State) (c : Nat) : State :=
  let s := s.setCtx c { s.ctx c with lastAct := s.time.now, dlReported := false }
  { s with lastAct := s.time.now, dlReported := false }

/-- R225: a record stands at a queue's `HEAD` from now on: the time of its wait counts while its context is active. -/
def State.headNow (s : State) (q : Nat) : State :=
  let qu := s.queue q
  s.setQueue q { qu with waitFrom := if qu.tail ≠ qu.head ∧ (s.ctx qu.ctx).st = .active then some s.time.now else none, waited := 0 }

/-- R225: the count of a wait at `HEAD` stops. -/
def State.pauseWait (s : State) (q : Nat) : State :=
  let qu := s.queue q
  match qu.waitFrom with
  | some t => s.setQueue q { qu with waitFrom := none, waited := qu.waited + (s.time.now - t) }
  | none => s

/-- R225: the count of a wait at `HEAD` goes on from where it stopped. -/
def State.resumeWait (s : State) (q : Nat) : State :=
  let qu := s.queue q
  if qu.tail = qu.head ∨ qu.waitFrom.isSome then s else s.setQueue q { qu with waitFrom := some s.time.now }

/-- The queues of a context. -/
def State.ctxQueues (s : State) (c : Nat) : List Nat := (s.queues.filter fun e => e.2.live && e.2.ctx == c).map (·.1)

/-- R225: a context leaves the active state. -/
def State.pauseWaits (s : State) (c : Nat) : State := (s.ctxQueues c).foldl State.pauseWait s
/-- R225: a context becomes active. -/
def State.resumeWaits (s : State) (c : Nat) : State := (s.ctxQueues c).foldl State.resumeWait s

/-- R203: sequence a precedes b. -/
def precedes (a b : Word32) : Bool := decide (1 ≤ (b - a).toNat ∧ (b - a).toNat ≤ 2 ^ 31 - 1)

/-- The unit identifier of an agent: host port or host core. -/
def agentUnit : Agent → Nat
  | .port p => unitId 8 p.val
  | .hcore n => unitId 9 n.val

/-- R243: count, log (the first and every 1,024th after it) and report a write that a port may not make. -/
def State.discard (s : State) (p : Fin 4) (addr value : Nat) : State :=
  let pt := s.port p
  let n := pt.discarded + 1
  let due := match pt.aerAt with
    | none => true
    | some t => decide (t + 1000000 ≤ s.time.now)
  let s := s.setPort p { pt with discarded := n, aerAt := if due then some s.time.now else pt.aerAt }
  let s := if pt.discarded % 1024 = 0 then s.ev 0x0E 0 (unitId 8 p.val) addr value (p.val + n * 2 ^ 32) else s
  if due then s.toHost p (.aer p) else s

/-- R204, R219: a register write that is discarded and logged with a status. -/
def State.logDiscard (s : State) (a : Agent) (status addr value : Nat) : State :=
  let n := match a with
    | .port p => p.val
    | .hcore n => 0x10 + n.val
  s.ev 0x0E status (agentUnit a) addr value n

/-- The BAR0 offset of a queue's doorbell page (R201). -/
def doorbellOff (q : Nat) : Nat := 0x10000 + 0x1000 * q
/-- The BAR0 offset of a context's flag page (R365). -/
def flagOff (c : Nat) : Nat := 0x1000000 + 0x10000 * c

end Sys2Proof.Machine
end

