-- ==== Sys2Proof/Machine/Float.lean ====
section
/-! DEFINITION. The float formats of R183, exact values, rounding to nearest even, and the conversions of R185. -/

namespace Sys2Proof.Machine

open Sys2Proof

/-- A value of a float format: a finite number `(-1)^neg * mant * 2^exp`, an infinity, or NaN. -/
inductive FVal where
  | fin (neg : Bool) (mant : Nat) (exp : Int)
  | inf (neg : Bool)
  | nan
deriving DecidableEq, Repr

/-- R183: a float format: exponent bits, mantissa bits, bias, whether it has infinities (E4M3 has none). -/
structure FFmt where
  eb : Nat
  mb : Nat
  bias : Int
  hasInf : Bool
deriving DecidableEq, Repr

/-- R183: FP8 E4M3. -/
def FFmt.e4m3 : FFmt := ⟨4, 3, 7, false⟩
/-- R183: FP8 E5M2. -/
def FFmt.e5m2 : FFmt := ⟨5, 2, 15, true⟩
/-- R183: bf16. -/
def FFmt.bf16 : FFmt := ⟨8, 7, 127, true⟩
/-- R183: fp32. -/
def FFmt.fp32 : FFmt := ⟨8, 23, 127, true⟩

/-- R183: the value that a pattern of a format encodes. -/
def FFmt.decode (f : FFmt) (x : Nat) : FVal :=
  let m := bits x 0 f.mb
  let e := bits x f.mb f.eb
  let neg := bit x (f.mb + f.eb)
  let top := 2 ^ f.eb - 1
  if e = 0 then .fin neg m (1 - f.bias - f.mb)
  else if f.hasInf && e == top then (if m = 0 then .inf neg else .nan)
  else if !f.hasInf && e == top && m == 2 ^ f.mb - 1 then .nan
  else .fin neg (m + 2 ^ f.mb) (e - f.bias - f.mb)

/-- R184: the canonical NaN of a format. -/
def FFmt.nanBits (f : FFmt) : Nat :=
  if f.hasInf then (2 ^ f.eb - 1) * 2 ^ f.mb + 2 ^ (f.mb - 1) else 2 ^ (f.mb + f.eb) - 1

/-- R183: the pattern of the largest finite magnitude of a format. -/
def FFmt.maxBits (f : FFmt) : Nat :=
  if f.hasInf then (2 ^ f.eb - 1) * 2 ^ f.mb - 1 else 2 ^ (f.mb + f.eb) - 2

/-- The pattern of infinity; in a format that has none, of its largest finite magnitude. -/
def FFmt.infBits (f : FFmt) : Nat := if f.hasInf then (2 ^ f.eb - 1) * 2 ^ f.mb else f.maxBits

/-- A number of bits: 0 for 0. -/
def bitLen (x : Nat) : Nat := if x = 0 then 0 else Nat.log2 x + 1

/-- `m * 2^e` as a multiple of `2^t`, rounded to nearest, ties to even. -/
def roundAt (m : Nat) (e t : Int) : Nat :=
  if t ≤ e then m * 2 ^ (e - t).toNat else (rshift (m : Int) (t - e).toNat).toNat

/-- R185, R121: the pattern of `(-1)^neg * m * 2^e` in a format, rounded to nearest, ties to even, subnormals kept.
A magnitude that rounds past the largest finite value becomes infinity (`toInf`, arithmetic of R121) or that largest value. -/
def FFmt.round (f : FFmt) (toInf : Bool) (neg : Bool) (m : Nat) (e : Int) : Nat :=
  let s := if neg then 2 ^ (f.mb + f.eb) else 0
  if m = 0 then s
  else
    -- the exponent of the unit in the last place
    let lo : Int := 1 - f.bias - f.mb
    let t0 : Int := e + bitLen m - 1 - f.mb
    let t := if t0 < lo then lo else t0
    let r := roundAt m e t
    -- r may have reached the next power of two; the encoding then carries into the exponent by itself
    let body : Int := if r < 2 ^ f.mb then (r : Int) else (t - lo) * (2 ^ f.mb : Nat) + (r : Int)
    if body > f.maxBits then s + (if toInf then f.infBits else f.maxBits) else s + body.toNat

/-- Whether a finite magnitude lies above the format's largest finite value, before rounding (R185). -/
def FFmt.above (f : FFmt) (m : Nat) (e : Int) : Bool :=
  match f.decode f.maxBits with
  | .fin _ mm me => if me ≤ e then decide (m * 2 ^ (e - me).toNat > mm) else decide (m > mm * 2 ^ (me - e).toNat)
  | _ => false

/-- An fp32 pattern of a value (R121: results round to nearest even, overflow to infinity). -/
def fp32Of : FVal → Word32
  | .fin n m e => BitVec.ofNat 32 (FFmt.fp32.round true n m e)
  | .inf n => BitVec.ofNat 32 (FFmt.fp32.infBits + if n then 2 ^ 31 else 0)
  | .nan => BitVec.ofNat 32 FFmt.fp32.nanBits

/-- The value of an fp32 pattern. -/
def fp32Val (x : Word32) : FVal := FFmt.fp32.decode x.toNat

/-- The exact product of two values; zero times infinity is NaN (R121). -/
def FVal.mul : FVal → FVal → FVal
  | .nan, _ => .nan
  | _, .nan => .nan
  | .inf a, .inf b => .inf (a != b)
  | .inf a, .fin b m _ => if m = 0 then .nan else .inf (a != b)
  | .fin a m _, .inf b => if m = 0 then .nan else .inf (a != b)
  | .fin a m e, .fin b n g => .fin (a != b) (m * n) (e + g)

/-- The exact sum of two values; +∞ and −∞ is NaN (R121). A sum of opposite values that cancels is +0. -/
def FVal.add : FVal → FVal → FVal
  | .nan, _ => .nan
  | _, .nan => .nan
  | .inf a, .inf b => if a = b then .inf a else .nan
  | .inf a, .fin _ _ _ => .inf a
  | .fin _ _ _, .inf b => .inf b
  | .fin a m e, .fin b n g =>
    let lo := if e ≤ g then e else g
    let x : Int := ((m * 2 ^ (e - lo).toNat : Nat) : Int) * (if a then -1 else 1)
    let y : Int := ((n * 2 ^ (g - lo).toNat : Nat) : Int) * (if b then -1 else 1)
    let z := x + y
    if z = 0 then .fin (a && b) 0 lo else .fin (decide (z < 0)) z.natAbs lo

/-- The negated value. -/
def FVal.neg : FVal → FVal
  | .fin n m e => .fin (!n) m e
  | .inf n => .inf (!n)
  | .nan => .nan

/-- The absolute value. -/
def FVal.abs : FVal → FVal
  | .fin _ m e => .fin false m e
  | .inf _ => .inf false
  | .nan => .nan

/-- Comparison of values that are not NaN: whether the first is below the second. -/
def FVal.lt : FVal → FVal → Bool
  | .nan, _ => false
  | _, .nan => false
  | .inf a, .inf b => a && !b
  | .inf a, .fin _ _ _ => a
  | .fin _ _ _, .inf b => !b
  | .fin a m e, .fin b n g =>
    let lo := if e ≤ g then e else g
    let x : Int := ((m * 2 ^ (e - lo).toNat : Nat) : Int) * (if a then -1 else 1)
    let y : Int := ((n * 2 ^ (g - lo).toNat : Nat) : Int) * (if b then -1 else 1)
    decide (x < y)

/-- Whether two values are equal numbers. -/
def FVal.eq (a b : FVal) : Bool := a != .nan && b != .nan && !(FVal.lt a b) && !(FVal.lt b a)

/-- fp32 addition (R121). -/
def fadd (x y : Word32) : Word32 := fp32Of (FVal.add (fp32Val x) (fp32Val y))
/-- fp32 subtraction. -/
def fsub (x y : Word32) : Word32 := fp32Of (FVal.add (fp32Val x) (FVal.neg (fp32Val y)))
/-- fp32 multiplication. -/
def fmul (x y : Word32) : Word32 := fp32Of (FVal.mul (fp32Val x) (fp32Val y))
/-- fp32 fused multiply-add, rounded once (R126). -/
def ffma (x y z : Word32) : Word32 := fp32Of (FVal.add (FVal.mul (fp32Val x) (fp32Val y)) (fp32Val z))
/-- The canonical fp32 NaN. -/
def fnan : Word32 := 0x7FC00000#32
/-- fp32 minimum: NaN when either is NaN (R131). DESIGN CHOICE (log entry 144): of zeros of both signs, which compare equal, the first. -/
def fmin (x y : Word32) : Word32 :=
  if fp32Val x = .nan ∨ fp32Val y = .nan then fnan else if FVal.lt (fp32Val y) (fp32Val x) then y else x
/-- fp32 maximum: NaN when either is NaN (R131). DESIGN CHOICE (log entry 144): of zeros of both signs, which compare equal, the first. -/
def fmax (x y : Word32) : Word32 :=
  if fp32Val x = .nan ∨ fp32Val y = .nan then fnan else if FVal.lt (fp32Val x) (fp32Val y) then y else x

/-- The nearest integer of a value, ties to even (R185): `none` for infinities and NaN. -/
def FVal.toInt : FVal → Option Int
  | .fin n m e =>
    let z : Int := if 0 ≤ e then ((m * 2 ^ e.toNat : Nat) : Int) else rshift (m : Int) (-e).toNat
    some (if n then -z else z)
  | .inf _ => none
  | .nan => none

/-- The value of an integer. -/
def FVal.ofInt (z : Int) : FVal := .fin (decide (z < 0)) z.natAbs 0

/-! ## Functions of one value (R126)

The spec bounds them to 1 ulp of the exact result and leaves the value open within it: a free pattern stands where it lies within
the bound, else the nearest. The exact result is held to more than 100 significant bits. -/

/-- The integer square root, from bit `b` down. -/
def isqrtFrom (n : Nat) : Nat → Nat → Nat
  | 0, r => r
  | b + 1, r => isqrtFrom n b (if (r + 2 ^ b) * (r + 2 ^ b) ≤ n then r + 2 ^ b else r)

/-- The integer square root. -/
def isqrt (n : Nat) : Nat := isqrtFrom n (bitLen n / 2 + 1) 0

/-- p / q as a value. -/
def ratVal (p q : Nat) : FVal := .fin false (p * 2 ^ 400 / q) (-400)

/-- The square root of p / q as a value. -/
def sqrtVal (p q : Nat) : FVal := .fin false (isqrt (p * 2 ^ 600 / q)) (-300)

/-- A number of 2^-160 that e^y is, for `y` of 2^-160: the first `n` terms of its series. -/
def expSeries (y : Nat) : Nat → Nat → Nat → Nat
  | 0, _, _ => 0
  | n + 1, k, term => term + expSeries y n (k + 1) (term * y / 2 ^ 160 / (k + 1))

/-- ln 2, in units of 2^-160. -/
def ln2 : Nat := 0xB17217F7D1CF79ABC9E3B39803F2F6AF40F34326

/-- 2^x for a number `z` of 2^-160. -/
def exp2Val (z : Int) : FVal :=
  let one : Int := ((2 ^ 160 : Nat) : Int)
  let f := (z % one).toNat
  .fin false (expSeries (f * ln2 / 2 ^ 160) 60 0 (2 ^ 160)) (z / one - 160)

/-- The first `n` binary digits of the base-2 logarithm of a number `w` of 2^-256 that lies in [1, 2). -/
def log2Digits : Nat → Nat → Nat → Nat
  | 0, _, acc => acc
  | n + 1, w, acc =>
    let v := w * w / 2 ^ 256
    if 2 ^ 257 ≤ v then log2Digits n (v / 2) (2 * acc + 1) else log2Digits n v (2 * acc)

/-- The base-2 logarithm of m * 2^e, m above 0. -/
def log2Val (m : Nat) (e : Int) : FVal :=
  let l := bitLen m - 1
  let z := (e + l) * ((2 ^ 120 : Nat) : Int) + (log2Digits 120 (m * 2 ^ 256 / 2 ^ l) 0 : Int)
  .fin (decide (z < 0)) z.natAbs (-120)

/-- The one-operand functions of R126. -/
inductive FloatFn where
  | exp2 | log2 | recip | rsqrt
deriving DecidableEq, Repr

/-- The exact result of a function at an fp32, where it has a finite one. -/
def FloatFn.exact (f : FloatFn) (x : Word32) : Option FVal :=
  match f, fp32Val x with
  | .exp2, .fin n m e =>
    if 10 < e + bitLen m then some (if n then .fin false 1 (-1000) else .fin false 1 1000)
    else
      let z : Int := ((m * 2 ^ (e + 160).toNat : Nat) : Int)
      some (exp2Val (if n then -z else z))
  | .log2, .fin n m e => if n ∨ m = 0 then none else some (log2Val m e)
  | .recip, .fin n m e =>
    if m = 0 then none
    else match ratVal 1 m with
      | .fin _ p g => some (.fin n p (g - e))
      | v => some v
  | .rsqrt, .fin n m e =>
    if n ∨ m = 0 then none
    else if 0 ≤ e then some (sqrtVal 1 (m * 2 ^ e.toNat)) else some (sqrtVal (2 ^ (-e).toNat) m)
  | _, _ => none

/-- Whether an fp32 pattern lies within 1 ulp of a value. -/
def withinUlp (v : FVal) (c : Word32) : Bool :=
  match v, fp32Val c with
  | .fin n m e, .fin n' m' e' =>
    let t0 : Int := e + bitLen m - 1 - 23
    let t := if t0 < -149 then -149 else t0
    !FVal.lt (.fin false (2 ^ 60 + 1) (t - 60)) (FVal.add (.fin n' m' e') (.fin (!n) m e)).abs
  | v, _ => c == fp32Of v

/-- A result within 1 ulp of the exact one: the free pattern where it is such a result, else the nearest; where there is no exact one,
the free pattern. -/
def oneUlp (free : Word32) (exact : Option FVal) : Word32 :=
  match exact with
  | none => free
  | some v => if withinUlp v free then free else fp32Of v

/-- R126: a one-operand function: NaN for a NaN; where no finite result exists (the logarithm of 0, an infinite operand) the spec states
none, and it is free. -/
def FloatFn.eval (f : FloatFn) (x : Word32) : Word32 :=
  if fp32Val x = .nan then fnan
  else oneUlp (match f with
    | .exp2 => Config.exp2 x
    | .log2 => Config.log2 x
    | .recip => Config.recip x
    | .rsqrt => Config.rsqrt x) (f.exact x)

end Sys2Proof.Machine
end

