-- ==== Sys2Proof/Machine/Operands.lean ====
section
/-! DEFINITION. Operand forms: line references, element formats and conversions (R162, R182 to R185), tensor descriptors (R160 to
R168), placement maps, row-op lists, batch lists, chain stages (R103, R140, R141, R211). -/

namespace Sys2Proof.Machine

open Sys2Proof

/-! ## Line references (R137) -/

/-- R137: the DPA that a line reference names. -/
def lineDpa (ref : Nat) : Nat := 64 * bits ref 0 35
/-- R137 `COUNT`. -/
def lineCount (ref : Nat) : Nat := bits ref 48 16
/-- R137: the reserved bits of a line reference are zero; `COUNT` too, where the operation table names none. -/
def lineOk (ref : Nat) (counted : Bool) : Bool := bits ref 35 13 == 0 && (counted || lineCount ref == 0)

/-! ## Element formats (R162) -/

/-- R162: the bits of an element of a format; 0 for a code that names none. -/
def fmtBits : Nat → Nat
  | 0x00 => 4
  | 0x01 => 8
  | 0x02 => 8
  | 0x03 => 16
  | 0x04 => 32
  | 0x05 => 64
  | 0x08 => 8
  | 0x09 => 8
  | 0x0A => 16
  | 0x0B => 32
  | _ => 0

/-- R183: the float format that a code names. -/
def fmtFloat : Nat → Option FFmt
  | 0x08 => some .e4m3
  | 0x09 => some .e5m2
  | 0x0A => some .bf16
  | 0x0B => some .fp32
  | _ => none

/-- Whether a format code names an integer format. -/
def fmtInt (f : Nat) : Bool := decide (f ≤ 5)

/-- R182: the range of an integer format. -/
def fmtRange (f : Nat) : Int × Int :=
  if f = 2 then (0, 255)
  else
    let h : Int := ((2 ^ (fmtBits f - 1) : Nat) : Int)
    (-h, h - 1)

/-- The value of an element's pattern in a format (R182, R183). -/
def decodeElem (f pat : Nat) : Val :=
  match fmtFloat f with
  | some ff => .flt (fp32Of (ff.decode pat))
  | none => .int (if f = 2 then ((pat % 256 : Nat) : Int) else toSigned (fmtBits f) pat)

/-- R185: a float value as a pattern of a float format, and whether it is counted as a saturation. -/
def FFmt.store (ff : FFmt) (v : FVal) : Nat × Bool :=
  let sign (n : Bool) : Nat := if n then 2 ^ (ff.mb + ff.eb) else 0
  match v with
  | .nan => (ff.nanBits, false)
  | .inf n => (sign n + ff.infBits, !ff.hasInf)
  | .fin n m e => if ff.above m e then (sign n + ff.maxBits, true) else (ff.round false n m e, false)

/-- R185: an integer limited to an integer format, as a pattern, and whether it is counted. -/
def storeInt (f : Nat) (z : Int) : Nat × Bool :=
  let r := satTo (fmtRange f).1 (fmtRange f).2 z
  (ofSigned (fmtBits f) r.1, r.2)

/-- R185: a float value to an integer format: infinities give the range limit, NaN gives 0, all counted. -/
def storeFltInt (f : Nat) (v : FVal) : Nat × Bool :=
  match v.toInt with
  | some z => storeInt f z
  | none =>
    match v with
    | .inf true => (ofSigned (fmtBits f) (fmtRange f).1, true)
    | .inf false => (ofSigned (fmtBits f) (fmtRange f).2, true)
    | _ => (0, true)

/-- R185: the pattern of a value in a format, and whether the conversion is counted as a saturation. -/
def encodeElem (f : Nat) (v : Val) : Nat × Bool :=
  match fmtFloat f, v with
  | some ff, .int z => ff.store (FVal.ofInt z)
  | some ff, .flt x => ff.store (fp32Val x)
  | none, .int z => storeInt f z
  | none, .flt x => storeFltInt f (fp32Val x)

/-- R185: a value as an fp32. -/
def Val.toFlt (v : Val) : Word32 :=
  match v with
  | .int z => BitVec.ofNat 32 (FFmt.fp32.store (FVal.ofInt z)).1
  | .flt x => x

/-- The integer of a value; of an fp32 the nearest integer, 0 where there is none. -/
def Val.toInt (v : Val) : Int :=
  match v with
  | .int z => z
  | .flt x => (fp32Val x).toInt.getD 0

/-! ## Tensor descriptors (R160 to R168) -/

/-- R160 `NDIMS` of a descriptor image. -/
def descDims (x : Nat) : Nat := bits x 6 3

/-- R160: the descriptor that an image of 128 bytes at a DPA spells. -/
def Desc.parse (at_ x : Nat) : Desc :=
  let n := descDims x
  { at_
    fmt := bits x 0 6
    scaled := bit x 9
    group := bits x 10 2
    scaleFmt := bits x 12 2
    base := bits x 64 41
    ext := (List.range n).map fun i => bits x (128 + 32 * i) 32
    stride := (List.range n).map fun i => toSigned 64 (bits x (320 + 64 * i) 64)
    scaleRef := bits x 704 64
    outIdx := bits x 768 64
    outCount := lineCount (bits x 768 64)
    outData := bits x 832 64 }

/-- R7, R160, R161: a reserved field of a descriptor image is not zero. -/
def descReserved (x : Nat) : Bool :=
  let n := descDims x
  let unscaled := !bit x 9
  bits x 14 18 != 0 || bits x 32 32 != 0 || bits x 105 23 != 0
    || (List.range 6).any (fun i => decide (n ≤ i) && (bits x (128 + 32 * i) 32 != 0 || bits x (320 + 64 * i) 64 != 0))
    || (unscaled && (bits x 10 4 != 0 || bits x 704 64 != 0))
    || !lineOk (bits x 704 64) false || !lineOk (bits x 768 64) true || !lineOk (bits x 832 64) false
    || bits x 896 128 != 0

/-- R160, R162, R166: a field of a descriptor image has no meaningful clamp. -/
def descRange (x : Nat) : Bool :=
  let n := descDims x
  n == 0 || n == 7 || fmtBits (bits x 0 6) == 0
    || (bit x 9 && (bits x 12 2 == 3 || bits x 704 64 == 0))
    || ((bits x 768 64 == 0) != (bits x 832 64 == 0))

/-- R160: the elements of a scale group. -/
def groupSize (g : Nat) : Nat := [64, 128, 256, 2048].getD g 64
/-- R160: the element format of a scale array. -/
def scaleFmtCode (f : Nat) : Nat := if f = 0 then 3 else if f = 1 then 0x0A else 0x0B

/-- R163: the element offset of an index. -/
def Desc.off (d : Desc) (ix : List Nat) : Int := (List.zipWith (fun (i : Nat) (st : Int) => (i : Int) * st) ix d.stride).sum

/-- R163: the DPA of the (first) byte of the element at an element offset, as an integer. -/
def Desc.addr (d : Desc) (n : Int) : Int :=
  if d.fmt = 0 then (d.base : Int) + n / 2 else (d.base : Int) + n * ((fmtBits d.fmt / 8 : Nat) : Int)

/-- The number of elements of an extent list. -/
def elems (ext : List Nat) : Nat := prodNat ext

/-- The index with number `n` in an extent list, dimension 0 counting fastest. -/
def indexOf : List Nat → Nat → List Nat
  | [], _ => []
  | e :: r, n => (n % e) :: indexOf r (n / e)

/-- The number of an index in an extent list. -/
def indexNum : List Nat → List Nat → Nat
  | [], _ => 0
  | _, [] => 0
  | e :: r, i :: s => i + e * indexNum r s

/-- R167: the lowest and highest DPA that a descriptor touches over an extent; `none` for no elements. -/
def Desc.span (d : Desc) (ext : List Nat) : Option (Int × Int) :=
  if elems ext = 0 then none
  else
    let ends := List.zipWith (fun (e : Nat) (st : Int) => ((e : Int) - 1) * st) ext d.stride
    let lo := (ends.map fun z => if z < 0 then z else 0).sum
    let hi := (ends.map fun z => if 0 < z then z else 0).sum
    some (d.addr lo, d.addr hi + (if d.fmt = 0 then 0 else ((fmtBits d.fmt / 8 : Nat) : Int) - 1))

/-- Insert a dimension in ascending order of the magnitude of its stride. -/
def insertDim (x : Nat × Nat) : List (Nat × Nat) → List (Nat × Nat)
  | [] => [x]
  | y :: r => if x.1 < y.1 then x :: y :: r else y :: insertDim x r

/-- R168: the aliasing test, over dimensions (magnitude of stride, extent) in ascending order. -/
def aliasedFrom : Nat → List (Nat × Nat) → Bool
  | _, [] => false
  | span, (st, e) :: r => decide (st < span) || aliasedFrom (span + st * (e - 1)) r

/-- R168: whether a destination is judged aliased. -/
def Desc.aliased (d : Desc) : Bool :=
  let dims := (List.zip (d.stride.map Int.natAbs) d.ext).filter fun x => decide (1 < x.2)
  dims.any (fun x => x.1 == 0) || aliasedFrom 1 (dims.foldl (fun l x => insertDim x l) [])

/-- R164: an int4 destination that is not made of whole bytes. DESIGN CHOICE (log entry 144): R164 is taken at its word for a dimension of
extent 1 too, whose stride R167 otherwise ignores. -/
def Desc.badInt4 (d : Desc) : Bool :=
  d.fmt == 0 && (d.stride.head? != some 1 || d.ext.headD 0 % 2 == 1 || d.stride.tail.any fun z => z % 2 != 0)

/-- R174: bank-level alignment: the base and every byte stride on a dimension of extent above 1 a multiple of 32; but where
dimension 0 is packed (stride 1) its bytes are a multiple of 32. -/
def Desc.bankAligned (d : Desc) : Bool :=
  let sz := fmtBits d.fmt
  let dimOk (i : Nat) (e : Nat) (st : Int) : Bool :=
    e ≤ 1 || (if i = 0 ∧ st = 1 then e * sz % 256 == 0 else st * (sz : Int) % 256 == 0)
  d.base % 32 == 0 &&
    ((List.zip d.ext d.stride).zipIdx).all fun x => dimOk x.2 x.1.1 x.1.2

/-- R172, R173: whether two descriptors name the same bytes element for element. -/
def Desc.same (a b : Desc) : Bool :=
  a.base == b.base && a.fmt == b.fmt && a.ext == b.ext && a.stride == b.stride

/-- R165: the index of an element's scale in the scale array. -/
def Desc.scaleIdx (d : Desc) (ix : List Nat) : Nat :=
  let g := groupSize d.group
  let c := ceilDiv (d.ext.headD 0) g
  indexNum d.ext.tail ix.tail * c + ix.headD 0 / g

/-- R165: the bytes of the scale array. -/
def Desc.scaleBytes (d : Desc) : Nat :=
  ceilDiv (d.ext.headD 0) (groupSize d.group) * elems d.ext.tail * (fmtBits (scaleFmtCode d.scaleFmt) / 8)

/-! ## Placement maps and row-op lists (R82, R84, R103, R104, R141) -/

/-- R103: a placement-map entry of 16 bytes. -/
def mapEntryOf (x : Nat) : MapEntry :=
  { rowOp := BitVec.ofNat 16 x, unit := bits x 16 4, window := bits x 32 11, nrows := bits x 48 16
    outFirst := bits x 64 32, kslice := bits x 96 16 }

/-- R103: a reserved bit of a map entry is not zero. -/
def mapReserved (x : Nat) : Bool := bits x 20 12 != 0 || bits x 43 5 != 0 || bits x 112 16 != 0

/-- R141: a row-op list entry of 16 bytes. -/
def rowEntryOf (x : Nat) : RowEntry :=
  { d := BitVec.ofNat 16 x, x := BitVec.ofNat 16 (bits x 16 16), y := BitVec.ofNat 16 (bits x 32 16), nrows := bits x 48 16
    window := bits x 64 11, unit := bits x 80 4, vec := bits x 96 8 }

/-- R141: a reserved bit of a row-op entry is not zero. DESIGN CHOICE (log entry 92): `VEC`, which only `MEM_NORM` uses, is not reserved in a
list of another operation. -/
def rowReserved (x : Nat) : Bool := bits x 75 5 != 0 || bits x 84 12 != 0 || bits x 104 24 != 0

/-- R82: the row operand of weight row `i` of a sweep: the banks alternate. -/
def sweepRow (w : BitVec 16) (i : Nat) : BitVec 16 :=
  let bsel := (w.getLsbD 15) != (i % 2 == 1)
  BitVec.ofNat 16 ((rowNum w + i / 2) % 32768 + if bsel then 32768 else 0)

/-- R84, R141: the row operand advanced by `i` in pair-linear order. -/
def advanceRow (r : BitVec 16) (i : Nat) : BitVec 16 := ofPairLinear (pairLinear r + i)

/-- R14, R40: the global sorus number that a window and a unit number name. -/
def unitOf (l : Layout) (window unit : Nat) : Nat := 16 * l.localPc 4 0 (window - l.first) + unit

/-- The 32 physical columns of the row that a row operand of a unit names. -/
def rowCols (su : Nat) (r : BitVec 16) : List Nat := (List.range 32).map fun c => rowCol su r c

/-- R67: the row operand of the scale row of a weight row, and the column of its scales. -/
def scaleRowOf (w : BitVec 16) : BitVec 16 × Nat :=
  (BitVec.ofNat 16 (31744 + rowNum w / 32 + if w.getLsbD 15 then 32768 else 0), rowNum w % 32)

/-- The DPAs, lowest and highest byte, that a run of rows of a unit spans: `f i` is the row operand of its row i. -/
def runSpan (l : Layout) (su n : Nat) (f : Nat → BitVec 16) : Nat × Nat :=
  let starts := (List.range n).map fun i => l.dpaOf (rowCol su (f i) 0)
  (starts.foldl Nat.min (starts.headD 0), starts.foldl Nat.max 0 + 1023)

/-! ## Chain stages (R140) -/

/-- R140: the fields of a stage: `STAGE_OP`, `SRC`, `ARG`. -/
structure Stage where
  op : Nat
  src : Nat
  arg : Nat
deriving DecidableEq, Repr

/-- R140: a stage of 16 bits. -/
def stageOf (x : Nat) : Stage := { op := bits x 0 6, src := bits x 6 3, arg := bits x 9 7 }

/-- R140: whether a code names a stage operation. -/
def stageOpOk (op : Nat) : Bool :=
  op ≤ 0x08 || (0x10 ≤ op && op ≤ 0x16) || op == 0x18 || (0x20 ≤ op && op ≤ 0x26) || op == 0x28
    || (0x30 ≤ op && op ≤ 0x3C) || op == 0x3F

/-- R140: the stages whose `ARG` is a shift. -/
def stageShifts (op : Nat) : Bool := [0x14, 0x15, 0x16, 0x18].contains op
/-- The stages that take a further operand from `SRC`. -/
def stageBinary (op : Nat) : Bool :=
  [0x00, 0x01, 0x02, 0x04, 0x05, 0x10, 0x11, 0x12, 0x18, 0x20, 0x21, 0x22, 0x23, 0x24, 0x25, 0x26, 0x30, 0x31, 0x32, 0x34,
   0x35].contains op
/-- R140: the stages that take two immediates: multiply-add and clamp. -/
def stagePair (op : Nat) : Bool := [0x03, 0x08, 0x33, 0x38].contains op

/-- R125, R140: the type (format code) of the running value after a stage; `none` when the stage's class does not accept its
type before. -/
def stageType (st : Stage) (ty : Nat) : Option Nat :=
  if st.op ≤ 0x16 then (if ty = 1 ∨ ty = 3 ∨ ty = 4 then some ty else none)
  else if st.op = 0x18 then (if ty = 4 then some 4 else none)
  else if st.op ≤ 0x26 then some ty
  else if st.op = 0x28 then (if ty = 1 then some 1 else none)
  else if st.op ≤ 0x38 then (if (fmtFloat ty).isSome then some 0x0B else none)
  else if st.op ≤ 0x3C then (if ty = 0x0B then some 0x0B else none)
  else if fmtBits st.arg = 0 ∨ st.arg = 5 then none else some st.arg

/-- The type of the running value through a chain; `none` when a stage does not accept it. -/
def chainType : List Stage → Nat → Option Nat
  | [], ty => some ty
  | st :: r, ty =>
    match stageType st ty with
    | some t => chainType r t
    | none => none

/-- R125: the type in which an element enters a chain: the narrow integers widen to a lane, bf16 and FP8 to fp32. -/
def entryType (f : Nat) : Nat :=
  if f = 0 then 1 else if f = 2 then 3 else if (fmtFloat f).isSome then 0x0B else f

/-- The running value of a chain: the value, the chain mask, saturations counted so far. DESIGN CHOICE (log entry 144): the chain mask
is clear at the start of a chain. -/
structure Running where
  v : Val
  mask : Bool := false
  sat : Nat := 0
deriving DecidableEq, Repr

/-- The bits of two's complement that hold both of two integers. -/
def bothBits (x y : Int) : Nat := Nat.log2 (Nat.max x.natAbs y.natAbs) + 2

/-- R126: bitwise operations on exact integers, in two's complement of a width that holds both. -/
def bitwise (f : Nat → Nat → Nat) (x y : Int) : Int :=
  toSigned (bothBits x y) (f (ofSigned (bothBits x y) x) (ofSigned (bothBits x y) y))

/-- R125: an integer stage on exact integers. -/
def intStage (op arg : Nat) (x y z : Int) : Int :=
  match op with
  | 0x00 => x + y
  | 0x01 => x - y
  | 0x02 => x * y
  | 0x03 => x * y + z
  | 0x04 => if y < x then y else x
  | 0x05 => if x < y then y else x
  | 0x06 => (x.natAbs : Int)
  | 0x07 => -x
  | 0x08 =>
    let m := if x < y then y else x
    if z < m then z else m
  | 0x10 => bitwise (· &&& ·) x y
  | 0x11 => bitwise (· ||| ·) x y
  | 0x12 => bitwise (· ^^^ ·) x y
  | 0x13 => -x - 1
  | 0x14 => x * ((2 ^ arg : Nat) : Int)
  | 0x15 => x / ((2 ^ arg : Nat) : Int)
  | _ => rshift x arg

/-- R126: a float stage on fp32. -/
def fltStage (op : Nat) (x y z : Word32) : Word32 :=
  match op with
  | 0x30 => fadd x y
  | 0x31 => fsub x y
  | 0x32 => fmul x y
  | 0x33 => ffma x y z
  | 0x34 => fmin x y
  | 0x35 => fmax x y
  | 0x36 => fp32Of (fp32Val x).abs
  | 0x37 => fp32Of (fp32Val x).neg
  | 0x38 => fmin (fmax x y) z
  | 0x39 => FloatFn.exp2.eval x
  | 0x3A => FloatFn.log2.eval x
  | 0x3B => FloatFn.recip.eval x
  | _ => FloatFn.rsqrt.eval x

/-- R125: a compare of two values of one type: integers exactly, floats as values (NaN is unequal to all). -/
def compareStage (op : Nat) (x y : Val) : Bool :=
  let (lt, eq, un) := match x, y with
    | .int a, .int b => (decide (a < b), decide (a = b), false)
    | a, b =>
      let p := fp32Val a.toFlt
      let q := fp32Val b.toFlt
      (FVal.lt p q, FVal.eq p q, p == .nan || q == .nan)
  match op with
  | 0x20 => eq
  | 0x21 => !eq
  | 0x22 => lt
  | 0x23 => lt || eq
  | 0x24 => !un && !lt && !eq
  | _ => !un && !lt

/-- R125, R126, R140, R188: one stage applied to a running value, `y` and `z` its further operands, `table` the lookup
table. DESIGN CHOICE (log entry 122): the index of a lookup is the running value modulo 256. -/
def stageEval (op arg : Nat) (y z : Val) (table : Nat → Byte) (r : Running) : Running :=
  if op ≤ 0x16 then { r with v := .int (intStage op arg r.v.toInt y.toInt z.toInt) }
  else if op = 0x18 then
    let q := satS 32 (rshift (r.v.toInt * y.toInt) arg)
    { r with v := .int q.1, sat := r.sat + if q.2 then 1 else 0 }
  else if op ≤ 0x25 then { r with mask := compareStage op r.v y }
  else if op = 0x26 then (if r.mask then r else { r with v := y })
  else if op = 0x28 then { r with v := .int (toSigned 8 (table (ofSigned 8 r.v.toInt)).toNat) }
  else if op ≤ 0x3C then { r with v := .flt (fltStage op r.v.toFlt y.toFlt z.toFlt) }
  else
    let q := encodeElem arg r.v
    { r with v := decodeElem arg q.1, sat := r.sat + if q.2 then 1 else 0 }

/-! ## Batch lists (R211) -/

/-- R211: a batch-list entry: stream and advance. -/
def batchEntry (x : Nat) : Nat × Nat := (bits x 0 13, bits x 16 8)
/-- R211: a reserved bit of a batch-list entry is not zero. -/
def batchReserved (x : Nat) : Bool := bits x 13 3 != 0 || bits x 24 8 != 0

end Sys2Proof.Machine
end

