-- ==== Sys2Proof/Machine/Complete.lean ====
section
/-! DEFINITION. Records in flight: their fields, their completion (R159, R212, R226, R360, R361) and cancellation (R215). -/

namespace Sys2Proof.Machine

open Sys2Proof

/-! ## Record fields (R136) -/

/-- A field of a record: byte offset and width in bits. -/
def Rec.fld (r : Rec) (off w : Nat) : Nat := bits r.raw.toNat (8 * off) w
/-- R136 `OPCODE`. -/
def Rec.op (r : Rec) : Nat := r.fld 0 8
/-- R136 `VARIANT`. -/
def Rec.variant (r : Rec) : Nat := bits r.raw.toNat 8 4
/-- R136 `SPORE_EN`. -/
def Rec.spore (r : Rec) : Bool := r.raw.getLsbD 12
/-- R136 `ACCUM`. -/
def Rec.accum (r : Rec) : Bool := r.raw.getLsbD 13
/-- R136 `FENCE`. -/
def Rec.fence (r : Rec) : Bool := r.raw.getLsbD 14
/-- R136 `SAT_LIMIT`. -/
def Rec.satLimit (r : Rec) : Nat := bits r.raw.toNat 16 8
/-- R136: the flags of the wait list. -/
def Rec.waits (r : Rec) : List Nat :=
  (List.range (Nat.min 4 (bits r.raw.toNat 24 3))).map fun i => r.fld (4 + 2 * i) 16
/-- R136: the flags of the signal list. -/
def Rec.signals (r : Rec) : List Nat :=
  (List.range (Nat.min 4 (bits r.raw.toNat 27 3))).map fun i => r.fld (12 + 2 * i) 16
/-- R136 `FROND_MASK`. -/
def Rec.frondMask (r : Rec) : Nat := r.fld 0x2C 4

/-- Whether an operation runs its row work in the banks: the `MEM_*` records, and `GEMV_MEM` on the in-bank engine. -/
def Rec.inBank (r : Rec) : Bool :=
  r.op == 0x11 || r.op == 0x12 || r.op == 0x13 || (r.op == 0x10 && r.engine == 1)

/-- The global sorus units that a record's map or list entries run on. -/
def Rec.unitsOf (l : Layout) (r : Rec) : List Nat :=
  dedup ((r.mapE.map fun e => 16 * l.localPc 4 0 (e.window - l.first) + e.unit)
    ++ (r.rowE.map fun e => 16 * l.localPc 4 0 (e.window - l.first) + e.unit))

/-- R169: an aliased destination under `ACCUM`, or a `SCATTER_ADD`'s: its record runs on DMA engines. -/
def Rec.aliasRun (r : Rec) : Bool :=
  match r.descs.headD none with
  | some d => d.aliased && (r.op == 0x33 || (r.accum && (r.op == 0x30 || r.op == 0x32 || r.op == 0x20)))
  | none => false

/-! ## Actual lengths (R145) -/

/-- R145: the lengths that a source gives: one for mode 1, one per batch member for mode 2. -/
def Rec.lens (r : Rec) (i : Nat) : List Nat := if i = 0 then r.posA else r.posB
/-- R145: the byte offset of a length source. -/
def lenOff (i : Nat) : Nat := if i = 0 then 0x24 else 0x28
/-- R145: the mode, operand and dimension of a length source. -/
def Rec.lenMode (r : Rec) (i : Nat) : Nat := r.fld (lenOff i) 3
/-- R145 `OPND`. -/
def Rec.lenOpnd (r : Rec) (i : Nat) : Nat := bits r.raw.toNat (8 * lenOff i + 3) 2
/-- R145 `DIM`. -/
def Rec.lenDim (r : Rec) (i : Nat) : Nat := bits r.raw.toNat (8 * lenOff i + 5) 3

/-- R145: the actual extents of an operand: the longest length where a source limits it for each batch member. -/
def Rec.actual (r : Rec) (slot : Nat) (ext : List Nat) : List Nat :=
  [0, 1].foldl (fun (e : List Nat) i =>
    if r.lenMode i ≠ 0 ∧ r.lenOpnd i = slot then
      setAt e (r.lenDim i) (Nat.min (e.getD (r.lenDim i) 0) ((r.lens i).foldl Nat.max 0))
    else e) ext

/-- R145: whether an element of an operand lies within its actual extent for batch member `b`. -/
def Rec.within (r : Rec) (slot b : Nat) (ix : List Nat) : Bool :=
  [0, 1].all fun i =>
    if r.lenMode i ≠ 0 ∧ r.lenOpnd i = slot then
      decide (ix.getD (r.lenDim i) 0 < if r.lenMode i = 1 then (r.lens i).headD 0 else (r.lens i).getD b 0)
    else true

/-! ## Fronds -/

/-- R172: a `COPY` or `PERMUTE` whose source and destination ranges share a byte is staged. -/
def Rec.staged (r : Rec) : Bool :=
  (r.op == 0x30 || r.op == 0x31) && (match r.descs.getD 0 none, r.descs.getD 1 none with
    | some d, some a => (match d.span (r.actual 0 d.ext), a.span (r.actual 1 a.ext) with
      | some (l, h), some (l', h') => decide (l ≤ h') && decide (l' ≤ h)
      | _, _ => false)
    | _, _ => false)

/-- R172: the bytes that a staged copy holds in its frond's shared memory. -/
def Rec.stageBytes (r : Rec) : Nat :=
  match r.staged, r.descs.getD 1 none with
  | true, some a => (prodNat a.ext * fmtBits a.fmt + 7) / 8
  | _, _ => 0

/-- The fronds that a record works on: those of its units for in-bank work, all for a broadcast, the lowest of its `FROND_MASK`
for a staged copy or an aliased destination (R169, R172), else its `FROND_MASK`. -/
def Rec.fronds (l : Layout) (r : Rec) : List Nat :=
  if r.inBank then
    if r.op = 0x11 ∧ r.variant ≥ 8 then [0, 1, 2, 3]
    else dedup ((r.unitsOf l).map fun u => u / 8192)
  else
    let fs := (List.range 4).filter fun f => r.frondMask.testBit f
    if r.staged || r.aliasRun then fs.take 1 else fs

/-- R111, R172: the bytes of a frond's shared memory that stream tail buffers hold. -/
def State.tailBytes (s : State) (f : Nat) : Nat := sumNat ((s.frond f).tails.map fun e => sumNat (e.2.map List.length))

/-- A record in flight, by queue and sequence. -/
def State.findRec (s : State) (q : Nat) (seq : Word32) : Option Rec := s.recs.find? fun r => r.q == q && r.seq == seq

/-- Replace a record in flight. -/
def State.setRec (s : State) (r : Rec) : State :=
  { s with recs := s.recs.map fun x => if x.q = r.q ∧ x.seq = r.seq then r else x }

/-- Note a failure status of a record, with the unit that failed. -/
def Rec.failWith (r : Rec) (code unit : Nat) : Rec := { r with codes := r.codes ++ [(code, unit)] }

/-- R360: the status and unit with which a record completes; without a failure the unit is what a broadcast has skipped (R86). -/
def Rec.final (r : Rec) : Nat × Nat :=
  match worst r.codes with
  | some e => e
  | none =>
    if r.pass = 2 then (Status.okWidened, r.skipUnit)
    else if r.spilled then (Status.okSpilled, r.skipUnit)
    else if r.empty then (Status.okEmpty, r.skipUnit)
    else if 0 < r.clamps then (Status.okClamped, r.skipUnit)
    else (Status.ok, r.skipUnit)

/-! ## Completion -/

/-- R361: a completion record, as one little-endian number of 32 bytes. -/
def cqRecord (seq : Word32) (q status clamps time op ctx unit ev : Nat) : Nat :=
  seq.toNat + q * 2 ^ 32 + status * 2 ^ 48 + Nat.min 255 clamps * 2 ^ 56 + time * 2 ^ 64 + op * 2 ^ 128 + ctx * 2 ^ 136
    + unit * 2 ^ 160 + ev * 2 ^ 192

/-- R208, R361: a completion record goes to the queue's completion ring, as an ordinary write of the column there; `CQ_TAIL` advances. -/
def State.cqPut (s : State) (q : Nat) (seq : Word32) (status clamps op unit ev : Nat) : State :=
  let qu := s.queue q
  let at_ := qu.cqRing + 32 * (qu.cqTail.toNat % qu.entries)
  let rec_ := BitVec.ofNat 256 (cqRecord seq q status clamps s.time.now op qu.ctx unit ev)
  let s := s.send rachis (.write .sequencer (s.lay.colOf at_) rec_ false)
  s.setQueue q { s.queue q with cqTail := qu.cqTail + 1 }

/-- R212: the streams of a record's batch list advance. -/
def State.advanceStreams (s : State) (r : Rec) : State :=
  r.batch.foldl (fun s e =>
    if e.2 = 0 then s
    else
      let t := s.stream e.1
      s.setStream e.1 { t with pos := t.pos + BitVec.ofNat 32 e.2, lastSeq := r.seq, lastQueue := BitVec.ofNat 16 r.q }) s

/-- The global barrier that a `BARRIER` record names (R230). -/
def State.barOf (s : State) (r : Rec) : Nat := (s.ctx r.ctx).barBase + bits r.raw.toNat (8 * 0x40) 12

/-- Forget what a record leaves in the machine besides its queue: its scoreboard entry, sums and maxima, pre-images and its place
among a barrier's waiters. -/
def State.dropRec (s : State) (r : Rec) : State :=
  let s := { s with recs := s.recs.filter fun x => !(x.q == r.q && x.seq == r.seq) }
  let s := [0, 1, 2, 3].foldl (fun (s : State) f =>
    let fr := s.frond f
    s.setFrond f { fr with
      sums := fr.sums.filter fun e => !(e.1 == r.q && e.2.1 == r.seq)
      maxima := fr.maxima.filter fun e => !(e.1 == r.q && e.2.1 == r.seq)
      preImages := fr.preImages.filter fun e => !(e.q == r.q && e.seq == r.seq)
      heldDone := fr.heldDone.filter fun e => !(e.1 == r.q && e.2 == r.seq) }) s
  if r.op = 0x52 then
    let b := s.barOf r
    let bar := s.bar b
    s.setBar b { bar with waiters := bar.waiters.filter fun w => !(w.1 == r.q && w.2.1 == r.seq) }
  else s

/-- R159, R212, R226: complete a record: its entry leaves the scoreboards, its streams advance, its signal list is set (a
`FLAG_SET` has set its own), its completion record is written when `cq`. -/
def State.retire (s : State) (r : Rec) (cq : Bool) : State :=
  let (st, unit) := r.final
  let s := s.dropRec r
  let s := if st < 0x10 then s.advanceStreams r else s
  let s := if st < 0x10 ∧ r.op ≠ 0x50 then s.putFlags r.ctx true r.signals else s
  let s := if cq then s.cqPut r.q r.seq st r.clamps r.op unit r.evSeq else s
  s.active r.ctx

/-! ## Messages to other members (R346, R348, R350) -/

/-- The members of the module's group as a list of numbers. -/
def memberList (m : BitVec 16) : List Nat := (List.range 16).filter fun i => m.getLsbD i

/-- R350: the directions, in order of preference, from this member to another: x first, then y, the way round first that is
shorter. -/
def directions (me m : Nat) : List Nat :=
  let dx := (m % 4 + 4 - me % 4) % 4
  let dy := (m / 4 + 4 - me / 4) % 4
  if dx = 3 then [1, 0] else if dx ≠ 0 then [0, 1] else if dy = 3 then [3, 2] else if dy ≠ 0 then [2, 3] else []

/-- R350: the port that traffic to a member takes: a trained port of the first direction that has one. -/
def State.portTo (s : State) (m : Nat) : Option Nat :=
  ((directions s.group.member m).map fun d => [2 * d, 2 * d + 1]).flatten.find? fun n => (s.rport n).up

/-- R348: a port sends the oldest control flits that wait, each against a credit; it keeps each until it is acknowledged. -/
def RPort.sendHeld (p : RPort) : RPort :=
  let k := Nat.min p.heldC p.credC
  { p with heldC := p.heldC - k, credC := p.credC - k, txSeq := p.txSeq + BitVec.ofNat 12 k
           unacked := p.unacked ++ (List.range k).map fun i => (p.txSeq + BitVec.ofNat 12 i, true) }

/-- R348, R349: send a control flit on a port; without a credit, and while the port retrains, it waits. -/
def State.sendControl (s : State) (n : Nat) : State :=
  let p := s.rport n
  if p.up then
    let p := { p with heldC := p.heldC + 1 }
    s.setRPort n (if p.retraining then p else p.sendHeld)
  else s

/-- Send a message to the other members of a set that have a route: it leaves the module, one control flit to each of them. -/
def State.tellMembers (s : State) (ms : BitVec 16) (o : Out) : State :=
  let ports := ((memberList ms).filter (· != s.group.member)).filterMap s.portTo
  ports.foldl State.sendControl (if ports.isEmpty then s else s.emit o)

/-- R354: a cancelled `COLLECTIVE` that has passed decode sends a cancel for its count. -/
def State.cancelSent (s : State) (r : Rec) : State :=
  if r.op = 0x40 then
    let m := BitVec.ofNat 16 (r.fld 0x42 16)
    s.tellMembers m (.collCancel r.q m r.collK)
  else s

/-- R196: a record that counted saturations makes an event-log entry with both counts. -/
def State.logSat (s : State) (r : Rec) : State × Rec :=
  if r.satFirst + r.sat = 0 then (s, r)
  else
    let (a, b) := if r.pass = 2 then (r.satFirst, r.sat) else (r.sat, 0)
    let s := s.ev 0x02 0 0 (qseq r.q r.seq) a b r.produced
    (s, { r with evSeq := if r.evSeq = 0 then s.evNewest else r.evSeq })

/-- R196: a record in flight ends with a status; the saturations that it has counted are logged. -/
def State.endRec (s : State) (r : Rec) (code : Nat) : State :=
  let x := s.logSat r
  x.1.retire (x.2.failWith code 0) true

/-- R196, R215: cancel a record in flight: it writes nothing more and completes `ERR_CANCELLED`. -/
def State.cancelRec (s : State) (r : Rec) (cq : Bool) : State :=
  let x := s.logSat r
  (x.1.cancelSent x.2).retire (x.2.failWith Status.cancelled 0) cq

/-- The records of a context in flight, by ascending queue and sequence of issue. -/
def State.ctxRecs (s : State) (c : Nat) : List Rec := s.recs.filter fun r => r.ctx == c
/-- The records of a queue in flight. -/
def State.qRecs (s : State) (q : Nat) : List Rec := s.recs.filter fun r => r.q == q

/-- R215: cancel a list of records. -/
def State.cancelAll (s : State) (rs : List Rec) (cq : Bool) : State := rs.foldl (fun s r => s.cancelRec r cq) s

/-- R215: write the completion records of cancelled unissued records, in ascending sequence, each in a free completion
entry; `HEAD` passes a record at that write, with which it completes (R237). -/
def flushCancel (q : Nat) : Nat → State → State
  | 0, s => s
  | n + 1, s =>
    let qu := s.queue q
    match qu.cancelTo with
    | none => s
    | some upto =>
      if qu.head = upto then s.setQueue q { qu with cancelTo := none }
      else if qu.entries ≤ (qu.head - qu.cqHead).toNat then s
      else
        let at_ := qu.ring + 128 * (qu.head.toNat % qu.entries)
        let op := (s.readByte at_).1.toNat
        let s := s.noteReads .sequencer [s.lay.colOf at_]
        let s := s.cqPut q qu.head Status.cancelled 0 op 0 0
        let s := ((s.setQueue q { s.queue q with head := qu.head + 1 }).headNow q).active qu.ctx
        flushCancel q n s

/-- R215: cancel the unissued records of a queue up to a sequence. -/
def State.cancelUnissued (s : State) (q : Nat) (upto : Word32) : State :=
  let qu := s.queue q
  let s := s.setQueue q { qu with cancelTo := some upto }
  flushCancel q ((upto - qu.head).toNat + 1) s

/-- R215, R208: software has consumed completion entries: further cancelled records take the freed ones. -/
def State.cqFreed (s : State) (q : Nat) : State :=
  let qu := s.queue q
  match qu.cancelTo with
  | none => s
  | some upto => flushCancel q ((upto - qu.head).toNat + 1) s

/-- R203, R204: the effect of a written `CQ_HEAD`: a value that is not from `CQ_HEAD` to `CQ_TAIL` is discarded and logged; completion
entries that are freed may let the queue's head issue, so that deadlock windows begin afresh (R236), and take the completion records that
wait (R215). -/
def cqHeadPut (by_ : Agent) (q : Nat) (v : Word32) (s : State) : State :=
  let qu := s.queue q
  if (qu.cqTail - qu.cqHead).toNat < (v - qu.cqHead).toNat then
    s.logDiscard by_ Status.fieldRange (doorbellOff q + 8) v.toNat
  else ((s.setQueue q { qu with cqHead := v }).touch qu.ctx).cqFreed q

/-- R238: an arrive-and-wait `BARRIER` record that has arrived and whose generation has not been released. -/
def Rec.awaits (r : Rec) : Bool := r.op == 0x52 && r.variant == 0 && r.started && !r.workDone

/-- R238: the waiting `BARRIER` records that a test names complete `ERR_OWNER_LOST`. -/
def State.loseWaiters (s : State) (f : Rec → Bool) : State :=
  (s.recs.filter fun r => r.awaits && f r).foldl (fun s r => s.retire (r.failWith Status.ownerLost 0) true) s

/-- R238: the waiting `BARRIER` records of a context complete `ERR_OWNER_LOST`. -/
def State.ownerLost (s : State) (c : Nat) : State := s.loseWaiters fun r => r.ctx == c

end Sys2Proof.Machine
end

