-- ==== Sys2Proof/Machine/Mailbox.lean ====
section
/-! DEFINITION. Molian mailboxes: requests, the checks of R272, responses, the ring and the watchdog (R267 to R274). -/

namespace Sys2Proof.Machine

open Sys2Proof

/-! ## Requests -/

/-- A request as firmware reads it from its copy (R269): `img` is the 4 KiB area as one little-endian number. -/
structure Req where
  mb : Fin 32
  by_ : Agent
  img : Nat

/-- The agent of a mailbox: 4p + m is mailbox m of port p, 16 + n is host core n's. -/
def mbAgent (mb : Fin 32) : Agent :=
  if mb.val < 16 then .port (Fin.ofNat 4 (mb.val / 4)) else .hcore (Fin.ofNat 16 (mb.val - 16))

/-- The request that a mailbox's copy holds. -/
def State.req (s : State) (mb : Fin 32) : Req :=
  { mb, by_ := mbAgent mb, img := (s.mbox mb).sram.toNat }

/-- A field of a request: byte offset and width in bits. -/
def Req.fld (r : Req) (off w : Nat) : Nat := bits r.img (8 * off) w
/-- R269 `OPCODE`. -/
def Req.opcode (r : Req) : Nat := r.fld 0 16
/-- R269 `TAG`. -/
def Req.tag (r : Req) : Nat := r.fld 2 16
/-- R269 `LENGTH`. -/
def Req.length (r : Req) : Nat := bits r.img 32 12

/-- The bits that a list of fields (bit position, width) covers. -/
def fieldMask (fs : List (Nat × Nat)) : Nat := fs.foldl (fun a f => a ||| ((2 ^ f.2 - 1) <<< f.1)) 0

/-- R272 step 1: `LENGTH` is the command's and every reserved header or body bit is zero. `fs` lists the fields by bit
position in the area, `len` is the command's length. -/
def Req.shapeOk (r : Req) (len : Nat) (fs : List (Nat × Nat)) : Bool :=
  r.length == len && bits r.img 44 20 == 0 && bits r.img 64 64 == 0 &&
    (let b := (bits r.img 128 (8 * len)) <<< 128
     (b &&& fieldMask fs) == b)

/-- A field that starts at a byte offset, for the list of `Req.shapeOk`. -/
def fieldAt (off w : Nat) : Nat × Nat := (8 * off, w)

/-! ## Authority (R274) -/

/-- The authorities of the catalogue. -/
inductive Auth where
  | any | port | owner | ownerPort | privileged
deriving DecidableEq, Repr

/-- Whether a host core holds the owner's authority: bound to a context of the owner (active or suspended). -/
def State.coreOfOwner (s : State) (n : Fin 16) : Bool :=
  s.ownerPort.isSome &&
    (match (s.ctx (s.hcore n).ctx).st with
     | .active => true
     | .suspended => true
     | _ => false)

/-- R272 step 2: whether an agent has an authority. -/
def State.allowed (s : State) (a : Auth) (by_ : Agent) : Bool :=
  match a, by_ with
  | .any, _ => true
  | .port, .port _ => true
  | .port, .hcore _ => false
  | .ownerPort, .port p => s.isOwner p
  | .ownerPort, .hcore _ => false
  | .owner, .port p => s.isOwner p
  | .owner, .hcore n => s.coreOfOwner n
  | .privileged, .port p => s.isOwner p
  | .privileged, .hcore n => s.coreOfOwner n && (s.ctx (s.hcore n).ctx).priv

/-- R272: a host core's request that names a context other than its own. -/
def State.foreign (s : State) (by_ : Agent) (c : Nat) : Bool :=
  match by_ with
  | .port _ => false
  | .hcore n => (s.hcore n).ctx != c

/-! ## Clamps (R271) -/

/-- The clamp-report entry of a field at a byte offset, when the applied value differs from the requested one. -/
def clampOf (off w requested applied : Nat) : List Clamp :=
  if requested = applied then []
  else [{ off := off / 4 * 4, lsb := 8 * (off % 4), widthM1 := w - 1, requested, applied }]

/-! ## Responses (R270, R391) -/

/-- R391: the ownership body, as one little-endian number of 24 bytes. -/
def State.ownershipBody (s : State) : Nat :=
  let st := match s.own.st with
    | .window => 0
    | .owned _ => 1
    | .vacant => 2
  let port := match s.own.st with
    | .owned p => p.val
    | _ => 0xFF
  let orphans := (s.ctxs.filter fun c => c.2.st == .orphaned).length
  let lease := match s.own.st with
    | .owned _ => (s.own.leaseEnd - s.time.now) / 1000
    | _ => 0
  let window := match s.own.st with
    | .window => (s.own.windowEnd - s.time.now) / 1000
    | _ => 0
  st + port * 2 ^ 8 + s.own.cause * 2 ^ 16 + orphans * 2 ^ 32 + s.own.gen * 2 ^ 64 + lease * 2 ^ 128 + window * 2 ^ 160

/-- R388: the commands that return the ownership body whatever their status. -/
def returnsOwnership (opcode : Nat) : Bool := [0x0201, 0x0202, 0x0204, 0x0205, 0x0206].contains opcode

/-- The requester as event-log entries code it: 0 to 3 the ports, 0x10 + n host core n (R363 kind 0x01). -/
def agentCode : Agent → Nat
  | .port p => p.val
  | .hcore n => 0x10 + n.val

/-- R268, R248: the interrupt of a completed request: `MB_DONE`, and with `IRQ_EN` vector 1 or the core's local interrupt. -/
def State.mbIrq (s : State) (mb : Fin 32) : State :=
  let b := s.mbox mb
  match mbAgent mb with
  | .port p =>
    let i := s.intr p.val
    let s := s.setIntr p.val { i with mbDone := i.mbDone ||| BitVec.ofNat 4 (2 ^ (mb.val % 4)) }
    if b.irqEn then s.msix p 1 else s
  | .hcore n =>
    let i := s.intr (4 + n.val)
    let s := s.setIntr (4 + n.val) { i with mbDone := i.mbDone ||| 1#4 }
    if b.irqEn then s.emit (.coreIrq n) else s

/-- R214: the time since an instant in µs, which saturates at 32 bits. -/
def State.elapsedUs (s : State) (from_ : Nat) : Nat := Nat.min (2 ^ 32 - 1) ((s.time.now - from_) / 1000)

/-- R214, R270: the response to the request in a mailbox, which began to execute at `startAt`. The ownership commands return the ownership
body whatever their status. -/
def State.response (s : State) (r : Req) (startAt status bodyLen body : Nat) (clamps : List Clamp) : Resp :=
  { opcode := r.opcode, tag := r.tag, status, clamps
    bodyLen := if returnsOwnership r.opcode then 24 else bodyLen
    body := if returnsOwnership r.opcode then s.ownershipBody else body
    execUs := BitVec.ofNat 32 (s.elapsedUs startAt) }

/-- R272: the status of a request that has executed: `OK_CLAMPED` when a field was clamped and nothing failed. -/
def clampStatus (status : Nat) (clamps : List Clamp) : Nat := if status = 0 ∧ clamps ≠ [] then Status.okClamped else status

/-- R268, R258, R272: end the request in a mailbox: one event-log entry when it was clamped, then the response and the
complete state, or, when a port reset has discarded the response, its event-log entry of kind 0x14. -/
def State.finish (s : State) (mb : Fin 32) (status bodyLen body : Nat) (clamps : List Clamp) : State :=
  let r := s.req mb
  let st := clampStatus status clamps
  let s := if clamps = [] then s
    else s.ev 0x01 st 0 (r.opcode + r.tag * 2 ^ 16 + agentCode r.by_ * 2 ^ 32) clamps.length
  let b := s.mbox mb
  let done := { b with cur := false, begun := false, deadline := 0, clamps := [], discard := false }
  if b.discard then
    let s := s.setMbox mb done
    s.ev 0x14 st 0 (r.opcode + r.tag * 2 ^ 16 + (mb.val / 4) * 2 ^ 32 + (mb.val % 4) * 2 ^ 40)
  else
    let resp := s.response r b.startAt st bodyLen body clamps
    let s := s.setMbox mb { done with st := .complete, resp, lastStatus := st, lastTag := r.tag }
    s.mbIrq mb

/-! ## Conflicts (R273) -/

/-- R273: whether an opcode belongs to the module class. -/
def moduleClass (opcode : Nat) : Bool :=
  [0x0201, 0x0205, 0x0203, 0x0204, 0x0301, 0x0B03, 0x0F02, 0x0D01, 0x0D02].contains opcode

/-- R273: the requests that the module class does not exclude: reads, `RENEW_LEASE`, `GET_OWNER`. -/
def neverExcluded (opcode : Nat) : Bool :=
  [0x0101, 0x0102, 0x0202, 0x0206, 0x0302, 0x0802, 0x0901, 0x0A02, 0x0C01, 0x0E01, 0x0E02].contains opcode

/-- R273: the context, queue, stream or unit that a request names. -/
def Req.object (r : Req) : Option (Nat × Nat) :=
  let op := r.opcode
  if [0x0401, 0x0402, 0x0403, 0x0404, 0x0405, 0x0501, 0x0601, 0x0701].contains op then some (0, r.fld 0x10 16)
  else if op = 0x0502 ∨ op = 0x0503 then some (1, r.fld 0x10 16)
  else if op = 0x0602 ∨ op = 0x0603 then some (2, r.fld 0x10 16)
  else if [0x0A04, 0x0A05, 0x0B01, 0x0B02].contains op then some (3, r.fld 0x10 32)
  else if op = 0x0801 then some (4, 0)
  else none

/-- R273: whether two requests conflict. -/
def Req.conflicts (a b : Req) : Bool :=
  (moduleClass a.opcode && !neverExcluded b.opcode) || (moduleClass b.opcode && !neverExcluded a.opcode) ||
    (a.object.isSome && a.object == b.object)

/-- R263: the commands that claim the module. -/
def isClaim (opcode : Nat) : Bool := opcode == 0x0201 || opcode == 0x0205

/-- R273: the requests that run in acceptance order: those that name the same object, and claims (R263). -/
def Req.ordered (a b : Req) : Bool := (a.object.isSome && a.object == b.object) || (isClaim a.opcode && isClaim b.opcode)

/-- R263, R273: whether the request of one mailbox was accepted before that of another: by their doorbells, and in one LCLK by their
mailboxes, those of the lowest port first. -/
def State.acceptedBefore (s : State) (a b : Nat) : Bool :=
  decide ((s.mbox a).acceptAt < (s.mbox b).acceptAt) || ((s.mbox a).acceptAt == (s.mbox b).acceptAt && decide (a < b))

/-- R273: whether a request waits for that of mailbox `k`: one that executes and conflicts, or one accepted before that it runs after. A
claim that R263 holds excludes none. -/
def State.waitsFor (s : State) (r : Req) (k : Nat) : Bool :=
  let o : Req := { mb := Fin.ofNat 32 k, by_ := mbAgent (Fin.ofNat 32 k), img := (s.mbox k).sram.toNat }
  k != r.mb.val && (s.mbox k).cur && !(isClaim o.opcode && s.own.st == .window)
    && (((s.mbox k).begun && r.conflicts o) || (s.acceptedBefore k r.mb.val && r.ordered o))

/-- R273: whether a request waits for another. A claim that R263 holds is excluded by none. -/
def State.excluded (s : State) (r : Req) : Bool :=
  !(isClaim r.opcode && s.own.st == .window) && s.mboxes.any fun e => s.waitsFor r e.1

/-! ## Acceptance (R268, R272) -/

/-- The opcodes of the catalogue (R274). -/
def molianOpcodes : List Nat :=
  [0x0101, 0x0102, 0x0201, 0x0202, 0x0203, 0x0204, 0x0205, 0x0206, 0x0301, 0x0302, 0x0401, 0x0402, 0x0403, 0x0404, 0x0405,
   0x0501, 0x0502, 0x0503, 0x0601, 0x0602, 0x0603, 0x0701, 0x0801, 0x0802, 0x0803, 0x0901, 0x0A01, 0x0A02, 0x0A03, 0x0A04,
   0x0A05, 0x0B01, 0x0B02, 0x0B03, 0x0C01, 0x0C02, 0x0C03, 0x0D01, 0x0D02, 0x0E01, 0x0E02, 0x0E03, 0x0F01, 0x0F02]

/-- R329: the commands accepted before ready. -/
def earlyOpcodes : List Nat := [0x0101, 0x0102, 0x0206]
/-- R316: the commands accepted during a latched logic shut-down. -/
def latchedOpcodes : List Nat := [0x0101, 0x0102, 0x0206, 0x0901, 0x0802, 0x0E01, 0x0A02, 0x0E02, 0x0E03]

/-- R272, R316, R329: the status with which the present phase refuses an opcode. -/
def State.phaseRefusal (s : State) (opcode : Nat) : Option Nat :=
  match s.phase with
  | .ready => none
  | .logicShut => if latchedOpcodes.contains opcode then none else some Status.thermal
  | _ => if earlyOpcodes.contains opcode then none else some Status.outOfService

/-- R272: the status with which a request is refused before any command executes: its phase, then an unknown opcode. -/
def State.refusal (s : State) (opcode : Nat) : Option Nat :=
  match s.phaseRefusal opcode with
  | some st => some st
  | none => if molianOpcodes.contains opcode then none else some Status.fieldRange

/-- R273, R343: a request starts now. DESIGN CHOICE (log entry 24): at its doorbell, or at the end of what it waited for. -/
def Mbox.starts (b : Mbox) (s : State) : Mbox := { b with startAt := s.time.now, slow := s.time.root == 2 }

/-- Take an image as the mailbox's accepted request, rung at `rung`; a refused one ends at once. -/
def State.accept (s : State) (mb : Fin 32) (img : BitVec 32768) (discard : Bool) (rung : Nat) : State :=
  let s := s.setMbox mb (Mbox.starts { s.mbox mb with sram := img, cur := true, discard, acceptAt := rung } s)
  match s.refusal (s.req mb).opcode with
  | some st => s.finish mb st 0 0 []
  | none => s

/-- Accept the first of the waiting requests that is not refused at once (R258: requests accepted before a port reset). -/
def State.acceptNext (mb : Fin 32) : List (BitVec 32768 × Bool × Nat) → State → State
  | [], s => s.setMbox mb { s.mbox mb with behind := [] }
  | (img, d, at_) :: rest, s =>
    let s := (s.setMbox mb { s.mbox mb with behind := rest }).accept mb img d at_
    if (s.mbox mb).cur then s else State.acceptNext mb rest s

/-- R273: the requests that have waited for one that has ended, `s` being the state before, start now. -/
def State.startWaiting (t s : State) : State :=
  { t with mboxes := t.mboxes.map fun e =>
      let r := s.req (Fin.ofNat 32 e.1)
      (e.1, if e.2.cur && !e.2.begun && s.excluded r && !t.excluded r then e.2.starts t else e.2) }

/-- End the request of a mailbox; what waited for it starts, and what waits behind it is accepted. -/
def State.reply (s : State) (mb : Fin 32) (status bodyLen body : Nat) (clamps : List Clamp) : State :=
  let t := (s.finish mb status bodyLen body clamps).startWaiting s
  State.acceptNext mb (t.mbox mb).behind t

/-- R268: the control page's `RING`. -/
def ringMailbox (mb : Fin 32) (s : State) : State :=
  let b := s.mbox mb
  if b.st = .busy then s.setMbox mb { b with ringErr := true }
  else if b.cur then s.setMbox mb { b with st := .busy, behind := b.behind ++ [(b.req, false, s.time.now)] }
  else (s.setMbox mb { b with st := .busy }).accept mb b.req false s.time.now

/-- `MAILBOX_RING` (R268, R269, R272): the request area is copied and the mailbox becomes busy; while busy, `RING_ERR`.
An unpowered module, one in full shut-down (R316), or one whose ROM has found no firmware (R331), answers no mailbox. -/
def execMailboxRing (mb : Fin 32) (s : State) : Host.Outcome State Fault Refusal :=
  .next (match s.phase with
    | .off => s
    | .fullShut => s
    | .retention => s
    | .held => s
    | _ => ringMailbox mb s)

/-! ## Running a command (R272) -/

/-- What executing a command answers. -/
inductive Ans where
  /-- A check failed: no state changes, no clamp is reported. -/
  | fail (status : Nat)
  /-- The command has executed (R272 step 6). -/
  | done (status bodyLen body : Nat) (clamps : List Clamp) (s : State)
  /-- The command executes and waits for the end of its work; its own time limit. -/
  | wait (deadline : Nat) (clamps : List Clamp) (s : State)

/-- R272: run the accepted request of a mailbox as the command `opcode`: steps 1 and 2, then the command's own steps. A
mailbox that holds no such request, or whose request has begun already or waits for a conflicting one (R273), is left as it
is. -/
def molian (mb : Fin 32) (opcode : Nat) (auth : Auth) (len : Req → Nat) (fs : Req → List (Nat × Nat))
    (run : Req → State → Ans) (s : State) : State :=
  let b := s.mbox mb
  let r := s.req mb
  if !b.cur || b.begun || r.opcode != opcode || s.excluded r then s
  else if !r.shapeOk (len r) (fs r) then s.reply mb Status.fieldRange 0 0 []
  else if !s.allowed auth r.by_ then s.reply mb Status.notOwner 0 0 []
  else match run r s with
    | .fail st => s.reply mb st 0 0 []
    | .done st bl body cl s' => s'.reply mb st bl body cl
    | .wait dl cl s' => s'.setMbox mb { s'.mbox mb with begun := true, deadline := dl, clamps := cl }

/-- A command whose body has a fixed layout: fields by byte offset and width. -/
def molianFixed (mb : Fin 32) (opcode : Nat) (auth : Auth) (len : Nat) (fs : List (Nat × Nat))
    (run : Req → State → Ans) (s : State) : State :=
  molian mb opcode auth (fun _ => len) (fun _ => fs.map fun f => fieldAt f.1 f.2) run s

/-- R264: the applied lease in ms: 0 means 2,000. -/
def leaseApplied (ms : Nat) : Nat := if ms = 0 then 0 else clampNat 100 60000 ms
/-- R264: the length of a lease in ns. -/
def leaseNs (applied : Nat) : Nat := (if applied = 0 then 2000 else applied) * 1000000

/-- R215, R274: the applied time-out in ms. -/
def timeoutApplied (ms : Nat) : Nat := if ms = 0 then 0 else clampNat 1 10000 ms
/-- R215, R274: a time-out in ns: 0 means 1,000 ms. -/
def timeoutNs (applied : Nat) : Nat := (if applied = 0 then 1000 else applied) * 1000000

/-- R273: the maximum time of a request, in ns: `slow`: the root has stood at 4.8 GHz since it started, `open_`: the claim window is open. -/
def maxTime (r : Req) (slow open_ : Bool) : Nat :=
  let ms := 1000000
  match r.opcode with
  | 0x0201 => if open_ then 60 * ms else 2 * ms
  | 0x0205 => if open_ then 60 * ms else 1000 * ms
  | 0x0203 => 5 * ms
  | 0x0204 => 20 * ms
  | 0x0301 => 5 * ms
  | 0x0401 => 2 * ms
  | 0x0402 => 1000 * ms
  | 0x0403 => timeoutNs (timeoutApplied (r.fld 0x14 32)) + 5 * ms
  | 0x0405 => 2 * ms
  | 0x0501 => 2 * ms
  | 0x0503 => timeoutNs (timeoutApplied (r.fld 0x14 32)) + 5 * ms
  | 0x0603 => 1000 * ms
  | 0x0801 => 10 * ms
  | 0x0A01 =>
    let len := clampNat 32 (2 ^ 41 - r.fld 0x10 64) (r.fld 0x18 64)
    10 * ms + 4 * ms * len / 2 ^ 30
  | 0x0A02 => 2 * ms
  | 0x0A05 => if r.fld 0x16 8 = 1 then 500 * ms else 10 * ms
  | 0x0B01 => timeoutNs (timeoutApplied (r.fld 0x18 32)) + 10 * ms
  | 0x0B02 => 2000 * ms
  | 0x0B03 => if slow then 60 * ms else 50 * ms
  | 0x0C02 => 2000 * ms
  | 0x0C03 => 10 * ms
  | 0x0D01 => 1000 * ms
  | 0x0D02 => 100 * ms
  | 0x0E01 => 2 * ms
  | 0x0E02 => 2 * ms
  | 0x0E03 => 10 * ms
  | 0x0F01 => 50 * ms
  | 0x0F02 => 2000 * ms
  | _ => ms

end Sys2Proof.Machine
end

