-- ==== Sys2Proof/Machine/Contexts.lean ====
section
/-! DEFINITION. Operations on contexts, host cores that follow them, barriers' clears, groups and ownership (R198 to R200, R215,
R220, R238, R239, R252, R254, R260 to R266, R352). -/

namespace Sys2Proof.Machine

open Sys2Proof

/-! ## Windows -/

/-- Whether every byte of [lo, hi] lies in some window of a list; `n` windows may still be used. -/
def coveredBy (ws : List Window) : Nat → Nat → Nat → Bool
  | 0, _, _ => false
  | n + 1, lo, hi =>
    match ws.find? (fun w => decide (w.base ≤ lo) && decide (lo < w.base + w.size)) with
    | none => false
    | some w =>
      -- the furthest end among the windows that hold `lo`
      let e := (ws.filter fun w => decide (w.base ≤ lo) && decide (lo < w.base + w.size)).foldl
        (fun m w => Nat.max m (w.base + w.size)) (w.base + w.size)
      if hi < e then true else coveredBy ws n e hi

/-- R198: whether every DPA from `lo` to `hi` lies in some window of a context, read-write windows for a write. -/
def State.inWindows (s : State) (c : Nat) (lo hi : Nat) (write : Bool) : Bool :=
  let ws := (s.ctx c).windows.filter fun w => w.write || !write
  coveredBy ws (ws.length + 1) lo hi

/-- R201: whether a range lies wholly in one read-write window of a context. -/
def State.inOneWindow (s : State) (c : Nat) (lo size : Nat) : Bool :=
  (s.ctx c).windows.any fun w => w.write && decide (w.base ≤ lo) && decide (lo + size ≤ w.base + w.size)

/-! ## Host cores (R252, R254, R285) -/

/-- R252, R285: write a line back: both columns go to their channel controller's queue as full-column writes, poisoned when the line
still is. -/
def State.writeLine (s : State) (i : Nat) (l : Line) : State :=
  let poison := l.poison && l.written != BitVec.allOnes 64
  [0, 1].foldl (fun s h => s.send rachis (.write .hostCore (s.lay.colOf (64 * i + 32 * h)) (lineHalf l.data h) poison)) s

/-- R252: write a dirty line of the caches back; it stays cached when `keep`. -/
def State.cleanLine (s : State) (i : Nat) (keep : Bool) : State :=
  match Tbl.get none s.lines i with
  | none => s
  | some l =>
    let s := if l.dirty then s.writeLine i l else s
    { s with lines := Tbl.put none s.lines i (if keep then some { l with dirty := false } else none) }

/-- R249: the lines of 64 bytes that the 4 MiB of L2 hold, and those of the 64 KiB of an instruction L1. -/
def l2Lines : Nat := 65536
/-- R249: the lines of an instruction L1. -/
def l1Lines : Nat := 1024

/-- R249: room for one more line in the host cores' caches: from a full one a line leaves, written back when dirty. DESIGN CHOICE (log
entry 111): which line is a free value, of those that the access does not use itself; until the cache is full none leaves. -/
def State.makeRoom (s : State) (used : List Nat) : State :=
  if s.lines.length < l2Lines then s
  else
    let old := s.lines.filter fun e => !used.contains e.1
    match old[(Config.freeWord s.free).toNat % old.length]? with
    | some e => s.fresh.cleanLine e.1 false
    | none => s

/-- R253, R254: write back the dirty lines that a host core stored. -/
def State.writeBackCore (s : State) (n : Nat) : State :=
  (s.lines.filter fun e => match e.2 with
    | some l => l.dirty && l.by_ == n
    | none => false).foldl (fun s e =>
      match e.2 with
      | some l =>
        let s := s.writeLine e.1 l
        { s with lines := Tbl.put none s.lines e.1 (some { l with dirty := false }) }
      | none => s) s

/-- R253: a host core's reset: its registers and L1s clear, its dirty lines are written back. -/
def State.resetHCore (s : State) (n : Nat) : State :=
  let s := s.writeBackCore n
  let h := s.hcore n
  s.setHCore n { h with regs := {}, il1 := [] }

/-- Apply a change to every host core bound to a context. -/
def State.coresOf (s : State) (c : Nat) (f : State → Nat → State) : State :=
  (List.range 16).foldl (fun s n => if (s.hcore n).ctx = c then f s n else s) s

/-- R254: `CTX_SUSPEND` and lapse: the context's running cores stop, `RUN` stays 1. -/
def State.stopCores (s : State) (c : Nat) : State :=
  s.coresOf c fun s n => s.setHCore n { s.hcore n with stopped := true }
/-- R254: `CTX_RESUME`: the cores with `RUN` 1 continue. -/
def State.resumeCores (s : State) (c : Nat) : State :=
  s.coresOf c fun s n => if (s.hcore n).run then s.setHCore n { s.hcore n with stopped := false } else s
/-- R254: `CTX_DESTROY`: the cores stop, their dirty lines are written back, `RUN` becomes 0. -/
def State.destroyCores (s : State) (c : Nat) : State :=
  s.coresOf c fun s n =>
    let s := s.writeBackCore n
    s.setHCore n { s.hcore n with run := false, stopped := true }

/-! ## Barriers' clears (R239) -/

/-- The number of arrivals of a list. -/
def pendCount (l : List Arrival) : Nat := sumNat (l.map (·.num))

/-- R230: the pending count of a frond node: the arrivals that it holds until the rachis node accepts them, sent or not. -/
def Barrier.pendAt (x : Barrier) (f : Nat) : Nat :=
  pendCount (Tbl.get [] x.pendF f) + pendCount (x.inR.filter fun a => a.frond == f && a.member.isNone)

/-- R239: return a barrier to idle at every node, with generation 0; a barrier that has accepted an arrival since its last
clear is logged first. -/
def State.clearBar (s : State) (b : Nat) : State :=
  let x := s.bar b
  let s := if x.touched then
      let f := fun i => x.pendAt i * 2 ^ (16 * i)
      s.ev 0x05 0 0 (b + x.scope * 2 ^ 12 + x.count * 2 ^ 16) x.gen.toNat x.rootCount (f 0 + f 1 + f 2 + f 3)
        (pendCount (x.sent ++ x.pendR))
    else s
  s.setBar b {}

/-- R239: clear a range of barriers. -/
def State.clearBars (s : State) (base count : Nat) : State :=
  (List.range count).foldl (fun s i => s.clearBar (base + i)) s

/-! ## Groups (R352) -/

/-- R357: whether this module holds the root of the group's barriers: it is the lowest-numbered member. -/
def Group.isRoot (g : Group) : Bool := (memberList g.members).head? == some g.member

/-- R352: the membership ends: `COLLECTIVE` records in flight complete `ERR_OUT_OF_SERVICE`, group-scope waiters
`ERR_OWNER_LOST`, the group root clears every group-scope barrier, all counts return to 0. -/
def State.endMembership (s : State) : State :=
  if s.group.inGroup then
    let root := s.group.isRoot
    let s := { s with group := { s.group with inGroup := false, broken := true, counts := [], cancels := [] } }
    let s := (s.recs.filter fun r => r.op == 0x40).foldl (fun s r => s.endRec r Status.outOfService) s
    let s := (s.recs.filter fun r => r.op == 0x52 && r.started && !r.workDone && bits r.raw.toNat (8 * 0x40 + 12) 2 == 2).foldl
      (fun s r => s.retire (r.failWith Status.ownerLost 0) true) s
    let bs := (s.bars.filter fun e => e.2.fixed && e.2.scope == 2).map (·.1)
    bs.foldl (fun s b => if root then s.clearBar b else s.setBar b {}) s
  else s

/-- R352: the group breaks on this member's account: the other members are told. -/
def State.leaveGroup (s : State) : State :=
  if s.group.inGroup then (s.tellMembers s.group.members .groupBroken).endMembership else s

/-! ## Contexts (R200, R215, R220, R238) -/

/-- R215, R259: the started records of a context stop at their next tile or row boundary: they take and commit no further ticket and run no
further row, until the context is resumed. -/
def Rec.halt (c : Nat) (r : Rec) : Rec := if r.ctx = c then { r with paused := r.started } else r

/-- R200: the records of a context go on from where they stopped. -/
def State.unpause (s : State) (c : Nat) : State :=
  { s with recs := s.recs.map fun r => if r.ctx = c then { r with paused := false } else r }

/-- R261, R262: a context becomes orphaned; its host cores stop, its arrive-and-wait barriers lose their owner. -/
def State.orphanCtx (s : State) (c : Nat) : State :=
  let s := (s.pauseWaits c).setCtx c { s.ctx c with st := .orphaned, suspending := false }
  let s := (s.ownerLost c).stopCores c
  { s with recs := s.recs.map (Rec.halt c) }

/-- R261, R262: every context that is not free becomes orphaned. -/
def State.orphanAll (s : State) : State :=
  (s.ctxs.filter fun e => e.2.st == .active || e.2.st == .suspended).foldl (fun s e => s.orphanCtx e.1) s

/-- R220: unbind every block of a context, clearing each. -/
def State.unbindAll (s : State) (c : Nat) : State :=
  let s := ((s.ctx c).slots.filter (·.2.mapped)).foldl (fun s e => s.hwClear e.2.block) s
  s.setCtx c { s.ctx c with slots := [] }

/-- R220: at `HANDOVER` and `TAKEOVER` every slot's `MIRROR_EN` and `MSIX_EN` are cleared. -/
def State.clearMirrors (s : State) : State :=
  s.ctxs.foldl (fun s e =>
    let x := s.ctx e.1
    s.setCtx e.1 { x with slots := x.slots.map fun f => (f.1, { f.2 with mirror := false, msix := false }) }) s

/-- R215, R216: remove a queue. Cancelled records that have taken no completion record are logged (kind 0x12). -/
def State.removeQueue (s : State) (q : Nat) : State :=
  let qu := s.queue q
  let s := match qu.cancelTo with
    | some upto => if qu.head = upto then s else s.ev 0x12 0 0 (q + qu.ctx * 2 ^ 16) qu.head.toNat (upto - 1).toNat
    | none => s
  s.setQueue q {}

/-- R210: return a context's streams to free. -/
def State.freeStreams (s : State) (first count : Nat) : State :=
  { s with streams := s.streams.filter fun e => decide (e.1 < first) || decide (first + count ≤ e.1) }

/-- R238: the other members learn that a context's barriers lose their owner. DESIGN CHOICE (log entry 131): by one message for each barrier
of its allotment that does not hold arrivals of another scope here; arrivals at other members need not have met one here. -/
def State.tellLost (s : State) (base count : Nat) : State :=
  if s.group.inGroup then
    ((List.range count).map (base + ·)).foldl (fun s b =>
      if (s.bar b).scope = 2 ∨ !(s.bar b).touched then s.tellMembers s.group.members (.barOwnerLost b) else s) s
  else s

/-- R54, R115: a number that a context has left names another context from then on. -/
def State.forgetCtx (s : State) (c : Nat) : State :=
  { s with
    cores := s.cores.map fun e => (e.1, { e.2 with lastCtx := if e.2.lastCtx = some c then none else e.2.lastCtx })
    pairs := s.pairs.map fun e => (e.1, { e.2 with lastCtx := if e.2.lastCtx = some c then none else e.2.lastCtx }) }

/-- R236: the module's own deadlock window begins afresh: what it would judge is no longer the same. -/
def State.stir (s : State) : State := { s with lastAct := s.time.now }

/-- R200, R210, R215, R220, R236, R239, R254: destroy a context. -/
def State.destroyCtx (s : State) (c : Nat) : State :=
  let x := s.ctx c
  let s := s.tellLost x.barBase x.barCount
  let s := s.cancelAll (s.ctxRecs c) true
  let s := (s.ctxQueues c).foldl (fun s q => (s.cancelUnissued q (s.queue q).tail).removeQueue q) s
  let s := s.freeStreams x.strFirst x.strCount
  let s := s.unbindAll c
  let s := s.clearBars x.barBase x.barCount
  let s := s.destroyCores c
  ((s.forgetCtx c).setCtx c {}).stir

/-- R265: the orphans become suspended (`DISPOSE` 0) or free (1). -/
def State.disposeOrphans (s : State) (destroy : Bool) : State :=
  (s.ctxs.filter fun e => e.2.st == .orphaned).foldl (fun s e =>
    if destroy then s.destroyCtx e.1 else s.setCtx e.1 { s.ctx e.1 with st := .suspended }) s

/-! ## Ownership (R262) -/

/-- R391: the causes that R248 sends vector 3 for: window open, take-over, handover, lapse. -/
def causeIrq (cause : Nat) : Bool := [0x01, 0x03, 0x06, 0x07, 0x09].contains cause

/-- R262: ownership changes at one instant: `OWNER_GEN` rises by 1, the cause is kept, kind 0x09 is logged; a vacant module
orphans its contexts; a lease starts at a new owner, whose mirrors wait where its host cannot be reached (R229); membership of a group ends
as R352 gives. -/
def State.ownerChange (s : State) (upto : Option (Fin 4)) (cause lease : Nat) : State :=
  let old := match s.ownerPort with
    | some p => p.val
    | none => 0xFF
  let new := match upto with
    | some p => p.val
    | none => 0xFF
  let st : OwnSt := match upto with
    | some p => .owned p
    | none => .vacant
  let s := { s with own := { s.own with st, gen := s.own.gen + 1, cause, claims := []
                                        leaseEnd := if upto.isSome then s.time.now + leaseNs lease else 0 } }
  let s := s.ev 0x09 0 0 s.own.gen (old + new * 2 ^ 8 + cause * 2 ^ 16)
  let s := if old = new then s else { s with ports := s.ports.map fun e => (e.1, { e.2 with mirrorHeld := e.1 == new && !e.2.reach }) }
  let s := if upto.isNone then s.orphanAll else s
  let s := if cause = 0x0A ∨ cause = 0x07 then s else s.leaveGroup
  let s := if cause = 0x03 ∨ cause = 0x06 ∨ cause = 0x07 then s.clearMirrors else s
  if causeIrq cause then s.ownershipIrq else s

/-- R262, R264: the lease lapses. -/
def State.lapse (s : State) : State := s.ownerChange none 0x09 0

end Sys2Proof.Machine
end

