-- ==== Sys2Proof/Machine/Units.lean ====
section
/-! DEFINITION. Units that leave service: tickets reissued, entries abandoned, grants returned (R151, R153, R287, R306, R339). -/

namespace Sys2Proof.Machine

open Sys2Proof

/-! ## Tickets (R146, R149, R151) -/

/-- The index of a claimant in a record's table: cores 0 to 63, engines 64 to 127. -/
def claimantIdx : Claimant → Nat
  | .core c => c.val
  | .engine e => 64 + e.val

/-- The frond of a claimant. -/
def claimantFrond : Claimant → Nat
  | .core c => c.val / 16
  | .engine e => e.val / 16

/-- The unit identifier of a claimant. -/
def claimantUnit : Claimant → Nat
  | .core c => unitId 7 c.val
  | .engine e => unitId 12 e.val

/-- R146: how many of `total` tickets the k-th of `n` fronds takes: equal ranges, the remainder to the lowest. -/
def shareOf (total n k : Nat) : Nat := total / n + (if k < total % n then 1 else 0)

/-- R146: the range of tickets, first and count, of a frond of the record's set. -/
def ticketRange (total : Nat) (fronds : List Nat) (f : Nat) : Nat × Nat :=
  let n := fronds.length
  let k := (fronds.takeWhile (· != f)).length
  if k < n then (sumNat ((List.range k).map (shareOf total n)), shareOf total n k) else (0, 0)

/-- The state of a ticket of a record. -/
def Rec.ticket (r : Rec) (t : Nat) : Ticket := Tbl.get {} r.tickets.tab t
/-- What the dispatcher keeps for a claimant of a record. -/
def Rec.claimant (r : Rec) (i : Nat) : ClaimSt := Tbl.get {} r.tickets.claimants i

/-- Whether a ticket is held by a claimant. -/
def TState.heldBy (st : TState) (who : Claimant) : Bool :=
  match st with
  | .claimed w _ => w == who
  | .committing w _ => w == who
  | _ => false

/-- R151: the tickets of a record that a claimant holds; `abort` leaves out a commit under way. -/
def Rec.heldTickets (r : Rec) (who : Claimant) (abort : Bool) : List Nat :=
  (r.tickets.tab.filter fun e => match e.2.st with
    | .claimed w _ => w == who
    | .committing w _ => w == who && !abort
    | _ => false).map (·.1)

/-- R151: reissue a claimant's tickets: their epochs rise by 1 and they go to the reissue list. -/
def Rec.reissue (r : Rec) (who : Claimant) (abort : Bool) : Rec :=
  let ts := r.heldTickets who abort
  let tab := ts.foldl (fun tab t =>
    let x := Tbl.get ({} : Ticket) tab t
    Tbl.put {} tab t { epoch := x.epoch + 1 }) r.tickets.tab
  let cl := r.claimant (claimantIdx who)
  { r with tickets := { r.tickets with
      tab, reissue := r.tickets.reissue ++ ts
      claimants := Tbl.put {} r.tickets.claimants (claimantIdx who) { cl with held := cl.held - ts.length } } }

/-- R151: reissue a claimant's tickets of every record. -/
def State.reissueAll (s : State) (who : Claimant) (abort : Bool) : State :=
  { s with recs := s.recs.map fun r => r.reissue who abort }

/-- Whether a record's tickets go to DMA engines (R176: the movement operations, and an `EW_CHAIN` under R169) rather than to cores. -/
def Rec.byEngine (r : Rec) : Bool := [0x30, 0x31, 0x32, 0x33, 0x34, 0x35, 0x36].contains r.op || (r.op == 0x20 && r.aliasRun)

/-- Whether a core takes new tickets. -/
def State.coreUp (s : State) (c : Nat) : Bool := (s.core c).svc == .inService
/-- Whether a frond has a core in service, or one that still finishes its tickets. -/
def State.frondHasCore (s : State) (f : Nat) : Bool :=
  (List.range 16).any fun k => (s.core (16 * f + k)).svc == .inService || (s.core (16 * f + k)).svc == .draining
/-- Whether a frond has a DMA engine in service. -/
def State.frondHasEngine (s : State) (f : Nat) : Bool :=
  (List.range 16).any fun k => (s.engine (16 * f + k)).svc == .inService

/-- R151, R176: a frond with no core (or engine) left abandons the unclaimed and the reissued tickets of its ranges; a commit under way
finishes. Their records complete `ERR_OUT_OF_SERVICE`. -/
def State.abandonFrond (s : State) (f : Nat) (engines : Bool) : State :=
  { s with recs := s.recs.map fun r =>
      if r.tickets.total = 0 ∨ r.byEngine ≠ engines then r
      else
        let (first, n) := ticketRange r.tickets.total (r.fronds s.lay) f
        let lost := ((List.range n).map (first + ·)).filter fun t => (r.ticket t).st == .unclaimed && !r.lostTickets.contains t
        if lost = [] then r
        else { r.failWith Status.outOfService (unitId 1 f) with
                 lostTickets := r.lostTickets ++ lost
                 tickets := { r.tickets with reissue := r.tickets.reissue.filter fun t => !(lost.contains t) } } }

/-! ## Grants (R304, R306) -/

/-- R297: the quanta of one unit of a holder's grant. -/
def unitQ : Holder → Nat
  | .core _ => 30
  | .stack _ => 63
  | .rport _ => 100
  | .tokens => 1
  | .token _ => 1
  | .rachis => 1000
  | .uncore _ => 400

/-- R304: add quanta to a core's reserved quanta, when it has a lien. -/
def reserveMore (l : List Lien) (c n : Nat) : List Lien :=
  l.map fun x => if x.core = c then { x with reserved := x.reserved + n } else x

/-- R304: end a core's lien: its reserved quanta become ordinary free quanta, what was borrowed from it ordinary grants. -/
def State.endLien (s : State) (c : Nat) : State :=
  { s with power := { s.power with
      liens := s.power.liens.filter fun l => l.core != c
      grants := s.power.grants.map fun b => { b with parts := b.parts.filter fun p => p.1 != c } } }

/-- R304: of the parts of a borrowed grant, those that `n` quanta of it fill, and those left. -/
def splitParts : Nat → List (Nat × Nat) → List (Nat × Nat) × List (Nat × Nat)
  | _, [] => ([], [])
  | 0, ps => ([], ps)
  | n + 1, p :: r =>
    if p.2 ≤ n + 1 then
      let x := splitParts (n + 1 - p.2) r
      (p :: x.1, x.2)
    else ([(p.1, n + 1)], (p.1, p.2 - (n + 1)) :: r)

/-- R304: the quanta of parts are reserved again, each in its lien. -/
def reserveAll (l : List Lien) (ps : List (Nat × Nat)) : List Lien := ps.foldl (fun l p => reserveMore l p.1 p.2) l

/-- R303, R304: a holder returns `n` quanta, of its most recent grants first; what was borrowed is reserved again. -/
def takeBack (h : Holder) : Nat → List Grant → List Lien → List Grant × List Lien
  | _, [], l => ([], l)
  | n, g :: r, l =>
    if g.holder != h then
      let x := takeBack h n r l
      (g :: x.1, x.2)
    else if g.quanta ≤ n then takeBack h (n - g.quanta) r (reserveAll l g.parts)
    else
      let x := splitParts n g.parts
      ({ g with quanta := g.quanta - n, parts := x.2 } :: r, reserveAll l x.1)

/-- R303, R304, R312: a holder's grant falls by `n` units, which return to the free state. -/
def State.lower (s : State) (h : Holder) (n : Nat) : State :=
  let x := takeBack h (n * unitQ h) s.power.grants s.power.liens
  let s := { s with power := { s.power with grants := x.1, liens := x.2 } }
  match h with
  | .core c => s.setCore c { s.core c with level := (s.core c).level - n }
  | .stack st => { s with power := { s.power with stackEighths := Tbl.put 1 s.power.stackEighths st (Tbl.get 1 s.power.stackEighths st - n) } }
  | .rport k => { s with power := { s.power with rports := Tbl.put false s.power.rports k (Tbl.get false s.power.rports k && n == 0) } }
  | _ => s

/-- A holder's waiting requests end. -/
def State.dropAsked (s : State) (h : Holder) : State :=
  { s with power := { s.power with waiting := s.power.waiting.filter fun w => w.holder != h } }

/-- R297, R312: cut a holder's waiting requests, the oldest first, to `room` units. -/
def trimAsked (h : Holder) : Nat → List QReq → List QReq
  | _, [] => []
  | room, w :: r =>
    if w.holder != h then w :: trimAsked h room r
    else
      let k := Nat.min room (w.quanta / unitQ h)
      let r := trimAsked h (room - k) r
      if k = 0 then r else { w with quanta := k * unitQ h } :: r

/-- R312: what a holder above its cap gives back: its units above the cap, and of its waiting requests what would pass it. -/
def State.capAt (s : State) (h : Holder) (have_ cap : Nat) : State :=
  let s := s.lower h (have_ - cap)
  { s with power := { s.power with waiting := trimAsked h (cap - have_) s.power.waiting } }

/-- R306: a core's level returns and its lien ends. -/
def State.returnLevel (s : State) (c : Nat) : State :=
  let h : Holder := .core (Fin.ofNat 64 c)
  let s := (((s.endLien c).lower h (s.core c).level).dropAsked h)
  s.setCore c { s.core c with lentLevel := none }

/-- R306: a stack whose last channel has left service returns its eighths. -/
def State.returnStack (s : State) (st : Nat) : State :=
  if s.stackUp st then s
  else
    let h : Holder := .stack (Fin.ofNat 32 st)
    (s.lower h (Tbl.get 1 s.power.stackEighths st - 1)).dropAsked h

/-- R300: a pair's token returns to the free quanta. -/
def State.returnToken (s : State) (su : Nat) : State :=
  let p := s.pair su
  if p.token then
    let s := s.setPair su { p with token := false }
    { s with power := { s.power with tokens := s.power.tokens - 1 } }
  else s

/-- R306: the tokens of a channel's units return. -/
def State.returnTokens (s : State) (ch : Nat) : State :=
  (s.pairs.filter fun e => e.1 / 32 == ch && e.2.token).foldl (fun s e => s.returnToken e.1) s

/-- R54: a unit is reset, with what its controller was about to do there. -/
def Pair.reset (p : Pair) : Pair := { p with unit := {}, lastCtx := none, held := none, rerun := none, todo := [] }

/-! ## Entries (R153) -/

/-- R153: a record's entries on units are abandoned: the passes of R107 to come lack them. -/
def Rec.loseUnits (r : Rec) (us : List Nat) : Rec :=
  { r with lostUnits := r.lostUnits ++ us, lostAt := us.foldl (fun t u => Tbl.put 0 t u r.sweptTo) r.lostAt }

/-- R153: abandon the unfinished entries on the units that a test names; the records concerned complete with `code`. -/
def State.abandonUnits (s : State) (f : Nat → Bool) (code unit : Nat) : State :=
  { s with recs := s.recs.map fun r =>
      if !r.inBank || r.swept || r.workDone then r
      else
        let lost := (r.unitsOf s.lay).filter fun u => f u && !(r.lostUnits.contains u)
        if lost = [] then r else (r.failWith code unit).loseUnits lost }

/-- Whether a unit of some record's unfinished entries satisfies a test. -/
def State.boundWork (s : State) (f : Nat → Bool) : Bool :=
  s.recs.any fun r => r.inBank && !r.swept && !r.workDone && (r.unitsOf s.lay).any fun u => f u && !(r.lostUnits.contains u)

/-! ## Fencing -/

/-- R135, R151, R306: fence a core: its tickets are reissued, its level returns, kind 0x0A is logged; a frond left without a
core abandons its tickets. -/
def State.fenceCore (s : State) (c status : Nat) : State :=
  let s := s.setCore c { s.core c with svc := .fenced }
  let s := (s.reissueAll (.core (Fin.ofNat 64 c)) false).returnLevel c
  let s := s.ev 0x0A status (unitId 7 c) 1
  if s.frondHasCore (c / 16) then s else s.abandonFrond (c / 16) false

/-- R176: fence a DMA engine. -/
def State.fenceEngine (s : State) (e status : Nat) : State :=
  let s := s.setEngine e { s.engine e with svc := .fenced }
  let s := s.reissueAll (.engine (Fin.ofNat 64 e)) false
  let s := s.ev 0x0A status (unitId 12 e) 1
  if s.frondHasEngine (e / 16) then s else s.abandonFrond (e / 16) true

/-- R286: the base die refuses a channel's sorus commands: what its controllers were about to run there, re-runs too, does not run, and the
ordinary accesses that waited behind it are answered. -/
def State.dropSteps (s : State) (ch : Nat) : State :=
  (s.pairs.filter fun e => e.1 / 32 == ch).foldl (fun s e =>
    (s.setPair e.1 { s.pair e.1 with rerun := none, todo := [], held := none }).serveNow e.1) s

/-- R153, R287, R306: take a channel out of service: its entries are abandoned, its tokens and, with its stack's last
channel, the stack's grants return. -/
def State.channelOut (s : State) (ch : Nat) (svc : Svc) (code : Nat) : State :=
  let s := s.setChan ch { s.chan ch with svc }
  let s := s.abandonUnits (fun u => u / 32 == ch) code (unitId 3 ch)
  ((s.returnTokens ch).dropSteps ch).returnStack (ch / 32)

/-- R287: fence a channel. -/
def State.fenceChannel (s : State) (ch status : Nat) : State :=
  (s.channelOut ch .fenced Status.outOfService).ev 0x0A status (unitId 3 ch) 1

end Sys2Proof.Machine
end

