-- ==== Sys2Proof/Machine/Waits.lean ====
section
/-! DEFINITION. Requests that execute and wait for work to end: `CTX_SUSPEND`, `Q_DRAIN`, `STREAM_SET`, `UNIT_DISABLE` (R212,
R215, R339, R340). -/

namespace Sys2Proof.Machine

open Sys2Proof

/-! ## Streams (R209, R212) -/

/-- R145: the streams that a record's length sources name by number. -/
def Rec.lenStreams (r : Rec) : List Nat :=
  [0x24, 0x28].filterMap fun o => if r.fld o 3 = 1 then some (r.fld (o + 2) 16) else none

/-- The streams that a record names: its batch list and its length sources. -/
def Rec.streams (r : Rec) : List Nat := r.batch.map (·.1) ++ r.lenStreams

/-- R212: whether a record in flight advances a stream. -/
def State.advancing (s : State) (i : Nat) : Bool :=
  s.recs.any fun r => r.batch.any fun e => e.1 == i && e.2 != 0

/-- R209: a stream table entry as its 128 bytes, one little-endian number. -/
def Stream.entry (t : Stream) : Nat :=
  let st := match t.st with
    | .free => 0
    | .active => 1
    | .faulted => 2
  st + t.ctx * 2 ^ 8 + t.pos.toNat * 2 ^ 32 + t.keys.toNat * 2 ^ 64 + t.values.toNat * 2 ^ 128 + t.kvFmt.toNat * 2 ^ 192
    + t.actZp.toNat * 2 ^ 208 + t.actScale.toNat * 2 ^ 224 + t.batchId.toNat * 2 ^ 256 + t.lastSeq.toNat * 2 ^ 288
    + t.lastQueue.toNat * 2 ^ 320

/-- R209, R213: write the RW fields that a mask selects from an entry image; writing the position ends a fault. -/
def Stream.write (t : Stream) (mask img : Nat) : Stream :=
  let f (i lo w old : Nat) : Nat := if mask.testBit i then bits img lo w else old
  { t with
    st := if mask.testBit 0 && t.st == .faulted then .active else t.st
    pos := BitVec.ofNat 32 (f 0 32 32 t.pos.toNat)
    keys := BitVec.ofNat 64 (f 1 64 64 t.keys.toNat)
    values := BitVec.ofNat 64 (f 2 128 64 t.values.toNat)
    kvFmt := BitVec.ofNat 6 (f 3 192 6 t.kvFmt.toNat)
    actZp := BitVec.ofNat 16 (f 4 208 16 t.actZp.toNat)
    actScale := BitVec.ofNat 32 (f 5 224 32 t.actScale.toNat)
    batchId := BitVec.ofNat 16 (f 6 256 16 t.batchId.toNat) }

/-- R209: execute a `STREAM_SET` request. -/
def State.streamWrite (s : State) (r : Req) : State × Nat :=
  let i := r.fld 0x10 16
  let t := (s.stream i).write (r.fld 0x12 16) (r.fld 0x20 1024)
  (s.setStream i t, t.entry)

/-! ## Units (R339, R340) -/

/-- R135, R149: whether a core holds no ticket. -/
def State.coreIdle (s : State) (c : Nat) : Bool :=
  s.recs.all fun r => (r.heldTickets (.core (Fin.ofNat 64 c)) false).isEmpty

/-- R340: whether a channel holds no work and no token. -/
def State.channelIdle (s : State) (ch : Nat) : Bool :=
  !s.boundWork (fun u => u / 32 == ch) && s.pairs.all fun e => e.1 / 32 != ch || (!e.2.token && e.2.ordQ.isEmpty)

/-- The channels that a `UNIT` of kind stack or channel names. -/
def unitChannels (u : Nat) : List Nat :=
  let i := bits u 0 28
  if bits u 28 4 = 2 then (List.range 32).map (32 * i + ·) else if bits u 28 4 = 3 then [i] else []

/-- R340: whether a draining unit holds no work and no token. -/
def State.unitIdle (s : State) (u : Nat) : Bool :=
  let i := bits u 0 28
  match bits u 28 4 with
  | 2 => (unitChannels u).all fun c => (s.chan c).svc != .draining || s.channelIdle c
  | 3 => s.channelIdle i
  | 7 => s.coreIdle i
  | 10 => (s.rport i).unacked.isEmpty
  | _ => true

/-- R349, R358, R306: a rhizoid port goes down: its quanta return. -/
def State.rportDown (s : State) (n : Nat) : State :=
  let s := s.setRPort n { s.rport n with up := false, retraining := false, heldC := 0, unacked := [], rx := [] }
  (s.lower (.rport (Fin.ofNat 8 n)) 1).dropAsked (.rport (Fin.ofNat 8 n))

/-- R350, R358: log a reroute when both ports of port `n`'s direction are down. -/
def State.rerouteLog (s : State) (n : Nat) : State :=
  if (s.rport (n / 2 * 2)).up || (s.rport (n / 2 * 2 + 1)).up then s else s.ev 0x0B 0 (unitId 10 n) 2

/-- R349: the credits of a port do not agree, or their count is lost: it goes down with `ERR_LINK_CREDIT`, until `UNIT_READMIT`. -/
def State.creditLost (s : State) (n : Nat) : State :=
  let t := s.rportDown n
  let t := (t.setRPort n { t.rport n with mismatch := true }).ev 0x0B Status.linkCredit (unitId 10 n) 3
  if (s.rport n).up then t.rerouteLog n else t

/-- R339, R358: a port's link is taken down; the last of its direction to go reroutes its traffic. -/
def State.portLeave (s : State) (n : Nat) : State :=
  if (s.rport n).up then (s.rportDown n).rerouteLog n else s.rportDown n

/-- R339, R306: a unit is out of service: its grants return. -/
def State.unitOut (s : State) (u code : Nat) : State :=
  let i := bits u 0 28
  match bits u 28 4 with
  | 7 =>
    let s := (s.setCore i { s.core i with svc := .disabled }).returnLevel i
    if s.frondHasCore (i / 16) then s else s.abandonFrond (i / 16) false
  | 9 =>
    let h := s.hcore i
    s.setHCore i { h with svc := .disabled, stopped := true, run := false }
  | 10 => (s.portLeave i).setRPort i { (s.portLeave i).rport i with svc := .disabled }
  | _ => (unitChannels u).foldl (fun s c => if (s.chan c).svc = .fenced then s else s.channelOut c .disabled code) s

/-- R339: what an abort stops at once: a core's queued operations are discarded and its tickets reissued but for a commit under
way; a port's link is taken down. A channel's entries are `State.abortUnit`'s. -/
def State.unitAbort (s : State) (u : Nat) : State :=
  let i := bits u 0 28
  match bits u 28 4 with
  | 7 => (s.setCore i { s.core i with svc := .draining, waiting := [] }).reissueAll (.core (Fin.ofNat 64 i)) true
  | 10 => s.portLeave i
  | _ => s

/-! ## Settling -/

/-- R215, R254, R274: the context of a `CTX_SUSPEND` becomes suspended, with it a host core that has started meanwhile stops, and the module's
own deadlock window begins afresh (R236). -/
def State.suspended (s : State) (c : Nat) : State :=
  let x := s.ctx c
  (((s.pauseWaits c).touch c).setCtx c { x with
    st := if x.st = .active then .suspended else x.st, suspending := false, lastAct := s.time.now }).stopCores c

/-- R340: complete a `UNIT_DISABLE` that waits in a mailbox once its unit holds no work and no token. -/
def settleUnit (s : State) (i : Nat) : State :=
  let mb : Fin 32 := Fin.ofNat 32 i
  let b := s.mbox mb
  let u := (s.req mb).fld 0x10 32
  if b.cur && b.begun && (s.req mb).opcode == 0x0B01 && s.unitIdle u then
    ((s.unitOut u Status.cancelled).ev 0x0A 0 u 0).reply mb 0 0 0 b.clamps
  else s

/-- R340: complete the waiting `UNIT_DISABLE` requests whose units are idle. -/
def State.settleUnits (s : State) : State := (List.range 32).foldl settleUnit s

/-- Complete the request of a mailbox if it waits for work that has ended. -/
def settleMb (s : State) (i : Nat) : State :=
  let mb : Fin 32 := Fin.ofNat 32 i
  let b := s.mbox mb
  let r := s.req mb
  if !(b.cur && b.begun) then s
  else match r.opcode with
    | 0x0403 =>
      let c := r.fld 0x10 16
      if (s.ctx c).st != .active || (s.ctxRecs c).all (fun r => !r.started) then
        (s.suspended c).reply mb 0 0 0 b.clamps
      else s
    | 0x0503 =>
      let q := r.fld 0x10 16
      let qu := s.queue q
      if !qu.live || (qu.drainTo == some qu.head && (s.qRecs q).isEmpty) then
        ((s.setQueue q { qu with drainTo := none }).touch qu.ctx).reply mb 0 0 0 b.clamps
      else s
    | 0x0603 =>
      if s.advancing (r.fld 0x10 16) then s
      else if (s.stream (r.fld 0x10 16)).st = .free then s.reply mb Status.contextState 0 0 []
      else
        let (s, e) := s.streamWrite r
        s.reply mb 0 128 e b.clamps
    | 0x0B01 => settleUnit s i
    | _ => s

/-- Complete the waiting requests whose work has ended. -/
def State.settle (s : State) : State := (List.range 32).foldl settleMb s

end Sys2Proof.Machine
end

