-- ==== Sys2Proof/Machine/Fabric.lean ====
section
/-! DEFINITION. Fabric links and the paths of fronds (R21 to R23). -/

namespace Sys2Proof.Machine

open Sys2Proof

/-- R23: whether a frond can reach the rachis by any route. -/
def State.hasRoute (s : State) (f : Nat) : Bool := (s.route rachis f 0).isSome

/-- The fabric links that carry traffic, as a mask. -/
def State.linkMask (s : State) : BitVec 8 :=
  BitVec.ofNat 8 (sumNat ((List.range 8).map fun l => if s.linkUp l then 2 ^ l else 0))

/-- R21: a frond's path to the rachis is lost. -/
def State.losePath (s : State) (f : Nat) : State := s.setFrond f { s.frond f with path := false }

/-- R159, R21: complete a record, or hold its completion at a frond of its that has lost its path. -/
def State.completeOrHold (s : State) (r : Rec) : State :=
  match (r.fronds s.lay).find? (fun f => !(s.frond f).path) with
  | some f =>
    let x := s.frond f
    if (r.q, r.seq) ∈ x.heldDone then s else s.setFrond f { x with heldDone := x.heldDone ++ [(r.q, r.seq)] }
  | none => s.retire r true

/-- R159, R21: a held completion of a record is done now. -/
def completeHeld (s : State) (e : Nat × Word32) : State :=
  match s.findRec e.1 e.2 with
  | some r => s.completeOrHold r
  | none => s

/-- R21: the path returns: the frond goes on, and the completions held meanwhile are done. -/
def State.pathReturn (s : State) (f : Nat) : State :=
  let held := (s.frond f).heldDone
  let s := s.setFrond f { s.frond f with path := true, heldDone := [] }
  (held.foldl completeHeld s).settle

/-- R23: the routes change, `old` being the links that carried traffic before: sources hold what they send to a granule whose route
has changed; fronds without a route lose their path, fronds that have one again regain it. -/
def State.reroute (s : State) (old : BitVec 8) : State :=
  let s := { s with oldLinks := s.oldLinks ++ [old] }
  let s := [0, 1, 2, 3].foldl (fun (s : State) f =>
    if s.hasRoute f then (if (s.frond f).path then s else s.pathReturn f)
    else if (s.frond f).path then s.losePath f else s) s
  s.resendHeld

/-- `FRONT_PATH_LOST` (R21). -/
def execFrontPathLost (f : Fin 4) (s : State) : Host.Outcome State Fault Refusal :=
  .next (if (s.frond f).path then s.losePath f else s)

/-- `FROND_PATH_RETURN` (R21): when a route exists. -/
def execFrondPathReturn (f : Fin 4) (s : State) : Host.Outcome State Fault Refusal :=
  .next (if !(s.frond f).path && s.hasRoute f then s.pathReturn f else s)

/-- R23: a request from a replay buffer goes on its route, behind others to its granule that found no credit. -/
def State.resend (s : State) (h : Nat × OrdAccess) : State :=
  if s.holding h.1 (s.ordGranule h.2) then { s with fabricHeld := s.fabricHeld ++ [h] } else s.dispatch h.1 h.2

/-- R23: what a link's replay buffer held goes on its route, in its order, ahead of what the sources hold. -/
def State.resendReplay (s : State) (replay : List (Nat × OrdAccess)) : State :=
  let t := replay.foldl State.resend { s with fabricHeld := [] }
  { t with fabricHeld := t.fabricHeld ++ s.fabricHeld }

/-- `FABRIC_LINK_RETRAIN` (R23): a link retrains, or completes its retrain with its credits: what it held is delivered, and the sources
send what waited for a credit. -/
def execFabricLinkRetrain (l : LinkRetrain) (s : State) : Host.Outcome State Fault Refusal :=
  .next (match l with
    | .begins l => if s.linkUp l then s.setFLink l { s.flink l with retraining := true } else s
    | .done l =>
      let x := s.flink l
      if s.linkUp l && x.retraining then ((s.setFLink l { svc := x.svc }).resendReplay x.replay).resendHeld else s)

/-- R23: fence a fabric link, log it, change the routes, and resend its replay buffer on the new ones. -/
def State.fenceLink (s : State) (l : Nat) : State :=
  let old := s.linkMask
  let replay := (s.flink l).replay
  let s := (s.setFLink l { svc := .fenced }).ev 0x0B Status.outOfService (unitId 11 l) 1
  (s.resendReplay replay).reroute old

/-- `FABRIC_LINK_FENCE` (R23): a link that has not completed a retrain within 1 ms. -/
def execFabricLinkFence (l : Fin 8) (s : State) : Host.Outcome State Fault Refusal :=
  .next (if s.linkUp l then s.fenceLink l else s)

/-- R23: whether a replay buffer still holds a request of a source to a granule. -/
def State.undelivered (s : State) (source granule : Nat) : Bool :=
  s.flinks.any fun e => e.2.replay.any fun h => h.1 == source && s.ordGranule h.2 == granule

/-- `FABRIC_ROUTE_RELEASE` (R23): a source moves its held requests to a granule to the new route, every request that it sent to
that granule on the old route being delivered or resent. -/
def execFabricRouteRelease (source granule : Nat) (s : State) : Host.Outcome State Fault Refusal :=
  .next (if s.undelivered source granule then s
    else
      let others := s.routeNew.filter fun e => !(e.1 == source && e.2.1 == granule)
      ({ s with routeNew := (source, granule, s.oldLinks.length) :: others } : State).resendHeld)

/-! ## Accesses that arrive (R94) -/

/-- `ORDINARY_ACCESS_SERVE` (R94 to R98): accesses join the pair's queue; the controller serves those that a step boundary allows; a
channel that drains may be idle then (R340). -/
def execOrdinaryAccessServe (su : Nat) (arrived : List OrdAccess) (s : State) : Host.Outcome State Fault Refusal :=
  let here := arrived.filter fun a => (ordCols a).all fun c => colUnit c == su
  .next (((s.setPair su { s.pair su with ordQ := (s.pair su).ordQ ++ here }).serveNow su).settleUnits)

end Sys2Proof.Machine
end

