-- ==== Sys2Proof/Machine/RecordFields.lean ====
section
/-! DEFINITION. What a Filast record names: operand slots, reserved fields, tile-walk fields, tickets (R136 to R146, R154, R155). -/

namespace Sys2Proof.Machine

open Sys2Proof

/-! ## Operand slots (R139) -/

/-- R139: a descriptor-named operand of an operation: its place in `Rec.descs` (0 to 3: `REF0` to `REF3`; 4 `ROWSUM`; 5
`FACTOR`), the byte offset of its reference, whether it is written, whether it is optional. -/
structure OpSlot where
  idx : Nat
  off : Nat
  write : Bool := false
  opt : Bool := false
deriving DecidableEq, Repr

/-- R139: the descriptor operands of an operation. -/
def opSlots (op : Nat) (spore : Bool) : List OpSlot :=
  match op with
  | 0x01 => [⟨0, 0x30, true, false⟩, ⟨1, 0x38, false, false⟩, ⟨2, 0x40, false, false⟩, ⟨3, 0x48, false, true⟩]
  | 0x02 => [⟨0, 0x30, true, false⟩, ⟨1, 0x38, false, false⟩, ⟨2, 0x40, false, false⟩, ⟨3, 0x48, false, true⟩,
      ⟨4, 0x78, false, false⟩]
  | 0x10 => [⟨0, 0x30, true, false⟩, ⟨1, 0x38, false, false⟩, ⟨4, 0x48, false, false⟩, ⟨5, 0x58, false, true⟩]
  | 0x13 => [⟨1, 0x38, true, false⟩]
  | 0x20 => [⟨0, 0x30, true, false⟩, ⟨1, 0x38, false, false⟩, ⟨2, 0x40, false, true⟩, ⟨3, 0x48, false, true⟩]
  | 0x21 => [⟨0, 0x30, true, false⟩, ⟨1, 0x38, false, false⟩]
  | 0x22 => [⟨0, 0x30, true, false⟩, ⟨1, 0x38, false, false⟩, ⟨2, 0x40, false, true⟩, ⟨3, 0x48, false, true⟩]
  | 0x30 => [⟨0, 0x30, true, false⟩, ⟨1, 0x38, false, false⟩]
  | 0x31 => [⟨0, 0x30, true, false⟩, ⟨1, 0x38, false, false⟩]
  | 0x32 => [⟨0, 0x30, true, false⟩, ⟨1, 0x38, false, false⟩, ⟨2, 0x40, false, false⟩]
  | 0x33 => [⟨0, 0x30, true, false⟩, ⟨1, 0x38, false, false⟩, ⟨2, 0x40, false, false⟩]
  | 0x34 => if spore then [] else [⟨1, 0x38, false, false⟩]
  | 0x35 => [⟨0, 0x30, true, false⟩]
  | 0x40 => [⟨0, 0x30, true, false⟩, ⟨1, 0x38, false, false⟩]
  | _ => []

/-- The slots of a record that hold a reference: the required ones, and the optional ones that are not all zero (R137). -/
def Rec.slots (r : Rec) : List OpSlot :=
  (opSlots r.op r.spore).filter fun x => !x.opt || r.fld x.off 64 != 0

/-- The descriptor that the sequencer read for a slot. -/
def Rec.desc (r : Rec) (i : Nat) : Option Desc := r.descs.getD i none

/-! ## Operations -/

/-- R139: the operations. -/
def opKnown (op : Nat) : Bool :=
  [0x01, 0x02, 0x10, 0x11, 0x12, 0x13, 0x20, 0x21, 0x22, 0x30, 0x31, 0x32, 0x33, 0x34, 0x35, 0x36, 0x40, 0x50, 0x51, 0x52].contains op

/-- R139: the highest legal `VARIANT` of an operation. -/
def variantMax (op : Nat) : Nat :=
  match op with
  | 0x11 => 15
  | 0x12 => 7
  | 0x13 => 2
  | 0x21 => 5
  | 0x22 => 2
  | 0x34 => 3
  | 0x35 => 3
  | 0x40 => 2
  | 0x50 => 1
  | 0x51 => 3
  | 0x52 => 1
  | _ => 0

/-- R139 `MEM_ROWOP`: `FN`. -/
def Rec.fn (r : Rec) : Nat := r.variant % 8
/-- R139 `MEM_ROWOP`: `BROADCAST`. -/
def Rec.broadcast (r : Rec) : Bool := r.op == 0x11 && decide (8 ≤ r.variant)
/-- R139 `MODE`. -/
def Rec.mode (r : Rec) : Nat := r.fld 0x50 2
/-- Whether a record is a `MATMUL` or `MATMUL_Q`. -/
def Rec.isMatmul (r : Rec) : Bool := r.op == 0x01 || r.op == 0x02
/-- R139: the byte offset of a record's batch list reference. -/
def Rec.batchOff (r : Rec) : Option Nat := if r.op = 0x10 then some 0x50 else if r.isMatmul then some 0x70 else none
/-- R145: whether a record has a batch list. -/
def Rec.hasBatch (r : Rec) : Bool :=
  match r.batchOff with
  | some o => r.fld o 64 != 0
  | none => false
/-- R139 `CHAIN_N`. -/
def Rec.chainN (r : Rec) : Nat := if r.isMatmul || r.op == 0x20 then (if r.op = 0x20 then r.fld 0x50 4 else bits r.raw.toNat (8 * 0x50 + 4) 4) else 0
/-- R139, R140: the stages of a record. -/
def Rec.stages (r : Rec) : List Stage := (List.range (Nat.min 8 r.chainN)).map fun i => stageOf (r.fld (0x54 + 2 * i) 16)
/-- R139: the immediates of a record. -/
def Rec.imm (r : Rec) (i : Nat) : Word32 := BitVec.ofNat 32 (r.fld (0x64 + 4 * i) 32)
/-- R139 `DIM`. -/
def Rec.dim (r : Rec) : Nat := if r.op = 0x21 then r.fld 0x40 3 else if r.op = 0x22 then r.fld 0x50 3 else r.fld 0x48 3
/-- R142: the bytes of a spore. -/
def Rec.sporeLen (r : Rec) : Nat := bits r.raw.toNat (8 * 0x1C + 16) 6 + 1
/-- R136 `PAD_SEL`. -/
def Rec.padSel (r : Rec) : Nat := bits r.raw.toNat (8 * 0x1C + 24) 2
/-- R195: whether a record has a wide source. -/
def Rec.hasWide (r : Rec) : Bool := r.satLimit != 0xFF && (r.op == 0x10 || (r.isMatmul && r.mode != 3))
/-- R195: the wide format of an activation format. -/
def wideFmt (f : Nat) : Option Nat := if f = 1 ∨ f = 2 then some 3 else if f = 8 ∨ f = 9 then some 0x0A else none

/-! ## `GEMV_MEM` operands (R102, R396) -/

/-- R139 `W_MAP_COUNT`. -/
def Rec.mapCount (r : Rec) : Nat := r.fld 0x60 17
/-- R139 `W_FMT`: int8 weights. -/
def Rec.w8 (r : Rec) : Bool := r.raw.getLsbD (8 * 0x60 + 17)
/-- R139 `W_LAYOUT`: split. -/
def Rec.split (r : Rec) : Bool := r.raw.getLsbD (8 * 0x60 + 18)
/-- R139 `GROUP`. -/
def Rec.wGroup (r : Rec) : Nat := bits r.raw.toNat (8 * 0x60 + 19) 2
/-- R139 `SCALE_EN`. -/
def Rec.scaleEn (r : Rec) : Bool := r.raw.getLsbD (8 * 0x60 + 21)
/-- R139 `ENGINE`. -/
def Rec.engineSel (r : Rec) : Nat := bits r.raw.toNat (8 * 0x60 + 22) 2
/-- R139 `N`. -/
def Rec.gemvN (r : Rec) : Nat := r.fld 0x64 25
/-- R139 `K_SLICES`. -/
def Rec.kSlices (r : Rec) : Nat := r.fld 0x68 13
/-- R102, R63: the elements of a K-slice. -/
def Rec.sliceE (r : Rec) : Nat := if r.w8 then 1024 else if r.split then 1024 else 2048
/-- R103: the output rows that a weight row serves. -/
def Rec.rowsPer (r : Rec) : Nat := if r.split then 2 else 1
/-- R139: the zero point of `GEMV_MEM` and `MATMUL_Q`. -/
def Rec.zp (r : Rec) : Int := toSigned 16 (if r.op = 0x10 then r.fld 0x6A 16 else r.fld 0x52 16)

/-! ## Reserved fields (R7, R136, R139, R142) -/

/-- The fields of the operation area (from byte 0x40 on): bit position in the record and width. -/
def Rec.areaFields (r : Rec) : List (Nat × Nat) :=
  if r.spore then [(512, 8 * r.sporeLen)]
  else
    let f := fieldAt
    let chain := [f 0x54 128, f 0x64 96]
    match r.op with
    | 0x01 => [f 0x40 64, f 0x48 64, (8 * 0x50, 2), (8 * 0x50 + 4, 4), f 0x70 64] ++ chain
    | 0x02 => [f 0x40 64, f 0x48 64, (8 * 0x50, 2), (8 * 0x50 + 4, 10), f 0x52 16, f 0x70 64, f 0x78 64] ++ chain
    | 0x10 => [f 0x40 256, (8 * 0x60, 24), f 0x64 25, f 0x68 13, f 0x6A 16, f 0x6C 32, f 0x70 6]
    | 0x11 => if r.broadcast then [f 0x40 18, f 0x44 16, f 0x48 32, f 0x4C 16] else []
    | 0x12 => [f 0x40 8, f 0x44 64, f 0x4C 16]
    | 0x13 => [f 0x40 2, (8 * 0x40 + 8, 5), f 0x42 5, f 0x48 32] ++ (if r.variant = 1 then [f 0x44 32] else [])
    | 0x20 => [f 0x40 64, f 0x48 64, f 0x50 4] ++ chain
    | 0x21 => [f 0x40 3]
    | 0x22 => [f 0x40 64, f 0x48 64, f 0x50 3, f 0x54 32]
    | 0x31 => [f 0x40 18]
    | 0x32 => [f 0x40 64, f 0x48 3]
    | 0x33 => [f 0x40 64, f 0x48 3]
    | 0x40 => [f 0x40 2, f 0x42 16]
    | 0x51 => [f 0x40 32]
    | 0x52 => [f 0x40 14, f 0x42 16]
    | _ => []

/-- R139: the references among `REF0` and `REF1` that an operation leaves zero. -/
def Rec.zeroRefs (r : Rec) : List Nat :=
  match r.op with
  | 0x11 =>
    (if r.broadcast then [0x30] else []) ++ (if r.fn = 1 ∧ !(r.spore && !r.broadcast) then [] else [0x38])
  | 0x12 => if r.variant = 7 then [] else [0x38]
  | 0x34 => if r.spore then [0x38] else []
  | 0x36 => [0x38]
  | 0x50 => (if r.spore then [] else [0x30]) ++ [0x38]
  | 0x51 => [0x30, 0x38]
  | 0x52 => [0x30, 0x38]
  | _ => []

/-- R137: the line references of a record besides its descriptors: byte offset, and whether the table names `COUNT`. -/
def Rec.otherRefs (r : Rec) : List (Nat × Bool) :=
  match r.op with
  | 0x01 => [(0x70, true)]
  | 0x02 => [(0x70, true)]
  | 0x10 => [(0x40, false), (0x50, true)]
  | 0x11 => if r.broadcast then [(0x38, false)] else [(0x30, true), (0x38, false)]
  | 0x12 => [(0x30, true), (0x38, false)]
  | 0x13 => [(0x30, true)]
  | _ => []

/-- R136: whether a record holds a reference at an offset: its operation area may hold a spore instead. -/
def Rec.holds (r : Rec) (off : Nat) : Bool := decide (off < 0x40) || !r.spore

/-- R7, R136, R139, R140, R142, R145: a reserved field of the record itself is not zero. -/
def Rec.reserved (r : Rec) : Bool :=
  let x := r.raw.toNat
  let area := (bits x 512 512) <<< 512
  bit x 15 || bits x 30 2 != 0
    || (List.range 4).any (fun i => decide (bits x 24 3 ≤ i) && r.fld (4 + 2 * i) 16 != 0)
    || (List.range 4).any (fun i => decide (bits x 27 3 ≤ i) && r.fld (12 + 2 * i) 16 != 0)
    || bit x (8 * 0x14 + 3) || bit x (8 * 0x14 + 7) || bits x (8 * 0x14 + 11) 5 != 0
    || bits x (8 * 0x18 + 6) 2 != 0 || bits x (8 * 0x18 + 14) 2 != 0
    || bits x (8 * 0x1C + 22) 2 != 0 || bits x (8 * 0x1C + 26) 6 != 0
    || bits x (8 * 0x24 + 9) 7 != 0 || bits x (8 * 0x28 + 9) 7 != 0 || bits x (8 * 0x2C + 4) 28 != 0
    || (opKnown r.op &&
        ((area &&& fieldMask r.areaFields) != area
          || r.zeroRefs.any (fun o => r.fld o 64 != 0)
          || r.slots.any (fun s => r.holds s.off && !lineOk (r.fld s.off 64) false)
          || r.otherRefs.any (fun o => r.holds o.1 && !lineOk (r.fld o.1 64) o.2)
          || (!r.spore && r.stages.any fun st => !stageShifts st.op && st.op != 0x3F && st.arg != 0)))

/-! ## Tile walk (R143, R146) -/

/-- R146: whether a record walks tiles. -/
def Rec.tiled (r : Rec) : Bool :=
  [0x01, 0x02, 0x20, 0x21, 0x22, 0x30, 0x31, 0x32, 0x33, 0x34, 0x35, 0x36].contains r.op || (r.op == 0x10 && r.engineSel != 1)
/-- Whether a record has a K dimension. -/
def Rec.hasK (r : Rec) : Bool := r.isMatmul || r.op == 0x10

/-- R146 `ORDER_F`, `ORDER_C`, `ORDER_T`. -/
def Rec.orderF (r : Rec) : Nat := r.fld 0x14 3
/-- R146 `ORDER_C`. -/
def Rec.orderC (r : Rec) : Nat := bits r.raw.toNat (8 * 0x14 + 4) 3
/-- R146 `ORDER_T`. -/
def Rec.orderT (r : Rec) : Nat := bits r.raw.toNat (8 * 0x14 + 8) 3
/-- R136: the rows of a tile. -/
def Rec.tileM (r : Rec) : Nat := r.fld 0x18 6 + 1
/-- R136: the columns of a tile. -/
def Rec.tileN (r : Rec) : Nat := bits r.raw.toNat (8 * 0x18 + 8) 6 + 1

/-- R190, R122: whether a record runs in segment mode on frond cores. -/
def Rec.segmentMode (r : Rec) : Bool :=
  r.op == 0x10 || (r.isMatmul && decide (r.mode < 2) && (match r.desc 2 with
    | some w => w.scaled
    | none => false))

/-- R143: the K step, clamped. -/
def Rec.kStep (r : Rec) : Nat :=
  let k := bits r.raw.toNat (8 * 0x18 + 16) 8 + 1
  if r.segmentMode then (if 256 ≤ k then 256 else if 128 ≤ k then 128 else 64)
  else if r.isMatmul ∧ r.mode = 1 ∧ k % 2 = 1 then k + 1 else k

/-- R143: the M × N matrix of a record: the product of the outer extents, and the innermost extent, of its destination (of the
source of a `HOST_WRITE`; one element for a spore). -/
def Rec.matrix (r : Rec) : Nat × Nat :=
  match (if r.op = 0x34 then r.desc 1 else r.desc 0) with
  | some d => (elems d.ext.tail, d.ext.headD 1)
  | none => (1, 1)

/-- R143: the grid of tiles. -/
def Rec.grid (r : Rec) : Nat × Nat :=
  let (m, n) := r.matrix
  (Nat.max 1 (ceilDiv m r.tileM), Nat.max 1 (ceilDiv n r.tileN))

/-- R146: `BLK_FM`, clamped. -/
def Rec.blkM (r : Rec) : Nat := clampNat 1 r.grid.1 (r.fld 0x16 8)
/-- R146: `BLK_FN`, clamped. -/
def Rec.blkN (r : Rec) : Nat := clampNat 1 r.grid.2 (r.fld 0x17 8)

/-- The K elements that a record sums over. -/
def Rec.kTotal (r : Rec) : Nat :=
  match r.desc 1 with
  | some d => d.ext.headD 0
  | none => 0
/-- R146: the K steps of the whole K. -/
def Rec.kSteps (r : Rec) : Nat := ceilDiv r.kTotal r.kStep
/-- R146: `BLK_CK`, clamped; 0 means the whole K. -/
def Rec.blkCK (r : Rec) : Nat := if r.fld 0x1B 8 = 0 then r.kSteps else Nat.min (r.fld 0x1B 8) r.kSteps

/-- R143, R146: how many of the record's fields are clamped. -/
def Rec.clampCount (r : Rec) : Nat :=
  if !r.tiled then 0
  else
    let one (a b : Nat) : Nat := if a = b then 0 else 1
    let k := bits r.raw.toNat (8 * 0x18 + 16) 8 + 1
    one r.blkM (r.fld 0x16 8) + one r.blkN (r.fld 0x17 8)
      + if r.hasK then one r.kStep k + (if r.kSteps < r.fld 0x1B 8 then 1 else 0) else 0

/-- R146: the grid of tickets. -/
def Rec.ticketGrid (r : Rec) : Nat × Nat := (ceilDiv r.grid.1 r.blkM, ceilDiv r.grid.2 r.blkN)

/-- R146: the number of the ticket that covers the tile at (i, j) of the grid. -/
def Rec.ticketOf (r : Rec) (i j : Nat) : Nat :=
  let (gm, gn) := r.ticketGrid
  let ti := i / r.blkM
  let tj := j / r.blkN
  if r.orderF = 0 then ti * gn + tj else tj * gm + ti

/-- The ticket that covers the element at (m, n) of the record's matrix. -/
def Rec.ticketAt (r : Rec) (m n : Nat) : Nat := r.ticketOf (m / r.tileM) (n / r.tileN)

/-! ## Capacity (R154, R155) -/

/-- R154: the chunk's tiles (cm, cn), which are the live tiles. -/
def Rec.chunk (r : Rec) : Nat × Nat :=
  match r.orderC with
  | 0 => (1, 1)
  | 2 => (1, 1)
  | 1 => (1, r.blkN)
  | 3 => (r.blkM, 1)
  | _ => (r.blkM, r.blkN)

/-- R154: the spill of a record in KiB. -/
def Rec.spill (r : Rec) : Nat :=
  let live := r.chunk.1 * r.chunk.2
  let w := if r.segmentMode then 4 else 1
  if live * w ≤ 32 then 0 else (live - (32 / w - 1)) * w * 16

/-- The bits of a weight element. -/
def Rec.weightBits (r : Rec) : Nat :=
  if r.op = 0x10 then (if r.w8 then 8 else 4)
  else match r.desc 2 with
    | some d => fmtBits d.fmt
    | none => 0

/-- The bytes of the scales of a chunk (R155). -/
def Rec.chunkScales (r : Rec) (k : Nat) : Nat :=
  let n := r.chunk.2 * r.tileN
  if r.op = 0x10 then (if r.scaleEn then n * ceilDiv k (groupSize r.wGroup) * 2 else 0)
  else match r.desc 2 with
    | some d => if d.scaled then n * ceilDiv k (groupSize d.group) * (fmtBits (scaleFmtCode d.scaleFmt) / 8) else 0
    | none => 0

/-- R155: the bytes of a ticket's staged output. -/
def Rec.stagedOut (r : Rec) : Nat :=
  let obits := match r.desc 0 with
    | some d => fmtBits d.fmt
    | none => 0
  r.blkM * r.blkN * r.tileM * r.tileN * obits / 8

/-- R155: the core-memory footprint of a ticket, in bytes, with chunk loads not doubled. An operation without a K dimension has no
chunks: its footprint is its staged output. -/
def Rec.footprint (r : Rec) : Nat :=
  if !r.hasK then r.stagedOut
  else
    let k := r.blkCK * r.kStep
    let (cm, cn) := r.chunk
    let abits := match r.desc 1 with
      | some d => fmtBits d.fmt
      | none => 0
    cm * r.tileM * k * abits / 8 + cn * r.tileN * k * r.weightBits / 8 + r.chunkScales k + r.stagedOut + r.spill * 1024

/-- R154, R155: the record does not fit. -/
def Rec.overCapacity (r : Rec) : Bool :=
  (r.hasK && decide (r.fld 0x1C 16 < r.spill)) || decide (4096 * 1024 < r.footprint)

end Sys2Proof.Machine
end

