-- ==== Sys2Proof/Machine/RecordCheck.lean ====
section
/-! DEFINITION. The decode of a Filast record (R138): what the sequencer reads, and the checks in their class order. -/

namespace Sys2Proof.Machine

open Sys2Proof

/-! ## Failures by class (R138) -/

/-- R138: a failed check: ten times its class plus the order within it, and the unit that a completion names. -/
abbrev Fail := Nat × Nat

/-- R138: the status of a class. -/
def failStatus (k : Nat) : Nat :=
  match k with
  | 10 => Status.fieldRange
  | 20 => Status.fieldRange
  | 30 => Status.outOfBounds
  | 40 => Status.notOwner
  | 50 => Status.misaligned
  | 60 => Status.destAlias
  | 61 => Status.overlap
  | 70 => Status.unsupported
  | 80 => Status.contextState
  | 81 => Status.contextState
  | 82 => Status.positionExhausted
  | 90 => Status.outOfService
  | 91 => Status.hostLinkLost
  | 100 => Status.capacity
  | _ => Status.powerDenied

/-- A check: a failure of class `k` when `b` holds. -/
def failIf (b : Bool) (k : Nat) (unit : Nat := 0) : List Fail := if b then [(k, unit)] else []

/-- R138: the first failure of the lowest class. -/
def firstFail : List Fail → Option Fail
  | [] => none
  | f :: r =>
    match firstFail r with
    | none => some f
    | some g => if g.1 < f.1 then some g else some f

/-! ## Objects (R137, R138) -/

/-- Whether a DPA range lies in DPA space and in the windows of a context. -/
def State.inBounds (s : State) (c : Nat) (lo hi : Int) (write : Bool) : Bool :=
  decide (0 ≤ lo) && decide (hi < 2 ^ 41) && s.inWindows c lo.toNat hi.toNat write

/-- R137, R138: a control object of `n` bytes may be read. -/
def State.objIn (s : State) (c dpa n : Nat) : Bool :=
  n == 0 || s.inBounds c (dpa : Int) ((dpa + n : Nat) - 1 : Int) false

/-- R43: whether every column of an object is in service. -/
def State.objUp (s : State) (dpa n : Nat) : Bool := (s.colsOf dpa n).all s.colUp

/-- R138: a control object as it is read: its bytes as a number; `none` when it is not read. -/
def State.obj (s : State) (c dpa n : Nat) : Option Nat :=
  if s.objIn c dpa n && s.objUp dpa n then some (s.readNum dpa n).1 else none

/-- The failures of reading an object: outside the windows, out of service. -/
def State.objFails (s : State) (c dpa n : Nat) : List Fail :=
  if !s.objIn c dpa n then [(30, 0)]
  else match (s.colsOf dpa n).find? fun col => !s.colUp col with
    | some col => [(90, unitId 4 (locOf col).gpc)]
    | none => []

/-- The columns that reading an object touches. -/
def State.objCols (s : State) (c dpa n : Nat) : List Nat :=
  if s.objIn c dpa n && s.objUp dpa n then s.colsOf dpa n else []

/-- Number `i` of an array of `w`-bit entries in an object. -/
def entryOf (img w i : Nat) : Nat := bits img (w * i) w

/-- R43, R138: the pseudo-channels that a DPA range touches are in service; the first that is not. -/
def State.spanDown (s : State) (lo hi : Nat) : Option Nat :=
  if s.chans.all (fun e => e.2.svc == .inService) && s.fronds.all (fun e => e.2.path) then none
  else (((List.range (hi / 256 - lo / 256 + 1)).map fun i => (s.lay.loc (256 * (lo / 256 + i))).gpc).find? fun g => !s.pcFree g)

/-! ## Descriptors -/

/-- R43: the pseudo-channel of the first element of an operand, over its actual extent, that lies out of service: gaps that its strides leave
are not accessed. -/
def State.opndDown (s : State) (d : Desc) (ext : List Nat) : Option Nat :=
  if s.chans.all (fun e => e.2.svc == .inService) && s.fronds.all (fun e => e.2.path) then none
  else ((List.range (elems ext)).map fun i => (s.lay.loc (d.addr (d.off (indexOf ext i))).toNat).gpc).find? fun g => !s.pcFree g

/-- The image of a descriptor, when it is read. -/
def State.descImg (s : State) (c dpa : Nat) : Option Nat := s.obj c dpa 128

/-- R166: the outlier index array of a descriptor: DPA and bytes. -/
def Desc.outArray (d : Desc) : Nat × Nat := (lineDpa d.outIdx, if d.outIdx = 0 then 0 else 4 * d.outCount)

/-- R160, R166: a descriptor at a DPA, with its outlier channels read. -/
def State.readDesc (s : State) (c dpa : Nat) : Option Desc :=
  (s.descImg c dpa).map fun x =>
    let d := Desc.parse dpa x
    let chans := match s.obj c d.outArray.1 d.outArray.2 with
      | some img => (List.range d.outCount).map fun i => entryOf img 32 i
      | none => []
    { d with outChans := if d.outIdx = 0 then [] else chans }

/-- R166: the outlier channels of an operand break its limits: their number, their order as int32, their range. DESIGN CHOICE (log entry 144):
`EXT0` is that of the descriptor that carries the pair, of the row-sum operand of `GEMV_MEM` too. -/
def Desc.outBad (d : Desc) : Bool :=
  let k := Nat.min (2 ^ 31) (d.ext.headD 0)
  let rec rising : List Nat → Bool
    | [] => true
    | [a] => decide (a < k)
    | a :: b :: r => decide (a < b) && decide (a < k) && rising (b :: r)
  d.outIdx != 0 && (d.outCount == 0 || decide (d.ext.headD 0 * 10 / 1000 < d.outCount) || !rising d.outChans)

/-- R138, R160 to R167: the checks of one descriptor and of the operand that it names over its actual extent. -/
def State.descFails (s : State) (c dpa : Nat) (ext : Desc → List Nat) (write inbank : Bool) : List Fail :=
  match s.descImg c dpa with
  | none => s.objFails c dpa 128
  | some x =>
    let d := Desc.parse dpa x
    let sp := d.span (ext d)
    failIf (descReserved x) 10 ++ failIf (descRange x || ((s.readDesc c dpa).any Desc.outBad)) 20
      ++ (match sp with
        | some (lo, hi) =>
          failIf (!s.inBounds c lo hi write) 30
            ++ (if 0 ≤ lo ∧ hi < 2 ^ 41 then
                (match s.opndDown d (ext d) with
                  | some g => [(90, unitId 4 g)]
                  | none => [])
                ++ failIf (inbank && decide (s.lay.first * 2 ^ 30 ≤ hi.toNat) && !d.bankAligned) 50
              else [])
        | none => [])
      ++ (if d.scaled then s.objFails c (lineDpa d.scaleRef) d.scaleBytes else [])
      ++ (if d.outIdx = 0 then [] else s.objFails c d.outArray.1 d.outArray.2 ++ s.objFails c (lineDpa d.outData) 128)
      ++ failIf (write && d.badInt4) 70

/-- R166: the 128 bytes of a descriptor lie wholly in the interleaved pool. DEDUCED (log entry 114): the condition is on the descriptor's own
place, as R166 words it; its tensor may lie in either pool. -/
def State.interleavedAt (s : State) (dpa : Nat) : Bool := decide (dpa + 128 ≤ s.lay.first * 2 ^ 30)

/-! ## What is read at decode -/

/-- The entries of a record's row-op list. -/
def Rec.rowCount (r : Rec) : Nat := if r.broadcast then 0 else if r.op = 0x11 ∨ r.op = 0x12 ∨ r.op = 0x13 then lineCount (r.fld 0x30 64) else 0

/-- R145: the position that a length source of a record gives, from a stream. -/
def State.lenFrom (s : State) (r : Rec) (i stream : Nat) : Nat :=
  (s.stream stream).pos.toNat + if r.raw.getLsbD (8 * lenOff i + 8) then 1 else 0

/-- R145: the lengths of a source, read once. -/
def State.lensOf (s : State) (r : Rec) (i : Nat) : List Nat :=
  match r.lenMode i with
  | 1 => [s.lenFrom r i (r.fld (lenOff i + 2) 16)]
  | 2 => r.batch.map fun e => s.lenFrom r i e.1
  | _ => []

/-- R396: the batch count of a record: the streams of its batch list, else the rows of `X`. -/
def Rec.batchCount (r : Rec) : Nat :=
  if r.hasBatch then r.batch.length
  else match r.desc 1 with
    | some d => d.ext.getD 1 0
    | none => 0

/-- R112: the engine of a record: 1 in-bank, 2 frond cores. -/
def State.engineOf (s : State) (r : Rec) : Nat :=
  if r.op ≠ 0x10 then 2
  else if r.engineSel ≠ 0 then r.engineSel
  else if r.batchCount ≤ s.power.inbankBatch ∧ 0 < s.pool then 1 else 2

/-- R386: the pseudo-channels that a broadcast reaches: bank-local, selected by `PCSEL`. -/
def State.bcPcs (s : State) (r : Rec) : List Nat :=
  (List.range 2048).filter fun g => (r.fld 0x42 2).testBit (g % 2) && !s.lay.inPool g

/-- R86, R215: of the pseudo-channels that a broadcast reaches, those that decode sees out of service. -/
def State.pcsGone (s : State) (r : Rec) : List Nat :=
  if !r.broadcast ∨ s.chans.all (fun e => e.2.svc == .inService) && s.fronds.all (fun e => e.2.path) then []
  else (s.bcPcs r).filter fun g => !s.pcFree g

/-- R138: the record with everything that the sequencer reads at decode. -/
def State.readRec (s : State) (r : Rec) : Rec :=
  let c := r.ctx
  let has (i : Nat) : Option OpSlot := r.slots.find? (·.idx == i)
  let descs := (List.range 6).map fun i => match has i with
    | some x => s.readDesc c (lineDpa (r.fld x.off 64))
    | none => none
  let r : Rec := { r with descs }
  let wide := if r.hasWide then (r.desc 1).bind fun d => s.readDesc c (d.at_ + 128) else none
  let outOf (d : Option Desc) : Option Desc := d.bind fun d => if d.outIdx = 0 then none else s.readDesc c (lineDpa d.outData)
  let mapE := if r.op = 0x10 then
      (match s.obj c (lineDpa (r.fld 0x40 64)) (16 * r.mapCount) with
      | some img => (List.range r.mapCount).map fun i => mapEntryOf (entryOf img 128 i)
      | none => [])
    else []
  let rowE := match s.obj c (lineDpa (r.fld 0x30 64)) (16 * r.rowCount) with
    | some img => (List.range r.rowCount).map fun i => rowEntryOf (entryOf img 128 i)
    | none => []
  let batch := match r.batchOff with
    | some o =>
      let n := lineCount (r.fld o 64)
      (match s.obj c (lineDpa (r.fld o 64)) (4 * n) with
      | some img => if r.hasBatch then (List.range n).map fun i => batchEntry (entryOf img 32 i) else []
      | none => [])
    | none => []
  let idx := if r.op = 0x32 ∨ r.op = 0x33 then
      (match r.desc 2 with
      | some d =>
          let at_ := (List.range (d.ext.headD 0)).map fun i => (d.addr (d.off [i])).toNat
          if at_.all fun a => s.objUp a 4 then at_.map fun a => toSigned 32 (s.readNum a 4).1 else []
      | none => [])
    else []
  let r : Rec := { r with wide, outX := outOf (r.desc 1), outW := outOf (r.desc (if r.op = 0x10 then 4 else 2)), mapE, rowE, batch, idx }
  let r : Rec := { r with posA := s.lensOf r 0, posB := s.lensOf r 1, vcount := r.batchCount }
  let r : Rec := { r with engine := s.engineOf r }
  { r with clamps := r.clampCount, gonePcs := s.pcsGone r }

/-- The span of the index tensor of a record, as an object. -/
def Rec.idxObj (r : Rec) : List (Nat × Nat) :=
  if r.op = 0x32 ∨ r.op = 0x33 then
    (match r.desc 2 with
    | some d => (match d.span d.ext with
      | some (lo, hi) => if 0 ≤ lo then [(lo.toNat, (hi - lo).toNat + 1)] else []
      | none => [])
    | none => [])
  else []

/-- R138: the control objects that a record names: DPA and bytes. -/
def Rec.objects (r : Rec) : List (Nat × Nat) :=
  let line (o n : Nat) : Nat × Nat := (lineDpa (r.fld o 64), n)
  let side (d : Option Desc) : List (Nat × Nat) := match d with
    | some d => if d.outIdx = 0 then [] else [d.outArray, (lineDpa d.outData, 128)]
    | none => []
  (r.slots.map fun x => line x.off 128)
    ++ (r.descs.map side).flatten
    ++ (if r.hasWide then [(lineDpa (r.fld 0x38 64) + 128, 128)] else [])
    ++ (if r.op = 0x10 then [line 0x40 (16 * r.mapCount)] else [])
    ++ (if 0 < r.rowCount then [line 0x30 (16 * r.rowCount)] else [])
    ++ (match r.batchOff with
      | some o => if r.hasBatch then [line o (4 * lineCount (r.fld o 64))] else []
      | none => [])
    ++ r.idxObj

/-- The columns of the control objects that are read. -/
def State.decodeCols (s : State) (r : Rec) : List Nat :=
  dedup (r.objects.map fun o => s.objCols r.ctx o.1 o.2).flatten

/-! ## Streams (R145, R211) -/

/-- R210: whether a stream lies in the range of a context. -/
def State.inRange (s : State) (c i : Nat) : Bool :=
  let x := s.ctx c
  decide (x.strFirst ≤ i) && decide (i < x.strFirst + x.strCount)

/-- R211: a stream whose position would pass 0xFFFF_FFFF. -/
def State.exhausted (s : State) (e : Nat × Nat) : Bool := decide (0xFFFFFFFF < (s.stream e.1).pos.toNat + e.2)

/-- R138 class 8: the checks of one named stream with its advance. -/
def State.streamFails (s : State) (c : Nat) (e : Nat × Nat) : List Fail :=
  failIf (!s.inRange c e.1) 20 ++ failIf ((s.stream e.1).st == .free) 80
    ++ failIf ((s.stream e.1).st == .faulted || s.exhausted e) 82

/-- R211: the checks of a record's batch list. -/
def State.batchFails (s : State) (r : Rec) : List Fail :=
  match r.batchOff with
  | none => []
  | some o =>
    if !r.hasBatch then []
    else
      let n := lineCount (r.fld o 64)
      let dpa := lineDpa (r.fld o 64)
      failIf (n == 0 || decide (8192 < n)) 20
        ++ s.objFails r.ctx dpa (4 * n)
        ++ (match s.obj r.ctx dpa (4 * n) with
          | some img => failIf ((List.range n).any fun i => batchReserved (entryOf img 32 i)) 10
          | none => [])
        ++ failIf (decide ((dedup (r.batch.map (·.1))).length < r.batch.length)) 20
        ++ (r.batch.map fun e => s.streamFails r.ctx e).flatten

/-- R145: the checks of a length source. -/
def State.lenFails (s : State) (r : Rec) (i : Nat) : List Fail :=
  let m := r.lenMode i
  if m = 0 then []
  else
    let isOpnd := r.slots.any fun x => x.idx == r.lenOpnd i && decide (x.idx < 4)
    let dimBad := match r.desc (r.lenOpnd i) with
      | some d => decide (d.ext.length ≤ r.lenDim i)
      | none => false
    failIf (decide (3 ≤ m) || !isOpnd || dimBad || (m == 2 && !r.hasBatch)) 20
      ++ (if m = 1 then s.streamFails r.ctx (r.fld (lenOff i + 2) 16, 0) else [])

/-! ## Common checks -/

/-- R136, R139, R142, R146, R219: the checks of the record itself, with `inbank` its engine. -/
def State.commonFails (s : State) (r : Rec) : List Fail :=
  let x := r.raw.toNat
  let inbank := r.inBank
  let waitN := bits x 24 3
  let sigN := bits x 27 3
  let mapped (n : Nat) : Bool := ((s.ctx r.ctx).flag n).isSome
  let sporeOk := r.op == 0x36 || r.op == 0x34 || r.op == 0x50 || (r.op == 0x11 && r.variant == 1)
  failIf r.reserved 10
    ++ failIf (!opKnown r.op || decide (variantMax r.op < r.variant) || decide (4 < waitN) || decide (4 < sigN)) 20
    ++ failIf (r.spore && !sporeOk) 20
    ++ failIf (r.op == 0x11 && r.variant == 1 && r.spore && r.sporeLen != 64) 20
    ++ failIf (r.op == 0x36 && !r.spore) 20
    ++ failIf (r.op == 0x11 && r.fn == 7) 20
    ++ failIf (!(r.waits.all mapped) || !(r.signals.all mapped)) 20
    ++ failIf (r.padSel == 3) 20
    ++ failIf (r.frondMask == 0 && !inbank) 20
    ++ failIf (r.accum && !([0x01, 0x02, 0x20, 0x30, 0x32].contains r.op)) 70
    ++ (if r.tiled then
        failIf (decide (6 ≤ r.orderF) || (r.hasK && (decide (6 ≤ r.orderC) || decide (6 ≤ r.orderT)))) 20
          ++ failIf (r.orderF != 0 && r.orderF != 2) 70
      else [])
    ++ failIf (
        let pad1 := [0x01, 0x02, 0x10, 0x20, 0x21, 0x22, 0x30, 0x31, 0x32, 0x33, 0x34, 0x40].contains r.op
        let pad2 := [0x01, 0x02, 0x20, 0x22].contains r.op
        (r.padSel == 1 && !(pad1 && r.slots.any (·.idx == 1))) || (r.padSel == 2 && !(pad2 && r.slots.any (·.idx == 2)))) 70

/-- R140: the checks of a record's chain, whose running value enters with type `ty`. -/
def Rec.chainFails (r : Rec) (ty : Nat) : List Fail :=
  let st := r.stages
  let badSrc (t : Stage) : Bool :=
    !stageOpOk t.op || t.src == 7 || (stageShifts t.op && decide (63 < t.arg))
      || (stagePair t.op && t.src != 1 && t.src != 2)
      || (stageBinary t.op && t.src == 0)
      || (stageBinary t.op && t.src == 4 && (r.desc 2).isNone)
      || (stageBinary t.op && (t.src == 5 || t.src == 6) && (r.desc 3).isNone)
      || (t.op == 0x28 && (r.desc 3).isNone)
      || (t.op == 0x3F && fmtBits t.arg == 0)
  -- the type that each stage meets
  let rec walk : List Stage → Nat → Bool
    | [], _ => false
    | t :: rest, ty =>
      let flt := (fmtFloat ty).isSome
      let opnd := if t.src = 4 then r.desc 2 else r.desc 3
      let mism := stageBinary t.op && decide (4 ≤ t.src) && (match opnd with
        | some d => (fmtFloat d.fmt).isSome != flt
        | none => false)
      match stageType t ty with
      | none => true
      | some t' => mism || walk rest t'
  failIf (decide (8 < r.chainN) || (r.op == 0x20 && r.chainN == 0) || st.any badSrc) 20 ++ failIf (walk st ty) 70

/-- The shape of a chain's further operands: `REF2` element by element with the output, `REF3` one-dimensional over its columns or
rows, 256 bytes for a lookup. -/
def Rec.chainShape (r : Rec) (ext : List Nat) : Bool :=
  r.stages.all fun t =>
    (t.src != 4 || !stageBinary t.op || (match r.desc 2 with
      | some d => d.ext == ext
      | none => true))
    && (t.src != 5 || !stageBinary t.op || (match r.desc 3 with
      | some d => d.ext == [ext.headD 0]
      | none => true))
    && (t.src != 6 || !stageBinary t.op || (match r.desc 3 with
      | some d => d.ext == [elems ext.tail]
      | none => true))
    && (t.op != 0x28 || (match r.desc 3 with
      | some d => d.ext == [256] && fmtBits d.fmt == 8
      | none => true))

/-- R138: whether the object that gives a record its batch count has been read: a check that depends on an object's content waits for
the object (DEDUCED). -/
def State.batchKnown (s : State) (r : Rec) : Bool :=
  match r.batchOff with
  | some o =>
    let ref := r.fld o 64
    if r.hasBatch then s.objIn r.ctx (lineDpa ref) (4 * lineCount ref) && s.objUp (lineDpa ref) (4 * lineCount ref)
    else (r.desc 1).isSome
  | none => (r.desc 1).isSome

/-! ## Outliers (R166, R191) -/

/-- R191: the operations that take outlier pairs. -/
def Rec.takesOutliers (r : Rec) : Bool := r.op == 0x02 || r.op == 0x10

/-- R191: the slot whose descriptor carries the pair of the weights. -/
def Rec.outSlot (r : Rec) : Nat := if r.op = 0x10 then 4 else 2

/-- R191: the rows of the outlier values of the activations, where they are known, and of the weights. -/
def State.outRows (s : State) (r : Rec) : Option Nat × Nat :=
  if r.op = 0x10 then (if s.batchKnown r then some r.vcount else none, r.gemvN)
  else ((r.desc 1).map fun d => d.ext.getD 1 0, match r.desc 2 with
    | some d => d.ext.getD 1 0
    | none => 0)

/-- R166, R174, R191: the checks of an `OUTLIER_DATA` tensor, whose parent names `p` and whose rows are `n`. -/
def State.outDataFails (s : State) (r : Rec) (d p : Option Desc) (n : Option Nat) (isX : Bool) : List Fail :=
  match p with
  | none => []
  | some p =>
    if p.outIdx = 0 then []
    else s.descFails r.ctx (lineDpa p.outData) (·.ext) false r.inBank
      ++ (match d with
        | none => []
        | some d =>
          failIf (d.ext.length != 2 || d.ext.headD 0 != p.outCount || (match n with
              | some n => d.ext.getD 1 0 != n
              | none => false)) 20
            ++ failIf (!s.interleavedAt (lineDpa p.outData) || d.outIdx != 0) 70
            ++ failIf (if isX then d.fmt != 3
                else !((d.fmt == 1 && d.scaled && d.scaleFmt == 0) || (d.fmt == 0x0A && !d.scaled))) 70)

/-- R191: the checks of a record's outlier pairs as a whole: one on every other operation or operand, one on one side only, two that
differ. -/
def Rec.outlierFails (r : Rec) : List Fail :=
  let has (i : Nat) : Bool := (r.desc i).any fun d => d.outIdx != 0
  let bad := r.slots.any (fun x => has x.idx && !(r.takesOutliers && (x.idx == 1 || x.idx == r.outSlot))) || r.wide.any fun d => d.outIdx != 0
  failIf bad 70
    ++ (if r.takesOutliers then (match r.desc 1, r.desc r.outSlot with
        | some a, some b =>
          failIf ((a.outIdx == 0) != (b.outIdx == 0) || lineDpa a.outIdx != lineDpa b.outIdx || a.outCount != b.outCount) 20
        | _, _ => [])
      else [])

/-! ## The wide source (R195) -/

/-- R195: the checks of a record's wide source. -/
def State.wideFails (s : State) (r : Rec) : List Fail :=
  let fmt1 := match r.desc 1 with
    | some d => d.fmt
    | none => 1
  if !(r.satLimit != 0xFF && (r.op == 0x10 || r.isMatmul)) then []
  else
    failIf ((r.isMatmul && r.mode == 3) || r.accum || (wideFmt fmt1).isNone) 70
      ++ (if !r.hasWide then []
        else
          let at_ := lineDpa (r.fld 0x38 64) + 128
          s.descFails r.ctx at_ (fun d => r.actual 1 d.ext) false false
            ++ (match r.wide, r.desc 1 with
              | some w, some d => failIf (w.ext != d.ext || (match wideFmt d.fmt with
                  | some f => w.fmt != f
                  | none => false)) 20
              | _, _ => []))

/-! ## Engines and service -/

/-- R138: whether a record runs on the cores or engines of its `FROND_MASK`. -/
def Rec.onFronds (r : Rec) : Bool :=
  [0x01, 0x02, 0x20, 0x21, 0x22, 0x30, 0x31, 0x32, 0x33, 0x34, 0x35, 0x36].contains r.op || (r.op == 0x10 && r.engine != 1)

/-- R138, R339: the units that a record with a `FROND_MASK` needs: a core in service in each frond that it names; on each frond that it works
on, the path and, where engines run it, an engine in service. -/
def State.frondFails (s : State) (r : Rec) : List Fail :=
  ((List.range 4).map fun f => failIf (r.frondMask.testBit f && !(List.range 16).any fun k => s.coreUp (16 * f + k)) 90 (unitId 1 f)).flatten
    ++ (if r.onFronds then (r.fronds s.lay).map fun f =>
        failIf (!(s.frond f).path || (r.byEngine && !(List.range 16).any fun k => (s.engine (16 * f + k)).svc == .inService)) 90 (unitId 1 f)
      else []).flatten

/-! ## Rows (R42, R61, R84, R104, R141, R386) -/

/-- R61: two rows are distinct rows of one row buffer (R50: a bank's main and scale subarrays). -/
def rowsClash (a b : BitVec 16) : Bool :=
  a != b && a.getLsbD 15 == b.getLsbD 15 && (decide (31744 ≤ rowNum a) == decide (31744 ≤ rowNum b))

/-- The rows of an operation: destination (when it writes one), then the sources that it reads. -/
def rowOperands (op variant : Nat) (d x y : BitVec 16) : Option (BitVec 16) × List (BitVec 16) :=
  match op with
  | 0x11 =>
    let fn := variant % 8
    (some d, if fn = 1 then [] else if fn = 0 ∨ fn = 6 then [x] else [x, y])
  | 0x12 => (some d, if 6 ≤ variant then [x] else [x, y])
  | _ => (none, [x])

/-- R7, R81, R141: a row operand that the operation does not name is not zero. -/
def rowUnused (op variant : Nat) (d x y : BitVec 16) : Bool :=
  let (dst, src) := rowOperands op variant d x y
  (dst.isNone && d != 0) || (src.isEmpty && x != 0) || (decide (src.length < 2) && y != 0)

/-- R61: the rows of one row operation clash. -/
def rowsBad (op variant : Nat) (d x y : BitVec 16) : Bool :=
  let (dst, src) := rowOperands op variant d x y
  let l := dst.toList ++ src
  l.any fun a => l.any fun b => rowsClash a b

/-- Whether a whole row of a unit lies in the windows of a context. -/
def State.rowIn (s : State) (c su : Nat) (r : BitVec 16) (write : Bool) : Bool :=
  let a := s.lay.dpaOf (rowCol su r 0)
  s.inBounds c (a : Int) ((a + 1023 : Nat) : Int) write

/-- R104, R141: the checks of one run of `n` row operations on a window and unit. -/
def State.runFails (s : State) (r : Rec) (window unit n : Nat) (rows : Nat → BitVec 16 × BitVec 16 × BitVec 16) : List Fail :=
  if window < s.lay.first ∨ 2048 ≤ window then [(20, 0)]
  else
    let su := unitOf s.lay window unit
    let is := List.range n
    failIf (is.any fun i =>
        let (d, x, y) := rows i
        let (dst, src) := rowOperands r.op r.variant d x y
        dst.any (fun a => !s.rowIn r.ctx su a true) || src.any (fun a => !s.rowIn r.ctx su a false)) 30
      ++ failIf (is.any fun i =>
        let (d, x, y) := rows i
        rowsBad r.op r.variant d x y) 70
      ++ failIf (!s.pcFree (su / 16)) 90 (unitId 4 (su / 16))

/-- R141: the checks of a row-op list entry. -/
def State.rowEntryFails (s : State) (r : Rec) (e : RowEntry) : List Fail :=
  let (dst, src) := rowOperands r.op r.variant e.d e.x e.y
  let past (a : BitVec 16) : Bool := decide (65535 < pairLinear a + e.nrows - 1)
  failIf (e.nrows == 0 || dst.any past || src.any past) 20
    ++ failIf (rowUnused r.op r.variant e.d e.x e.y) 10
    ++ s.runFails r e.window e.unit e.nrows fun i => (advanceRow e.d i, advanceRow e.x i, advanceRow e.y i)

/-- R141: the checks of a row-op list. -/
def State.listFails (s : State) (r : Rec) : List Fail :=
  let dpa := lineDpa (r.fld 0x30 64)
  let n := r.rowCount
  failIf (n == 0) 20 ++ s.objFails r.ctx dpa (16 * n)
    ++ (match s.obj r.ctx dpa (16 * n) with
      | some img => failIf ((List.range n).any fun i => rowReserved (entryOf img 128 i)) 10
      | none => [])
    ++ (r.rowE.map fun e => s.rowEntryFails r e).flatten

/-- R386: the units of a pseudo-channel that a broadcast reaches. -/
def Rec.bcUnits (r : Rec) : List Nat := (List.range 16).filter fun p => (r.fld 0x40 16).testBit p
/-- R139: the iterations of a broadcast. -/
def Rec.bcReps (r : Rec) : Nat := r.fld 0x44 16 + 1
/-- R139: the row operands of a broadcast in iteration `i`. -/
def Rec.bcRows (r : Rec) (i : Nat) : BitVec 16 × BitVec 16 × BitVec 16 :=
  (advanceRow (BitVec.ofNat 16 (r.fld 0x48 16)) i, advanceRow (BitVec.ofNat 16 (r.fld 0x4A 16)) i,
    advanceRow (BitVec.ofNat 16 (r.fld 0x4C 16)) i)

/-- R85, R386: the checks of a broadcast. -/
def State.broadcastFails (s : State) (r : Rec) : List Fail :=
  let (d, x, y) := r.bcRows 0
  let (dst, src) := rowOperands r.op r.variant d x y
  let past (a : BitVec 16) : Bool := decide (65535 < pairLinear a + r.bcReps - 1)
  let is := List.range r.bcReps
  failIf (r.fld 0x42 2 == 0 || dst.any past || src.any past) 20
    ++ failIf (rowUnused r.op r.variant d x y) 10
    ++ failIf (!(s.ctx r.ctx).priv) 40
    ++ failIf (is.any fun i =>
        let (d, x, y) := r.bcRows i
        rowsBad r.op r.variant d x y) 70
    ++ failIf (!(dst.any past || src.any past) && (s.bcPcs r).any fun g => r.bcUnits.any fun p => is.any fun i =>
        let (d, x, y) := r.bcRows i
        let (dst, src) := rowOperands r.op r.variant d x y
        dst.any (fun a => !s.rowIn r.ctx (16 * g + p) a true) || src.any (fun a => !s.rowIn r.ctx (16 * g + p) a false)) 30

/-- R139: a data object that a record names by `REF1` (pattern, table): its place in the windows. -/
def State.dataRef (s : State) (r : Rec) (n : Nat) : List Fail := s.objFails r.ctx (lineDpa (r.fld 0x38 64)) n

/-- The checks of `MEM_ROWOP`. -/
def State.rowopFails (s : State) (r : Rec) : List Fail :=
  (if r.broadcast then s.broadcastFails r else []) ++ failIf (s.pool == 0) 101

/-- The checks of `MEM_EW`. -/
def State.memEwFails (s : State) (r : Rec) : List Fail :=
  let lane := r.fld 0x40 2
  failIf (lane == 3) 20 ++ failIf (r.variant == 7 && lane != 0) 70 ++ failIf (s.pool == 0) 101

/-- The checks of `MEM_NORM`. -/
def State.memNormFails (s : State) (r : Rec) : List Fail :=
  let lane := r.fld 0x40 2
  let v := match r.desc 1 with
    | some d => if r.variant = 0 then d.ext.getD 1 0 else d.ext.headD 0
    | none => 256
  failIf (lane == 3 || decide (r.fld 0x42 5 < bits r.raw.toNat (8 * 0x40 + 8) 5) || (r.variant == 1 && r.fld 0x44 32 == 0)) 20
    ++ failIf (lane == 2) 70
    ++ (match r.desc 1 with
      | some d => failIf (if r.variant = 0 then d.fmt != 5 || d.ext.length != 2 || d.ext.headD 0 != 2
          else d.fmt != 0x0B || d.ext.length != 1) 20
      | none => [])
    ++ failIf (r.rowE.any fun e => decide (v ≤ e.vec)) 30
    ++ failIf (s.pool == 0) 101

/-! ## `GEMV_MEM` (R104, R387, R396) -/

/-- R104, R387: the runs of a placement map cover output rows 0 to N − 1 of each slice, in order: slice `k` is covered up to row
`next`. -/
def mapCovers (per n slices : Nat) : List MapEntry → Nat → Nat → Bool
  | [], k, next => k + 1 == slices && decide (n ≤ next)
  | e :: r, k, next =>
    let step (k next : Nat) : Bool :=
      let next' := next + per * e.nrows
      e.kslice == k && e.outFirst == next && (decide (next' ≤ n) || (per == 2 && n % 2 == 1 && next' == n + 1))
        && mapCovers per n slices r k next'
    if n ≤ next then step (k + 1) 0 else step k next

/-- R104: the checks of a placement map. -/
def State.mapFails (s : State) (r : Rec) : List Fail :=
  let dpa := lineDpa (r.fld 0x40 64)
  let n := r.mapCount
  failIf (n == 0 || decide (65536 < n)) 20 ++ s.objFails r.ctx dpa (16 * n)
    ++ (match s.obj r.ctx dpa (16 * n) with
      | some img => failIf ((List.range n).any fun i => mapReserved (entryOf img 128 i)) 20
      | none => [])
    ++ failIf (r.mapE.any fun e => e.nrows == 0 || decide (63488 < e.nrows) || decide (r.kSlices ≤ e.kslice) || decide (e.window < s.lay.first)
        || decide (32767 < rowNum e.rowOp + (e.nrows - 1) / 2)) 20
    ++ failIf ((s.obj r.ctx dpa (16 * n)).isSome && !mapCovers r.rowsPer r.gemvN r.kSlices r.mapE 0 0) 20
    ++ failIf (r.scaleEn && r.mapE.any fun e => decide (31744 ≤ rowNum e.rowOp + (e.nrows - 1) / 2)) 70
    ++ failIf (r.scaleEn && r.wGroup == 0 && !r.w8) 70
    ++ (r.mapE.map fun e =>
        if e.window < s.lay.first ∨ 2048 ≤ e.window then []
        else
          let su := unitOf s.lay e.window e.unit
          failIf ((List.range e.nrows).any fun i => let w := sweepRow e.rowOp i
              !s.rowIn r.ctx su w false || (r.scaleEn && !s.rowIn r.ctx su (scaleRowOf w).1 false)) 30
            ++ failIf (!s.pcFree (su / 16)) 90 (unitId 4 (su / 16))).flatten

/-- The checks of `GEMV_MEM` (R396, R186). -/
def State.gemvFails (s : State) (r : Rec) : List Fail :=
  let v := r.vcount
  let known := s.batchKnown r
  let n := r.gemvN
  let shape (i : Nat) (ext : List (Option Nat)) (fmts : List Nat) : Bool := match r.desc i with
    | some d => d.ext.length != ext.length || !fmts.contains d.fmt || (List.zip d.ext ext).any fun e => match e.2 with
      | some n => e.1 != n
      | none => false
    | none => false
  let vs := if known then some v else none
  let xfmt := match r.desc 1 with
    | some d => d.fmt
    | none => 1
  failIf (r.engineSel == 3 || n == 0 || decide (2 ^ 24 < n) || r.kSlices == 0 || decide (4096 < r.kSlices)) 20
    ++ failIf (shape 4 [some n] [4] || (known && v == 0) || shape 1 [some (r.kSlices * r.sliceE), vs] [1, 2] || shape 5 [vs] [0x0B]
        || shape 0 [some n, vs] [1, 3, 4, 0x0A]) 20
    ++ failIf (if xfmt = 2 then decide (r.zp < 0) || decide (255 < r.zp) else decide (r.zp < -128) || decide (127 < r.zp)) 20
    ++ failIf (r.split && r.w8) 70
    ++ (if r.engine = 1 then
        failIf (match r.desc 1 with
          | some d => !d.bankAligned
          | none => false) 50
          ++ failIf (s.pool == 0) 101
      else failIf r.overCapacity 100)

/-! ## Core operations -/

/-- R162: an operand of 64-bit integers. -/
def int64 (d : Desc) : Bool := d.fmt == 5

/-- R118, R139, R162, R190: the checks of `MATMUL` and `MATMUL_Q`. -/
def Rec.matmulFails (r : Rec) : List Fail :=
  match r.desc 0, r.desc 1, r.desc 2 with
  | some o, some a, some w =>
    let m := a.ext.getD 1 0
    let n := w.ext.getD 1 0
    let k := a.ext.headD 0
    let fmts := match r.mode with
      | 0 => ([1, 2].contains a.fmt) && w.fmt == 1
      | 1 => ([1, 2].contains a.fmt) && w.fmt == 0
      | 2 => ([8, 9].contains a.fmt) && ([8, 9].contains w.fmt)
      | _ => a.fmt == 0x0A && w.fmt == 0x0A
    let vecBad (i : Nat) (fmt : Option Nat) : Bool := match r.desc i with
      | some d => d.ext != [n] || (match fmt with
          | some f => d.fmt != f
          | none => false)
      | none => false
    failIf (a.ext != [k, m] || w.ext != [k, n] || o.ext != [n, m]) 20
      ++ failIf (r.hasBatch && lineCount (r.fld 0x70 64) != m) 20
      ++ failIf (!fmts || o.fmt == 5 || (r.desc 3).any int64) 70
      ++ failIf (w.scaled && (if r.mode < 2 then w.scaleFmt != 0 else w.scaleFmt == 0)) 70
      ++ r.chainFails (if r.mode < 2 then 4 else 0x0B)
      ++ failIf (!r.chainShape o.ext) 20
      ++ (if r.op = 0x02 then
          failIf (decide (2 ≤ r.mode)) 70 ++ failIf (vecBad 4 (some 4)) 20 ++ failIf (vecBad 3 none) 20
            ++ failIf (match r.desc 3 with
              | some d => d.fmt != 4
              | none => false) 70
            ++ failIf (if a.fmt = 2 then decide (r.zp < 0) || decide (255 < r.zp) else decide (r.zp < -128) || decide (127 < r.zp)) 20
        else [])
      ++ failIf r.overCapacity 100
  | _, _, _ => []

/-- Destination extents cover the source's (R171). -/
def extCovers (d s : List Nat) : Bool := d.length == s.length && (List.zip d s).all fun x => decide (x.2 ≤ x.1)

/-- The checks of `EW_CHAIN`. -/
def Rec.ewFails (r : Rec) : List Fail :=
  match r.desc 0, r.desc 1 with
  | some o, some a =>
    failIf (!extCovers o.ext a.ext || !r.chainShape o.ext) 20 ++ r.chainFails (entryType a.fmt) ++ failIf (o.fmt == 5) 70
      ++ failIf ((r.desc 1).any int64 || (r.desc 2).any int64 || (r.desc 3).any int64) 70 ++ failIf (!r.byEngine && r.overCapacity) 100
  | _, _ => []

/-- The extents of a reduction's result: `DIM` of extent 1, or left out. -/
def reducedOk (src dst : List Nat) (dim : Nat) : Bool := dst == setAt src dim 1 || dst == src.eraseIdx dim

/-- The checks of `REDUCE` (R128, R139). -/
def Rec.reduceFails (r : Rec) : List Fail :=
  match r.desc 0, r.desc 1 with
  | some o, some a =>
    failIf (decide (a.ext.length ≤ r.dim) || !reducedOk a.ext o.ext r.dim) 20
      ++ failIf (o.fmt == 5 || a.fmt == 5 || (decide (4 ≤ r.variant) && o.fmt != 4)) 70
      ++ failIf r.overCapacity 100
  | _, _ => []

/-- The checks of `NORM` (R139). -/
def Rec.normFails (r : Rec) : List Fail :=
  match r.desc 0, r.desc 1 with
  | some o, some a =>
    let n := a.ext.getD r.dim 0
    let vecBad (i : Nat) : Bool := match r.desc i with
      | some d => d.ext != [n]
      | none => false
    failIf (decide (a.ext.length ≤ r.dim) || o.ext != a.ext || vecBad 2 || vecBad 3) 20
      ++ failIf (o.fmt == 5 || a.fmt == 5 || (r.desc 2).any int64 || (r.desc 3).any int64) 70 ++ failIf r.overCapacity 100
  | _, _ => []

/-! ## Movement (R164 to R181) -/

/-- R139 `PERM`: the source dimension of each destination dimension. -/
def Rec.perm (r : Rec) (n : Nat) : List Nat := (List.range n).map fun d => bits r.raw.toNat (8 * 0x40 + 3 * d) 3

/-- R171: whether a list is a permutation of 0 to n − 1. -/
def isPerm (l : List Nat) : Bool := l.all (fun x => decide (x < l.length)) && (dedup l).length == l.length

/-- The checks of `COPY` and `PERMUTE` (R171). -/
def Rec.copyFails (r : Rec) : List Fail :=
  match r.desc 0, r.desc 1 with
  | some o, some a =>
    let p := if r.op = 0x31 then r.perm a.ext.length else List.range a.ext.length
    failIf (r.op == 0x31 && (!isPerm p || bits r.raw.toNat (8 * 0x40 + 3 * a.ext.length) (18 - 3 * a.ext.length) != 0)) 20
      ++ failIf (o.ext.length != a.ext.length || !extCovers o.ext (p.map fun i => a.ext.getD i 0)) 20
  | _, _ => []

/-- The checks of `GATHER` and `SCATTER_ADD` (R170). -/
def Rec.gatherFails (r : Rec) : List Fail :=
  match r.desc 0, r.desc 1, r.desc 2 with
  | some o, some a, some i =>
    let gather := r.op == 0x32
    let along := if gather then o else a
    let limit := (if gather then a else o).ext.getD r.dim 0
    let (small, big) := if gather then (o.ext, a.ext) else (a.ext, o.ext)
    failIf (decide (o.ext.length ≤ r.dim) || o.ext.length != a.ext.length
        || i.fmt != 4 || i.ext != [along.ext.getD r.dim 0]
        || !extCovers (setAt big r.dim 0) (setAt small r.dim 0)) 20
      ++ failIf (!(gather && r.padSel == 1) && r.idx.any fun z => decide (z < 0) || decide ((limit : Int) ≤ z)) 30
  | _, _, _ => []

/-- R179: the checks of a host transfer. -/
def State.hostFails (s : State) (r : Rec) : List Fail :=
  let p := r.variant
  failIf (!s.isOwner (Fin.ofNat 4 p)) 40
    ++ failIf (!(s.port p).busMaster) 70
    ++ failIf (!(s.port p).linkUp || (s.port p).fence) 91

/-- R34, R142: the checks of a raw DPA that a spore is written to. -/
def State.sporeFails (s : State) (r : Rec) : List Fail :=
  if r.spore then
    let a := r.fld 0x30 64
    failIf (!s.inBounds r.ctx (a : Int) ((a + r.sporeLen : Nat) - 1 : Int) true) 30
      ++ (if a + r.sporeLen ≤ 2 ^ 41 then
          (match s.spanDown a (a + r.sporeLen - 1) with
            | some g => [(90, unitId 4 g)]
            | none => [])
        else [])
  else []

/-! ## Collectives, flags, barriers -/

/-- R353: the members of a `COLLECTIVE`. -/
def Rec.members (r : Rec) : BitVec 16 := BitVec.ofNat 16 (r.fld 0x42 16)

/-- The checks of `COLLECTIVE` (R353, R355). -/
def State.collectiveFails (s : State) (r : Rec) : List Fail :=
  match r.desc 0, r.desc 1 with
  | some o, some a =>
    let n := (memberList r.members).length
    let c := elems a.ext
    let fmt := [4, 0x0A, 0x0B].getD (r.fld 0x40 2) 0
    let want := if r.variant = 0 then c else if r.variant = 1 then n * c else if n = 0 then 0 else c / n
    failIf (r.fld 0x40 2 == 3) 20
      ++ failIf (r.variant == 2 && n != 0 && c % n != 0) 20
      ++ failIf (elems o.ext != want) 20
      ++ failIf (s.group.inGroup && (!r.members.getLsbD s.group.member || (r.members &&& ~~~s.group.members) != 0)) 20
      ++ failIf (o.fmt != fmt || a.fmt != fmt) 70
      ++ (if s.group.inGroup then [] else if s.group.broken then [(90, 0)] else [(81, 0)])
  | _, _ => []

/-- The checks of `BARRIER` (R198, R230, R231). -/
def State.barrierFails (s : State) (r : Rec) : List Fail :=
  let scope := bits r.raw.toNat (8 * 0x40 + 12) 2
  failIf (scope == 3 || r.fld 0x42 16 == 0 || decide ((s.ctx r.ctx).barCount ≤ r.fld 0x40 12)) 20
    ++ failIf (scope == 2 && !s.group.inGroup) 81

/-! ## Destinations (R168, R169, R172, R173) -/

/-- The source descriptors of a record, with their actual extents. -/
def Rec.sources (r : Rec) : List (Desc × List Nat) :=
  (r.slots.filter fun x => !x.write).filterMap (fun x => (r.desc x.idx).map fun d => (d, r.actual x.idx d.ext))
    ++ r.wide.toList.map (fun d => (d, r.actual 1 d.ext)) ++ (r.outX.toList ++ r.outW.toList).map fun d => (d, d.ext)

/-- Whether two spans share a byte. -/
def spansMeet (a b : Option (Int × Int)) : Bool :=
  match a, b with
  | some (l, h), some (l', h') => decide (l ≤ h') && decide (l' ≤ h)
  | _, _ => false

/-- R172: the elements of a staged copy take more than a staging buffer of some bytes. -/
def Desc.stageTooBig (d : Desc) (room : Nat) : Bool := decide (8 * room < elems d.ext * fmtBits d.fmt)

/-- R173: the operations whose destination may name the same bytes as a source, element for element. -/
def Rec.inPlaceOk (r : Rec) : Bool := !([0x01, 0x02, 0x10, 0x32, 0x33].contains r.op)

/-- R165: the scale arrays of a record's operands, as spans. -/
def Rec.scaleSpans (r : Rec) : List (Int × Int) :=
  ((r.descs.filterMap id) ++ r.wide.toList ++ r.outX.toList ++ r.outW.toList).filterMap fun d =>
    if d.scaled && d.scaleBytes != 0 then some ((lineDpa d.scaleRef : Int), ((lineDpa d.scaleRef + d.scaleBytes : Nat) : Int) - 1) else none

/-- The rows that a record's map or list entries read, as spans. -/
def State.rowSpans (s : State) (r : Rec) : List (Int × Int) :=
  let span (su n : Nat) (f : Nat → BitVec 16) : Int × Int :=
    let p := runSpan s.lay su n f
    ((p.1 : Int), (p.2 : Int))
  (r.mapE.map fun e => span (unitOf s.lay e.window e.unit) e.nrows (sweepRow e.rowOp))
    ++ (if r.op = 0x10 ∧ r.scaleEn then
        r.mapE.map fun e => span (unitOf s.lay e.window e.unit) e.nrows (fun i => (scaleRowOf (sweepRow e.rowOp i)).1) else [])
    ++ (if r.op = 0x13 then r.rowE.map fun e => span (unitOf s.lay e.window e.unit) e.nrows (advanceRow e.x) else [])

/-- R168 to R173: the checks of a record's destination against aliasing and overlap. -/
def State.destFails (s : State) (r : Rec) : List Fail :=
  match (r.slots.find? (·.write)).bind fun x => (r.desc x.idx).map fun d => (x.idx, d) with
  | none => []
  | some (i, d) =>
    let aliasOk := r.op == 0x33 || (r.accum && ([0x30, 0x32, 0x20].contains r.op))
    let dsp := d.span (r.actual i d.ext)
    let meets (src : Desc × List Nat) : Bool := spansMeet dsp (src.1.span src.2)
    let room := 32 * 1024 * 1024 - s.tailBytes ((r.fronds s.lay).headD 0)
    let bad := if r.op = 0x30 ∨ r.op = 0x31 then r.sources.any fun a => meets a && a.1.stageTooBig room
      else r.sources.any (fun a => meets a && !(r.inPlaceOk && d.same a.1))
        || (s.rowSpans r ++ r.scaleSpans).any fun p => spansMeet dsp (some p)
    failIf (d.aliased && !aliasOk) 60 ++ failIf bad 61

/-! ## The decode -/

/-- The checks of an operation's own operands. -/
def State.opFails (s : State) (r : Rec) : List Fail :=
  match r.op with
  | 0x01 => r.matmulFails
  | 0x02 => r.matmulFails
  | 0x10 => s.gemvFails r
  | 0x11 => s.rowopFails r
  | 0x12 => s.memEwFails r
  | 0x13 => s.memNormFails r
  | 0x20 => r.ewFails
  | 0x21 => r.reduceFails
  | 0x22 => r.normFails
  | 0x30 => r.copyFails
  | 0x31 => r.copyFails
  | 0x32 => r.gatherFails
  | 0x33 => r.gatherFails
  | 0x34 => s.hostFails r
  | 0x35 => s.hostFails r
  | 0x40 => s.collectiveFails r
  | 0x52 => s.barrierFails r
  | _ => []

/-- R138: the checks of what a record's references name, each with the byte offset of its reference. -/
def State.refFails (s : State) (r : Rec) : List (Nat × List Fail) :=
  (r.slots.map fun x => (x.off, s.descFails r.ctx (lineDpa (r.fld x.off 64)) (fun d => r.actual x.idx d.ext) x.write r.inBank))
    ++ [(0x38, s.wideFails r), (r.batchOff.getD 0x50, s.batchFails r)]
    ++ (if r.takesOutliers then
        [(0x38, s.outDataFails r r.outX (r.desc 1) (s.outRows r).1 true),
          (if r.op = 0x10 then 0x48 else 0x40, s.outDataFails r r.outW (r.desc r.outSlot) (some (s.outRows r).2) false)]
      else [])
    ++ (if r.op = 0x10 then [(0x40, s.mapFails r)] else [])
    ++ (if (r.op = 0x11 ∧ !r.broadcast) ∨ r.op = 0x12 ∨ r.op = 0x13 then [(0x30, s.listFails r)] else [])
    ++ (if r.op = 0x11 ∧ r.fn = 1 ∧ !r.spore then [(0x38, s.dataRef r 64)] else [])
    ++ (if r.op = 0x12 ∧ r.variant = 7 then [(0x38, s.dataRef r 256)] else [])
    ++ (if r.op = 0x36 ∨ r.op = 0x50 then [(0x30, s.sporeFails r)] else [])

/-- R138: every failed check of a record whose objects have been read: the record's fields, then what its references name, in ascending
byte order. -/
def State.allFails (s : State) (r : Rec) : List Fail :=
  let refs := s.refFails r
  s.commonFails r ++ s.lenFails r 0 ++ s.lenFails r 1 ++ (if r.inBank then [] else s.frondFails r) ++ s.opFails r ++ r.outlierFails
    ++ ([0x30, 0x38, 0x40, 0x48, 0x50, 0x58, 0x70, 0x78].map fun o => ((refs.filter fun e => e.1 == o).map (·.2)).flatten).flatten
    ++ s.destFails r

/-- R138: whether a control object that the sequencer reads is uncorrectable or poisoned. -/
def State.objectsBad (s : State) (r : Rec) : Bool := (s.decodeCols r).any fun c => !(s.readCol c).1.good

/-- R138: the status and unit with which a record fails decode; `none` when it passes. -/
def State.decodeFail (s : State) (r : Rec) : Option (Nat × Nat) :=
  if s.objectsBad r then some (Status.uncorrectable, 0)
  else (firstFail (s.allFails r)).map fun f => (failStatus f.1, f.2)

/-! ## Ranges (R156) -/

/-- R156: a span rounded out to 256-byte granules. -/
def rangeOf (lo hi : Int) (write : Bool) : Range := { lo := lo.toNat / 256, hi := hi.toNat / 256, write }

/-- R156: the range of a descriptor operand over its actual extent. -/
def Rec.descRange (r : Rec) (slot : Nat) (d : Desc) (write : Bool) : List Range :=
  match d.span (r.actual slot d.ext) with
  | some (lo, hi) => [rangeOf lo hi write]
  | none => []

/-- R156: the range of a row operand of a broadcast: the lowest to the highest DPA over all the units that it reaches. -/
def State.bcRange (s : State) (r : Rec) (a : BitVec 16) (w : Bool) : List Range :=
  match ((s.bcPcs r).map fun g => r.bcUnits.map fun p => runSpan s.lay (16 * g + p) r.bcReps (advanceRow a)).flatten with
  | [] => []
  | p :: l => [rangeOf (l.foldl (fun m q => Nat.min m q.1) p.1 : Nat) (l.foldl (fun m q => Nat.max m q.2) p.2 : Nat) w]

/-- R156: the ranges of the rows of a broadcast, one for each operand. -/
def State.bcRanges (s : State) (r : Rec) : List Range :=
  let (d, x, y) := r.bcRows 0
  let (dst, src) := rowOperands r.op r.variant d x y
  (dst.toList.map fun a => s.bcRange r a true).flatten ++ (src.map fun a => s.bcRange r a false).flatten

/-- R156: the ranges of a record: operands, maps, lists, descriptors, scale arrays, rows. -/
def State.rangesOf (s : State) (r : Rec) : List Range :=
  let obj (o : Nat × Nat) : List Range := if o.2 = 0 then [] else [rangeOf o.1 (o.1 + o.2 - 1 : Nat) false]
  let scales (d : Desc) : List Range := if d.scaled then obj (lineDpa d.scaleRef, d.scaleBytes) else []
  let rows (su n : Nat) (f : Nat → BitVec 16) (w : Bool) : List Range :=
    let p := runSpan s.lay su n f
    [rangeOf p.1 p.2 w]
  (r.objects.map obj).flatten
    ++ (r.slots.map fun x => match r.desc x.idx with
      | some d => r.descRange x.idx d x.write ++ scales d
      | none => []).flatten
    ++ ((r.outX.toList ++ r.outW.toList).map fun d => r.descRange 9 d false ++ scales d).flatten
    ++ (r.wide.toList.map fun d => r.descRange 1 d false ++ scales d).flatten
    ++ (r.mapE.map fun e => rows (unitOf s.lay e.window e.unit) e.nrows (sweepRow e.rowOp) false).flatten
    ++ (if r.op = 0x10 ∧ r.scaleEn then (r.mapE.map fun e =>
        rows (unitOf s.lay e.window e.unit) e.nrows (fun i => (scaleRowOf (sweepRow e.rowOp i)).1) false).flatten else [])
    ++ (r.rowE.map fun e =>
        let su := unitOf s.lay e.window e.unit
        let (dst, src) := rowOperands r.op r.variant e.d e.x e.y
        (dst.toList.map fun a => rows su e.nrows (advanceRow a) true).flatten
          ++ (src.map fun a => rows su e.nrows (advanceRow a) false).flatten).flatten
    ++ (if r.broadcast then s.bcRanges r else [])
    ++ (if (r.op = 0x11 ∧ r.fn = 1 ∧ !r.spore) ∨ (r.op = 0x12 ∧ r.variant = 7) then
        obj (lineDpa (r.fld 0x38 64), if r.op = 0x11 then 64 else 256) else [])
    ++ (if r.spore ∧ (r.op = 0x36 ∨ r.op = 0x50) then
        [rangeOf (r.fld 0x30 64) (r.fld 0x30 64 + r.sporeLen - 1 : Nat) true] else [])

end Sys2Proof.Machine
end

