-- ==== Sys2Proof/Machine/Tiles.lean ====
section
/-! DEFINITION. What the data effects of records share: elements read and written, actual lengths, skipped tiles, padding, the
chain (R140, R143 to R145, R163, R169, R181). -/

namespace Sys2Proof.Machine

open Sys2Proof

/-! ## Reading elements -/

/-- The byte that a record reads at a DPA, and whether it is poisoned: a bad column, one out of service, or one whose read for the
record failed. -/
def State.recByte (s : State) (r : Rec) (dpa : Nat) : Byte × Bool :=
  let col := s.lay.colOf dpa
  let b := s.readByte dpa
  (b.1, b.2 || !s.colUp col || r.badCols.contains col)

/-- The number that a record reads in `n` bytes from a DPA, and whether any byte is poisoned. -/
def State.recNum (s : State) (r : Rec) (dpa n : Nat) : Nat × Bool :=
  let x := s.readNum dpa n
  (x.1, x.2 || (s.colsOf dpa n).any fun c => !s.colUp c || r.badCols.contains c)

/-- R163: the DPAs of an element at an element offset, and its width in bits. -/
def Desc.elemDpa (d : Desc) (n : Int) : Nat := (d.addr n).toNat

/-- R163: the pattern of an element at an element offset, and whether it is poisoned. -/
def State.elemAt (s : State) (r : Rec) (d : Desc) (n : Int) : Nat × Bool :=
  let a := d.elemDpa n
  if d.fmt = 0 then
    let b := s.recByte r a
    (bits b.1.toNat (if n % 2 = 0 then 0 else 4) 4, b.2)
  else s.recNum r a (fmtBits d.fmt / 8)

/-- The pattern of the element at an index. -/
def State.elem (s : State) (r : Rec) (d : Desc) (ix : List Nat) : Nat × Bool := s.elemAt r d (d.off ix)

/-- The value of the element at an index, and whether it is poisoned. -/
def State.val (s : State) (r : Rec) (d : Desc) (ix : List Nat) : Val × Bool :=
  let p := s.elem r d ix
  (decodeElem d.fmt p.1, p.2)

/-- R165: the scale of an element, and whether it is poisoned. -/
def State.scaleAt (s : State) (r : Rec) (d : Desc) (ix : List Nat) : Val × Bool :=
  let f := scaleFmtCode d.scaleFmt
  let w := fmtBits f / 8
  let a := lineDpa d.scaleRef + w * d.scaleIdx ix
  let x := s.recNum r a w
  (decodeElem f x.1, x.2)

/-- Every index of an extent list, dimension 0 counting fastest. -/
def allIdx (ext : List Nat) : List (List Nat) := (List.range (elems ext)).map (indexOf ext)

/-- The columns that an operand's elements lie in. -/
def State.descCols (s : State) (d : Desc) (ext : List Nat) : List Nat :=
  dedup ((allIdx ext).map fun ix => s.colsOf (d.elemDpa (d.off ix)) (Nat.max 1 (fmtBits d.fmt / 8))).flatten

/-- The columns of a descriptor's scale array. -/
def State.scaleCols (s : State) (d : Desc) : List Nat := if d.scaled then s.colsOf (lineDpa d.scaleRef) d.scaleBytes else []

/-- The columns that a record's source operands lie in. -/
def State.sourceCols (s : State) (r : Rec) : List Nat :=
  dedup (((r.slots.filter fun x => !x.write).map fun x => match r.desc x.idx with
      | some d => s.descCols d (r.actual x.idx d.ext) ++ s.scaleCols d
      | none => []).flatten
    ++ ((r.outX.toList ++ r.outW.toList).map fun d => s.descCols d d.ext ++ s.scaleCols d).flatten
    ++ (r.wide.toList.map fun d => s.descCols d (r.actual 1 d.ext)).flatten
    ++ (if r.accum ∨ r.op = 0x33 then (match r.desc 0 with
      | some d => s.descCols d (r.actual 0 d.ext)
      | none => []) else []))

/-! ## Actual lengths and skipped tiles (R145) -/

/-- The place of an element in the record's matrix: the row over the outer dimensions, and the column. -/
def place (ext ix : List Nat) : Nat × Nat := (indexNum ext.tail ix.tail, ix.headD 0)

/-- Where the destination element at `ix` reads `REF3`: the multiplier, a bias, or the vector of the chain's broadcasts. -/
def Rec.ref3At (r : Rec) (ix : List Nat) : Option (List Nat) :=
  let uses (k : Nat) : Bool := r.stages.any fun st => stageBinary st.op && st.src == k
  if r.op = 0x22 then some [ix.getD r.dim 0]
  else if r.op = 0x02 ∨ uses 5 then some [ix.headD 0]
  else if uses 6 then (r.desc 0).map fun d => [(place d.ext ix).1]
  else none

/-- The index, in operand `slot`, that the destination element at `ix` reads, of a reduction the first of its line; `none` where it reads no
one element. -/
def Rec.readsAt (r : Rec) (slot : Nat) (ix : List Nat) : Option (List Nat) :=
  if slot = 0 then some ix
  else if slot = 3 then r.ref3At ix
  else match r.op, slot with
    | 0x20, 1 => some ix
    | 0x20, 2 => some ix
    | 0x21, 1 => (r.desc 1).map fun x =>
      if x.ext.length = ix.length then setAt ix r.dim 0 else ix.take r.dim ++ [0] ++ ix.drop r.dim
    | 0x22, 1 => some ix
    | 0x22, 2 => some [ix.getD r.dim 0]
    | 0x30, 1 => some ix
    | 0x31, 1 =>
      let p := r.perm ix.length
      some ((List.range ix.length).map fun j => ix.getD ((p.takeWhile (· != j)).length) 0)
    | 0x32, 1 => some (setAt ix r.dim ((r.idx.getD (ix.getD r.dim 0) 0).toNat))
    | 0x32, 2 => some [ix.getD r.dim 0]
    | 0x34, 1 => some ix
    | _, _ => none

/-- R145: whether the destination element at `ix` depends on an operand element beyond its actual extent: the source element, or,
for a product, a row or column of an operand. -/
def Rec.beyond (r : Rec) (ix : List Nat) : Bool :=
  [0, 1].any fun i =>
    let slot := r.lenOpnd i
    if r.lenMode i = 0 then false
    else match r.desc slot with
      | none => false
      | some _ =>
        (match r.readsAt slot ix with
        | some jx => !r.within slot (ix.getD 1 0) jx
        | none =>
          if (r.isMatmul ∨ r.op = 0x10) ∧ (slot = 1 ∨ slot = 2) ∧ r.lenDim i = 1 then
            !r.within slot (ix.getD 1 0) [0, if slot = 1 then ix.getD 1 0 else ix.headD 0]
          else false)

/-- R145: a limited dimension has actual extent zero. -/
def Rec.emptyLen (r : Rec) : Bool := [0, 1].any fun i => r.lenMode i != 0 && (r.lens i).all (· == 0)

/-- R145: the tile that holds a destination element lies wholly beyond the actual extent. -/
def Rec.skipped (r : Rec) (ext ix : List Nat) : Bool :=
  if r.lenMode 0 = 0 ∧ r.lenMode 1 = 0 then false
  else if r.emptyLen then true
  else
    let (m, n) := place ext ix
    let rows := ((List.range r.tileM).map (m / r.tileM * r.tileM + ·)).filter (decide <| · < elems ext.tail)
    let cols := ((List.range r.tileN).map (n / r.tileN * r.tileN + ·)).filter (decide <| · < ext.headD 1)
    rows.all fun i => cols.all fun j => r.beyond (j :: indexOf ext.tail i)

/-- R145, R149: the tickets that hold skipped tiles only; they count as done. -/
def Rec.skippedTickets (r : Rec) : List Nat :=
  if r.lenMode 0 = 0 ∧ r.lenMode 1 = 0 then []
  else match (if r.op = 0x34 then r.desc 1 else r.desc 0) with
    | none => []
    | some d =>
      let live := dedup (((allIdx d.ext).filter fun ix => !r.skipped d.ext ix).map fun ix =>
        let p := place d.ext ix
        r.ticketAt p.1 p.2)
      let g := r.ticketGrid
      (List.range (g.1 * g.2)).filter fun t => !live.contains t

/-- R146, R149: the tickets of a record as it passes decode. -/
def Rec.newTickets (r : Rec) : Tickets :=
  if !r.tiled || r.inBank || r.matrix.1 * r.matrix.2 = 0 then {}
  else
    let g := r.ticketGrid
    let gone := r.skippedTickets
    { gridM := g.1, gridN := g.2, order := r.orderF, total := g.1 * g.2
      tab := gone.foldl (fun t k => Tbl.put {} t k { st := .committed }) []
      done := gone.length }

/-! ## Writing elements -/

/-- R163: the bytes of int4 elements: each nibble replaces its half of a byte. -/
def State.nibbleWrites (s : State) (d : Desc) (es : List OutElem) : List DWrite :=
  let t : Tbl (Option (Byte × Bool)) := es.foldl (fun t e =>
    let n := d.off e.ix
    let a := d.elemDpa n
    let old := (Tbl.get none t a).getD ((s.readByte a).1, false)
    let b := if n % 2 = 0 then old.1.toNat / 16 * 16 + e.pat % 16 else old.1.toNat % 16 + e.pat % 16 * 16
    Tbl.put none t a (some (BitVec.ofNat 8 b, old.2 || e.poison))) []
  t.filterMap fun x => x.2.map fun y => { dpa := x.1, val := y.1, poison := y.2 }

/-- The byte writes of destination elements. -/
def State.elemWrites (s : State) (d : Desc) (es : List OutElem) : List DWrite :=
  if d.fmt = 0 then s.nibbleWrites d es
  else (es.map fun e => writesOf (d.elemDpa (d.off e.ix)) (fmtBits d.fmt / 8) e.pat e.poison).flatten

/-- R43: the status of a record's accesses to columns out of service. -/
def State.downCode (s : State) (cols : List Nat) : List (Nat × Nat) :=
  match cols.find? fun c => !s.colUp c with
  | some c => [(Status.outOfService, unitId 4 (locOf c).gpc)]
  | none => []

/-- The record after its data effect: its counts and failures. -/
def Rec.worked (r : Rec) (sat produced : Nat) (poison empty : Bool) (codes : List (Nat × Nat)) : Rec :=
  { r with workDone := true, sat := r.sat + sat, produced := r.produced + produced, empty := r.empty || empty
           codes := r.codes ++ codes ++ (if poison then [(Status.poison, 0)] else []) }

/-- The destination elements of a record that no ticket commits: they are written at once. -/
def State.writeElems (s : State) (r : Rec) (d : Desc) (es : List OutElem) : State :=
  let ws := s.elemWrites d es
  let down := s.downCode (ws.map fun w => s.lay.colOf w.dpa)
  (s.writeAll .frond ws).setRec (r.worked (sumNat (es.map (·.sat))) es.length (es.any (·.poison)) false down)

/-- R152: the outputs of a record's tickets are formed, the columns of its operands read; each waits for the commit of its ticket.
`sat` counts saturations that belong to no output. DESIGN CHOICE (log entries 19, 124): a record's operands are read at one moment. -/
def State.formOuts (s : State) (r : Rec) (cols : List Nat) (d : Desc) (es : List OutElem) (sat : Nat) : State :=
  (s.noteReads .frond cols).setRec { r with
    workDone := true, sat := r.sat + sat, codes := r.codes ++ s.downCode cols
    outs := es.map fun e => (r.ticketAt (place d.ext e.ix).1 (place d.ext e.ix).2, e) }

/-! ## Padding and accumulation (R144, R169) -/

/-- R144: the value that `PAD` gives in a format. -/
def Rec.padVal (r : Rec) (f : Nat) : Val := decodeElem f (r.fld 0x20 32 % 2 ^ fmtBits f)

/-- R169: contributions added to an old value: exactly and saturated once when both formats are integers, else one at a time in
fp32. -/
def accumulate (dfmt sfmt : Nat) (old : Val) (cs : List Val) : Nat × Bool :=
  if fmtInt dfmt && fmtInt sfmt then storeInt dfmt (old.toInt + (cs.map Val.toInt).sum)
  else encodeElem dfmt (.flt (cs.foldl (fun a c => fadd a c.toFlt) old.toFlt))

/-! ## Chains (R125, R140) -/

/-- R144, R145: the element of an operand at an index, for batch member `b`: its value and poison, or `PAD` beyond its actual extent;
`none` where it is inactive. -/
def State.opnd (s : State) (r : Rec) (slot b : Nat) (d : Desc) (ix : List Nat) : Option (Val × Bool) :=
  if (List.zip ix d.ext).all (fun e => decide (e.1 < e.2)) && r.within slot b ix then some (s.val r d ix)
  else if r.padSel = slot then some (r.padVal d.fmt, false) else none

/-- The element of `REF2` or `REF3`, if the record names it. -/
def State.refVal (s : State) (r : Rec) (slot b : Nat) (ix : List Nat) : Option (Val × Bool) :=
  (r.desc slot).bind fun d => s.opnd r slot b d ix

/-- The operands of a stage at the output element (m, n) with index `ix`; `none` where one is inactive. -/
def State.stageOperands (s : State) (r : Rec) (st : Stage) (flt : Bool) (ix : List Nat) (m n : Nat) : Option (Val × Val) :=
  let imm (i : Nat) : Val := if flt then .flt (r.imm i) else .int (toSigned 32 (r.imm i).toNat)
  if !stageBinary st.op && !stagePair st.op then some (.int 0, .int 0)
  else match st.src with
    | 0 => some (.int 0, .int 0)
    | 4 => (s.refVal r 2 m ix).map fun v => (v.1, .int 0)
    | 5 => (s.refVal r 3 m [n]).map fun v => (v.1, .int 0)
    | 6 => (s.refVal r 3 m [m]).map fun v => (v.1, .int 0)
    | k => some (imm (k - 1), imm k)

/-- The lookup table of a record's chain: the 256 bytes at `REF3`. -/
def State.chainTable (s : State) (r : Rec) (i : Nat) : Byte × Bool :=
  match r.desc 3 with
  | some d => let e := s.elem r d [i]; (BitVec.ofNat 8 e.1, e.2)
  | none => (0, false)

/-- What a record's chain carries from stage to stage: the running value, its type, whether every operand so far is active. -/
structure ChainAt where
  run : Running
  ty : Nat
  live : Bool := true
deriving DecidableEq, Repr

/-- One stage of a record's chain at an output element. -/
def State.chainStep (s : State) (r : Rec) (ix : List Nat) (m n : Nat) (c : ChainAt) (st : Stage) : ChainAt :=
  match s.stageOperands r st (fmtFloat c.ty).isSome ix m n with
  | none => { c with live := false }
  | some (y, z) =>
    { c with run := stageEval st.op st.arg y z (fun i => (s.chainTable r i).1) c.run, ty := (stageType st c.ty).getD c.ty }

/-- The chain of a record applied to a value of type `ty` at one output element. -/
def State.runChain (s : State) (r : Rec) (ty : Nat) (v : Val) (ix : List Nat) (m n : Nat) : ChainAt :=
  r.stages.foldl (s.chainStep r ix m n) { run := { v }, ty }

/-- The columns of the record's tile that holds column `n` of a matrix of `w` columns. -/
def Rec.tileCols (r : Rec) (w n : Nat) : List Nat :=
  ((List.range r.tileN).map (n / r.tileN * r.tileN + ·)).filter fun j => decide (j < w)

/-- The rows of the record's tile that holds row `m` of a matrix of `h` rows. -/
def Rec.tileRows (r : Rec) (h m : Nat) : List Nat :=
  ((List.range r.tileM).map (m / r.tileM * r.tileM + ·)).filter fun i => decide (i < h)

/-- Whether an operand element that may be inactive is poisoned. -/
def badVal : Option (Val × Bool) → Bool
  | some v => v.2
  | none => false

/-- R134: whether a chain's element-by-element operand is poisoned at an index. -/
def State.elemPoison (s : State) (r : Rec) (m : Nat) (ix : List Nat) : Bool :=
  r.stages.any fun st => stageBinary st.op && st.src == 4 && badVal (s.refVal r 2 m ix)

/-- R134: whether a vector register or the table of a chain is poisoned at the tile of (m, n): a broadcast vector over the tile, or a
byte of the lookup table. -/
def State.vectorPoison (s : State) (r : Rec) (ext : List Nat) (m n : Nat) : Bool :=
  r.stages.any fun st =>
    (st.op == 0x28 && (List.range 256).any fun i => (s.chainTable r i).2)
      || (stageBinary st.op && st.src == 5 && (r.tileCols (ext.headD 0) n).any fun j => badVal (s.refVal r 3 m [j]))
      || (stageBinary st.op && st.src == 6 && (r.tileRows (elems ext.tail) m).any fun i => badVal (s.refVal r 3 i [i]))

/-- R125, R126, R152, R185: a chain's result as a destination element: stored into the destination's format, or to be added onto what
the element held under `ACCUM`. -/
def Rec.chainOut (r : Rec) (d : Desc) (ix : List Nat) (c : ChainAt) (poison : Bool) : OutElem :=
  if r.accum then
    { ix, pat := 0, poison, sat := c.run.sat, acc := some (if (fmtFloat c.ty).isSome then 0x0B else 4, [c.run.v]) }
  else
    let q := encodeElem d.fmt c.run.v
    { ix, pat := q.1, poison, sat := c.run.sat + if q.2 then 1 else 0 }

end Sys2Proof.Machine
end

