-- ==== Sys2Proof/Machine/Compute.lean ====
section
/-! DEFINITION. The data effects of the records that run on frond cores: `MATMUL`, `MATMUL_Q`, `EW_CHAIN`, `REDUCE`, `NORM` (R118 to
R131, R139, R182 to R197). -/

namespace Sys2Proof.Machine

open Sys2Proof

/-! ## Products (R118 to R122, R190, R197) -/

/-- R190: the value and poison of weight (n, k), as stored, for output row `m`. -/
def State.weightAt (s : State) (r : Rec) (w : Desc) (m n k : Nat) : Option (Val × Bool) :=
  s.opnd r 2 m w [k, n]

/-- The value and poison of activation (m, k) from a descriptor (`X` or its wide source): nothing for a channel listed as an outlier
(R192), or beyond the actual length without padding (R144). -/
def State.actAt (s : State) (r : Rec) (x : Desc) (outs : List Nat) (m k : Nat) : Option (Val × Bool) :=
  if outs.contains k then none else s.opnd r 1 m x [k, m]

/-- R120, R122: the integer product of one output element over activations `a` and weights with their scales `w`: K steps summed
exactly and added into an int32 that saturates, or segments of `e` elements saturated to int32 and added exactly. The value and
the saturations. -/
def intProduct (seg : Bool) (step e total : Nat) (a : Nat → Int) (w : Nat → Int) : Int × Nat :=
  let len := if seg then e else step
  (List.range (ceilDiv total len)).foldl (fun (acc : Int × Nat) i =>
    let part := ((List.range len).map fun j =>
      let k := i * len + j
      if k < total then a k * w k else 0).sum
    let q := satS 32 (if seg then part else acc.1 + part)
    (if seg then acc.1 + q.1 else q.1, acc.2 + if q.2 then 1 else 0)) (0, 0)

/-- R121: the floating product of one output element: products added to an fp32 one at a time, in ascending order of k. -/
def fltProduct (total : Nat) (a w : Nat → Option Word32) : Word32 :=
  (List.range total).foldl (fun acc k =>
    match a k, w k with
    | some x, some y => fadd acc (fmul x y)
    | _, _ => acc) 0

/-- R190: the factor of weight (n, k) in the product: its value times its scale. -/
def State.weightInt (s : State) (r : Rec) (w : Desc) (m n k : Nat) : Int :=
  match s.weightAt r w m n k with
  | some (v, _) => v.toInt * if w.scaled then (s.scaleAt r w [k, n]).1.toInt else 1
  | none => 0

/-- R190: the fp32 factor of weight (n, k): widened, and multiplied by its scale with one rounding. -/
def State.weightFlt (s : State) (r : Rec) (w : Desc) (m n k : Nat) : Option Word32 :=
  (s.weightAt r w m n k).map fun v => if w.scaled then fmul v.1.toFlt (s.scaleAt r w [k, n]).1.toFlt else v.1.toFlt

/-- R197: the high half of a wide activation. -/
def hiHalf (x : Int) : Int := x / 256
/-- R197: the low half of a wide activation. -/
def loHalf (x : Int) : Int := x % 256

/-- R122, R63: the segment length of a `MATMUL` in segment mode. DESIGN CHOICE (log entry 121): such a record has no in-bank layout,
and the one of its weight format at the widest segments is taken. -/
def Rec.matmulE (r : Rec) : Nat := if r.mode = 1 then 2048 else 1024

/-- R118 to R122, R192, R197: the accumulator of output element (m, n): its value and the saturations counted. -/
def State.matmulAcc (s : State) (r : Rec) (x w : Desc) (m n : Nat) : Val × Nat :=
  let k := x.ext.headD 0
  let outs := match r.desc 1 with
    | some d => d.outChans
    | none => []
  let act (k : Nat) : Option (Val × Bool) := s.actAt r x outs m k
  if r.mode < 2 then
    let run (a : Int → Int) : Int × Nat :=
      intProduct r.segmentMode r.kStep r.matmulE k (fun k => match act k with
        | some v => a v.1.toInt
        | none => 0) (s.weightInt r w m n)
    if r.pass = 2 then
      let h := run hiHalf
      let l := run loHalf
      (.int (256 * h.1 + l.1), h.2 + l.2)
    else
      let p := run id
      (.int p.1, p.2)
  else (.flt (fltProduct k (fun k => (act k).map (·.1.toFlt)) (s.weightFlt r w m n)), 0)

/-- R134: whether row `m` of an activation operand is poisoned. -/
def State.actPoison (s : State) (r : Rec) (x : Desc) (m : Nat) : Bool :=
  (List.range (x.ext.headD 0)).any fun k => match s.actAt r x (match r.desc 1 with
      | some d => d.outChans
      | none => []) m k with
    | some v => v.2
    | none => false

/-- R134: whether weight row `n`, or one of its scales, is poisoned. -/
def State.weightPoison (s : State) (r : Rec) (w : Desc) (m n : Nat) : Bool :=
  (List.range (w.ext.headD 0)).any fun k => match s.weightAt r w m n k with
    | some v => v.2 || (w.scaled && (s.scaleAt r w [k, n]).2)
    | none => false

/-! ## Outliers (R192) and rescaling (R188) -/

/-- R192: the outlier contribution of output row `n` and activation row `m`, its saturations (R185), and whether it is poisoned. -/
def State.outlierSum (s : State) (r : Rec) (m n : Nat) : Int × Nat × Bool :=
  match r.outX, r.outW with
  | some x, some w =>
    let c := x.ext.headD 0
    let xs := (List.range c).map fun o => s.val r x [o, m]
    let ws := (List.range c).map fun o => s.val r w [o, n]
    let sc := (List.range c).map fun o => if w.scaled then s.scaleAt r w [o, n] else (.int 1, false)
    let bad := xs.any (·.2) || ws.any (·.2) || sc.any (·.2)
    if w.fmt = 0x0A then
      let f := (List.zip xs ws).foldl (fun acc e => fadd acc (fmul e.2.1.toFlt e.1.1.toFlt)) (0 : Word32)
      let q := storeFltInt 5 (fp32Val f)
      (toSigned 64 q.1, if q.2 then 1 else 0, bad)
    else (((List.zip (List.zip xs ws) sc).map fun e => e.2.1.toInt * e.1.2.1.toInt * e.1.1.1.toInt).sum, 0, bad)
  | _, _ => (0, 0, false)

/-- `ROWSUM`[n], and whether it is poisoned. -/
def State.rowSum (s : State) (r : Rec) (n : Nat) : Int × Bool :=
  match r.desc 4 with
  | some d => let v := s.val r d [n]; (v.1.toInt, v.2)
  | none => (0, false)

/-- R188: v = acc + outlier − ZP × ROWSUM[n], exact. -/
def epilogueV (acc outlier zp rowsum : Int) : Int := acc + outlier - zp * rowsum
/-- R188: the rescaled value before it is limited to a format. -/
def rescaled (v m : Int) (sh : Nat) : Int := rshift (v * m) sh

/-- R139, R188: the rescale of `MATMUL_Q` for output element (m, n): limited to int32; value, saturations, poison; `none` where its
multiplier is inactive. -/
def State.rescaleQ (s : State) (r : Rec) (acc : Int) (m n : Nat) : Option (Int × Nat × Bool) :=
  let (o, so, p1) := s.outlierSum r m n
  let (rs, p2) := s.rowSum r n
  let mul := match r.desc 3 with
    | some d => s.opnd r 3 m d [n]
    | none => some (.int (toSigned 32 (r.imm 0).toNat), false)
  mul.map fun mp =>
    let q := satS 32 (rescaled (epilogueV acc o r.zp rs) mp.1.toInt (bits r.raw.toNat (8 * 0x50 + 8) 6))
    (q.1, so + (if q.2 then 1 else 0), p1 || p2 || mp.2)

/-! ## The wide source's rails (R193) -/

/-- R193: whether an element's pattern lies on a rail of a format. -/
def onRail (f pat : Nat) : Bool :=
  match f with
  | 1 => pat == 0x80 || pat == 0x7F
  | 2 => pat == 0 || pat == 255
  | 8 => [0x7E, 0xFE, 0x7F, 0xFF].contains pat
  | 9 => decide (0x7B ≤ pat % 128)
  | _ => false

/-- R193: the elements of `X` within its actual extent that lie on a rail, when the record has a wide source. -/
def State.railCount (s : State) (r : Rec) : Nat :=
  if r.hasWide ∧ r.pass = 1 then
    match r.desc 1 with
    | some x => ((allIdx x.ext).filter fun ix => r.within 1 (ix.getD 1 0) ix && onRail x.fmt (s.elem r x ix).1).length
    | none => 0
  else 0

/-- R196, R197: the activations of a pass: `X`, in the re-run its wide source. -/
def Rec.actDesc (r : Rec) : Option Desc := if r.pass = 2 then r.wide else r.desc 1

/-! ## `MATMUL`, `MATMUL_Q` -/

/-- R134: whether what enters the chain of output element (m, n) from outside its activation row is poisoned: a weight, a scale, a
rescale operand, an element-by-element operand of the chain. -/
def State.tilePoison (s : State) (r : Rec) (w : Desc) (m n : Nat) : Bool :=
  s.weightPoison r w m n || s.elemPoison r m [n, m]
    || (r.op == 0x02 && (match s.rescaleQ r 0 m n with
      | some q => q.2.2
      | none => false))

/-- One output element of a `MATMUL` or `MATMUL_Q`, if all its operands are active. -/
def State.matmulElem (s : State) (r : Rec) (o x w : Desc) (ix : List Nat) : List OutElem :=
  let n := ix.headD 0
  let m := ix.getD 1 0
  let acc := s.matmulAcc r x w m n
  let entry := if r.op = 0x02 then (s.rescaleQ r acc.1.toInt m n).map fun q => (Val.int q.1, q.2.1) else some (acc.1, 0)
  match entry with
  | none => []
  | some (v, satQ) =>
    let c := s.runChain r (if r.mode < 2 then 4 else 0x0B) v ix m n
    let poison := s.actPoison r x m || (r.tileCols (o.ext.headD 0) n).any (s.tilePoison r w m) || s.vectorPoison r o.ext m n
    if c.live then
      let e := r.chainOut o ix c poison
      [{ e with sat := e.sat + acc.2 + satQ }]
    else []

/-- R152: the outputs of `MATMUL` and `MATMUL_Q` are formed. -/
def State.matmulWork (s : State) (r : Rec) : State :=
  match r.desc 0, r.actDesc, r.desc 2 with
  | some o, some x, some w =>
    let live := (allIdx o.ext).filter fun ix => !r.skipped o.ext ix && !r.beyond ix
    s.formOuts r (s.sourceCols r) o (live.map (s.matmulElem r o x w)).flatten (s.railCount r)
  | _, _, _ => s

/-! ## `EW_CHAIN` -/

/-- One output element of an `EW_CHAIN`, if all its operands are active: the value that leaves its chain, and whether the chain's row of
its tile is poisoned. -/
def State.ewValue (s : State) (r : Rec) (o x : Desc) (ix : List Nat) : Option (ChainAt × Bool) :=
  let (m, n) := place o.ext ix
  (s.opnd r 1 0 x ix).bind fun v =>
    let c := s.runChain r (entryType x.fmt) v.1 ix m n
    let row := (r.tileCols (o.ext.headD 0) n).any fun j => badVal (s.opnd r 1 0 x (j :: ix.tail)) || s.elemPoison r m (j :: ix.tail)
    if c.live then some (c, row || s.vectorPoison r o.ext m n) else none

/-- One output element of an `EW_CHAIN`. -/
def State.ewElem (s : State) (r : Rec) (o x : Desc) (ix : List Nat) : List OutElem :=
  match s.ewValue r o x ix with
  | some (c, p) => [r.chainOut o ix c p]
  | none => []

/-- A contribution to a destination element: its index, value, poison, saturations. -/
abbrev Contrib := List Nat × Val × Bool × Nat

/-- R169: contributions to elements of an aliased destination: grouped by element offset, in their order. -/
def groupByOff (d : Desc) (cs : List Contrib) : List (List Nat × List (Val × Bool × Nat)) :=
  cs.foldl (fun gs c =>
    if gs.any (fun g => d.off g.1 == d.off c.1) then
      gs.map fun g => if d.off g.1 == d.off c.1 then (g.1, g.2 ++ [c.2]) else g
    else gs ++ [(c.1, [c.2])]) []

/-- R169: the destination elements of contributions of a source format, to be added to what they hold. -/
def accumElems (d : Desc) (sfmt : Nat) (cs : List Contrib) : List OutElem :=
  (groupByOff d cs).map fun g =>
    { ix := g.1, pat := 0, poison := g.2.any (·.2.1), sat := sumNat (g.2.map (·.2.2)), acc := some (sfmt, g.2.map (·.1)) }

/-- R169: an `EW_CHAIN` onto an aliased destination: its results as contributions. -/
def State.ewContrib (s : State) (r : Rec) (o x : Desc) (ix : List Nat) : List Contrib :=
  match s.ewValue r o x ix with
  | some (c, p) => [(ix, c.run.v, p, c.run.sat)]
  | none => []

/-- R152: the outputs of `EW_CHAIN` are formed. -/
def State.ewWork (s : State) (r : Rec) : State :=
  match r.desc 0, r.desc 1 with
  | some o, some x =>
    let live := (allIdx o.ext).filter fun ix => !r.skipped o.ext ix && r.within 0 0 ix
    let es := if r.aliasRun then
        accumElems o ((chainType r.stages (entryType x.fmt)).getD 4) (live.map (s.ewContrib r o x)).flatten
      else (live.map (s.ewElem r o x)).flatten
    s.formOuts r (s.sourceCols r) o es 0
  | _, _ => s

/-! ## Reductions (R128 to R131) -/

/-- R128: one level of the pairwise tree of a floating reduction. -/
def pairUp (f : Word32 → Word32 → Word32) : List Word32 → List Word32
  | a :: b :: r => f a b :: pairUp f r
  | l => l

/-- R128: the fixed pairwise tree, over `n` levels. -/
def treeReduce (f : Word32 → Word32 → Word32) (unit : Word32) : Nat → List Word32 → Word32
  | 0, l => l.headD unit
  | n + 1, l => treeReduce f unit n (pairUp f l)

/-- The levels of the tree over a list, and the list padded with the identity to that power of two. -/
def fltTree (f : Word32 → Word32 → Word32) (unit : Word32) (l : List Word32) : Word32 :=
  let lv := if l.length ≤ 1 then 0 else Nat.log2 (l.length - 1) + 1
  treeReduce f unit lv (l ++ List.replicate (2 ^ lv - l.length) unit)

/-- R128, R131: the index of the extreme of a list of indexed values: the lowest index of a NaN, else of the extreme. -/
def argExtreme (less : Val → Val → Bool) (isNan : Val → Bool) : List (Nat × Val) → Option (Nat × Val)
  | [] => none
  | e :: r =>
    match argExtreme less isNan r with
    | none => some e
    | some b => if isNan e.2 then some e else if isNan b.2 then some b else if less e.2 b.2 || !(less b.2 e.2) then some e else some b

/-- Whether a value is NaN. -/
def Val.isNan (v : Val) : Bool :=
  match v with
  | .flt x => fp32Val x == .nan
  | .int _ => false

/-- Comparison of two values of one type. -/
def Val.less (a b : Val) : Bool :=
  match a, b with
  | .int x, .int y => decide (x < y)
  | x, y => FVal.lt (fp32Val x.toFlt) (fp32Val y.toFlt)

/-- R128, R130, R131: a reduction (`fn` 0 sum, 1 product, 2 max, 3 min, 4 argmax, 5 argmin) over indexed active values; a `none` in
the tree of a float sum or product is an inactive element. `range` is the integer result type's. DESIGN CHOICE (log entry 55): a
floating product, for which R128 gives no order, is formed in the tree of the sum. -/
def reduceVals (fn : Nat) (flt : Bool) (range : Int × Int) (all : List (Nat × Option Val)) : Val :=
  let act := all.filterMap fun e => e.2.map fun v => (e.1, v)
  let vs := act.map (·.2)
  if 4 ≤ fn then
    match argExtreme (fun a b => if fn = 4 then b.less a else a.less b) Val.isNan act with
    | some e => .int e.1
    | none => .int (-1)
  else if flt then
    let unit : Word32 := if fn = 1 then 0x3F800000#32 else 0
    let tree (f : Word32 → Word32 → Word32) : Word32 := fltTree f unit (all.map fun e => match e.2 with
      | some v => v.toFlt
      | none => unit)
    match fn with
    | 0 => .flt (tree fadd)
    | 1 => .flt (tree fmul)
    | 2 => .flt (vs.foldl (fun a v => fmax a v.toFlt) 0xFF800000#32)
    | _ => .flt (vs.foldl (fun a v => fmin a v.toFlt) 0x7F800000#32)
  else
    let zs := vs.map Val.toInt
    match fn with
    | 0 => .int zs.sum
    | 1 => .int (zs.foldl (· * ·) 1)
    | 2 => .int (match zs with
      | [] => range.1
      | z :: r => r.foldl (fun a b => if a < b then b else a) z)
    | _ => .int (match zs with
      | [] => range.2
      | z :: r => r.foldl (fun a b => if b < a then b else a) z)

/-- The elements of a source along `DIM` through an index: each with its place, where it is active. -/
def State.dimLine (s : State) (r : Rec) (x : Desc) (ix : List Nat) : List (Nat × Option (Val × Bool)) :=
  (List.range (x.ext.getD r.dim 0)).map fun i => (i, s.opnd r 1 0 x (setAt ix r.dim i))

/-- One output element of a `REDUCE` record: the source elements along `DIM`. -/
def State.reduceElem (s : State) (r : Rec) (o x : Desc) (ix : List Nat) : OutElem :=
  let base := if o.ext.length = x.ext.length then ix else ix.take r.dim ++ [0] ++ ix.drop r.dim
  let l := s.dimLine r x base
  let flt := (fmtFloat x.fmt).isSome
  let rty := if fmtInt o.fmt ∧ o.fmt = entryType x.fmt then o.fmt else 4
  let v := reduceVals r.variant flt (fmtRange rty) (l.map fun e => (e.1, e.2.map (·.1)))
  let q := if 4 ≤ r.variant then (ofSigned 32 v.toInt, false)
    else if flt then encodeElem o.fmt v
    else
      let t := satTo (fmtRange rty).1 (fmtRange rty).2 v.toInt
      let p := encodeElem o.fmt (.int t.1)
      (p.1, t.2 || p.2)
  -- R134: a reduction down the rows is poisoned as a tile, one along a row by its row
  let poison := if r.dim = 0 then l.any fun e => badVal e.2
    else (r.tileCols (x.ext.headD 0) (base.headD 0)).any fun j => (s.dimLine r x (setAt base 0 j)).any fun e => badVal e.2
  { ix, pat := q.1, sat := if q.2 then 1 else 0, poison, empty := l.all fun e => e.2.isNone }

/-- R152: the outputs of `REDUCE` are formed. -/
def State.reduceWork (s : State) (r : Rec) : State :=
  match r.desc 0, r.desc 1 with
  | some o, some x =>
    let live := (allIdx o.ext).filter fun ix => !r.skipped o.ext ix && r.within 0 0 ix
    s.formOuts r (s.sourceCols r) o (live.map (s.reduceElem r o x)) 0
  | _, _ => s

/-! ## `NORM` -/

/-- One output element of a `NORM`, if its gain and bias are active: the spec gives its formula no form, so its value is
`Config.normElem` of the elements along `DIM`, the gain and the bias. -/
def State.normOne (s : State) (r : Rec) (o x : Desc) (ix : List Nat) : List OutElem :=
  let line := (s.dimLine r x ix).filterMap (·.2)
  let opt (i : Nat) : Option (Val × Bool) := s.refVal r i 0 [ix.getD r.dim 0]
  if ((r.desc 2).isSome && (opt 2).isNone) || ((r.desc 3).isSome && (opt 3).isNone) then []
  else
    let v := Config.normElem r.variant (BitVec.ofNat 32 (r.fld 0x54 32)) (line.map fun e => e.1.toFlt)
      ((opt 2).map (·.1.toFlt)) ((opt 3).map (·.1.toFlt)) (ix.getD r.dim 0)
    let q := encodeElem o.fmt (.flt v)
    -- R134: the tile's gains and biases stand in vector registers; a row of the tile, or down the rows the tile, carries its source's poison
    let (m, n) := place o.ext ix
    let vec (i : Nat) : Bool :=
      if r.dim = 0 then (r.tileCols (o.ext.headD 0) n).any fun j => badVal (s.refVal r i 0 [j])
      else (r.tileRows (elems o.ext.tail) m).any fun k => badVal (s.refVal r i 0 [(n :: indexOf o.ext.tail k).getD r.dim 0])
    let src := if r.dim = 0 then line.any (·.2)
      else (r.tileCols (x.ext.headD 0) n).any fun j => (s.dimLine r x (setAt ix 0 j)).any fun e => badVal e.2
    [{ ix, pat := q.1, sat := if q.2 then 1 else 0, poison := src || vec 2 || vec 3 }]

/-- R152: the outputs of `NORM` are formed. -/
def State.normWork (s : State) (r : Rec) : State :=
  match r.desc 0, r.desc 1 with
  | some o, some x =>
    let live := (allIdx o.ext).filter fun ix => !r.skipped o.ext ix && r.within 0 0 ix && (r.padSel == 1 || r.within 1 0 ix)
    s.formOuts r (s.sourceCols r) o (live.map (s.normOne r o x)).flatten 0
  | _, _ => s

end Sys2Proof.Machine
end

