-- ==== Sys2Proof/Machine/CoreOps.lean ====
section
/-! DEFINITION. The operations of a frond core (R114 to R135): products, chains, reductions, moves, faults. -/

namespace Sys2Proof.Machine

open Sys2Proof

/-! ## Element types and places -/

/-- The element-format code (R162) of a core operation's element type. -/
def laneFmt : Lane → Nat
  | .int8 => 1
  | .int16 => 3
  | .int32 => 4
  | .fp32 => 0x0B
  | .int4 => 0
  | .uint8 => 2
  | .bf16 => 0x0A
  | .e4m3 => 8
  | .e5m2 => 9

/-- The bytes of a lane of a vector register: 1, 2 or 4 (R114); an int4 takes a whole lane there. -/
def regBytes (l : Lane) : Nat := Nat.max 1 (fmtBits (laneFmt l) / 8)

/-- R114: core memory has 4 MiB; an address is taken modulo its size. -/
def cmAddr (a : Nat) : Nat := a % 2 ^ 22

/-- The byte of core memory at an address. -/
def Core.byteAt (c : Core) (a : Nat) : Byte := Tbl.get 0 c.cmem (cmAddr a)

/-- R134: whether the 32-byte line of core memory that holds an address is poisoned. -/
def Core.lineBad (c : Core) (a : Nat) : Bool := Tbl.get false c.memPoison (cmAddr a / 32)

/-- R62: the pattern of element `k` of a run of elements of a format that starts at an address of core memory. -/
def Core.memElem (c : Core) (f base k : Nat) : Nat :=
  if f = 0 then bits (c.byteAt (base + k / 2)).toNat (if k % 2 = 0 then 0 else 4) 4
  else natOf ((List.range (fmtBits f / 8)).map fun i => c.byteAt (base + fmtBits f / 8 * k + i))

/-- The address of the first byte of element `k` of a run. -/
def memElemAddr (f base k : Nat) : Nat := if f = 0 then base + k / 2 else base + fmtBits f / 8 * k

/-- R134: whether an element of a run lies in a poisoned line. -/
def Core.memElemBad (c : Core) (f base k : Nat) : Bool :=
  (List.range (Nat.max 1 (fmtBits f / 8))).any fun i => c.lineBad (memElemAddr f base k + i)

/-- The index of element (i, j) of accumulator tile or tile register `t` in its table. -/
def tileIdx (count t i j : Nat) : Nat := 4096 * (t % count) + 64 * i + j

/-- Add to a core's saturation count, 32 bits, which holds at its greatest value. -/
def Core.addSat (c : Core) (n : Nat) : Core := { c with satCount := Nat.min 0xFFFFFFFF (c.satCount + n) }

/-- R135, R151: whether a core works: it is in service, or finishes its tickets. -/
def Core.works (c : Core) : Bool := c.svc == .inService || c.svc == .draining

/-- R133: a core starts operations at a grant level of 1 or more. -/
def Core.runs (c : Core) : Bool := decide (0 < c.level) && c.works

/-! ## MMA (R118 to R122) -/

/-- The element format of the activations of an `MMA`. -/
def mmaAFmt (o : MmaOp) : Nat :=
  match o.mode with
  | .fp8 => if o.aE5m2 then 9 else 8
  | .bf16 => 0x0A
  | _ => if o.aUnsigned then 2 else 1

/-- The element format of the weights of an `MMA`. -/
def mmaBFmt (o : MmaOp) : Nat :=
  match o.mode with
  | .int8 => 1
  | .int4 => 0
  | .fp8 => if o.bE5m2 then 9 else 8
  | .bf16 => 0x0A
  | .int4seg => 0
  | .int8seg => 1

/-- Whether an `MMA` runs in segment mode. -/
def mmaSeg (o : MmaOp) : Bool :=
  match o.mode with
  | .int4seg => true
  | .int8seg => true
  | _ => false

/-- Whether an `MMA` accumulates in fp32. -/
def mmaFlt (o : MmaOp) : Bool :=
  match o.mode with
  | .fp8 => true
  | .bf16 => true
  | _ => false

/-- R118: the m, n and k of an `MMA`, at most 64, 64 and 256. -/
def mmaDims (o : MmaOp) : Nat × Nat × Nat := (Nat.min 64 o.m, Nat.min 64 o.n, Nat.min 256 o.k)

/-- The value of activation (i, k). -/
def Core.actVal (c : Core) (o : MmaOp) (i k : Nat) : Val :=
  decodeElem (mmaAFmt o) (c.memElem (mmaAFmt o) (o.aBase + i * o.aPitch) k)

/-- The value of weight (k, j). -/
def Core.wgtVal (c : Core) (o : MmaOp) (k j : Nat) : Val :=
  decodeElem (mmaBFmt o) (c.memElem (mmaBFmt o) (o.bBase + j * o.bPitch) k)

/-- R122: the scale of weight (k, j): one int16 per group of weights along K. -/
def Core.wgtScale (c : Core) (o : MmaOp) (k j : Nat) : Int :=
  toSigned 16 (c.memElem 3 (o.sBase + j * o.sPitch) (k / o.group))

/-- R120, R122: the exact integer sum of one K step for element (i, j). -/
def Core.mmaSum (c : Core) (o : MmaOp) (i j : Nat) : Int :=
  ((List.range (mmaDims o).2.2).map fun k =>
    (if (mmaSeg o) then c.wgtScale o k j else 1) * (c.actVal o i k).toInt * (c.wgtVal o k j).toInt).sum

/-- R190: the element format of the scales of FP8 and bf16 weights. -/
def fltScaleFmt (o : MmaOp) : Option Nat :=
  match o.fScale with
  | .none => none
  | .bf16 => some 0x0A
  | .fp32 => some 0x0B

/-- R190: the fp32 factor of weight (k, j): widened, and multiplied by its scale with one rounding. -/
def Core.wgtFlt (c : Core) (o : MmaOp) (k j : Nat) : Word32 :=
  match fltScaleFmt o with
  | none => (c.wgtVal o k j).toFlt
  | some f => fmul (c.wgtVal o k j).toFlt (decodeElem f (c.memElem f (o.sBase + j * o.sPitch) (k / o.group))).toFlt

/-- R121: the fp32 accumulator after the products of a K step are added one at a time in ascending order of k. DESIGN CHOICE (log
entry 120): a product that fp32 does not hold exactly is rounded before its addition. -/
def Core.mmaFltAcc (c : Core) (o : MmaOp) (acc : Word32) (i j : Nat) : Word32 :=
  (List.range (mmaDims o).2.2).foldl (fun acc k => fadd acc (fmul (c.actVal o i k).toFlt (c.wgtFlt o k j))) acc

/-- The 64-bit element of a segment sum or total whose first accumulator tile is `t` (low half in `t`, high half in `t` + 1). -/
def Core.acc64 (c : Core) (t i j : Nat) : Int :=
  toSigned 64 ((Tbl.get 0 c.accs (tileIdx 32 t i j)).toNat + (Tbl.get 0 c.accs (tileIdx 32 (t + 1) i j)).toNat * 2 ^ 32)

/-- Store a 64-bit element of a segment sum or total. -/
def putAcc64 (a : Tbl Word32) (t i j : Nat) (z : Int) : Tbl Word32 :=
  let x := ofSigned 64 z
  Tbl.put 0 (Tbl.put 0 a (tileIdx 32 t i j) (BitVec.ofNat 32 x)) (tileIdx 32 (t + 1) i j) (BitVec.ofNat 32 (x / 2 ^ 32))

/-- R118 to R122: element (i, j) of an `MMA` on accumulators so far: the accumulators and the saturations counted. -/
def Core.mmaElem (c : Core) (o : MmaOp) (a : Tbl Word32 × Nat) (ij : Nat × Nat) : Tbl Word32 × Nat :=
  let (i, j) := ij
  let at_ := tileIdx 32 o.acc i j
  if (mmaSeg o) then (putAcc64 a.1 o.acc i j (c.acc64 o.acc i j + c.mmaSum o i j), a.2)
  else
    let old := Tbl.get 0 c.accs at_
    if (mmaFlt o) then (Tbl.put 0 a.1 at_ (c.mmaFltAcc o old i j), a.2)
    else
      let q := satS 32 (old.toInt + c.mmaSum o i j)
      (Tbl.put 0 a.1 at_ (BitVec.ofInt 32 q.1), a.2 + if q.2 then 1 else 0)

/-- The elements of the m × n corner, row by row. -/
def corner (m n : Nat) : List (Nat × Nat) := ((List.range m).map fun i => (List.range n).map fun j => (i, j)).flatten

/-- R134: the rows of the accumulator tile that an `MMA` poisons: its own row for an activation, every row for a weight or a
scale. -/
def Core.mmaBad (c : Core) (o : MmaOp) : List Nat :=
  let (m, n, k) := (mmaDims o)
  let wBad := (List.range n).any fun j => (List.range k).any fun e =>
    c.memElemBad (mmaBFmt o) (o.bBase + j * o.bPitch) e || ((mmaSeg o) && c.memElemBad 3 (o.sBase + j * o.sPitch) (e / o.group))
      || ((mmaFlt o) && (match fltScaleFmt o with
        | some f => c.memElemBad f (o.sBase + j * o.sPitch) (e / o.group)
        | none => false))
  if wBad then List.range 64
  else (List.range m).filter fun i => (List.range k).any fun e => c.memElemBad (mmaAFmt o) (o.aBase + i * o.aPitch) e

/-- Set poison bits of the rows of a tile. -/
def poisonRows (count t : Nat) (p : Tbl Bool) (rows : List Nat) : Tbl Bool :=
  rows.foldl (fun p i => Tbl.put false p (64 * (t % count) + i) true) p

/-- `MMA` (R118 to R122, R134). -/
def Core.mma (c : Core) (o : MmaOp) : Core :=
  let (m, n, _) := (mmaDims o)
  let r := (corner m n).foldl (c.mmaElem o) (c.accs, 0)
  { c.addSat r.2 with accs := r.1, accPoison := poisonRows 32 o.acc c.accPoison (c.mmaBad o) }

/-- R122: `ACC_CLOSE` on one element: the segment sum, saturated to int32, goes into the total; the segment sum clears. -/
def Core.closeElem (c : Core) (t : Nat) (a : Tbl Word32 × Nat) (ij : Nat × Nat) : Tbl Word32 × Nat :=
  let (i, j) := ij
  let q := satS 32 (c.acc64 t i j)
  (putAcc64 (putAcc64 a.1 (t + 2) i j (c.acc64 (t + 2) i j + q.1)) t i j 0, a.2 + if q.2 then 1 else 0)

/-- `ACC_CLOSE` (R122): the poison of a segment-sum row passes into the total's. -/
def Core.accClose (c : Core) (t : Nat) : Core :=
  let r := (corner 64 64).foldl (c.closeElem t) (c.accs, 0)
  let rowBad (i : Nat) : Bool := Tbl.get false c.accPoison (64 * (t % 32) + i)
  let p := (List.range 64).foldl (fun p i =>
    let p := if rowBad i then Tbl.put false p (64 * ((t + 2) % 32) + i) true else p
    Tbl.put false p (64 * (t % 32) + i) false) c.accPoison
  { c.addSat r.2 with accs := r.1, accPoison := p }

/-! ## Masks (R124) -/

/-- R124: the dispatcher builds a remainder mask in a register; writes to M0 are ignored. -/
def Core.buildMask (c : Core) (u : MaskUse) : Core :=
  match u.build with
  | some m => if u.reg % 8 = 0 then c else { c with masks := Tbl.put 0 c.masks (u.reg % 8) m }
  | none => c

/-- R124: the mask register that an operation names: M0 reads as all ones. -/
def Core.maskOf (c : Core) (u : MaskUse) : BitVec 1024 :=
  if u.reg % 8 = 0 then BitVec.allOnes 1024 else Tbl.get 0 c.masks (u.reg % 8)

/-- R124: whether an element is active: by its bit, or, for an operation on a tile, by its row's bit and its column's. -/
def maskBit (m : BitVec 1024) (tile : Bool) (e : Nat) : Bool :=
  if tile then m.getLsbD (e / 64) && m.getLsbD (64 + e % 64) else m.getLsbD e

/-! ## Operands of chains and reductions -/

/-- Whether an operand is a tile. -/
def refIsTile : CoreRef → Bool
  | .tile _ => true
  | .acc _ => true
  | _ => false

/-- The pattern of element `e` of an operand. A tile element has 32 bits. -/
def Core.refElem (c : Core) (r : CoreRef) (l : Lane) (e : Nat) : Nat :=
  match r with
  | .vreg v => natOf ((List.range (regBytes l)).map fun i => Tbl.get 0 c.vregs (1024 * (v % 32) + regBytes l * e + i))
  | .tile t => (Tbl.get 0 c.tiles (4096 * (t % 8) + e)).toNat
  | .acc t => (Tbl.get 0 c.accs (4096 * (t % 32) + e)).toNat
  | .mem a => c.memElem (laneFmt l) a e

/-- R134: whether element `e` of an operand is poisoned. -/
def Core.refBad (c : Core) (r : CoreRef) (l : Lane) (e : Nat) : Bool :=
  match r with
  | .vreg v => Tbl.get false c.vregPoison (v % 32)
  | .tile t => Tbl.get false c.tilePoison (64 * (t % 8) + e / 64)
  | .acc t => Tbl.get false c.accPoison (64 * (t % 32) + e / 64)
  | .mem a => c.memElemBad (laneFmt l) a e

/-- An element that an operation writes: its number, pattern and poison. -/
structure CElem where
  e : Nat
  pat : Nat
  poison : Bool
deriving DecidableEq, Repr

/-- The pattern of an element as the 32 bits of a tile element: integers extended by their sign. -/
def tilePat (f pat : Nat) : Word32 :=
  if f = 2 then BitVec.ofNat 32 (pat % 256)
  else if fmtInt f then BitVec.ofInt 32 (toSigned (fmtBits f) pat)
  else BitVec.ofNat 32 pat

/-- The poison of parts of an operand after elements are written: part `part e` holds element `e` and has `size` elements; a part keeps
its old poison unless all of it is written. -/
def partPoison (p : Tbl Bool) (part : Nat → Nat) (size : Nat → Nat) (es : List CElem) : Tbl Bool :=
  (dedup (es.map fun x => part x.e)).foldl (fun t k =>
    let mine := es.filter fun x => part x.e == k
    let keep := decide (mine.length < size k) && Tbl.get false p k
    Tbl.put false t k (keep || mine.any (·.poison))) p

/-- Store bytes into core memory, with their poison by line. -/
def Core.storeBytes (c : Core) (bs : List (Nat × Byte × Bool)) : Core :=
  let es := bs.map fun b => { e := cmAddr b.1, pat := 0, poison := b.2.2 : CElem }
  { c with cmem := bs.foldl (fun t b => Tbl.put 0 t (cmAddr b.1) b.2.1) c.cmem
           memPoison := partPoison c.memPoison (· / 32) (fun _ => 32) es }

/-- The bytes that elements of a run in core memory are stored as: whole bytes, int4 in pairs (R62). -/
def Core.runBytes (c : Core) (f base : Nat) (es : List CElem) : List (Nat × Byte × Bool) :=
  if f = 0 then
    let t : Tbl (Option (Byte × Bool)) := es.foldl (fun t x =>
      let a := base + x.e / 2
      let old := (Tbl.get none t a).getD (c.byteAt a, false)
      let b := if x.e % 2 = 0 then old.1.toNat / 16 * 16 + x.pat % 16 else old.1.toNat % 16 + x.pat % 16 * 16
      Tbl.put none t a (some (BitVec.ofNat 8 b, old.2 || x.poison))) []
    t.filterMap fun y => y.2.map fun z => (y.1, z.1, z.2)
  else
    let w := fmtBits f / 8
    (es.map fun x => (bytesOf w x.pat).zipIdx.map fun b => (base + w * x.e + b.2, b.1, x.poison)).flatten

/-- Write elements of an operand. -/
def Core.writeRef (c : Core) (r : CoreRef) (l : Lane) (es : List CElem) : Core :=
  let f := laneFmt l
  match r with
  | .vreg v =>
    let w := regBytes l
    { c with vregs := es.foldl (fun t x => (bytesOf w x.pat).zipIdx.foldl (fun t b =>
                Tbl.put 0 t (1024 * (v % 32) + w * x.e + b.2) b.1) t) c.vregs
             vregPoison := partPoison c.vregPoison (fun _ => v % 32) (fun _ => 1024 / w) es }
  | .tile t =>
    { c with tiles := es.foldl (fun m x => Tbl.put 0 m (4096 * (t % 8) + x.e) (tilePat f x.pat)) c.tiles
             tilePoison := partPoison c.tilePoison (fun e => 64 * (t % 8) + e / 64) (fun _ => 64) es }
  | .acc t =>
    { c with accs := es.foldl (fun m x => Tbl.put 0 m (4096 * (t % 32) + x.e) (tilePat f x.pat)) c.accs
             accPoison := partPoison c.accPoison (fun e => 64 * (t % 32) + e / 64) (fun _ => 64) es }
  | .mem a => c.storeBytes (c.runBytes f a es)

/-! ## Chains (R125 to R127) -/

/-- R114: the elements that a register or tile operand holds; core memory sets no number. -/
def refCount (r : CoreRef) (l : Lane) : Option Nat :=
  match r with
  | .vreg _ => some (1024 / regBytes l)
  | .tile _ => some 4096
  | .acc _ => some 4096
  | .mem _ => none

/-- The elements that a chain runs over: those that its source and its destination both hold, or 1 KiB of core memory. DESIGN CHOICE (log
entry 144): of the 2,048 int4 elements in 1 KiB, those from 1,024 on, for which a mask register has no bit, are inactive under a mask. -/
def chainCount (o : ChainOp) : Nat :=
  match refCount o.src o.inLane, refCount o.dst o.outLane with
  | some a, some b => Nat.min a b
  | some a, none => a
  | none, some b => b
  | none, none => 8192 / fmtBits (laneFmt o.inLane)

/-- R122, R125: the value that element `e` enters a chain with: in segment mode the 64-bit total. -/
def Core.chainIn (c : Core) (o : ChainOp) (e : Nat) : Val × Bool :=
  match o.segment, o.src with
  | true, .acc t => (.int (c.acc64 (t + 2) (e / 64) (e % 64)), Tbl.get false c.accPoison (64 * ((t + 2) % 32) + e / 64))
  | _, _ => (decodeElem (laneFmt o.inLane) (c.refElem o.src o.inLane e), c.refBad o.src o.inLane e)

/-- The lane type in which a stage takes a further operand from a register: the running value's, four bytes for an int32 or fp32. -/
def operandLane (ty : Nat) : Lane := if ty = 1 then .int8 else if ty = 3 then .int16 else if ty = 0x0B then .fp32 else .int32

/-- R125, R127: the further operand of a stage at element `e`: its first value, the second immediate, its poison. -/
def Core.stageVal (c : Core) (st : CoreStage) (ty e : Nat) : Val × Val × Bool :=
  let l := operandLane ty
  let f := laneFmt l
  let imm (x : BitVec 32) : Val := if (fmtFloat ty).isSome then .flt x else .int x.toInt
  let reg (v k : Nat) : Val × Val × Bool :=
    (decodeElem f (c.refElem (.vreg v) l k), imm st.imm2, Tbl.get false c.vregPoison (v % 32))
  match st.src with
  | .none => (.int 0, .int 0, false)
  | .imm v => (imm v, imm st.imm2, false)
  | .vreg v => reg v (e % (1024 / regBytes l))
  | .tile t => (decodeElem f (c.refElem (.tile t) l (e % 4096)), imm st.imm2, c.refBad (.tile t) l (e % 4096))
  | .rowBcast v => reg v (e % 64)
  | .colBcast v => reg v (e / 64 % 64)

/-- R125: the byte table of a lookup stage: the first 256 bytes of the vector register that the stage names. -/
def Core.stageTable (c : Core) (st : CoreStage) (i : Nat) : Byte :=
  match st.src with
  | .vreg v => Tbl.get 0 c.vregs (1024 * (v % 32) + i % 256)
  | _ => 0

/-- What a core's chain carries from stage to stage: the running value, its type, its poison. -/
structure CoreChain where
  run : Running
  ty : Nat
  poison : Bool
deriving DecidableEq, Repr

/-- One stage of a core's chain at element `e`. -/
def Core.chainStep (c : Core) (e : Nat) (x : CoreChain) (st : CoreStage) : CoreChain :=
  let v := c.stageVal st x.ty e
  { run := stageEval st.op st.arg v.1 v.2.1 (c.stageTable st) x.run
    ty := (stageType { op := st.op, src := 0, arg := st.arg } x.ty).getD x.ty, poison := x.poison || v.2.2 }

/-- R125, R126: a chain at one active element: what is written, and the saturations counted. -/
def Core.chainElem (c : Core) (o : ChainOp) (e : Nat) : CElem × Nat :=
  let v := c.chainIn o e
  let x := (o.stages.take 8).foldl (c.chainStep e) { run := { v := v.1 }, ty := entryType (laneFmt o.inLane), poison := v.2 }
  let q := encodeElem (laneFmt o.outLane) x.run.v
  ({ e, pat := q.1, poison := x.poison }, x.run.sat + if q.2 then 1 else 0)

/-- R124, R134: what a chain writes: active elements their results, inactive ones zero under the zero policy. A poisoned active
input poisons the destination rows, or the register, that the chain writes. -/
def Core.chainOut (c : Core) (o : ChainOp) : List CElem × Nat :=
  let tile := refIsTile o.src || refIsTile o.dst
  let m := c.maskOf o.mask
  let rs := ((List.range (chainCount o)).filter (maskBit m tile)).map (c.chainElem o)
  let off := if o.zero then ((List.range (chainCount o)).filter fun e => !maskBit m tile e).map fun e => { e, pat := 0, poison := false : CElem }
    else []
  (rs.map (·.1) ++ off, sumNat (rs.map (·.2)))

/-- R125: a chain on a core. -/
def Core.chain (c : Core) (o : ChainOp) : Core :=
  let c := c.buildMask o.mask
  let r := c.chainOut o
  (c.writeRef o.dst o.outLane r.1).addSat r.2

/-- R117: an accumulator tile after `DRAIN`: cleared, all four tiles in segment mode. -/
def Core.clearAcc (c : Core) (t n : Nat) : Core :=
  let gone (k : Nat) : Bool := (List.range n).any fun i => k == (t + i) % 32
  { c with accs := c.accs.filter fun e => !gone (e.1 / 4096)
           accPoison := c.accPoison.filter fun e => !gone (e.1 / 64) }

/-- R117, R122: `DRAIN` on a core: the chain, then the accumulator tile clears. -/
def Core.drain (c : Core) (o : ChainOp) : Core :=
  match o.src with
  | .acc t => (c.chain o).clearAcc t (if o.segment then 4 else 1)
  | _ => c.chain o

/-! ## Reductions (R128 to R131, R134) -/

/-- The reduction's code in `reduceVals`. -/
def redCode : RedFn → Nat
  | .sum => 0
  | .prod => 1
  | .max => 2
  | .min => 3
  | .argmax => 4
  | .argmin => 5

/-- R128: the inputs of each result, as operand, lane index of each, and its number in the result (column, row or element). -/
def redInputs (o : ReduceOp) : List (List (Nat × Nat)) :=
  match o.form with
  | .axis1 _ => (List.range 64).map fun i => (List.range 64).map fun j => (j, 64 * i + j)
  | .axis0 _ => (List.range 64).map fun j => (List.range 64).map fun i => (i, 64 * i + j)
  | .whole _ => [(List.range (1024 / regBytes o.lane)).map fun e => (e, e)]

/-- The operand of a reduction. -/
def redSrc (o : ReduceOp) : CoreRef :=
  match o.form with
  | .axis1 t => .tile t
  | .axis0 t => .tile t
  | .whole v => .vreg v

/-- Whether a reduction's result is an index. -/
def redIsArg (o : ReduceOp) : Bool :=
  match o.fn with
  | .argmax => true
  | .argmin => true
  | _ => false

/-- R128: the element type of the results: a 32-bit index, int32 where asked, else the input's. -/
def redLane (o : ReduceOp) : Lane := if redIsArg o then .int32 else if o.resInt32 && o.lane != .fp32 then .int32 else o.lane

/-- R128, R130, R131: one result: its pattern, whether it saturated, whether its set was empty. -/
def Core.reduceOne (c : Core) (o : ReduceOp) (ins : List (Nat × Nat)) : Nat × Bool × Bool :=
  let m := c.maskOf o.mask
  let act (e : Nat) : Bool := maskBit m (refIsTile (redSrc o)) e
  let f := laneFmt (redLane o)
  let v := reduceVals (redCode o.fn) (fmtFloat (laneFmt o.lane)).isSome (fmtRange f) (ins.map fun x =>
    (x.1, if act x.2 then some (decodeElem (laneFmt o.lane) (c.refElem (redSrc o) o.lane x.2)) else none))
  let q := encodeElem f v
  (q.1, q.2, ins.all fun x => !act x.2)

/-- R134: whether the inputs of a result are poisoned: an axis-1 reduction by row, any other by every active row or the register. -/
def Core.reduceBad (c : Core) (o : ReduceOp) (ins : List (Nat × Nat)) : Bool :=
  let m := c.maskOf o.mask
  let bad (l : List (Nat × Nat)) : Bool := l.any fun x => maskBit m (refIsTile (redSrc o)) x.2 && c.refBad (redSrc o) o.lane x.2
  match o.form with
  | .axis1 _ => bad ins
  | _ => (redInputs o).any bad

/-- R128, R130: `REDUCE` on a core: the results go to elements 0 onwards of a vector register; an empty set behind a stored result
sets the empty flag. -/
def Core.reduce (c : Core) (o : ReduceOp) : Core :=
  let c := c.buildMask o.mask
  let rs := (redInputs o).zipIdx.map fun x => (x.2, c.reduceOne o x.1, c.reduceBad o x.1)
  let es := rs.map fun r => { e := r.1, pat := r.2.1.1, poison := r.2.2 : CElem }
  let c' := (c.writeRef (.vreg o.dst) (redLane o) es).addSat (rs.filter fun r => r.2.1.2.1).length
  { c' with empty := c.empty || rs.any fun r => r.2.1.2.2 && o.stored.getLsbD r.1 }

/-! ## Moves (R117) -/

/-- `TLOAD` on a core: 16 KiB of core memory, 4,096 elements of 32 bits, into a tile register. -/
def Core.tload (c : Core) (t a : Nat) : Core :=
  c.writeRef (.tile t) .int32 ((List.range 4096).map fun e =>
    { e, pat := c.refElem (.mem a) .int32 e, poison := c.refBad (.mem a) .int32 e })

/-- `TSTORE` on a core: a tile register into 16 KiB of core memory. -/
def Core.tstore (c : Core) (t a : Nat) : Core :=
  c.writeRef (.mem a) .int32 ((List.range 4096).map fun e =>
    { e, pat := c.refElem (.tile t) .int32 e, poison := c.refBad (.tile t) .int32 e })

/-- `VLOAD` on a core: 1 KiB of core memory into a vector register. -/
def Core.vload (c : Core) (v a : Nat) : Core :=
  c.writeRef (.vreg v) .uint8 ((List.range 1024).map fun e =>
    { e, pat := c.refElem (.mem a) .uint8 e, poison := c.refBad (.mem a) .uint8 e })

/-- `VSTORE` on a core: a vector register into 1 KiB of core memory. -/
def Core.vstore (c : Core) (v a : Nat) : Core :=
  c.writeRef (.mem a) .uint8 ((List.range 1024).map fun e =>
    { e, pat := c.refElem (.vreg v) .uint8 e, poison := c.refBad (.vreg v) .uint8 e })

/-! ## The operations as the dispatcher sends them (R117, R133) -/

/-- R117: a core operation on a core; what is none leaves it. -/
def Core.perform (c : Core) (i : Instr) : Core :=
  match i with
  | .mma _ o => c.mma o
  | .accClose _ acc => c.accClose acc
  | .drain _ o => c.drain o
  | .vchain _ o => c.chain o
  | .coreReduce _ o => c.reduce o
  | .tload _ t a => c.tload t a
  | .tstore _ t a => c.tstore t a
  | .vload _ v a => c.vload v a
  | .vstore _ v a => c.vstore v a
  | _ => c

/-- R133: at a level above 0 a core runs the operations that it holds, in their order. -/
def Core.wake (c : Core) (now : Nat) : Core :=
  if c.runs ∧ c.waiting ≠ [] then { c.waiting.foldl Core.perform { c with waiting := [] } with lastOp := now } else c

/-- R117, R133: a core takes an operation: it runs it, or holds it while its grant level is 0; a core out of service takes none. -/
def onCore (c : Fin 64) (i : Instr) (s : State) : Host.Outcome State Fault Refusal :=
  let k := s.core c
  .next (if k.runs then s.setCore c { k.perform i with lastOp := s.time.now }
    else if k.works then s.setCore c { k with waiting := k.waiting ++ [i] }
    else s)

/-- `MMA` (R118 to R122): a product accumulated into an accumulator tile. -/
def execMma (c : Fin 64) (o : MmaOp) (s : State) : Host.Outcome State Fault Refusal := onCore c (.mma c o) s
/-- `ACC_CLOSE` (R122): a segment ends. -/
def execAccClose (c : Fin 64) (acc : Nat) (s : State) : Host.Outcome State Fault Refusal := onCore c (.accClose c acc) s
/-- `DRAIN` (R117): an accumulator tile passes through a chain and clears. -/
def execDrain (c : Fin 64) (o : ChainOp) (s : State) : Host.Outcome State Fault Refusal := onCore c (.drain c o) s
/-- `VCHAIN` (R125): a chain over vector registers, tile registers or core memory. -/
def execVchain (c : Fin 64) (o : ChainOp) (s : State) : Host.Outcome State Fault Refusal := onCore c (.vchain c o) s
/-- `CORE_REDUCE` (R128): a reduction of a tile register or a vector register. -/
def execCoreReduce (c : Fin 64) (o : ReduceOp) (s : State) : Host.Outcome State Fault Refusal := onCore c (.coreReduce c o) s
/-- `TLOAD`: a tile from core memory into a tile register. -/
def execTload (c : Fin 64) (t addr : Nat) (s : State) : Host.Outcome State Fault Refusal := onCore c (.tload c t addr) s
/-- `TSTORE`: a tile from a tile register into core memory. -/
def execTstore (c : Fin 64) (t addr : Nat) (s : State) : Host.Outcome State Fault Refusal := onCore c (.tstore c t addr) s
/-- `VLOAD`: 1 KiB from core memory into a vector register. -/
def execVload (c : Fin 64) (v addr : Nat) (s : State) : Host.Outcome State Fault Refusal := onCore c (.vload c v addr) s
/-- `VSTORE`: 1 KiB from a vector register into core memory. -/
def execVstore (c : Fin 64) (v addr : Nat) (s : State) : Host.Outcome State Fault Refusal := onCore c (.vstore c v addr) s

/-! ## Faults (R135) -/

/-- `CORE_FAULT` (R135): a single-bit error is corrected, counted and logged; an uncorrectable or register parity error is logged
`ERR_UNCORRECTABLE` and the core, its tile abandoned, is fenced. DESIGN CHOICE (log entry 123): the corrected error is an error-log
entry of kind 0 from the requester frond, with no address. -/
def execCoreFault (c : Fin 64) (kind : CoreFaultKind) (s : State) : Host.Outcome State Fault Refusal :=
  .next (match kind with
    | .corrected =>
      let k := s.core c
      (s.setCore c { k with corrected := Nat.min 0xFFFF (k.corrected + 1) }).err 0 0 0 (reqCode .frond) (unitId 7 c)
    | _ => if (s.core c).svc = .fenced then s else (s.fenceCore c Status.uncorrectable).settle)

end Sys2Proof.Machine
end

