-- ==== Sys2Proof/Machine/Pack.lean ====
section
/-! DEFINITION. The retention pack: status, authentication, polls, the charge ledger (R320 to R325). -/

namespace Sys2Proof.Machine

open Sys2Proof

/-- R325: the reserve, in mWh. -/
def packReserve : Nat := 3600

/-- R322: whether retention is available. -/
def Pack.ready (p : Pack) : Bool :=
  p.present && p.authentic && p.armed && !p.faulted && !p.disconnected && !p.cut && p.sensorOk && decide (packReserve < p.storedMwh)

/-- R322, R324, R309, R310: whether the module may charge the pack. -/
def Pack.mayCharge (p : Pack) : Bool := p.present && p.authentic && !p.faulted && !p.hot && p.sensorOk

/-- R325: the hold time in seconds. -/
def Pack.holdS (p : Pack) : Nat := if p.ready then (p.storedMwh - packReserve) * 3600 / p.retMw else 0

/-- R320: the word at 0x14 of `PACK_STATUS`; with no pack present every field reads its reset value, `ARMED` 1. -/
def Pack.word (p : Pack) : Nat :=
  let b (x : Bool) (i : Nat) : Nat := if x then 2 ^ i else 0
  if p.present then
    1 + b p.authentic 1 + b p.armed 2 + b p.ready 3 + b p.charging 4 + b p.eol 5 + b p.faulted 6 + b p.hot 7 + p.soc * 2 ^ 16
  else 4

/-- R320: the body of `PACK_STATUS`, 56 bytes: identity and readings read as reset values while no pack is present. -/
def Pack.body (p : Pack) : Nat :=
  if p.present then
    p.serial.toNat + p.model.toNat * 2 ^ 64 + p.mfgWeek.toNat * 2 ^ 80 + p.ratedMwh.toNat * 2 ^ 96 + p.cycles * 2 ^ 128
      + p.soh * 2 ^ 144 + p.word * 2 ^ 160 + p.holdS % 2 ^ 32 * 2 ^ 192 + ofSigned 16 p.cellTemp * 2 ^ 224
      + p.inMc % 2 ^ 64 * 2 ^ 256 + p.outMc % 2 ^ 64 * 2 ^ 320 + p.storedMc % 2 ^ 32 * 2 ^ 384
  else p.word * 2 ^ 160

/-- R321: the bits whose change is reported. -/
def Pack.flagsWord (p : Pack) : List Bool := [p.present, p.authentic, p.ready, p.eol, p.faulted, p.present && p.hot]

/-- R321: change the pack; a change of `PRESENT`, `AUTHENTIC`, `READY`, `EOL`, `FAULT` or `HOT` writes one event-log entry. -/
def State.packSet (s : State) (p : Pack) : State :=
  let p := { p with charging := p.charging && p.mayCharge }
  let s' := { s with pack := p }
  if p.flagsWord = s.pack.flagsWord then s' else s'.ev 0x0C 0 0 p.word

/-- R324: restart the ledger's period from the pack's `STORED_MC`. -/
def Pack.restartLedger (p : Pack) : Pack :=
  { p with faulted := false, lastIn := p.inMc, lastOut := p.outMc, lastStored := p.storedMc }

/-- R322: whether the pack passes its authentication. -/
def replyPasses (reply : PackReply) : Bool :=
  match reply with
  | .answer c n g => c && n && g
  | _ => false

/-- R320, R322: what an authentication leaves: `AUTHENTIC` says whether the last one passed. DESIGN CHOICE (log entry 42): a pack that passes
is connected, but for R310. -/
def Pack.authenticate (p : Pack) (reply : PackReply) : Pack := { p with authentic := replyPasses reply, cut := p.cut && !(replyPasses reply) }

/-- R322, R324: what `PACK_AUTH` leaves: a pass also clears `FAULT` and restarts the ledger. -/
def Pack.authCommand (p : Pack) (reply : PackReply) : Pack :=
  if replyPasses reply then p.restartLedger.authenticate reply else p.authenticate reply

/-- R322: the status of `PACK_AUTH`. -/
def authStatus (p : Pack) (reply : PackReply) : Nat :=
  match reply with
  | .absent => Status.outOfService
  | .silent => if p.present then Status.timeout else Status.outOfService
  | .answer c n g => if !p.present then Status.outOfService else if c && n && g then 0 else Status.unsupported

/-- `PACK_STATUS` (R320). -/
def execPackStatus (mb : Fin 32) (s : State) : Host.Outcome State Fault Refusal :=
  .next (molianFixed mb 0x0C01 .any 0 [] (fun _ s => .done 0 56 s.pack.body [] s) s)

/-- `PACK_AUTH` (R322). -/
def execPackAuth (mb : Fin 32) (reply : PackReply) (s : State) : Host.Outcome State Fault Refusal :=
  .next (molianFixed mb 0x0C02 .ownerPort 0 [] (fun _ s =>
    .done (authStatus s.pack reply) 0 0 [] (if s.pack.present then s.packSet (s.pack.authCommand reply) else s)) s)

/-- `RETAIN_ARM` (R274, R320). -/
def execRetainArm (mb : Fin 32) (s : State) : Host.Outcome State Fault Refusal :=
  .next (molianFixed mb 0x0C03 .ownerPort 1 [(0x10, 8)] (fun r s =>
    if 2 ≤ r.fld 0x10 8 then .fail Status.fieldRange
    else .done 0 0 0 [] (s.packSet { s.pack with armed := r.fld 0x10 8 == 1 })) s)

/-- R320, R321: whether every value that the pack answers lies in its range. DEDUCED (log entry 42): a BVP-120 says that it is one and what
it is rated at, and stores no more. -/
def PackReading.inRange (r : PackReading) : Bool :=
  r.model == 0x0120#16 && r.ratedMwh == 120000#32 && decide (r.soh ≤ 1000) && decide (r.soc ≤ 1000) && decide (-32768 ≤ r.cellTemp)
    && decide (r.cellTemp ≤ 32767) && decide (r.storedMc < 2 ^ 32) && decide (r.storedMwh ≤ r.ratedMwh.toNat)

/-- R323, R324: charge measured at the pack's terminals: the ledger counts it, without wrapping, and 11,250 C of charge out are one
cycle. -/
def Pack.measure (p : Pack) (inMc outMc : Nat) : Pack :=
  let out := p.cycleMc + outMc
  { p with
    inMc := Nat.min (2 ^ 64 - 1) (p.inMc + inMc), outMc := Nat.min (2 ^ 64 - 1) (p.outMc + outMc)
    cycles := Nat.min 65535 (p.cycles + out / 11250000), cycleMc := out % 11250000 }

/-- R320, R323, R324: what a reading leaves in the pack's state. DESIGN CHOICE (log entry 42): 7 years are 366 weeks. -/
def Pack.read (p : Pack) (r : PackReading) : Pack :=
  let q := p.measure r.inMc r.outMc
  { q with
    serial := r.serial, model := r.model, mfgWeek := r.mfgWeek, ratedMwh := r.ratedMwh, soh := r.soh
    soc := r.soc, cellTemp := r.cellTemp, storedMc := r.storedMc, storedMwh := r.storedMwh
    charging := r.charging, missed := 0
    eol := p.eol || decide (r.soh < 750) || decide (10000 ≤ q.cycles) || decide (r.mfgWeek.toNat + 366 ≤ r.week) }

/-- R321: a failed poll; the third in a row makes the pack absent. -/
def Pack.miss (p : Pack) : Pack :=
  if p.missed + 1 < 3 then { p with missed := p.missed + 1 }
  else { p with missed := 3, present := false, authentic := false, charging := false }

/-- `PACK_POLL` (R321): once per second. A pack that counts as absent is re-authenticated by `PACK_DETECT`. -/
def execPackPoll (at_ : Nat) (reading : Option PackReading) (s : State) : Host.Outcome State Fault Refusal :=
  let s := s.advance at_
  .next (if !s.pack.present then s
    else match reading with
      | none => s.packSet s.pack.miss
      | some r => if PackReading.inRange r then s.packSet (s.pack.read r) else s.packSet s.pack.miss)

/-- R321, R323 to R325: a pack as it is detected: a newly fitted one restarts the ledger, clears `FAULT` and `EOL`, has served no cycle and
no retention; one that had only missed its polls keeps them. -/
def Pack.fitted (p : Pack) (reading : PackReading) : Pack :=
  let q := { p with present := true, authentic := false }
  if p.missed = 3 then q.read reading
  else (Pack.read { q with eol := false, cycles := 0, cycleMc := 0, retMw := 30000, cut := false } reading).restartLedger

/-- `PACK_DETECT` (R321, R322, R324): a pack is fitted, or answers again, and is authenticated. One that had missed its polls counts as
absent until it passes. -/
def execPackDetect (reading : PackReading) (reply : PackReply) (s : State) : Host.Outcome State Fault Refusal :=
  .next (if s.pack.present || !PackReading.inRange reading || (s.pack.missed == 3 && !(replyPasses reply)) then s
    else s.packSet ((s.pack.fitted reading).authenticate reply))

/-- R321, R325: the pack is gone. -/
def Pack.gone (p : Pack) : Pack :=
  { p with present := false, authentic := false, charging := false, missed := 0, storedMwh := 0, storedMc := 0, soc := 0
           retMw := 30000 }

/-- R324, R325: a retention has drawn a charge from the pack, at a power measured at its terminals. -/
def Pack.served (p : Pack) (chargeUsed powerMw : Nat) : Pack := { p.measure 0 chargeUsed with retMw := Nat.max 1 powerMw }

/-- R324: the imbalance of the period since the last check, in mC. -/
def Pack.imbalance (p : Pack) (storedNow : Nat) : Int :=
  (((p.inMc : Int) - p.lastIn) - ((p.outMc : Int) - p.lastOut)) - ((storedNow : Int) - p.lastStored)

/-- `PACK_LEDGER_CHECK` (R324): hourly, at each end of charge and each exit from retention. -/
def execPackLedgerCheck (storedNow : Nat) (s : State) : Host.Outcome State Fault Refusal :=
  .next (if !s.pack.present then s
    else
      let p := s.pack
      let bad := decide (225000 < (p.imbalance storedNow).natAbs)
      s.packSet { p with faulted := p.faulted || bad, charging := p.charging && !bad
                         storedMc := storedNow, lastIn := p.inMc, lastOut := p.outMc, lastStored := storedNow })

/-- `LEDGER_NVM_COPY` (R324): every 10 s. -/
def execLedgerNvmCopy (at_ : Nat) (s : State) : Host.Outcome State Fault Refusal :=
  let s := s.advance at_
  .next (if s.pack.nextCopy ≤ s.time.now then
      { s with pack := { s.pack with nvmIn := s.pack.inMc, nvmOut := s.pack.outMc, nextCopy := s.time.now + 10000000000 } }
    else s)

end Sys2Proof.Machine
end

