-- ==== Sys2Proof/Machine/Power.lean ====
section
/-! DEFINITION. The power commands and the arbiter (R296 to R306, R319). -/

namespace Sys2Proof.Machine

open Sys2Proof

/-- R46: whether any queue exists or any host core runs. -/
def State.queueOrCore (s : State) : Bool := s.queues.any (·.2.live) || s.hcores.any (·.2.run)

/-! ## The envelope (R296, R303) -/

/-- R303: drop every lien; what was borrowed becomes ordinary grants. -/
def State.dropLiens (s : State) : State :=
  let s := s.power.liens.foldl (fun s l => s.setCore l.core { s.core l.core with lentLevel := none }) s
  { s with power := { s.power with liens := [], grants := s.power.grants.map fun g => { g with parts := [] } } }

/-- R303: lower a holder by one unit at a time, at most `n` units, until held quanta fit `e`. -/
def lowerUntil (h : Holder) (e : Nat) : Nat → State → State
  | 0, s => s
  | n + 1, s => if s.heldQ ≤ e then s else lowerUntil h e n (s.lower h 1)

/-- R303: lower grant levels, newest grant first, then stack eighths in the same order. -/
def State.lowerGrants (s : State) (e : Nat) : State :=
  let cores := s.power.grants.filter fun g => match g.holder with
    | .core _ => true
    | _ => false
  let eighths := s.power.grants.filter fun g => match g.holder with
    | .stack _ => true
    | _ => false
  (cores ++ eighths).foldl (fun s g => lowerUntil g.holder e (g.quanta / unitQ g.holder) s) s

/-- The steps of `SET_ENVELOPE` (R296, R303). An envelope that holds what is held but not the reserved quanta drops the liens: reserved
quanta are free quanta (DEDUCED, log entry 22). -/
def setEnvelopeRun (r : Req) (s : State) : Ans :=
  let q := r.fld 0x10 32
  let e := clampNat 8000 24000 q
  let cl := clampOf 0x10 32 q e
  if s.heldQ + s.reservedQ ≤ e then .done 0 0 0 cl { s with power := { s.power with envelope := e } }
  else
    let s := s.dropLiens.lowerGrants e
    if s.heldQ ≤ e then .done 0 0 0 cl { s with power := { s.power with envelope := e } }
    else .wait (s.time.now + 10000000) cl { s with power := { s.power with lowerTo := some e } }

/-- `SET_ENVELOPE` (R296, R303). -/
def execSetEnvelope (mb : Fin 32) (s : State) : Host.Outcome State Fault Refusal :=
  .next (molianFixed mb 0x0801 .ownerPort 4 [(0x10, 32)] setEnvelopeRun s)

/-- R303: complete the `SET_ENVELOPE` that waits for its edge. -/
def finishEnvelope (s : State) (i : Nat) : State :=
  let b := s.mbox i
  if b.cur && b.begun && (s.req (Fin.ofNat 32 i)).opcode == 0x0801 then s.reply (Fin.ofNat 32 i) 0 0 0 b.clamps else s

/-- `ENVELOPE_LOWER_EDGE` (R303): the MCLK edge at which held quanta first fit the lower envelope. -/
def execEnvelopeLowerEdge (s : State) : Host.Outcome State Fault Refusal :=
  .next (match s.power.lowerTo with
    | none => s
    | some e =>
      if s.heldQ ≤ e then
        (List.range 32).foldl finishEnvelope { s with power := { s.power with envelope := e, lowerTo := none } }
      else s)

/-- R319: the body of `GET_POWER`, 60 bytes. -/
def State.powerBody (s : State) : Nat :=
  s.power.envelope + s.heldQ * 2 ^ 32 + s.freeQ * 2 ^ 64 + (s.reservedQ + s.borrowedQ) * 2 ^ 96 + s.coreQ * 2 ^ 128
    + s.stackQ * 2 ^ 160 + s.power.tokens * 2 ^ 192 + s.fixedQ * 2 ^ 224 + s.pool * 2 ^ 256 + s.time.root * 2 ^ 272
    + s.power.inputMv * 2 ^ 288 + s.power.inputMa * 2 ^ 320 + s.power.inputMw * 2 ^ 352 + s.borrowedQ * 2 ^ 384
    + s.power.prio.toNat * 2 ^ 416 + s.power.inbankBatch * 2 ^ 448 + s.power.tokenLimit * 2 ^ 464

/-- `GET_POWER` (R319). -/
def execGetPower (mb : Fin 32) (s : State) : Host.Outcome State Fault Refusal :=
  .next (molianFixed mb 0x0802 .any 0 [] (fun _ s => .done 0 60 s.powerBody [] s) s)

/-- R93: the lowest bits of the RW priorities of `CC_PORT_PRIO`. -/
def prioFields : List Nat := [4, 8, 12, 16]

/-- R302: with the pool at 0, in-bank records in flight stop at their next row boundary. -/
def State.poolStopped (s : State) : State :=
  if s.pool = 0 then
    { s with recs := s.recs.map fun r =>
        if r.inBank && !r.swept && !r.workDone then
          (r.failWith Status.powerDenied 0).loseUnits ((r.unitsOf s.lay).filter fun u => !(r.lostUnits.contains u))
        else r }
  else s

/-- `SET_SORUS_LIMIT` (R93, R112, R300 to R302). -/
def execSetSorusLimit (mb : Fin 32) (s : State) : Host.Outcome State Fault Refusal :=
  .next (molian mb 0x0803 .ownerPort (fun _ => 8)
    (fun _ => [(0x80, 3), (0x84, 3), (0x88, 3), (0x8C, 3), (0x90, 3), fieldAt 0x14 8, fieldAt 0x16 16]) (fun r s =>
      let v (i : Nat) : Nat := bits r.img (0x80 + i) 3
      let a (i : Nat) : Nat := Nat.min 6 (v i)
      let cl := (prioFields.map fun i =>
          if v i = a i then [] else [{ off := 0x10, lsb := i, widthM1 := 2, requested := v i, applied := a i : Clamp }]).flatten
        ++ clampOf 0x14 8 (r.fld 0x14 8) (Nat.min 8 (r.fld 0x14 8))
        ++ clampOf 0x16 16 (r.fld 0x16 16) (Nat.min 8192 (r.fld 0x16 16))
      let prio := BitVec.ofNat 32 (7 + a 4 * 2 ^ 4 + a 8 * 2 ^ 8 + a 12 * 2 ^ 12 + a 16 * 2 ^ 16)
      let s := { s with power := { s.power with
        prio, inbankBatch := Nat.min 8 (r.fld 0x14 8), tokenLimit := Nat.min 8192 (r.fld 0x16 16) } }
      .done 0 0 0 cl s.poolStopped) s)

/-! ## The arbiter (R297 to R305) -/

/-- R312: the most eighths of a stack: 4 while its logic domain is at throttle. -/
def State.stackCap (s : State) (st : Nat) : Nat := if 2 ≤ (s.dom (5 + st)).level then 4 else 8
/-- R312: the highest level of a core: 2 while its frond's logic domain is at throttle. -/
def State.coreCap (s : State) (c : Nat) : Nat := if 2 ≤ (s.dom (c / 16)).level then 2 else 4

/-- R297, R312: how many units a holder may still be granted: none while it is out of service, nor to a core that lends (R305). -/
def State.room (s : State) (h : Holder) : Nat :=
  match h with
  | .core c =>
    let x := s.core c
    if (x.svc = .inService ∨ x.svc = .draining) ∧ x.lentLevel = none then s.coreCap c - x.level else 0
  | .stack st => if s.stackUp st then s.stackCap st - s.eighths st else 0
  | .rport n => if Tbl.get false s.power.rports n then 0 else 1
  | .tokens => s.pool - s.power.tokens
  | _ => 0

/-- The units that a holder's waiting requests ask for. -/
def State.asked (s : State) (h : Holder) : Nat :=
  sumNat ((s.power.waiting.filter fun w => w.holder == h).map fun w => w.quanta / unitQ h)

/-- R297: how many units a holder may still ask for. -/
def State.headroom (s : State) (h : Holder) : Nat := s.room h - s.asked h

/-- R299: the requests that a holder makes for `n` units: one, but a token is asked for one by one (R297). -/
def State.requests (s : State) (h : Holder) (n : Nat) : List QReq :=
  match h with
  | .tokens => List.replicate n { holder := h, quanta := 1, since := s.time.now }
  | _ => if n = 0 then [] else [{ holder := h, quanta := n * unitQ h, since := s.time.now }]

/-- R304: the units that a holder may give back of its own accord: a core's level, a stack's eighths above the floor. -/
def State.returnable (s : State) (h : Holder) : Nat :=
  match h with
  | .core c => (s.core c).level
  | .stack st => Tbl.get 1 s.power.stackEighths st - 1
  | _ => 0

/-- `QUANTA_REQUEST` (R297 to R299, R304): a request joins the arbiter's queue, limited to what its holder may still hold; or a holder
gives units back, to which the spec gives no row of its own (DESIGN CHOICE, log entry 22). -/
def execQuantaRequest (h : Holder) (m : QuantaMsg) (s : State) : Host.Outcome State Fault Refusal :=
  .next (match m with
    | .ask units => { s with power := { s.power with waiting := s.power.waiting ++ s.requests h (Nat.min units (s.headroom h)) } }
    | .giveBack units => s.lower h (Nat.min units (s.returnable h)))

/-- R299: the free quanta that a holder's request may be covered from. -/
def State.coverage (s : State) (h : Holder) : Nat :=
  match h with
  | .core _ => s.freeQ
  | .stack _ => s.freeQ
  | _ => s.freeQ - s.reservedQ

/-- R303, R32: whether the arbiter grants at all. -/
def State.granting (s : State) : Bool := !s.power.stopped && s.power.lowerTo.isNone

/-- R299: whether the free quanta cover a request whole, and its holder may hold it. -/
def State.covers (s : State) (w : QReq) : Bool :=
  decide (w.quanta / unitQ w.holder ≤ s.room w.holder) && decide (w.quanta ≤ s.coverage w.holder)

/-- R299: whether the oldest request has waited 5 µs: none younger is granted before it. -/
def State.oldestFirst (s : State) : Bool :=
  match s.power.waiting with
  | [] => false
  | w :: _ => decide (w.since + 5000 ≤ s.time.now)

/-- R299: the request that is granted next: a re-grant to a waking core, else the oldest that can be covered, unless the oldest has
waited 5 µs. Tokens are granted to their units by `SORUS_TOKEN_GRANT`. -/
def State.nextGrant (s : State) : Option QReq :=
  match s.power.waiting.find? (fun w => w.regrant && s.covers w) with
  | some w => some w
  | none => s.power.waiting.find? fun w => s.covers w && (!s.oldestFirst || s.power.waiting.head? == some w)

/-- R299: whether a request that comes now would be served now: no older one can be granted, none has waited 5 µs. -/
def State.newTurn (s : State) : Bool := s.nextGrant.isNone && !s.oldestFirst

/-- R299: whether the arbiter's queue lets a token be granted: a request for one is next, or a new one would be. -/
def State.tokenTurn (s : State) : Bool :=
  match s.nextGrant with
  | some w => w.holder == .tokens
  | none => !s.oldestFirst

/-- R304: take `n` quanta from the reserved quanta of liens, the oldest first: the liens left, and the parts taken. -/
def takeReserved : Nat → List Lien → List Lien × List (Nat × Nat)
  | _, [] => ([], [])
  | 0, l => (l, [])
  | n + 1, l :: r =>
    let k := Nat.min (n + 1) l.reserved
    let x := takeReserved (n + 1 - k) r
    ({ l with reserved := l.reserved - k } :: x.1, if k = 0 then x.2 else (l.core, k) :: x.2)

/-- R133: a core's grant level rises: the operations that waited at level 0 run. -/
def State.raiseCore (s : State) (c n : Nat) : State :=
  s.setCore c (({ s.core c with level := (s.core c).level + n } : Core).wake s.time.now)

/-- R297: a holder's grant rises by `n` units. -/
def State.raise (s : State) (h : Holder) (n : Nat) : State :=
  match h with
  | .core c => s.raiseCore c n
  | .stack st => { s with power := { s.power with stackEighths := Tbl.put 1 s.power.stackEighths st (Tbl.get 1 s.power.stackEighths st + n) } }
  | .rport k => { s with power := { s.power with rports := Tbl.put false s.power.rports k true } }
  | _ => s

/-- R299, R304: grant a request whole: its holder's units rise; what the unreserved free quanta do not cover whole is borrowed. -/
def State.grant (s : State) (w : QReq) : State :=
  let x := if w.quanta ≤ s.freeQ - s.reservedQ then (s.power.liens, []) else takeReserved w.quanta s.power.liens
  let g : Grant := { holder := w.holder, quanta := w.quanta, since := w.since, parts := x.2 }
  ({ s with power := { s.power with waiting := s.power.waiting.erase w, liens := x.1, grants := g :: s.power.grants } } : State).raise
    w.holder (w.quanta / unitQ w.holder)

/-- `QUANTA_GRANT` (R299, R304): the arbiter serves one request; one for a token waits for `SORUS_TOKEN_GRANT`, which names the unit. -/
def execQuantaGrant (at_ : Nat) (s : State) : Host.Outcome State Fault Refusal :=
  let s := s.advance at_
  .next (if s.granting then match s.nextGrant with
    | some w => if w.holder = .tokens then s else s.grant w
    | none => s
  else s)

/-- R304: of the quanta of a core's level, those that it has borrowed. -/
def State.borrowedBy (s : State) (h : Holder) : Nat :=
  sumNat ((s.power.grants.filter fun g => g.holder == h).map fun g => sumNat (g.parts.map (·.2)))

/-- `CORE_LEND` (R235, R304): a core that has had no operation for 2 µs returns the quanta of its level. What it had borrowed is reserved
again in the liens that lent it; a lien of the rest reserves that for the core (DEDUCED, log entry 22: a free quantum is reserved
once). -/
def execCoreLend (c : Fin 64) (s : State) : Host.Outcome State Fault Refusal :=
  let x := s.core c
  .next (if x.level = 0 ∨ x.lentLevel.isSome ∨ s.time.now < x.lastOp + 2000 then s
    else
      let own := 30 * x.level - s.borrowedBy (.core c)
      let s := (s.lower (.core c) x.level).dropAsked (.core c)
      let s := s.setCore c { s.core c with lentLevel := some x.level }
      { s with power := { s.power with liens := s.power.liens ++ [{ core := c.val, reserved := own }] } })

/-- R305: put a request back into the queue at its age: before the first that is not older. -/
def insertByAge (w : QReq) : List QReq → List QReq
  | [] => [w]
  | x :: r => if w.since ≤ x.since then w :: x :: r else x :: insertByAge w r

/-- R305: take back a borrowed grant: its holder lowers its grant and asks again with its original age. -/
def State.revoke (s : State) (b : Grant) : State :=
  let s := { s with power := { s.power with
    grants := s.power.grants.erase b, liens := reserveAll s.power.liens b.parts
    waiting := insertByAge { holder := b.holder, quanta := b.quanta, since := b.since } s.power.waiting } }
  match b.holder with
  | .core c => s.setCore c { s.core c with level := (s.core c).level - b.quanta / 30 }
  | .stack st =>
    { s with power := { s.power with stackEighths := Tbl.put 1 s.power.stackEighths st (Tbl.get 1 s.power.stackEighths st - b.quanta / 63) } }
  | _ => s

/-- R305: revoke grants borrowed from a core's lien, the most recent first, until its level is covered. -/
def revokeFor (c need : Nat) : List Grant → State → State
  | [], s => s
  | b :: r, s =>
    let own := sumNat ((s.power.liens.filter fun l => l.core == c).map (·.reserved))
    if need ≤ own + (s.freeQ - s.reservedQ) then s
    else if b.parts.any (fun p => p.1 == c) then revokeFor c need r (s.revoke b)
    else revokeFor c need r s

/-- R305: a core's level is granted as far as unreserved free quanta cover it; the rest waits as a re-grant. -/
def State.regrant (s : State) (c : Fin 64) (lvl : Nat) : State :=
  let n := Nat.min lvl ((s.freeQ - s.reservedQ) / 30)
  let w (k : Nat) : QReq := { holder := .core c, quanta := 30 * k, since := s.time.now, regrant := true }
  let s := if n = 0 then s else s.grant (w n)
  if lvl = n then s else { s with power := { s.power with waiting := insertByAge (w (lvl - n)) s.power.waiting } }

/-- `CORE_REGRANT` (R305): a lending core has an executable operation again: it is granted its level, up to a thermal cap, from its own
lien, then from unreserved free quanta, then from what was borrowed from it. -/
def execCoreRegrant (c : Fin 64) (s : State) : Host.Outcome State Fault Refusal :=
  let x := s.core c
  .next (match x.lentLevel with
    | none => s
    | some g =>
      if s.granting then
        let lvl := Nat.min g (s.coreCap c)
        let s := (revokeFor c.val (30 * lvl) s.power.grants s).endLien c
        (s.setCore c { s.core c with lentLevel := none }).regrant c lvl
      else s)

/-- The quanta that the arbiter's ledger counts for a holder. -/
def State.ledger (s : State) (h : Holder) : Nat :=
  match h with
  | .core c => 30 * (s.core c).level
  | .stack st => 63 * s.eighths st
  | .rport n => if Tbl.get false s.power.rports n then 100 else 0
  | .tokens => s.power.tokens
  | .token su => if (s.pair su).token then 1 else 0
  | .rachis => 1000
  | .uncore _ => 400

/-- The unit identifier of a holder. -/
def Holder.unitId : Holder → Nat
  | .core c => Machine.unitId 7 c.val
  | .stack st => Machine.unitId 2 st.val
  | .rport n => Machine.unitId 10 n.val
  | .tokens => 0
  | .token su => Machine.unitId 6 su
  | .rachis => 0
  | .uncore f => Machine.unitId 1 f.val

/-- The row of R30 that gives a quantity. -/
def Quantity.row : Quantity → Nat
  | .fabricCredits => 1
  | .rhizoidCredits _ => 1
  | .arrivals => 2
  | .dmaBytes => 3
  | .tickets => 4
  | .streams => 5
  | .flags => 6
  | .packCharge => 7

/-- R31, R32: a quantity is found out of balance, or its count uncorrectable, at a unit, which is logged `ERR_INTERNAL`. For rhizoid credits
and the pack's charge the row reports an uncorrectable count only (R349 and R324 give their balance rows of their own): the first takes its
port down, the second marks the pack faulted; of every other the module error interrupt is raised, and its pool grants nothing
until a warm module reset. -/
def State.outOfBalance (s : State) (f : Quantity × Nat) : State :=
  match f.1 with
  | .rhizoidCredits n => (s.ev 0x0F Status.internal f.2 (Quantity.row f.1)).creditLost n
  | .packCharge =>
    let s := s.ev 0x0F Status.internal f.2 (Quantity.row f.1)
    s.packSet { s.pack with faulted := true }
  | _ =>
    let s := s.conservation f.2 (Quantity.row f.1)
    { s with stopped := if s.stopped.contains f.1 then s.stopped else f.1 :: s.stopped }

/-- `ARBITER_LEDGER_CHECK` (R298, R31, R32): each holder's own count is compared with the ledger; a difference is logged, raises
the module error interrupt and stops the arbiter's grants until a warm module reset. So does each of the other quantities of R30 that the
module finds out of balance, of its own pool. -/
def execArbiterLedgerCheck (counts : LedgerCounts) (s : State) : Host.Outcome State Fault Refusal :=
  let s := match counts.held.find? (fun c => s.ledger c.1 != c.2) with
    | none => s
    | some c =>
      let s := s.conservation (Holder.unitId c.1) 0
      { s with power := { s.power with stopped := true } }
  .next (counts.found.foldl State.outOfBalance s)

end Sys2Proof.Machine
end

