-- ==== Sys2Proof/Machine/SorusMath.lean ====
section
/-! DEFINITION. The arithmetic of the sorus units on columns of 32 bytes (R62 to R72), which the sorus commands and the in-bank
records share. -/

namespace Sys2Proof.Machine

open Sys2Proof

/-! ## Batches and segments (R63) -/

/-- R63: P, the partitions of the activation buffer for V vectors. -/
def partsOf (v : Nat) : Nat := if v ≤ 1 then 1 else if v ≤ 2 then 2 else if v ≤ 4 then 4 else 8
/-- R63: L, the elements of a partition. -/
def partLen (v : Nat) : Nat := 8192 / partsOf v
/-- R63: the row segments of a row. -/
def segCount (w8 : Bool) (v : Nat) : Nat := if w8 then 1 else if 5 ≤ v then 2 else 1
/-- R63: E, the weights of a row segment. -/
def segLen (w8 : Bool) (v : Nat) : Nat := if w8 then 1024 else if 5 ≤ v then 1024 else 2048
/-- R62: the weights of a column. -/
def colWeights (w8 : Bool) : Nat := if w8 then 32 else 64

/-! ## Multiply-accumulate (R62, R64, R66, R67) -/

/-- R62: weight q of a column: its row position is counted from the column's first weight. -/
def colWeight (w8 : Bool) (d : BitVec 256) (q : Nat) : Int :=
  if w8 then toSigned 8 (bits d.toNat (8 * q) 8) else toSigned 4 (bits d.toNat (4 * q) 4)

/-- R62: weight q of a row whose column `c` is `row c`. -/
def rowWeight (w8 : Bool) (row : Nat → BitVec 256) (q : Nat) : Int :=
  colWeight w8 (row (q / colWeights w8)) (q % colWeights w8)

/-- R67: lane j of a scale column. -/
def scaleLane (d : BitVec 256) (j : Nat) : Int := toSigned 16 (bits d.toNat (16 * j) 16)

/-- R67: the lane of the scale register that serves row position q, with groups of `g` and segments of `e` weights. -/
def laneOf (g e q : Nat) : Nat := if g ≤ e then q / g else 8 * (q / e)

/-- R64: the exact sum over row positions `first` to `first + n − 1` of scale × weight × activation; activation i of the vector
belongs to the segment's position i. -/
def smacSum (scale w : Nat → Int) (act : Nat → Int) (seg first n : Nat) : Int :=
  ((List.range n).map fun i => scale (first + i) * w (first + i) * act (first + i - seg)).sum

/-! ## Element-wise operations (R69, R70) -/

/-- R55 `LANE`: the bits of a lane. -/
def laneBits (lane : Nat) : Nat := if lane = 0 then 8 else if lane = 1 then 16 else 32

/-- What an element-wise operation reads besides its rows: the lane, `SHIFT`, the constants of R56, the lookup table. -/
structure EltEnv where
  lane : Nat
  shift : Nat
  lo : Int
  hi : Int
  m : Int
  table : Nat → Byte

/-- R70: one lane of an element-wise operation, and whether `sat` changed it. -/
def eltLane (op : EltOp) (e : EltEnv) (x y : Int) : Int × Bool :=
  let w := laneBits e.lane
  match op with
  | .add => satS w (x + y)
  | .sub => satS w (x - y)
  | .mul => satS w (rshift (x * y) e.shift)
  | .sadd => satS w (x + rshift (e.m * y) e.shift)
  | .min => (if y < x then y else x, false)
  | .max => (if x < y then y else x, false)
  | .clamp =>
    let lo := (satS w e.lo).1
    let hi := (satS w e.hi).1
    let m := if x < lo then lo else x
    (if hi < m then hi else m, false)
  | .lut => (toSigned 8 (e.table (ofSigned 8 x)).toNat, false)

/-- The lanes of a column of `w`-bit lanes. -/
def colLanes (w : Nat) (d : BitVec 256) : List Int := (List.range (256 / w)).map fun i => toSigned w (bits d.toNat (w * i) w)

/-- The column that lanes of `w` bits make. -/
def lanesCol (w : Nat) (zs : List Int) : BitVec 256 :=
  BitVec.ofNat 256 (zs.foldr (fun z acc => ofSigned w z + 2 ^ w * acc) 0)

/-- R70: an element-wise operation on one column, and the lanes that saturated. -/
def eltCol (op : EltOp) (e : EltEnv) (x y : BitVec 256) : BitVec 256 × Nat :=
  let w := laneBits e.lane
  let rs := (List.zip (colLanes w x) (colLanes w y)).map fun p => eltLane op e p.1 p.2
  (lanesCol w (rs.map (·.1)), (rs.filter (·.2)).length)

/-- R70: the operations that read X alone. -/
def eltUnary (op : EltOp) : Bool := op == .clamp || op == .lut
/-- R74: the operations that read the scale register's constants. -/
def eltScaled (op : EltOp) : Bool := op == .sadd || op == .clamp

/-- R70, R81: the operation of an `EOP` code. -/
def eltOpOf (n : Nat) : EltOp :=
  match n with
  | 0 => .add
  | 1 => .sub
  | 2 => .mul
  | 3 => .sadd
  | 4 => .min
  | 5 => .max
  | 6 => .clamp
  | _ => .lut

/-! ## Logic (R71) -/

/-- R71: a logic operation on one column. -/
def logCol (fn : LogFn) (x y : BitVec 256) : BitVec 256 :=
  match fn with
  | .and => x &&& y
  | .or => x ||| y
  | .xor => x ^^^ y
  | .andn => x &&& ~~~y
  | .not => ~~~x

/-- R81: the function of an `FN` code. -/
def logFnOf (n : Nat) : LogFn :=
  match n with
  | 0 => .and
  | 1 => .or
  | 2 => .xor
  | 3 => .andn
  | _ => .not

/-! ## Normalising partials (R72) -/

/-- R72: the sum and the sum of squares of the lanes of columns. -/
def nrmSums (lane : Nat) (cols : List (BitVec 256)) : Int × Int :=
  let zs := (cols.map (colLanes (laneBits lane))).flatten
  (zs.sum, (zs.map fun z => z * z).sum)

/-! ## What a unit's check of a column finds (R73, R74, R100) -/

/-- R74: a column is bad when a byte fails parity or its stored poison bit is set. -/
def colBad (d : BitVec 256) (k : BitVec 48) : Bool := k.getLsbD 41 || !(badBytes d k).isEmpty
/-- R100: a column that a unit reports: parity fails and its stored poison bit is clear. -/
def colMasked (d : BitVec 256) (k : BitVec 48) : Bool := !k.getLsbD 41 && !(badBytes d k).isEmpty
/-- R77: a payload burst that fails its parity or carries poison. -/
def burstBad (b : Burst) : Bool := colBad b.data b.check

end Sys2Proof.Machine
end

