-- ==== Sys2Proof/Machine/Sorus.lean ====
section
/-! DEFINITION. The sorus commands at a unit: loads, row operations in steps, fetches, broadcast, tokens, the re-run of a parity
error (R53 to R101). -/

namespace Sys2Proof.Machine

open Sys2Proof

/-! ## The configuration word (R55) -/

/-- R55: V, the activation vectors. -/
def Sorus.vecs (u : Sorus) : Nat := bits u.cfg.toNat 1 3 + 1
/-- R55 `WFMT`: int8 weights. -/
def Sorus.w8 (u : Sorus) : Bool := u.cfg.getLsbD 0
/-- R55 `ACT_UNSIGNED`. -/
def Sorus.unsigned (u : Sorus) : Bool := u.cfg.getLsbD 4
/-- R55 `GROUP`. -/
def Sorus.group (u : Sorus) : Nat := bits u.cfg.toNat 5 2
/-- R55 `SCALE_EN`. -/
def Sorus.scaled (u : Sorus) : Bool := u.cfg.getLsbD 7
/-- R55 `LANE`. -/
def Sorus.lane (u : Sorus) : Nat := bits u.cfg.toNat 8 2
/-- R55 `SHIFT`. -/
def Sorus.shift (u : Sorus) : Nat := bits u.cfg.toNat 10 6

/-- R53: the byte of the lookup table at an index. -/
def Sorus.table (u : Sorus) (i : Nat) : Byte :=
  match u.lut with
  | some l => l.getD i 0
  | none => BitVec.ofNat 8 i

/-- R70: what an element-wise operation reads of the unit. -/
def Sorus.eltEnv (u : Sorus) : EltEnv :=
  { lane := u.lane, shift := u.shift
    lo := toSigned 32 (bits u.scale.toNat 0 32), hi := toSigned 32 (bits u.scale.toNat 32 32)
    m := toSigned 16 (bits u.scale.toNat 64 16), table := u.table }

/-- R64: element i of vector v's partition. -/
def Sorus.actAt (u : Sorus) (v i : Nat) : Int :=
  let b := (Tbl.get 0 u.act (v * partLen u.vecs + i)).toNat
  if u.unsigned then b else toSigned 8 b

/-- R57: the status word. -/
def Sorus.statusWord (u : Sorus) : Word32 :=
  BitVec.ofNat 32 (u.actPoison.toNat + u.scalePoison.toNat * 2 ^ 8 + u.lutPoison.toNat * 2 ^ 9 + u.patPoison.toNat * 2 ^ 10
    + u.resultPoison.toNat * 2 ^ 11 + u.satCount * 2 ^ 16)

/-- R57: count saturations; the count stops at 0xFFFF. -/
def Sorus.countSat (u : Sorus) (n : Nat) : Sorus := { u with satCount := Nat.min 0xFFFF (u.satCount + n) }

/-- R58, R66, R72, R74: push an entry; the accumulators clear. -/
def Sorus.push (u : Sorus) (words : List Word32) (snrm poison : Bool) : Sorus :=
  { u with
    fifo := u.fifo ++ [{ words := words ++ List.replicate (8 - words.length) 0, count := words.length, snrm, poison }]
    accs := List.replicate 8 0, resultPoison := u.resultPoison || poison }

/-! ## Loads (R55, R59, R74, R77, R81) -/

/-- R81 `SCFG`: the effect of a configuration on a unit. -/
def Sorus.loadCfg (u : Sorus) (c : ScfgOp) : Sorus :=
  let cfg := c.config &&& 0xFFFF#32
  let u' : Sorus :=
    if c.loadCfg then
      let v' := bits cfg.toNat 1 3 + 1
      if partsOf v' = partsOf u.vecs then { u with cfg } else { u with cfg, act := [], actPoison := 0 }
    else u
  let u' : Sorus := if c.loadScale then { u' with scale := c.scale.data, scalePoison := burstBad c.scale } else u'
  if c.loadPat then
    { u' with
      pat := BitVec.ofNat 512 (c.pat0.data.toNat + c.pat1.data.toNat * 2 ^ 256), patPoison := burstBad c.pat0 || burstBad c.pat1 }
  else u'

/-- R81 `SLD`: a payload loaded into vector `VEC`'s partition from column `COL_OFF` on. DESIGN CHOICE (log entry 101): a `VEC` at or
beyond the partitions of the present V, which no rule bars, is taken as it stands. -/
def Sorus.loadVec (u : Sorus) (c : SldOp) : Sorus :=
  let base := c.vec.val * partLen u.vecs + 32 * c.colOff
  let act := Tbl.putRange 0 u.act base (c.payload.map fun b => (List.range 32).map fun i => colByte b.data i).flatten
  let bitV : BitVec 8 := BitVec.ofNat 8 (2 ^ c.vec.val)
  let kept := if c.first then u.actPoison &&& ~~~bitV else u.actPoison
  { u with act, actPoison := if c.payload.any burstBad then kept ||| bitV else kept }

/-- R81 `SLUT`: the 256 table bytes. -/
def Sorus.loadLut (u : Sorus) (p : List Burst) : Sorus :=
  { u with lut := some ((p.map fun b => (List.range 32).map fun i => colByte b.data i).flatten), lutPoison := p.any burstBad }

/-- R59: the effect of a loading command. -/
def Sorus.load (u : Sorus) (c : LoadCmd) : Sorus :=
  match c with
  | .cfg c => u.loadCfg c
  | .vec c => u.loadVec c
  | .lut p => u.loadLut p

/-- R81, R83: whether a loading command may be issued to a unit. -/
def Sorus.loadOk (u : Sorus) (c : LoadCmd) : Bool :=
  match c with
  | .cfg _ => true
  | .vec c => !c.payload.isEmpty && decide (c.payload.length ≤ 256) && decide (c.colOff + c.payload.length ≤ partLen u.vecs / 32)
  | .lut p => p.length == 8

/-- R59: apply the command that a unit holds. -/
def Pair.applyHeld (p : Pair) : Pair :=
  match p.held with
  | some c => { p with unit := p.unit.load c, held := none }
  | none => p

/-- R54: the unit as a command for a context meets it: reset when it served another one. -/
def Pair.ready (p : Pair) (ctx : Nat) : Pair :=
  let p := p.applyHeld
  if p.lastCtx = some ctx then p else { p with unit := {}, lastCtx := some ctx }

/-- Whether a controller may issue a further command to a unit: the unit exists, its channel is in service, no re-run is under way and no
iterations of a broadcast wait. -/
def State.canIssue (s : State) (su : Nat) : Bool :=
  decide (su < 32768) && s.pcUp (su / 16) && (s.pair su).rerun.isNone && (s.pair su).todo.isEmpty

/-- R105: whether an issued `SMAC` of a unit still needs its vectors. -/
def Pair.needsVecs (p : Pair) : Bool :=
  match p.rerun with
  | some x => x.steps.any fun st => match st.cmd with
    | .mac _ _ _ => true
    | _ => false
  | none => false

/-- R59: whether a loading command that reaches a unit now is held: it arrives during a step (`mid`) of a computing unit. -/
def Pair.holds (p : Pair) (mid : Bool) : Bool := mid && p.token

/-- R59, R105: whether a loading command for a context may go to a unit: at once, or to be held. -/
def State.canLoad (s : State) (su ctx : Nat) (mid : Bool) (c : LoadCmd) : Bool :=
  let p := s.pair su
  if p.holds mid then
    decide (su < 32768) && s.pcUp (su / 16) && p.held.isNone && p.lastCtx == some ctx && p.unit.loadOk c
      && (match c with
        | .vec _ => !p.needsVecs
        | _ => true)
  else s.canIssue su && (p.ready ctx).unit.loadOk c

/-- R59: a loading command reaches a unit. -/
def State.putLoad (s : State) (su ctx : Nat) (mid : Bool) (c : LoadCmd) : State :=
  let p := s.pair su
  if p.holds mid then s.setPair su { p with held := some c }
  else
    let p := p.ready ctx
    s.setPair su { p with unit := p.unit.load c }

/-- `SCFG` (R55, R59, R81): load the configuration word, the scale register, the pattern register. -/
def execScfg (su : Nat) (ctx : Nat) (mid : Bool) (c : ScfgOp) (s : State) : Host.Outcome State Fault Refusal :=
  .next (if s.canLoad su ctx mid (.cfg c) then s.putLoad su ctx mid (.cfg c) else s)

/-- The units of a pseudo-channel that a mask selects. -/
def maskUnits (gpc : Nat) (umask : BitVec 16) : List Nat := ((List.range 16).filter fun p => umask.getLsbD p).map (16 * gpc + ·)

/-- R81: load activation columns into every unit of a pseudo-channel that a mask selects. -/
def State.loadVecs (s : State) (gpc ctx : Nat) (mid : Bool) (umask : BitVec 16) (c : SldOp) : State :=
  (maskUnits gpc umask).foldl (fun s su => s.putLoad su ctx mid (.vec c)) s

/-- `SLD` (R59, R81): load activation columns into every unit of a pseudo-channel that the mask selects; of its targets, those that
compute hold it and the others apply it. -/
def execSld (gpc : Nat) (ctx : Nat) (mid : Bool) (umask : BitVec 16) (c : SldOp) (s : State) :
    Host.Outcome State Fault Refusal :=
  .next (if (maskUnits gpc umask).all fun su => s.canLoad su ctx mid (.vec c) then s.loadVecs gpc ctx mid umask c else s)

/-- `SLUT` (R59, R81): load the lookup table. -/
def execSlut (su : Nat) (ctx : Nat) (mid : Bool) (payload : List Burst) (s : State) : Host.Outcome State Fault Refusal :=
  .next (if s.canLoad su ctx mid (.lut payload) then s.putLoad su ctx mid (.lut payload) else s)

/-- `HELD_COMMAND_APPLY` (R59): the step ends and the held command takes effect; a step that waits for its re-run has not ended. -/
def execHeldCommandApply (su : Nat) (s : State) : Host.Outcome State Fault Refusal :=
  .next (if (s.pair su).rerun.isSome then s else s.setPair su (s.pair su).applyHeld)

/-! ## Steps (R59 to R72, R74) -/

/-- What one step does: the unit, the columns written with their poison, the columns read, the poison that a row's first half
carries into its second. -/
structure StepRes where
  unit : Sorus
  writes : List (Nat × BitVec 256 × Bool) := []
  reads : List Nat := []
  carry : Bool := false
deriving DecidableEq, Repr

/-- A column as it is stored: data and check bits. -/
abbrev RawCol := BitVec 256 × BitVec 48

/-- The data of a list of columns, and which are bad (R74). -/
def rawBad (x : RawCol) : Bool := colBad x.1 x.2

/-- R60, R63: the part of a row that a step sweeps: segment start, first position, positions, whether the segment ends. A row at V from
5 to 8 takes two steps: the two segments of an int4 row, the two halves of an int8 row. -/
def Sorus.span (u : Sorus) (part : Nat) : Nat × Nat × Nat × Bool :=
  let e := segLen u.w8 u.vecs
  match part with
  | 0 => (0, 0, e, true)
  | 1 => if u.w8 then (0, 0, 512, false) else (0, 0, e, true)
  | _ => if u.w8 then (0, 512, 512, true) else (e, e, e, true)

/-- R64, R66, R74: sweep one span of a weight row: `row` its columns, `bad` whether a column is bad, `poison` what else poisons it. -/
def Sorus.sweepSpan (u : Sorus) (row : Nat → BitVec 256) (bad : Nat → Bool) (poison : Bool) (a : Nat)
    (sp : Nat × Nat × Nat × Bool) : Sorus × Bool :=
  let (seg, first, n, ends) := sp
  let scale (q : Nat) : Int :=
    if u.scaled then scaleLane u.scale (laneOf (groupSize u.group) (segLen u.w8 u.vecs) q) else 1
  let accs := (List.range 8).map fun v =>
    if v < u.vecs then
      BitVec.ofInt 48 ((u.accs.getD v 0).toInt
        + smacSum scale (rowWeight u.w8 row) (fun i => u.actAt v (a + i)) seg first n)
    else u.accs.getD v 0
  let cw := colWeights u.w8
  let p := poison || (List.range (n / cw)).any fun c => bad (first / cw + c)
  let u := { u with accs }
  if ends then
    let ws := (List.range u.vecs).map fun v => satS 32 (u.accs.getD v 0).toInt
    ((u.countSat (ws.filter (·.2)).length).push (ws.map fun w => BitVec.ofInt 32 w.1) false p, false)
  else (u, p)

/-- R64 to R68: one step of an `SMAC` on weight row `w` with activation base `a`; the scale column is read before the row's first
step. -/
def Sorus.macStep (u : Sorus) (su : Nat) (rd : Nat → RawCol) (w : BitVec 16) (a part : Nat) (carry : Bool) : StepRes :=
  let sc := scaleRowOf w
  let scCol := rowCol su sc.1 sc.2
  let takes := u.scaled && part != 2
  let u := if takes then { u with scale := (rd scCol).1, scalePoison := rawBad (rd scCol) } else u
  let cols := match part with
    | 0 => List.range 32
    | 1 => List.range 16
    | _ => (List.range 16).map (16 + ·)
  let row := (List.range 32).map fun c => if cols.contains c then rd (rowCol su w c) else (0, 0)
  let at_ (c : Nat) : RawCol := row.getD c (0, 0)
  let poison := carry || (u.scaled && u.scalePoison) || u.actPoison != 0
  let r := u.sweepSpan (fun c => (at_ c).1) (fun c => rawBad (at_ c)) poison a (u.span part)
  { unit := r.1, reads := (if takes then [scCol] else []) ++ cols.map fun c => rowCol su w c, carry := r.2 }

/-- R70, R71, R74: column `c` of the destination of a row-writing operation: data, poison, saturated lanes. -/
def Sorus.destCol (u : Sorus) (cmd : RowCmd) (x y : RawCol) (c : Nat) : BitVec 256 × Bool × Nat :=
  match cmd with
  | .copy _ _ => (x.1, rawBad x, 0)
  | .init _ => (u.pat.extractLsb' (256 * (c % 2)) 256, u.patPoison, 0)
  | .log fn _ _ _ => (logCol fn x.1 y.1, rawBad x || (fn != .not && rawBad y), 0)
  | .elt op _ _ _ =>
    let r := eltCol op u.eltEnv x.1 y.1
    (r.1, rawBad x || (!eltUnary op && rawBad y) || (eltScaled op && u.scalePoison) || (op == .lut && u.lutPoison), r.2)
  | _ => (0, false, 0)

/-- The rows of a command: its destination, and the sources that it reads. -/
def cmdRows (cmd : RowCmd) : Option (BitVec 16) × List (BitVec 16) :=
  match cmd with
  | .mac _ w _ => (none, [w])
  | .copy d x => (some d, [x])
  | .init d => (some d, [])
  | .log fn d x y => (some d, if fn = .not then [x] else [x, y])
  | .elt op d x y => (some d, if eltUnary op then [x] else [x, y])
  | .nrm x _ _ => (none, [x])

/-- R71: one step of a row-writing operation. -/
def Sorus.rowStep (u : Sorus) (su : Nat) (rd : Nat → RawCol) (cmd : RowCmd) (d : BitVec 16) (src : List (BitVec 16)) : StepRes :=
  let at_ (i c : Nat) : RawCol := match src[i]? with
    | some r => rd (rowCol su r c)
    | none => (0, 0)
  let cols := (List.range 32).map fun c => (rowCol su d c, u.destCol cmd (at_ 0 c) (at_ 1 c) c)
  let u := u.countSat (sumNat (cols.map fun e => e.2.2.2))
  { unit := { u with resultPoison := u.resultPoison || cols.any fun e => e.2.2.1 }
    writes := cols.map fun e => (e.1, e.2.1, e.2.2.1)
    reads := (src.map fun r => rowCols su r).flatten }

/-- R72: the `SNRM` of columns `cf` to `cl` of a row. -/
def Sorus.nrmStep (u : Sorus) (su : Nat) (rd : Nat → RawCol) (x : BitVec 16) (cf cl : Nat) : StepRes :=
  let cols := (List.range (cl + 1 - cf)).map fun i => rowCol su x (cf + i)
  let r := nrmSums u.lane (cols.map fun c => (rd c).1)
  let w (z : Int) : List Word32 := [BitVec.ofInt 32 z, BitVec.ofInt 32 (z / 2 ^ 32)]
  { unit := u.push (w r.1 ++ w r.2) true (cols.any fun c => rawBad (rd c)), reads := cols }

/-- One step of a unit, reading columns through `rd`. -/
def Sorus.step (u : Sorus) (su : Nat) (rd : Nat → RawCol) (st : UStep) (carry : Bool) : StepRes :=
  match st.cmd with
  | .mac _ w a => u.macStep su rd w (32 * a) st.part carry
  | .nrm x cf cl => u.nrmStep su rd x cf cl
  | cmd =>
    match cmdRows cmd with
    | (some d, src) => u.rowStep su rd cmd d src
    | (none, _) => { unit := u }

/-- R82, R84: the steps of a command that runs `reps` times: the rows of an `SMAC` are one operation, every repetition of another
command is one. -/
def Sorus.stepsOf (u : Sorus) (cmd : RowCmd) (reps : Nat) : List UStep :=
  match cmd with
  | .mac n w a =>
    let parts := if 5 ≤ u.vecs then [1, 2] else [0]
    ((List.range n).map fun i => parts.map fun p => { cmd := .mac 1 (sweepRow w i) a, part := p, op := 0 : UStep }).flatten
  | .copy d x => (List.range reps).map fun i => { cmd := .copy (advanceRow d i) (advanceRow x i), part := 0, op := i }
  | .init d => (List.range reps).map fun i => { cmd := .init (advanceRow d i), part := 0, op := i }
  | .log fn d x y =>
    (List.range reps).map fun i =>
      { cmd := .log fn (advanceRow d i) (advanceRow x i) (if fn = .not then y else advanceRow y i), part := 0, op := i }
  | c => [{ cmd := c, part := 0, op := 0 }]

/-! ## Tokens (R88 to R90, R299, R300) -/

/-- The units that compute: they hold a token. -/
def State.computing (s : State) (f : Nat → Bool) : Nat := (s.pairs.filter fun e => e.2.token && f e.1).length

/-- R89, R299, R300: whether a token may be granted to a unit. -/
def State.tokenFree (s : State) (su : Nat) : Bool :=
  decide (s.power.tokens < s.pool) && decide (1 ≤ s.freeQ - s.reservedQ) && s.granting && s.tokenTurn
    && decide (s.computing (fun u => u / 16 == su / 16) < 8) && decide (s.computing (fun u => u / 1024 == su / 1024) < 384)

/-- R299: the requests that wait at the arbiter once a token is granted: the oldest one for a token is served. -/
def tokenServed (l : List QReq) : List QReq :=
  match l.find? fun w => w.holder == .tokens with
  | some w => l.erase w
  | none => l

/-- A unit takes a token. -/
def State.takeToken (s : State) (su : Nat) : State :=
  let p := s.pair su
  if p.token then s
  else
    let s := s.setPair su { p with token := true }
    { s with power := { s.power with tokens := s.power.tokens + 1, waiting := tokenServed s.power.waiting } }

/-! ## Running steps (R88, R96, R100) -/

/-- A column of the module's memory as it is stored. -/
def State.rawCol (s : State) (c : Nat) : RawCol := (s.mem.data c, s.mem.chk c)

/-- R87: the main rows of columns are precharged; scale rows stay open. -/
def Pair.closeRows (p : Pair) (cols : List Nat) : Pair :=
  { p with rows := (cols.filter fun c => decide ((locOf c).row < 31744)).foldl (fun t c => Tbl.put none t (rowBuffer c) none) p.rows }

/-- What a step leaves: the unit, its open rows (R50, R87: the first half of a row leaves it open), the columns written (R73). -/
def State.putStep (s : State) (su : Nat) (st : UStep) (r : StepRes) : State :=
  let cols := r.reads ++ r.writes.map (·.1)
  let p := ({ s.pair su with unit := r.unit, mustStep := false, rerun := none } : Pair).openRows cols
  let s := s.setPair su (if st.part = 1 then p else p.closeRows cols)
  r.writes.foldl (fun s w => s.writeFull .sequencer w.1 w.2.1 w.2.2) s

/-- R59: the step ends: the command that the unit holds takes effect. -/
def State.endStep (s : State) (su : Nat) : State := s.setPair su (s.pair su).applyHeld

/-- R284: log the poisoned columns that a step reads. -/
def State.logPoisoned (s : State) (view : Nat → RawCol) (cols : List Nat) : State :=
  cols.foldl (fun s c => if (view c).2.getLsbD 41 then s.logBad .sequencer c true else s) s

/-- R101: log the columns of a list that cannot be corrected. -/
def State.logUncorrectable (s : State) (view : Nat → RawCol) (cols : List Nat) : State :=
  cols.foldl (fun s c => if (decodeCol (view c).1 (view c).2).1 = .uncorrectable then s.logBad .sequencer c false else s) s

/-- R100, R101: run one step; when it reports a mask, the controller holds the pair for the re-run, unless it has taken place in
the step's operation (`used`). `view`: the columns as the unit meets them. Answers the poison that the row's first half carries on. -/
def State.stepOnce (s : State) (su : Nat) (view : State → Nat → RawCol) (used : Option Nat) (carry : Bool) (st : UStep)
    (rest : List UStep) : State × Bool :=
  let u := (s.pair su).unit
  let r := u.step su (view s) st carry
  let bad := r.reads.filter fun c => colMasked (view s c).1 (view s c).2
  let t := (s.logPoisoned (view s) r.reads).putStep su st r
  if bad.isEmpty then (t.endStep su, r.carry)
  else if used == some st.op then ((t.logUncorrectable (view s) bad).endStep su, r.carry)
  else
    let x : Rerun := { steps := st :: rest, accs := u.accs, fifo := u.fifo, sat := u.satCount, poison := u.resultPoison
                       rows := r.reads.map (fun c => (c, view s c)), bad, carry }
    (t.setPair su { t.pair su with rerun := some x }, r.carry)

/-- R279: a column that has been read as `e` is corrected: not where a newer write stands, which is an event all the same. -/
def State.correctRead (s : State) (c : Nat) (e : RawCol) (o : ReadOut) (d : BitVec 256) : State :=
  if s.rawCol c = e then s.correct .sequencer c o d else s.noteCorrected .sequencer c o

/-- R100 steps 1 and 2, R101: correct the masked columns that can be corrected, log the others; the columns as the re-run reads
them. -/
def correctRows (su : Nat) (s : State) : List Nat → List (Nat × RawCol) → State × List (Nat × RawCol) × Bool
  | [], rows => (s, rows, false)
  | c :: r, rows =>
    match rows.find? (·.1 == c) with
    | none => correctRows su s r rows
    | some e =>
      match decodeCol e.2.1 e.2.2 with
      | (.uncorrectable, _) => correctRows su (s.logBad .sequencer c false) r rows
      | (.poisoned, _) => correctRows su s r rows
      | (o, d) =>
        let x := correctRows su (s.correctRead c e.2 o d) r
          (rows.map fun y => if y.1 = c then (c, (d, freshCheck d false)) else y)
        (x.1, x.2.1, true)

/-- R100, R101: the controller corrects the masked columns and runs the step once more from its first column, with the accumulators, the
FIFO and the count of saturations as they stood at its start; with nothing corrected the step's result stands. Answers the carried
poison. DESIGN CHOICE (log entries 100, 102): what the discarded run counted and the poison that it reported are discarded, and an
operation in place is run again on its row as it stood. -/
def State.rerunStep (s : State) (su : Nat) (x : Rerun) (st : UStep) : State × Bool :=
  let y := correctRows su s x.bad x.rows
  let s := y.1
  let p := s.pair su
  let rd (c : Nat) : RawCol := ((y.2.1.find? (·.1 == c)).map (·.2)).getD (s.rawCol c)
  let u : Sorus := { p.unit with accs := x.accs, fifo := x.fifo, satCount := x.sat, resultPoison := x.poison }
  let r := u.step su rd st x.carry
  if y.2.2 then ((s.putStep su st r).endStep su, r.carry)
  else ((s.setPair su { p with rerun := none }).endStep su, r.carry)

/-- R21: whether a unit's frond has its path, without which it starts no new row operation. -/
def State.unitPath (s : State) (su : Nat) : Bool := (s.frond (su / 8192)).path

/-- R106: a token that returns is offered to the next unit of the pseudo-channel that waits for one. -/
def State.offerToken (s : State) (gpc : Nat) : State :=
  if !s.unitPath (16 * gpc) then s
  else match ((List.range 16).map (16 * gpc + ·)).find? (fun su => !(s.pair su).todo.isEmpty && !(s.pair su).token && s.tokenFree su) with
  | some su => s.takeToken su
  | none => s

/-- R88, R106, R300: the command has ended: the unit's token returns, and is offered on; what waits for the pair is served. -/
def State.endCmd (s : State) (su : Nat) : State :=
  (((s.setPair su { s.pair su with rerun := none }).returnToken su).offerToken (su / 16)).serveNow su

/-- R21, R86, R90: whether a unit gives its token up before its next step: at an iteration boundary while the tokens held exceed the pool,
or while its frond has lost its path. -/
def State.givesUp (s : State) (su : Nat) (st : UStep) (rest : List UStep) : Bool :=
  (s.pair su).token && (decide (s.pool < s.power.tokens) || !s.unitPath su) && (match rest with
    | next :: _ => next.op != st.op
    | [] => false)

/-- R86: a unit keeps its remaining iterations and returns its token. -/
def State.park (s : State) (su : Nat) (rest : List UStep) : State := (s.setPair su { s.pair su with todo := rest }).endCmd su

/-- R86, R94 to R96, R100: run the steps of a command in turn, with the ordinary accesses that wait served at each boundary between two
of them. A step that reports a mask stops for its re-run, which a record's own controller runs at once (`now`). -/
def State.runSteps (s : State) (su : Nat) (view : State → Nat → RawCol) (now : Bool) (used : Option Nat) (carry : Bool) :
    List UStep → State
  | [] => s.endCmd su
  | st :: rest =>
    let x := s.stepOnce su view used carry st rest
    match (x.1.pair su).rerun with
    | some y =>
      if now then
        let z := x.1.rerunStep su y st
        if z.1.givesUp su st rest then z.1.park su rest
        else State.runSteps (if rest.isEmpty then z.1 else z.1.boundary su) su view now (some st.op) z.2 rest
      else x.1
    | none =>
      if x.1.givesUp su st rest then x.1.park su rest
      else State.runSteps (if rest.isEmpty then x.1 else x.1.boundary su) su view now used x.2 rest

/-- A column as a directed command meets it. -/
def rawView (s : State) (c : Nat) : RawCol := s.rawCol c

/-- R61, R82, R83, R89: whether a token-bearing command may be issued to a unit: its rows, its fields, room in the FIFO. -/
def Sorus.cmdOk (u : Sorus) (cmd : RowCmd) : Bool :=
  let free := 16 - u.fifo.length
  let rows := match cmdRows cmd with
    | (d, src) => d.toList ++ src
  let clash := rows.any fun a => rows.any fun b => rowsClash a b
  match cmd with
  | .mac n w a =>
    decide (1 ≤ n) && decide (n ≤ 16) && decide (rowNum w + (n - 1) / 2 ≤ 32767) && decide (32 * a + segLen u.w8 u.vecs ≤ partLen u.vecs)
      && (!u.scaled || (decide (rowNum w + (n - 1) / 2 < 31744) && (u.w8 || u.group != 0)))
      && decide (n * segCount u.w8 u.vecs ≤ free)
  | .nrm _ cf cl => decide (u.lane < 2) && decide (cf ≤ cl) && decide (cl ≤ 31) && decide (1 ≤ free)
  | .elt op _ _ _ => !clash && u.lane != 3 && (op != .lut || u.lane == 0)
  | _ => !clash

/-- R21: a directed token-bearing command: it runs when its unit holds a token and its frond has its path, else it waits. -/
def State.runCmd (s : State) (su ctx : Nat) (cmd : RowCmd) : State :=
  let p := (s.pair su).ready ctx
  if s.canIssue su && s.unitPath su && p.token && p.unit.cmdOk cmd then
    (((s.setPair su p).refreshFirst su).runSteps su rawView false none false (p.unit.stepsOf cmd 1)).settleUnits
  else s

/-- `SMAC` (R62 to R68, R82): sweep weight rows against the loaded activation vectors. -/
def execSmac (su : Nat) (ctx : Nat) (nrows : Nat) (w : BitVec 16) (abase : Nat) (s : State) : Host.Outcome State Fault Refusal :=
  .next (s.runCmd su ctx (.mac nrows w abase))

/-- `SCPY` (R71): copy a row. -/
def execScpy (su : Nat) (ctx : Nat) (d x : BitVec 16) (s : State) : Host.Outcome State Fault Refusal :=
  .next (s.runCmd su ctx (.copy d x))

/-- `SINI` (R71): write the pattern register into a row. -/
def execSini (su : Nat) (ctx : Nat) (d : BitVec 16) (s : State) : Host.Outcome State Fault Refusal :=
  .next (s.runCmd su ctx (.init d))

/-- `SLOG` (R71): a bitwise operation on whole rows. -/
def execSlog (su : Nat) (ctx : Nat) (fn : LogFn) (d x y : BitVec 16) (s : State) : Host.Outcome State Fault Refusal :=
  .next (s.runCmd su ctx (.log fn d x y))

/-- `SELT` (R69, R70): an element-wise operation on rows. -/
def execSelt (su : Nat) (ctx : Nat) (op : EltOp) (d x y : BitVec 16) (s : State) : Host.Outcome State Fault Refusal :=
  .next (s.runCmd su ctx (.elt op d x y))

/-- `SNRM` (R72): the sum and the sum of squares of columns of a row. -/
def execSnrm (su : Nat) (ctx : Nat) (x : BitVec 16) (cFirst cLast : Nat) (s : State) : Host.Outcome State Fault Refusal :=
  .next (s.runCmd su ctx (.nrm x cFirst cLast))

/-! ## Fetches (R57, R58, R78, R81) -/

/-- R58: an output FIFO entry as its 272 bits: `RESULT`, `COUNT`, `KIND`, `POISON`, `EMPTY`. -/
def FifoEntry.bits (e : FifoEntry) : BitVec 272 :=
  BitVec.ofNat 272 ((e.words.zipIdx.map fun w => w.1.toNat * 2 ^ (32 * w.2)).sum % 2 ^ 256 + e.count % 16 * 2 ^ 256
    + (if e.snrm then 2 ^ 260 else 0) + (if e.poison then 2 ^ 261 else 0))

/-- R58: the entry that an empty FIFO returns: `EMPTY` is 1 and all else zero. -/
def emptyEntry : BitVec 272 := BitVec.ofNat 272 (2 ^ 262)

/-- R78: the burst that carries an entry: `RESULT` on the data bytes, `COUNT`, `KIND`, `POISON`, `EMPTY` in check-bit lanes 6 to 0. -/
def entryBurst (e : BitVec 272) : Burst := { data := e.extractLsb' 0 256, check := (e.extractLsb' 256 7).setWidth 48 }

/-- R78: the burst of an `SFET` in status mode: the configuration word in bytes 0 to 3, the status word in bytes 4 to 7. -/
def Sorus.statusBurst (u : Sorus) : Burst := { data := (u.statusWord ++ u.cfg).setWidth 256, check := 0 }

/-- `SFET` in status mode: the configuration and status words, whose RC fields clear. -/
def State.fetchStatus (s : State) (su : Nat) : State :=
  let p := s.pair su
  (s.setPair su { p with unit := { p.unit with resultPoison := false, satCount := 0 } }).emit (.status su p.unit.statusBurst)

/-- `SFET` of one entry: the oldest leaves the FIFO; an empty FIFO returns the empty entry. -/
def State.fetchOne (s : State) (su : Nat) : State :=
  let p := s.pair su
  match p.unit.fifo with
  | [] => s.emit (.entry su (entryBurst emptyEntry))
  | e :: r => (s.setPair su { p with unit := { p.unit with fifo := r } }).emit (.entry su (entryBurst e.bits))

/-- `SFET` (R58, R78): fetch entries, or the configuration and status words. -/
def execSfet (su : Nat) (ctx : Nat) (status : Bool) (nent : Nat) (s : State) : Host.Outcome State Fault Refusal :=
  .next (if s.canIssue su then
    let s := s.setPair su ((s.pair su).ready ctx)
    if status then s.fetchStatus su else (List.range nent).foldl (fun s _ => s.fetchOne su) s
  else s)

/-- R21, R86: a unit that holds a token goes on with the iterations that waited for one. -/
def State.resume (s : State) (su : Nat) : State :=
  let p := s.pair su
  if p.token && !p.todo.isEmpty && s.unitPath su then
    ((s.setPair su { p with todo := [] }).refreshFirst su).runSteps su rawView false none false p.todo
  else s

/-- `SORUS_TOKEN_GRANT` (R86, R88, R89, R300): a controller takes a token for a unit, and what waited for it goes on. -/
def execSorusTokenGrant (su : Nat) (s : State) : Host.Outcome State Fault Refusal :=
  .next (if decide (su < 32768) && s.pcUp (su / 16) && (s.pair su).rerun.isNone then
    (if s.tokenFree su then s.takeToken su else s).resume su
  else s)

/-! ## Broadcast (R84 to R86) -/

/-- The row command of a follower. -/
def followerCmd (f : Follower) : Option RowCmd :=
  match f with
  | .cfg _ => none
  | .init d => some (.init d)
  | .copy d x => some (.copy d x)
  | .log fn d x y => some (.log fn d x y)

/-- R84: the units of a channel that a broadcast selects. -/
def bcastUnits (ch : Nat) (pcsel : BitVec 2) (umask : BitVec 16) : List Nat :=
  ((List.range 2).filter fun k => pcsel.getLsbD k).map (fun k => maskUnits (2 * ch + k) umask) |>.flatten

/-- R85: every iteration of a follower keeps R61 and stays within pair-linear row 65,535. -/
def followerOk (cmd : RowCmd) (reps : Nat) : Bool :=
  let rows := match cmdRows cmd with
    | (d, src) => d.toList ++ src
  rows.all (fun a => decide (pairLinear a + reps - 1 ≤ 65535))
    && (List.range reps).all fun i => !(rows.any fun a => rows.any fun b => rowsClash (advanceRow a i) (advanceRow b i))

/-- R100, R101: the re-run that waits at a unit takes place, and the command goes on: `now`, with further re-runs on its way. -/
def State.goOn (s : State) (su : Nat) (now : Bool) : State :=
  match (s.pair su).rerun with
  | some x => match x.steps with
    | st :: rest =>
      let z := s.rerunStep su x st
      if z.1.givesUp su st rest then z.1.park su rest
      else (if rest.isEmpty then z.1 else z.1.boundary su).runSteps su rawView now (some st.op) z.2 rest
    | [] => s.endCmd su
  | none => s

/-- R100: a re-run that is under way at a unit comes to its end, with the steps that follow it; further ones on its way too. -/
def State.finishRerun (s : State) (su : Nat) : State := s.goOn su true

/-- R84, R86: a broadcast row operation on one unit: it runs its iterations once what the unit has begun is done and a token is free
for it; else they wait for a token. -/
def State.bcastUnit (s : State) (ctx reps : Nat) (cmd : RowCmd) (su : Nat) : State :=
  let s := s.finishRerun su
  let p := (s.pair su).ready ctx
  let s := s.setPair su { p with todo := p.todo ++ p.unit.stepsOf cmd reps }
  (if s.tokenFree su then s.takeToken su else s).resume su

/-- R85: whether a context may cause an `SBRD`: the management processor (256), or a privileged context of the owner. -/
def State.mayBroadcast (s : State) (ctx : Nat) : Bool :=
  ctx == 256 || ((s.ctx ctx).priv && ((s.ctx ctx).st == .active || (s.ctx ctx).st == .suspended))

/-- R84: whether the units of a list have no iterations of an earlier broadcast left. -/
def State.idleUnits (s : State) (us : List Nat) : Bool := us.all fun su => (s.pair su).todo.isEmpty

/-- `SBRD` (R84 to R86): a follower on every selected unit of a channel whose pseudo-channel is in service. It is issued for a privileged
context of the owner or the management processor (context 256). -/
def execSbrd (ch : Nat) (ctx : Nat) (pcsel : BitVec 2) (umask : BitVec 16) (reps : Nat) (f : Follower) (s : State) :
    Host.Outcome State Fault Refusal :=
  let us := (bcastUnits ch pcsel umask).filter fun su => s.pcUp (su / 16)
  .next (if !s.mayBroadcast ctx || pcsel == 0 || reps == 0 || !s.idleUnits us then s
    else match f, followerCmd f with
      | .cfg c, _ =>
        if reps = 1 ∧ us.all (fun su => s.canLoad su ctx false (.cfg c)) then
          us.foldl (fun s su => s.putLoad su ctx false (.cfg c)) s
        else s
      | _, some cmd => if followerOk cmd reps then (us.foldl (fun s su => s.bcastUnit ctx reps cmd su) s).settleUnits else s
      | _, none => s)

/-! ## The re-run of a parity error (R100, R101) -/

/-- `SORUS_PARITY_RERUN` (R100, R101): the controller corrects the masked columns and runs the step once more, and the command goes on. -/
def execSorusParityRerun (su : Nat) (s : State) : Host.Outcome State Fault Refusal := .next ((s.goOn su false).settleUnits)

end Sys2Proof.Machine
end

