-- ==== Sys2Proof/Machine/Reach.lean ====
section
/-! DEFINITION. How an access that does not wait in a pair's queue comes through: what is on its way before it, what its pair has begun, what
the controller serves ahead of it (R22, R23, R47, R91, R93 to R95, R100); the records that run once their accesses have come through. -/

namespace Sys2Proof.Machine

open Sys2Proof

/-! ## One pair -/

/-- R91, R100: what a bank pair has begun comes to its end: a re-run that waits there, and a refresh that is at its limit. -/
def State.endBegun (s : State) (su : Nat) : State := (s.finishRerun su).refreshFirst su

/-- R47 step 3: what a bank pair has begun ends, and everything that waits for it is served. -/
def State.settlePair (s : State) (su : Nat) : State :=
  let s := s.endBegun su
  s.serve su (s.pair su).ordQ.length (2 * (s.pair su).ordQ.length)

/-- R47 step 3: the accesses and sorus steps in progress end: those on the fabric too. -/
def State.quiesce (s : State) : State :=
  let s := s.deliver fun _ => true
  (s.pairs.map (·.1)).foldl State.settlePair s

/-- R91, R93, R95, R100: an access from port `k` comes through to a bank pair: after what the pair has begun, after what the controller
serves ahead of it; where the unit computes, a step follows before more is served. -/
def State.reachPair (k : Nat) (s : State) (su : Nat) : State :=
  let s := s.endBegun su
  let s := s.serveBefore su k (s.pair su).ordQ.length
  if (s.pair su).token then s.setPair su { s.pair su with mustStep := true } else s

/-- R22, R23: the requests of a source to the granules of columns that are on their way. -/
def State.aheadOf (s : State) (src : Nat) (cols : List Nat) (h : Nat × OrdAccess) : Bool :=
  h.1 == src && cols.any fun c => s.lay.dpaOf c / 256 == s.ordGranule h.2

/-- Accesses of a source to columns through port `k` come through: after its requests to their granules that are on their way (R22, R23), and
to each bank pair. DESIGN CHOICE (log entry 110): the command that makes them stands for the time that they wait. -/
def State.reach (s : State) (src k : Nat) (cols : List Nat) : State :=
  let s := s.deliver (s.aheadOf src cols)
  (dedup (cols.map colUnit)).foldl (State.reachPair k) s

/-! ## Whether a record's work may run -/

/-- The columns of a record's accesses come through, from the lowest frond that it works on. -/
def State.reachRec (s : State) (r : Rec) (cols : List Nat) : State := s.reach ((r.fronds s.lay).headD 0) 12 cols

/-- R21, R32: every frond that a record works on has its path, and the fabric grants credits. -/
def State.pathsUp (s : State) (r : Rec) : Bool :=
  (r.fronds s.lay).all (fun f => (s.frond f).path) && !s.stopped.contains .fabricCredits

/-- Go on with a record in flight that has started, is not done, is an `op` and has not stopped with its context (R215). -/
def onBegun (q : Nat) (seq : Word32) (op : Nat) (s : State) (act : Rec → State) : State :=
  match s.findRec q seq with
  | some r => if r.op = op ∧ r.started ∧ !r.workDone ∧ !r.paused then act r else s
  | none => s

/-- Run the data effect of a record that has begun and has its paths. -/
def onRec (q : Nat) (seq : Word32) (op : Nat) (s : State) (act : Rec → State) : State :=
  onBegun q seq op s fun r => if s.pathsUp r then act r else s

/-- Run the data effect of a record that reads its source operands, which come through first. -/
def onData (q : Nat) (seq : Word32) (op : Nat) (s : State) (act : State → Rec → State) : State :=
  onRec q seq op s fun r => act (s.reachRec r (s.sourceCols r)) r

end Sys2Proof.Machine
end

