-- ==== Sys2Proof/Machine/Gemv.lean ====
section
/-! DEFINITION. `GEMV_MEM`: its weight rows, the pass of the sorus units, the partials on frond cores, the sums, the epilogue (R102 to
R113, R186 to R197, R387). -/

namespace Sys2Proof.Machine

open Sys2Proof

/-! ## Weight rows (R102, R103) -/

/-- One weight row of a placement map: its unit, its row operand, the first output row that it serves, its K-slice. -/
structure GRow where
  su : Nat
  w : BitVec 16
  n : Nat
  k : Nat
deriving DecidableEq, Repr

/-- R103: the weight rows of a record's placement map. -/
def Rec.weightRows (l : Layout) (r : Rec) : List GRow :=
  (r.mapE.map fun e => (List.range e.nrows).map fun i =>
    { su := unitOf l e.window e.unit, w := sweepRow e.rowOp i, n := e.outFirst + r.rowsPer * i, k := e.kslice : GRow }).flatten

/-- The weight rows that serve an output row. -/
def Rec.rowsOf (l : Layout) (r : Rec) (n : Nat) : List GRow :=
  (r.weightRows l).filter fun g => decide (g.n ≤ n) && decide (n < g.n + r.rowsPer)

/-- R153, R337: whether an output row depends on an entry that was abandoned before its pass, or has lost its sums. -/
def Rec.rowLost (l : Layout) (r : Rec) (n : Nat) : Bool :=
  r.lostRows.contains n || (r.rowsOf l n).any fun g => r.lostUnits.contains g.su && decide (Tbl.get 0 r.lostAt g.su ≤ n)

/-- R107: the frond that keeps an output row's sums: that of its slice-0 run. -/
def Rec.sumFrond (l : Layout) (r : Rec) (n : Nat) : Nat :=
  match (r.rowsOf l n).find? (·.k == 0) with
  | some g => g.su / 8192
  | none => 0

/-- The output rows that a record still can form: those of no abandoned unit. -/
def Rec.liveRows (l : Layout) (r : Rec) : List Nat := (List.range r.gemvN).filter fun n => !r.rowLost l n

/-- The output rows that the epilogue has still to write. -/
def Rec.rowsLeft (l : Layout) (r : Rec) : List Nat := (r.liveRows l).filter fun n => !r.doneRows.contains n

/-- The weight and scale columns that a record sweeps. -/
def Rec.weightCols (l : Layout) (r : Rec) : List Nat :=
  dedup ((r.weightRows l).map fun g =>
    rowCols g.su g.w ++ (if r.scaleEn then [rowCol g.su (scaleRowOf g.w).1 (scaleRowOf g.w).2] else [])).flatten

/-! ## Partials on frond cores (R64, R66, R67, R109, R197) -/

/-- A column of weights or scales as a core reads it for a record, and whether it is bad. -/
def State.bankCol (s : State) (r : Rec) (c : Nat) : BitVec 256 × Bool :=
  let x := s.readCol c
  (x.2, !x.1.good || !s.colUp c || r.badCols.contains c)

/-- R67: the scale of row position `q` of a weight row. -/
def State.rowScale (s : State) (r : Rec) (g : GRow) (q : Nat) : Int :=
  if r.scaleEn then
    let sc := scaleRowOf g.w
    scaleLane (s.bankCol r (rowCol g.su sc.1 sc.2)).1 (laneOf (groupSize r.wGroup) r.sliceE q)
  else 1

/-- The activation of channel `c` in vector `v`, and its poison; none for an outlier, or beyond the actual length without padding
(R144, R192). -/
def State.vecElem (s : State) (r : Rec) (x : Desc) (v c : Nat) : Option (Val × Bool) :=
  s.actAt r x (match r.desc 1 with
    | some d => d.outChans
    | none => []) v c

/-- R102, R144, R192: the activation of channel `c` in vector `v`, zero where there is none. -/
def State.vecAct (s : State) (r : Rec) (x : Desc) (v c : Nat) : Int :=
  match s.vecElem r x v c with
  | some a => a.1.toInt
  | none => 0

/-- R64, R66: the partial of segment `sg` of a weight row against vector `v`, its activations changed by `f`: limited to int32, and
whether that counts. -/
def State.partialOf (s : State) (r : Rec) (x : Desc) (g : GRow) (sg v : Nat) (f : Int → Int) : Int × Bool :=
  let e := r.sliceE
  satS 32 (smacSum (s.rowScale r g) (rowWeight r.w8 fun c => (s.bankCol r (rowCol g.su g.w c)).1)
    (fun i => f (s.vecAct r x v (g.k * e + i))) (sg * e) (sg * e) e)

/-- R66, R197: what a segment adds to its sum, and the saturations counted: in the wide pass 256 times the partial of the high
halves plus that of the low halves. -/
def State.contribution (s : State) (r : Rec) (x : Desc) (g : GRow) (sg v : Nat) : Int × Nat :=
  let one (b : Bool) : Nat := if b then 1 else 0
  if r.pass = 2 then
    let h := s.partialOf r x g sg v hiHalf
    let l := s.partialOf r x g sg v loHalf
    (256 * h.1 + l.1, one h.2 + one l.2)
  else
    let p := s.partialOf r x g sg v id
    (p.1, one p.2)

/-- R107: the sum of output row `n` and vector `v`, and the saturations of its partials. -/
def State.gemvSum (s : State) (r : Rec) (x : Desc) (n v : Nat) : Int × Nat :=
  (r.rowsOf s.lay n).foldl (fun acc g =>
    let c := s.contribution r x g (n - g.n) v
    (acc.1 + c.1, acc.2 + c.2)) (0, 0)

/-- R74: whether the weights of segment `sg` of a row, or its scales, are bad. -/
def State.segBad (s : State) (r : Rec) (g : GRow) (sg : Nat) : Bool :=
  let n := r.sliceE / colWeights r.w8
  let sc := scaleRowOf g.w
  ((List.range n).any fun c => (s.bankCol r (rowCol g.su g.w (sg * n + c))).2)
    || (r.scaleEn && (s.bankCol r (rowCol g.su sc.1 sc.2)).2)

/-- R134: the outputs of row `n` are poisoned by weights of their tile. -/
def State.weightsBad (s : State) (r : Rec) (n : Nat) : Bool :=
  (r.tileCols r.gemvN n).any fun n => (r.rowsOf s.lay n).any fun g => s.segBad r g (n - g.n)

/-! ## The epilogue's formula (R108, R111, R188, R189) -/

/-- R189: the multiplier of vector `v`, and whether it counts a saturation. -/
def factorMul (m : Int) (f : FVal) : Int × Bool :=
  match f with
  | .nan => (0, true)
  | .inf n => (if m = 0 then 0 else if (m < 0) = n then 2147483647 else -2147483648, true)
  | .fin _ _ _ => satS 32 (((FVal.mul (FVal.ofInt m) f).toInt).getD 0)

/-- R188, R189: the multiplier that the epilogue uses for vector `v`: its value, whether it counts, whether it is poisoned. -/
def State.mulOf (s : State) (r : Rec) (v : Nat) : Int × Bool × Bool :=
  let m := toSigned 32 (r.fld 0x6C 32)
  match r.desc 5 with
  | none => (m, false, false)
  | some d =>
    let f := s.val r d [v]
    let q := factorMul m (fp32Val f.1.toFlt)
    (q.1, q.2, f.2)

/-- The saturations that a record counts once: the rails of its `X` (R193), the factors (R189). -/
def State.onceSats (s : State) (r : Rec) : Nat :=
  s.railCount r + ((List.range r.vcount).filter fun v => (s.mulOf r v).2.1).length

/-- The activations of vector `v` of a record, as patterns. -/
def State.actPatterns (s : State) (r : Rec) (v : Nat) : List Nat :=
  match r.actDesc with
  | some x => (List.range (x.ext.headD 0)).map fun k => (s.elem r x [k, v]).1
  | none => []

/-- R111: what the vector engine adds to output row `n` for the stream of batch member `v`: nothing while its tail buffer is empty.
DESIGN CHOICE (log entry 119): what it forms of a filled one is a free value. -/
def State.tailOf (s : State) (r : Rec) (n v : Nat) : Int :=
  match r.batch[v]? with
  | some e => match Tbl.get [] (s.frond (r.sumFrond s.lay n)).tails e.1 with
    | [] => 0
    | l => Config.tailSum (s.actPatterns r v) l n
  | none => 0

/-- R108, R111, R188: the output element of row `n` and vector `v` from its sum, none where the tile walk skips it or its multiplier has
no value. -/
def State.epilogueElem (s : State) (r : Rec) (o : Desc) (n v : Nat) (acc : Int) (bad : Bool) : List OutElem :=
  let ix := [n, v]
  if r.skipped o.ext ix || r.beyond ix then []
  else
    let (out, so, p1) := s.outlierSum r v n
    let (rs, p2) := s.rowSum r n
    let (m, _, p3) := s.mulOf r v
    let q := encodeElem o.fmt (.int (rescaled (epilogueV (acc + s.tailOf r n v) out r.zp rs) m (r.fld 0x70 6)))
    [{ ix, pat := q.1, sat := so + (if q.2 then 1 else 0), poison := bad || p1 || p2 || p3 }]

/-! ## A record's commands on sorus units (R54, R57, R58, R86 to R91, R100, R106) -/

/-- A column as a command of a record meets it: one whose read for the record failed carries poison (R286). -/
def recView (r : Rec) (s : State) (c : Nat) : RawCol :=
  let x := s.rawCol c
  if r.badCols.contains c then (x.1, freshCheck x.1 true) else x

/-- R89, R106: whether a record's commands may run on a unit: a token is free for it, and no other command uses its pseudo-channel or
waits there for a token. -/
def State.unitFree (s : State) (su : Nat) : Bool :=
  let p := s.pair su
  !p.token && p.rerun.isNone && s.tokenFree su && (List.range 16).all fun k => (s.pair (16 * (su / 16) + k)).todo.isEmpty

/-- R88, R91, R100: a record's command on a unit: after a refresh that is at its limit its controller takes a token, runs the steps, any
re-run at once, and gives the token back. What waits for the pair is served first as far as R93 puts it ahead of the sorus stream. -/
def State.recCmd (s : State) (r : Rec) (su : Nat) (cmd : RowCmd) : State :=
  let s := ((s.refreshFirst su).serveBefore su 4 (s.pair su).ordQ.length).takeToken su
  s.runSteps su (recView r) true none false ((s.pair su).unit.stepsOf cmd 1)

/-- R58, R106: the entries that a unit holds are fetched. -/
def State.fetchUnit (s : State) (su : Nat) : State × List FifoEntry :=
  let p := s.pair su
  (s.setPair su { p with unit := { p.unit with fifo := [] } }, p.unit.fifo)

/-- R57: the status of a unit is read, whose RC fields clear: its saturations, and whether a result carries poison. -/
def State.readStatus (s : State) (su : Nat) : State × Nat × Bool :=
  let p := s.pair su
  (s.setPair su { p with unit := { p.unit with satCount := 0, resultPoison := false } }, p.unit.satCount, p.unit.resultPoison)

/-- R57: the status of units is read at the end of a record's use of them: their saturations in all, and whether any carries poison. -/
def State.readStatuses (s : State) (us : List Nat) : State × Nat × Bool :=
  us.foldl (fun x su =>
    let y := x.1.readStatus su
    (y.1, x.2.1 + y.2.1, x.2.2 || y.2.2)) (s, 0, false)

/-- R54, R57, R58: the units that a record is about to use: each serves the record's context, and what an earlier use has left in the FIFO and
the status is read away. DESIGN CHOICE (log entry 125): a record's use of a unit is one pass. -/
def State.takeUnits (s : State) (r : Rec) (us : List Nat) : State :=
  us.foldl (fun s su => ((s.setPair su ((s.pair su).ready r.ctx)).fetchUnit su).1.readStatus su |>.1) s

/-- R59: a loading command of a record on a unit, which what an earlier command has left there does not reach (R54). -/
def State.recLoad (s : State) (r : Rec) (su : Nat) (c : LoadCmd) : State := s.putLoad su r.ctx false c

/-! ## The pass of the sorus units (R102, R105 to R107) -/

/-- R102: the vectors that the units hold together: 8 at a time, of wide int4 rows the first 4 and the others. -/
def Rec.vecBlocks (r : Rec) : List (List Nat) :=
  ((List.range (ceilDiv r.vcount 8)).map fun b =>
    let vs := (List.range (Nat.min 8 (r.vcount - 8 * b))).map (8 * b + ·)
    if !r.w8 && !r.split && decide (4 < vs.length) then [vs.take 4, vs.drop 4] else [vs]).flatten

/-- R102: the V of a unit for a block of vectors: a split row holds two segments at V from 5 on. -/
def Rec.unitV (r : Rec) (vs : List Nat) : Nat := if r.split then Nat.max 5 vs.length else vs.length

/-- R105: the K-slices that a partition holds at a time. -/
def Rec.slicesHeld (r : Rec) (vs : List Nat) : Nat := if r.unitV vs ≤ 2 then partLen (r.unitV vs) / r.sliceE else 1

/-- R55: the configuration of the units for a block of vectors. -/
def Rec.macCfg (r : Rec) (vs : List Nat) (unsigned : Bool) : ScfgOp :=
  let b (x : Bool) (i : Nat) : Nat := if x then 2 ^ i else 0
  { loadCfg := true, loadScale := false, loadPat := false
    config := BitVec.ofNat 32 (b r.w8 0 + 2 * (r.unitV vs - 1) + b unsigned 4 + 32 * r.wGroup + b r.scaleEn 7)
    scale := { data := 0, check := 0 }, pat0 := { data := 0, check := 0 }, pat1 := { data := 0, check := 0 } }

/-- A column of 32 values, stored as bytes, and its poison. -/
def burstOf (zs : List (Int × Bool)) : Burst :=
  let d := BitVec.ofNat 256 (zs.foldr (fun z acc => ofSigned 8 z.1 + 256 * acc) 0)
  { data := d, check := freshCheck d (zs.any (·.2)) }

/-- R105: the load of slices `k0` to `k0` + `n` − 1 of vector `v` into partition `i`, its activations changed by `f`; a partition that no
vector uses holds zeros (R102). -/
def State.vecLoad (s : State) (r : Rec) (x : Desc) (i : Nat) (v : Option Nat) (k0 n : Nat) (f : Int → Int) : SldOp :=
  let at_ (c : Nat) : Int × Bool := match v.bind fun v => s.vecElem r x v c with
    | some a => (f a.1.toInt, a.2)
    | none => (0, false)
  { first := true, vec := Fin.ofNat 8 i, colOff := 0
    payload := (List.range (n * r.sliceE / 32)).map fun b => burstOf ((List.range 32).map fun j => at_ (k0 * r.sliceE + 32 * b + j)) }

/-- A run of weight rows of one unit within a pass: its first row operand, its slice, the first output row, its rows. -/
structure GRun where
  row : BitVec 16
  k : Nat
  n : Nat
  first : Nat
  count : Nat

/-- R103, R107: the runs of a unit against a slice, cut to the output rows from `lo` to `hi`. -/
def Rec.runsOf (l : Layout) (r : Rec) (su k lo hi : Nat) : List GRun :=
  (r.mapE.filter fun e => unitOf l e.window e.unit == su && e.kslice == k).filterMap fun e =>
    let a := (lo - e.outFirst) / r.rowsPer
    let b := Nat.min e.nrows (ceilDiv (hi - e.outFirst) r.rowsPer)
    if a < b then some { row := e.rowOp, k, n := e.outFirst, first := a, count := b - a } else none

/-- R82, R106: a run's `SMAC` commands: rows from `i` on, at most 8 a command; one that would start in the row operand's other bank has
one row. -/
def macChunks : Nat → Nat → Nat → List (Nat × Nat)
  | 0, _, _ => []
  | fuel + 1, i, n =>
    if n = 0 then []
    else
      let k := if i % 2 = 1 then 1 else Nat.min 8 n
      (i, k) :: macChunks fuel (i + k) (n - k)

/-- What a pass gathers: the state, the sums by output row and vector with their poison, the saturations. -/
structure GPass where
  st : State
  sums : Tbl (Int × Bool) := []
  sats : Nat := 0

/-- R107: the entries of a command's rows join the sums: entry `i` serves output row `n` + `i`, its words the vectors of the block. -/
def GPass.add (r : Rec) (vs : List Nat) (n : Nat) (mul : Int) (g : GPass) (f : List FifoEntry) : GPass :=
  let sums := f.zipIdx.foldl (fun t e =>
    vs.zipIdx.foldl (fun t v =>
      let i := (n + e.2) * r.vcount + v.1
      let old := Tbl.get (0, false) t i
      Tbl.put (0, false) t i (old.1 + mul * (e.1.words.getD v.2 0).toInt, old.2 || e.1.poison)) t) g.sums
  { g with sums }

/-- R106: one `SMAC` of a run and the `SFET` after it. -/
def GPass.mac (r : Rec) (vs : List Nat) (mul : Int) (su base : Nat) (run : GRun) (g : GPass) (c : Nat × Nat) : GPass :=
  let s := g.st.recCmd r su (.mac c.2 (sweepRow run.row c.1) base)
  let x := s.fetchUnit su
  GPass.add r vs (run.n + r.rowsPer * c.1) mul { g with st := x.1 } x.2

/-- R106: the runs of a unit against the slices that it holds, in map order. -/
def GPass.unit (r : Rec) (vs : List Nat) (mul : Int) (k0 n lo hi : Nat) (g : GPass) (su : Nat) : GPass :=
  (List.range n).foldl (fun g i =>
    (r.runsOf g.st.lay su (k0 + i) lo hi).foldl (fun g run =>
      (macChunks run.count run.first run.count).foldl (GPass.mac r vs mul su (i * r.sliceE / 32) run) g) g) g

/-- R102, R105: a group of slices in a pseudo-channel: one masked load for each partition into the units that use the slices, then their
runs in ascending order of p. -/
def GPass.group (r : Rec) (x : Desc) (vs : List Nat) (unsigned : Bool) (f : Int → Int) (mul : Int) (lo hi gpc : Nat) (g : GPass)
    (k0 : Nat) : GPass :=
  let n := Nat.min (r.slicesHeld vs) (r.kSlices - k0)
  let us := ((List.range 16).map (16 * gpc + ·)).filter fun su =>
    !r.lostUnits.contains su && (List.range n).any fun i => !(r.runsOf g.st.lay su (k0 + i) lo hi).isEmpty
  let mask : BitVec 16 := BitVec.ofNat 16 (sumNat (us.map fun su => 2 ^ (su % 16)))
  let s := us.foldl (fun s su => s.recLoad r su (.cfg (r.macCfg vs unsigned))) g.st
  let s := (List.range (r.unitV vs)).foldl (fun t i => t.loadVecs gpc r.ctx false mask (s.vecLoad r x i vs[i]? k0 n f)) s
  us.foldl (GPass.unit r vs mul k0 n lo hi) { g with st := s }

/-- R105, R106: the slices of one half of the activations of a block of vectors in a pseudo-channel. -/
def GPass.half (r : Rec) (x : Desc) (vs : List Nat) (lo hi gpc : Nat) (g : GPass) (h : Bool × (Int → Int) × Int) : GPass :=
  ((List.range (ceilDiv r.kSlices (r.slicesHeld vs))).map (r.slicesHeld vs * ·)).foldl (GPass.group r x vs h.1 h.2.1 h.2.2 lo hi gpc) g

/-- R197: the halves of the activations of a pass over `X` or its wide source: whether they load unsigned, how they are formed, what
their partials count for. -/
def Rec.halves (r : Rec) (x : Desc) : List (Bool × (Int → Int) × Int) :=
  if r.pass = 2 then [(false, hiHalf, 256), (true, loHalf, 1)] else [(x.fmt == 2, id, 1)]

/-- The units on which a record's entries are not abandoned. -/
def Rec.liveUnits (l : Layout) (r : Rec) : List Nat := (r.unitsOf l).filter fun u => !r.lostUnits.contains u

/-- R57, R105, R106: a pass over the output rows from `lo` to `hi`, pseudo-channel by pseudo-channel; then the status of the units is
read. -/
def State.gemvPass (s : State) (r : Rec) (x : Desc) (lo hi : Nat) : GPass :=
  let us := r.liveUnits s.lay
  let g := (dedup (us.map (· / 16))).foldl (fun g gpc =>
    r.vecBlocks.foldl (fun g vs => (r.halves x).foldl (GPass.half r x vs lo hi gpc) g) g) ({ st := s.takeUnits r us } : GPass)
  let y := g.st.readStatuses us
  { g with st := y.1, sats := y.2.1 }

/-- R107: where the pass that starts at output row `n` ends: before the first row with which a frond's rows times V exceed 131,072;
it takes the rows of one weight row at least. -/
def Rec.passEnd (l : Layout) (r : Rec) : Nat → Nat → Tbl Nat → Nat
  | 0, n, _ => n
  | fuel + 1, n, t =>
    let f := r.sumFrond l n
    let c := Tbl.get 0 t f + r.vcount * Nat.min r.rowsPer (r.gemvN - n)
    if 131072 < c ∧ t ≠ [] then n else Rec.passEnd l r fuel (n + r.rowsPer) (Tbl.put 0 t f c)

/-- R110: the running maximum of a record's sums on a frond, with further sums. DESIGN CHOICE (log entry 133): kept of every record, since no
field selects the score mode. -/
def raiseMax (l : List (Nat × Word32 × Int)) (r : Rec) (zs : List Int) : List (Nat × Word32 × Int) :=
  let mine (e : Nat × Word32 × Int) : Bool := e.1 == r.q && e.2.1 == r.seq
  match maxInt ((l.filter mine).map (·.2.2) ++ zs) with
  | some m => (r.q, r.seq, m) :: l.filter fun e => !mine e
  | none => l

/-- The sums of a pass are kept on the fronds of their rows, whose reduction paths keep the running maximum (R110). -/
def State.keepSums (s : State) (r : Rec) (sums : Tbl (Int × Bool)) (ns : List Nat) : State :=
  ns.foldl (fun s n =>
    let f := r.sumFrond s.lay n
    let fr := s.frond f
    let es := (List.range r.vcount).map fun v => Tbl.get (0, false) sums (n * r.vcount + v)
    s.setFrond f { fr with
      sums := fr.sums ++ es.zipIdx.map fun e => (r.q, r.seq, n, e.2, e.1.1, e.1.2)
      maxima := raiseMax fr.maxima r (es.map (·.1)) }) s

/-- R110: the running maxima of a record are dropped: its pass over `X` or its wide source begins. -/
def State.dropMaxima (s : State) (r : Rec) : State :=
  { s with fronds := s.fronds.map fun e => (e.1, { e.2 with maxima := e.2.maxima.filter fun m => !(m.1 == r.q && m.2.1 == r.seq) }) }

/-- The next pass of a record over its output rows in the banks: `X` is read, the units sweep, the sums are kept. -/
def State.bankPass (s : State) (r : Rec) (x : Desc) : State :=
  let lo := r.sweptTo
  let hi := r.passEnd s.lay (ceilDiv (r.gemvN - lo) r.rowsPer) lo []
  let cols := s.sourceCols r
  let g := (s.noteReads .frond cols).gemvPass r x lo hi
  let sat := g.sats + if lo = 0 then s.onceSats r else 0
  let done := decide (r.gemvN ≤ hi)
  let st := if lo = 0 then g.st.dropMaxima r else g.st
  (st.keepSums r g.sums ((r.liveRows s.lay).filter fun n => decide (lo ≤ n) && decide (n < hi))).setRec { r with
    sweptTo := hi, swept := done, workDone := done && (r.rowsLeft s.lay).isEmpty, sat := r.sat + sat
    codes := r.codes ++ s.downCode cols }

/-- R22, R107: whether the partials of every unit of a record have a route to the frond that keeps their sums. -/
def State.sumsRouted (s : State) (r : Rec) : Bool :=
  (r.weightRows s.lay).all fun g => r.lostUnits.contains g.su || (s.route (g.su / 8192) (r.sumFrond s.lay g.n) 0).isSome

/-- R107: whether a record's next pass may begin: no sums of the last wait, the units of the record are free, and the partials have their
routes. -/
def State.passReady (s : State) (r : Rec) : Bool :=
  ((r.rowsLeft s.lay).all fun n => decide (r.sweptTo ≤ n)) && (r.liveUnits s.lay).all s.unitFree && s.sumsRouted r

/-! ## The record on frond cores (R109) -/

/-- R109: the output element of row `n` and vector `v` from the partials that cores form, with their saturations. -/
def State.coreElem (s : State) (r : Rec) (o x : Desc) (nv : Nat × Nat) : List OutElem × Nat :=
  let (n, v) := nv
  let sum := s.gemvSum r x n v
  -- R134: the tile's row sums, outlier products and multipliers stand in vector registers, each with one bit
  let cols := s.weightsBad r n || (r.tileCols r.gemvN n).any fun j => (s.outlierSum r v j).2.2 || (s.rowSum r j).2
  let rows := (r.tileRows r.vcount v).any fun i => (s.mulOf r i).2.2
  match s.epilogueElem r o n v sum.1 (s.actPoison r x v || cols || rows) with
  | [] => ([], sum.2)
  | es => (es.map fun e => { e with sat := e.sat + sum.2 }, 0)

/-- R152: the outputs of a `GEMV_MEM` on frond cores are formed. -/
def State.gemvCores (s : State) (r : Rec) (o x : Desc) : State :=
  let es := ((List.range r.gemvN).map fun n => (List.range r.vcount).map fun v => s.coreElem r o x (n, v)).flatten
  s.formOuts r (s.sourceCols r ++ r.weightCols s.lay) o (es.map (·.1)).flatten (s.onceSats r + sumNat (es.map (·.2)))

/-- `GEMV_MEM` (R102 to R109, R113): a pass in the banks, or the outputs on frond cores. -/
def execGemvMem (q : Nat) (seq : Word32) (s : State) : Host.Outcome State Fault Refusal :=
  .next (onRec q seq 0x10 s fun r =>
    match r.desc 0, r.actDesc with
    | some o, some x =>
      if r.engine = 1 then
        if !r.swept && s.passReady r then (s.reachRec r (s.sourceCols r)).bankPass r x else s
      else (s.reachRec r (s.sourceCols r ++ r.weightCols s.lay)).gemvCores r o x
    | _, _ => s)

/-! ## The epilogue in the banks' case (R108) -/

/-- The sum of output row `n` and vector `v` that a frond holds, with its poison. -/
def State.sumAt (s : State) (r : Rec) (n v : Nat) : Option (Int × Bool) :=
  ((s.frond (r.sumFrond s.lay n)).sums.find? fun e => e.1 == r.q && e.2.1 == r.seq && e.2.2.1 == n && e.2.2.2.1 == v).map
    fun e => (e.2.2.2.2.1, e.2.2.2.2.2)

/-- The output elements of row `n` whose sums a frond holds. -/
def State.epilogueRow (s : State) (r : Rec) (o : Desc) (n : Nat) : List OutElem :=
  ((List.range r.vcount).map fun v => match s.sumAt r n v with
    | some a => s.epilogueElem r o n v a.1 a.2
    | none => []).flatten

/-- The columns that elements of a destination lie in. -/
def State.outCols (s : State) (d : Desc) (es : List OutElem) : List Nat :=
  dedup ((s.elemWrites d es).map fun w => s.lay.colOf w.dpa)

/-- The data effect of the epilogue on output row `n`: its elements are written, its sums leave the frond's store. -/
def State.epilogueWork (s : State) (r : Rec) (o : Desc) (n : Nat) : State :=
  let es := s.epilogueRow r o n
  let r' : Rec := { r with
    doneRows := n :: r.doneRows, sat := r.sat + sumNat (es.map (·.sat)), produced := r.produced + es.length
    codes := r.codes ++ s.downCode (s.outCols o es) ++ (if es.any (·.poison) then [(Status.poison, 0)] else []) }
  let f := r.sumFrond s.lay n
  let s' := s.writeAll .frond (s.elemWrites o es)
  let fr := s'.frond f
  let s' := s'.setFrond f { fr with sums := fr.sums.filter fun e => !(e.1 == r.q && e.2.1 == r.seq && e.2.2.1 == n) }
  s'.setRec { r' with workDone := r'.swept && (r'.rowsLeft s.lay).isEmpty }

/-- `EPILOGUE` (R108, R188, R189): the outputs of row `n` once all its partials have arrived. -/
def execEpilogue (q : Nat) (seq : Word32) (n : Nat) (s : State) : Host.Outcome State Fault Refusal :=
  .next (onBegun q seq 0x10 s fun r =>
    match r.desc 0 with
    | some o =>
      if r.engine = 1 ∧ n < r.sweptTo ∧ n ∈ r.rowsLeft s.lay then
        (s.reachRec r (s.sourceCols r ++ s.outCols o (s.epilogueRow r o n))).epilogueWork r o n
      else s
    | none => s)

end Sys2Proof.Machine
end

