-- ==== Sys2Proof/Machine/Sync.lean ====
section
/-! DEFINITION. Flag pages, mirror writes, doorbells (R204, R228, R229, R366, R367). -/

namespace Sys2Proof.Machine

open Sys2Proof

/-- R228: what a flag-page write does when its agent may make it; the owner's port and host cores may, a host core on
its own context's page (R250). Any other write is discarded. -/
def flagPage (by_ : Agent) (ctx off : Nat) (v : Nat) (s : State) (act : State → State) : State :=
  match by_ with
  | .port p => if s.isOwner p then act s else s.discard p (flagOff ctx + off) v
  | .hcore n => if (s.hcore n).ctx = ctx then act s else s

/-- R219, R228: set or clear the context flag that a flag-page write names. -/
def flagPageOne (by_ : Agent) (ctx off : Nat) (n : BitVec 16) (v : Bool) (s : State) : State :=
  flagPage by_ ctx off n.toNat s fun s =>
    match (s.ctx ctx).flag n.toNat with
    | some (b, i) => (s.putFlag v b i).touch ctx
    | none => s.ev 0x0E Status.fieldRange (agentUnit by_) (flagOff ctx + off) n.toNat ctx

/-- R367: set or clear the masked flags of a slot in one flag-store operation. -/
def flagPageMask (by_ : Agent) (ctx off slot : Nat) (mask : Word64) (v : Bool) (s : State) : State :=
  flagPage by_ ctx (off + 8 * slot) mask.toNat s fun s =>
    match (s.ctx ctx).flag (64 * slot) with
    | some (b, _) =>
      (s.putBlock b (if v then s.flagBlock b ||| mask else s.flagBlock b &&& ~~~mask)).touch ctx
    | none => s.ev 0x0E Status.fieldRange (agentUnit by_) (flagOff ctx + off + 8 * slot) mask.toNat ctx

/-- `FLAG_PAGE_SET` (R228, R367): a `FLAG_SET` write on a flag page. -/
def execFlagPageSet (by_ : Agent) (ctx : Nat) (n : BitVec 16) (s : State) : Host.Outcome State Fault Refusal :=
  .next (flagPageOne by_ ctx 0 n true s)

/-- `FLAG_PAGE_CLEAR` (R228, R367): a `FLAG_CLEAR` write on a flag page. -/
def execFlagPageClear (by_ : Agent) (ctx : Nat) (n : BitVec 16) (s : State) : Host.Outcome State Fault Refusal :=
  .next (flagPageOne by_ ctx 8 n false s)

/-- `SET_MASK` (R367). -/
def execSetMask (by_ : Agent) (ctx slot : Nat) (mask : Word64) (s : State) : Host.Outcome State Fault Refusal :=
  .next (flagPageMask by_ ctx 0x2000 slot mask true s)

/-- `CLEAR_MASK` (R367). -/
def execClearMask (by_ : Agent) (ctx slot : Nat) (mask : Word64) (s : State) : Host.Outcome State Fault Refusal :=
  .next (flagPageMask by_ ctx 0x4000 slot mask false s)

/-- R229, R255: send what a block owes: a mirror write of its present state, then its message; not while the link retrains. -/
def State.mirrorSend (s : State) (b : Nat) : State :=
  let m := Tbl.get ({} : Mirror) s.mirrors b
  match s.ownerPort, s.binding b with
  | some p, some (_, _, f) =>
    if (s.port p).reach && !(s.port p).retraining then
      let s := { s with mirrors := Tbl.put {} s.mirrors b {} }
      let s := if m.write && f.mirror then s.toHost p (.mirror p f.addr (s.flagBlock b)) else s
      if m.msg && f.msix then s.msix p f.vector else s
    else s
  | _, _ => s

/-- `FLAG_MIRROR_WRITE` (R229): a pending change of a mirrored block is sent, followed by MSI-X when enabled. -/
def execFlagMirrorWrite (block : Nat) (s : State) : Host.Outcome State Fault Refusal :=
  .next (s.mirrorSend block)

/-- R229: the slots with `MIRROR_EN` or `MSIX_EN` set. -/
def State.mirroredBlocks (s : State) : List Nat :=
  (s.ctxs.map fun (_, c) => (c.slots.filter fun (_, f) => f.mapped && (f.mirror || f.msix)).map fun (_, f) => f.block).flatten

/-- R229: mirroring on the owner's port stops for a cause (0 link down, 1 bus mastering, 2 fence): one entry of kind 0x17. -/
def State.mirrorStop (s : State) (p : Fin 4) (cause : Nat) : State :=
  if s.isOwner p ∧ (s.port p).mirrorHeld = false then
    let s := s.setPort p { s.port p with mirrorHeld := true }
    s.ev 0x17 0 (unitId 8 p.val) cause s.mirroredBlocks.length
  else s

/-- R229: the link returns: each mirrored block is written once with its current state, and one message is sent for each
vector whose block had a 0-to-1 change meanwhile. -/
def State.mirrorReturn (s : State) (p : Fin 4) : State :=
  if s.isOwner p ∧ (s.port p).reach ∧ (s.port p).mirrorHeld then
    let s := s.setPort p { s.port p with mirrorHeld := false }
    let bs := s.mirroredBlocks
    let s := bs.foldl (fun s b =>
      match s.binding b with
      | some (_, _, f) => if f.mirror then s.toHost p (.mirror p f.addr (s.flagBlock b)) else s
      | none => s) s
    let owed := bs.filter fun b => (Tbl.get ({} : Mirror) s.mirrors b).msg
    let vs := dedup (owed.filterMap fun b => (s.binding b).map fun x => x.2.2.vector)
    let s := vs.foldl (fun s v => s.msix p v) s
    bs.foldl (fun s b => { s with mirrors := Tbl.put {} s.mirrors b {} }) s
  else s

/-- R229, R248: what held a port's messages ends: mirroring resumes, and the pending messages are sent. -/
def State.hostReturn (s : State) (p : Fin 4) : State := (s.mirrorReturn p).msixFlush p

/-- R203: the occupancy of a queue. -/
def Queue.occ (q : Queue) : Nat := (q.tail - q.head).toNat
/-- R203: the completion backlog of a queue. -/
def Queue.backlog (q : Queue) : Nat := (q.head - q.cqHead).toNat

/-- R200, R204, R250: a doorbell-page write acts when its agent may make it: the owner's port, or a host core bound to
the queue's context; `off` is the register's offset, `v` the value. -/
def doorbellPage (by_ : Agent) (q off : Nat) (v : Word32) (s : State) (act : State → State) : State :=
  let qu := s.queue q
  match by_ with
  | .port p =>
    if !s.isOwner p then s.discard p (doorbellOff q + off) v.toNat
    else if !qu.live then s.logDiscard by_ 0 (doorbellOff q + off) v.toNat
    else act s
  | .hcore n => if qu.live && qu.ctx == (s.hcore n).ctx then act s else s

/-- R204: the effect of a written `TAIL` on its queue. -/
def tailWrite (by_ : Agent) (q : Nat) (v : Word32) (s : State) : State :=
  let qu := s.queue q
  let off := doorbellOff q
  match (s.ctx qu.ctx).st with
  | .free => s.logDiscard by_ Status.contextState off v.toNat
  | .orphaned => s.logDiscard by_ Status.contextState off v.toNat
  | _ =>
    if v = qu.tail then s
    else if precedes v qu.tail then s.logDiscard by_ Status.fieldRange off v.toNat
    else if qu.entries < (v - qu.head).toNat then s.logDiscard by_ Status.queueFull off v.toNat
    else
      let s := s.setQueue q { qu with tail := v }
      if qu.tail = qu.head then (s.headNow q).touch qu.ctx else s

/-- `DOORBELL_TAIL` (R204): a write of `TAIL` is checked and accepted, or discarded and logged. -/
def execDoorbellTail (by_ : Agent) (q : Nat) (v : Word32) (s : State) : Host.Outcome State Fault Refusal :=
  .next (doorbellPage by_ q 0 v s (tailWrite by_ q v))

end Sys2Proof.Machine
end

