-- ==== Sys2Proof/Machine/Records.lean ====
section
/-! DEFINITION. Records from `HEAD` to completion: the scheduler, issue and decode, start, the widening re-run, completion (R138, R156
to R159, R194, R196, R202 to R212, R219, R223 to R225, R353, R354). -/

namespace Sys2Proof.Machine

open Sys2Proof

/-! ## The record at `HEAD` (R202, R205) -/

/-- The DPA of the ring entry of a sequence. -/
def Queue.entryAt (qu : Queue) (seq : Word32) : Nat := qu.ring + 128 * (seq.toNat % qu.entries)

/-- R205: the record at a queue's `HEAD`, as it is read from the ring. -/
def State.headRec (s : State) (q : Nat) : Rec :=
  let qu := s.queue q
  { q, seq := qu.head, ctx := qu.ctx, raw := BitVec.ofNat 1024 (s.readNum (qu.entryAt qu.head) 128).1 }

/-- R43, R284: the status and unit with which a ring entry that cannot be read fails its record. -/
def State.headBad (s : State) (q : Nat) : Option (Nat × Nat) :=
  let qu := s.queue q
  let cols := s.colsOf (qu.entryAt qu.head) 128
  match cols.find? fun c => !s.colUp c with
  | some c => some (Status.outOfService, unitId 4 (locOf c).gpc)
  | none => if (s.readNum (qu.entryAt qu.head) 128).2 then some (Status.uncorrectable, 0) else none

/-! ## Waits (R219, R223) -/

/-- R136, R219: a record need not wait: a wait or signal list names a flag whose slot is not mapped, or `WAIT_N` spells no list. -/
def State.unmapped (s : State) (r : Rec) : Bool :=
  decide (4 < bits r.raw.toNat 24 3) || (r.waits ++ r.signals).any fun n => ((s.ctx r.ctx).flag n).isNone

/-- R223: whether a record's wait list is satisfied. -/
def State.recWaitSat (s : State) (r : Rec) : Bool := s.waitSat r.ctx (r.op == 0x51 && r.variant % 2 == 1) r.waits

/-- R223: a `FLAG_WAIT` that consumes. -/
def Rec.consumes (r : Rec) : Bool := r.op == 0x51 && 2 ≤ r.variant

/-! ## Readiness (R158, R206, R212, R215) -/

/-- R212: a record in flight advances a stream that the record names. -/
def State.streamHeld (s : State) (r : Rec) : Bool := (s.readRec r).streams.any s.advancing

/-- R94: what the sequencer reads to issue a record is served at once: its ring entry, and the objects that it judges at decode. -/
def State.headClear (s : State) (q : Nat) : Bool :=
  let qu := s.queue q
  (s.colsOf (qu.entryAt qu.head) 128).all (s.clearCol rachis)
    && ((s.headBad q).isSome || (s.decodeCols (s.readRec (s.headRec q))).all (s.clearCol rachis))

/-- R158, R206, R215: the conditions of issue besides the wait list. -/
def State.issueRoom (s : State) (q : Nat) : Bool :=
  let qu := s.queue q
  let x := s.ctx qu.ctx
  s.phase == .ready && qu.live && x.st == .active && !x.suspending && qu.cancelTo.isNone && qu.drainTo != some qu.head
    && qu.occ != 0 && decide (qu.backlog < qu.entries) && decide ((s.qRecs q).length < 32) && decide (s.recs.length < 512)
    && ((s.headBad q).isSome || !s.streamHeld (s.headRec q))

/-- R206: whether the record at `HEAD` may issue: its wait list is satisfied, or it need not wait (R219, R284). -/
def State.canIssueRec (s : State) (q : Nat) : Bool :=
  s.issueRoom q && s.headClear q && ((s.headBad q).isSome || s.unmapped (s.headRec q) || s.recWaitSat (s.headRec q))

/-- R224: a consuming wait of a lower queue number, satisfied at the same edge, shares a flag with that of `q` and comes first. -/
def State.consumedBefore (s : State) (q : Nat) : Bool :=
  let r := s.headRec q
  r.consumes && s.queues.any fun e =>
    let x := s.headRec e.1
    decide (e.1 < q) && s.canIssueRec e.1 && x.consumes && x.ctx == r.ctx && x.waits.any r.waits.contains

/-- R206, R224: the ready queues, ascending. -/
def State.readyQueues (s : State) : List Nat :=
  (s.queues.map (·.1)).filter fun q => s.canIssueRec q && !s.consumedBefore q

/-! ## The scheduler (R207) -/

/-- R207: the level that the next issue goes to, among the levels that have a ready queue: the highest, unless a lower one has seen 16
consecutive issues from higher levels. -/
def Sched.level (d : Sched) (levels : List Nat) : Nat :=
  let top := levels.foldl Nat.max 0
  let due := levels.filter fun l => decide (l < top) && decide (16 ≤ Tbl.get 0 d.passed l)
  if due.isEmpty then top else due.foldl Nat.max 0

/-- R207: the queue of a level whose turn it is, among its ready queues: the same while its weight lasts, then the next in ascending
order. -/
def Sched.turnOf (d : Sched) (level : Nat) (ready : List Nat) (weight : Nat → Nat) : Nat :=
  let (cur, used) := Tbl.get (0, 0) d.turn level
  if cur ≠ 0 ∧ ready.contains (cur - 1) ∧ used < weight (cur - 1) then cur - 1
  else (ready.find? fun q => decide (cur ≤ q)).getD (ready.headD 0)

/-- R207: the queue that issues next. -/
def State.nextQueue (s : State) : Option Nat :=
  let ready := s.readyQueues
  if ready.isEmpty then none
  else
    let lv := s.sched.level (ready.map fun q => (s.queue q).prio)
    some (s.sched.turnOf lv (ready.filter fun q => (s.queue q).prio == lv) fun q => (s.queue q).weight)

/-- R207: the scheduler after an issue from `q`: a level counts consecutive issues from higher ones while it has a ready queue. -/
def State.scheduled (s : State) (q : Nat) : Sched :=
  let lv := (s.queue q).prio
  let ready := dedup (s.readyQueues.map fun q => (s.queue q).prio)
  let passed := [0, 1, 2, 3].foldl (fun t l =>
    Tbl.put 0 t l (if ready.contains l ∧ l < lv then Tbl.get 0 s.sched.passed l + 1 else 0)) []
  let (cur, used) := Tbl.get (0, 0) s.sched.turn lv
  { passed, turn := Tbl.put (0, 0) s.sched.turn lv (q + 1, if cur = q + 1 ∧ used < (s.queue q).weight then used + 1 else 1) }

/-- R207: a queue whose turn it is and that cannot issue forfeits the rest of its turn. -/
def State.forfeit (s : State) : State :=
  let ready := s.readyQueues
  { s with sched := { s.sched with turn := s.sched.turn.map fun e =>
      if e.2.1 ≠ 0 ∧ !ready.contains (e.2.1 - 1) then (e.1, (e.2.1, Nat.max e.2.2 (s.queue (e.2.1 - 1)).weight)) else e } }

/-! ## Issue (R138, R205, R211, R223, R353, R354) -/

/-- R211, R213: the streams of a record whose position would pass its limit become faulted, each with an event-log entry. -/
def State.faultStreams (s : State) (r : Rec) : State :=
  r.batch.foldl (fun s e =>
    let t := s.stream e.1
    if t.st = .active ∧ s.inRange r.ctx e.1 ∧ s.exhausted e then
      (s.setStream e.1 { t with st := .faulted }).ev 0x06 Status.positionExhausted 0 (e.1 + t.batchId.toNat * 2 ^ 16) t.pos.toNat
        (qseq r.q r.seq)
    else s) s

/-- R223: a consuming wait clears every flag of its list that is set. -/
def State.consume (s : State) (r : Rec) : State :=
  if r.consumes then s.putFlags r.ctx false (r.waits.filter fun n => s.flagVal r.ctx n == some true) else s

/-- R353, R354: the count of a queue and `MEMBERS`. -/
def Group.count (g : Group) (q : Nat) (m : BitVec 16) : Nat :=
  match g.counts.find? fun e => e.1 == q && e.2.1 == m.toNat with
  | some e => e.2.2
  | none => 0

/-- R354: the count of a queue and `MEMBERS` advances. -/
def Group.advance (g : Group) (q : Nat) (m : BitVec 16) : Group :=
  { g with counts := (q, m.toNat, g.count q m + 1) :: g.counts.filter fun e => !(e.1 == q && e.2.1 == m.toNat) }

/-- R138: a record enters the scoreboards: its ranges, its tickets, whether it spills (R154). -/
def State.enter (s : State) (r : Rec) : State :=
  let spilled := (r.isMatmul || (r.op == 0x10 && r.engine != 1)) && decide (0 < r.spill)
  { s with recs := s.recs ++ [{ r with ranges := s.rangesOf r, tickets := r.newTickets, spilled }] }

/-- R354: a `COLLECTIVE` that has passed decode takes its count; at a cancelled count it completes at once. -/
def State.enterColl (s : State) (r : Rec) : State :=
  let m := r.members
  let k := s.group.count r.q m
  let r := { r with collK := k }
  let cancelled := s.group.cancels.contains (r.q, m.toNat, k)
  let s := { s with group := s.group.advance r.q m }
  if cancelled then s.retire (r.failWith Status.cancelled 0) true else s.enter r

/-- R138, R257, R284: a record completes with the status of its first failing class; one that moves host data and whose control objects
cannot be read halts, no byte of it acknowledged. -/
def State.failDecode (s : State) (r : Rec) (st unit : Nat) : State :=
  let s := if st = Status.positionExhausted then s.faultStreams r else s
  if st = Status.uncorrectable ∧ (r.op = 0x34 ∨ r.op = 0x35) then
    let s := s.ev 0x04 st (unitId 8 r.variant) (qseq r.q r.seq) r.variant 0 0
    s.retire { r.failWith st unit with evSeq := s.evNewest } true
  else s.retire (r.failWith st unit) true

/-- R138: a record that has left the ring is decoded: it completes with the status of its first failing class, or enters the
scoreboards. -/
def State.decode (s : State) (r0 : Rec) : State :=
  let r := s.readRec r0
  let fail := s.decodeFail r
  let s' := (s.reach rachis 12 (s.decodeCols r)).noteReads .sequencer (s.decodeCols r)
  match fail with
  | some (st, unit) => s'.failDecode r st unit
  | none =>
    let s' := s'.consume r
    if r.op = 0x40 then s'.enterColl r else s'.enter r

/-- The record at a queue's `HEAD` leaves the ring. -/
def State.passHead (s : State) (q : Nat) : State :=
  let qu := s.queue q
  ((s.setQueue q { qu with head := qu.head + 1 }).headNow q).active qu.ctx

/-- R284, R286: a read of columns for the record at a queue's `HEAD` fails: of its ring entry, when it completes in its own sequence, or of
an object that it is judged by, when it halts. -/
def State.headFails (s : State) (q : Nat) (cols : List Nat) : State :=
  let qu := s.queue q
  let r := s.headRec q
  let x := s.readRec r
  if !s.issueRoom q then s
  else if cols.any (s.colsOf (qu.entryAt qu.head) 128).contains then (s.passHead q).retire (r.failWith Status.uncorrectable 0) true
  else if (s.headBad q).isNone && cols.any (s.decodeCols x).contains then (s.passHead q).failDecode x Status.uncorrectable 0
  else s

/-- The record at `HEAD` leaves the ring: `HEAD` passes it, its scheduler turn counts. `expired`: its wait's time-out has come, which is no
issue of the scheduler (R207, R225). -/
def State.issueRec (s : State) (q : Nat) (expired : Bool) : State :=
  let qu := s.queue q
  let r := s.headRec q
  let bad := s.headBad q
  let sched := if expired then s.sched else s.scheduled q
  let ring := s.colsOf (qu.entryAt qu.head) 128
  let s := (s.reach rachis 12 ring).noteReads .sequencer ring
  let s := { s.passHead q with sched }
  match bad with
  | some (st, unit) => s.retire (r.failWith st unit) true
  | none => if expired then s.retire (r.failWith Status.timeout 0) true else s.decode r

/-- `RECORD_ISSUE` (R138, R205 to R207): the scheduler issues the record at the `HEAD` of the queue whose turn it is. -/
def execRecordIssue (q : Nat) (s : State) : Host.Outcome State Fault Refusal :=
  .next ((if s.nextQueue = some q then (s.issueRec q false).forfeit else s.forfeit).settle)

/-- `FLAG_WAIT` (R223, R224): the wait at `HEAD` is satisfied; it consumes and issues when its queue's turn comes. -/
def execFlagWait (q : Nat) (s : State) : Host.Outcome State Fault Refusal :=
  .next ((if (s.headRec q).op = 0x51 ∧ s.nextQueue = some q then (s.issueRec q false).forfeit else s).settle)

/-- R225: the time that the wait at a queue's `HEAD` has counted, in ns. -/
def State.waitedNs (s : State) (q : Nat) : Nat :=
  let qu := s.queue q
  qu.waited + match qu.waitFrom with
    | some t => s.time.now - t
    | none => 0

/-- `FLAG_WAIT_TIMEOUT` (R221, R225): the time-out of the `FLAG_WAIT` at `HEAD` expires before its list is satisfied. -/
def execFlagWaitTimeout (q : Nat) (at_ : Nat) (s : State) : Host.Outcome State Fault Refusal :=
  let s := s.advance at_
  let r := s.headRec q
  let t := r.fld 0x40 32
  let due := r.op == 0x51 && t != 0 && decide (1000 * t ≤ s.waitedNs q)
  .next ((if due && s.issueRoom q && s.headClear q && (s.headBad q).isNone && !s.unmapped r && !s.recWaitSat r then s.issueRec q true else s).settle)

/-! ## Start (R157) -/

/-- R157: whether two records' ranges conflict: they overlap and one of them is written. -/
def rangesClash (a b : List Range) : Bool :=
  a.any fun x => b.any fun y => (x.write || y.write) && decide (x.lo ≤ y.hi) && decide (y.lo ≤ x.hi)

/-- R157: the records in flight that were issued before a record. -/
def State.earlier (s : State) (r : Rec) : List Rec := s.recs.takeWhile fun x => !(x.q == r.q && x.seq == r.seq)

/-- R152, R172: the bytes of a frond's shared memory that pre-images hold. -/
def State.preImageBytes (s : State) (f : Nat) : Nat := sumNat ((s.frond f).preImages.map fun e => e.bytes.length)

/-- R172: a staged copy waits for space that pre-images hold, and takes its turn among the staged copies of its frond. -/
def State.stageRoom (s : State) (r : Rec) : Bool :=
  !r.staged || (let f := (r.fronds s.lay).headD 0
    decide (r.stageBytes + s.preImageBytes f + s.tailBytes f ≤ 32 * 1024 * 1024)
      && (s.earlier r).all fun e => !(e.staged && !e.started && (e.fronds s.lay).headD 0 == f))

/-- R356: the engine holds 16 collectives in flight; later ones wait in issue order. -/
def State.engineRoom (s : State) (r : Rec) : Bool :=
  r.op != 0x40 || decide (((s.earlier r).filter (·.op == 0x40)).length < 16)

/-- R157, R136 `FENCE`, R172, R215, R356: whether an issued record may start. -/
def State.startOk (s : State) (r : Rec) : Bool :=
  let x := s.ctx r.ctx
  x.st == .active && !x.suspending && s.stageRoom r && s.engineRoom r
    && (s.earlier r).all fun e => !rangesClash e.ranges r.ranges && !(r.fence && e.q == r.q)

/-- `RECORD_START` (R157): an issued record hands out its first ticket or row operation; a `FLAG_WAIT` has no more to do, a `BARRIER`
starts as its arrival leaves (R232). -/
def execRecordStart (q : Nat) (seq : Word32) (s : State) : Host.Outcome State Fault Refusal :=
  .next (match s.findRec q seq with
    | some r => if !r.started && r.op != 0x52 && s.startOk r then s.setRec { r with started := true, workDone := r.workDone || r.op == 0x51 } else s
    | none => s)

/-! ## Widening and completion (R159, R194, R196) -/

/-- R149, R153, R159: whether a record's work is done: its data effect has taken place and each of its tickets is committed or abandoned, a
host transfer has halted, or a `GEMV_MEM` in the banks has written every output row that it can form. -/
def Rec.finished (l : Layout) (r : Rec) : Bool :=
  (r.workDone && (r.halted || r.tickets.done + r.lostTickets.length == r.tickets.total))
    || (r.op == 0x10 && r.engine == 1 && r.swept && (r.rowsLeft l).isEmpty)

/-- R149, R159: a ticket of the record is still held. -/
def Rec.ticketsHeld (r : Rec) : Bool := r.tickets.tab.any fun e => match e.2.st with
  | .claimed _ _ => true
  | .committing _ _ => true
  | _ => false

/-- R194: whether a record widens at the end of its first pass. -/
def Rec.widens (r : Rec) : Bool :=
  r.hasWide && r.pass == 1 && decide (r.final.1 < 0x10) && decide (r.satLimit * r.produced < r.sat * 65536)

/-- R150, R196: the tickets of a record's second pass: all afresh; a claimant's last serial and its bar stand. -/
def Rec.secondTickets (r : Rec) : Tickets :=
  { r.newTickets with claimants := r.tickets.claimants.map fun e => (e.1, { e.2 with held := 0 }) }

/-- R196: a record as it begins its second pass, from its wide source. -/
def Rec.again (r : Rec) : Rec :=
  { r with pass := 2, satFirst := r.sat, sat := 0, produced := 0, workDone := false, swept := false, sweptTo := 0, doneRows := [], outs := []
           tickets := r.secondTickets }

/-- R196, R302: a record's second pass: it runs again, but in the banks while the token pool is 0 no row operation starts: all its entries are
abandoned. -/
def State.runAgain (s : State) (r : Rec) : Rec :=
  if r.inBank ∧ s.pool = 0 then (r.again.failWith Status.powerDenied 0).loseUnits (r.unitsOf s.lay) else r.again

/-- `WIDENING_RERUN` (R196): the record runs again, from its wide source; tickets are taken afresh. -/
def execWideningRerun (q : Nat) (seq : Word32) (s : State) : Host.Outcome State Fault Refusal :=
  .next (match s.findRec q seq with
    | some r =>
      if r.started && r.finished s.lay && !r.ticketsHeld && r.widens then
        s.setRec (s.runAgain r)
      else s
    | none => s)

/-- R21: a frond without a path already holds the record's completion. -/
def State.heldAtFrond (s : State) (r : Rec) : Bool := s.fronds.any fun e => !e.2.path && e.2.heldDone.contains (r.q, r.seq)

/-- `RECORD_COMPLETE` (R159, R212): the record leaves the scoreboards, its streams advance, its signals are set, its completion record
is written; on a frond without a path it is held (R21). -/
def execRecordComplete (q : Nat) (seq : Word32) (s : State) : Host.Outcome State Fault Refusal :=
  .next (match s.findRec q seq with
    | some r =>
      if r.started && r.finished s.lay && !r.ticketsHeld && !r.widens && !s.heldAtFrond r then
        let x := s.logSat r
        ((x.1.setRec x.2).completeOrHold x.2).settle
      else s
    | none => s)

end Sys2Proof.Machine
end

