-- ==== Sys2Proof/Machine/Barriers.lean ====
section
/-! DEFINITION. Barriers on their tree of nodes (R230 to R233, R357) and the deadlock detector (R236, R237). -/

namespace Sys2Proof.Machine

open Sys2Proof

/-! ## Arrivals (R230 to R233) -/

/-- R139: `SCOPE` of a `BARRIER` record. -/
def Rec.scope (r : Rec) : Nat := bits r.raw.toNat (8 * 0x40 + 12) 2

/-- R230, R232: a record's arrival leaves its sequencer for the frond node of the lowest frond of its set; the record starts. -/
def State.arriveBar (s : State) (r : Rec) : State :=
  let b := s.barOf r
  let x := s.bar b
  let f := (r.fronds s.lay).headD 0
  let a : Arrival := { q := r.q, seq := r.seq, scope := r.scope, count := r.fld 0x42 16, frond := f, wait := r.variant == 0 }
  (s.setBar b { x with inF := Tbl.put [] x.inF f (Tbl.get [] x.inF f ++ [a]) }).setRec { r with started := true, arrived := true }

/-- `BARRIER` (R157, R230, R232): an issued record that may start sends its arrival. -/
def execBarrier (q : Nat) (seq : Word32) (s : State) : Host.Outcome State Fault Refusal :=
  .next (match s.findRec q seq with
    | some r => if r.op = 0x52 ∧ !r.arrived ∧ s.startOk r then s.arriveBar r else s
    | none => s)

/-- R231: a barrier is idle: no node holds an arrival for it, as far as this module knows of a root elsewhere, and it has no waiter. -/
def Barrier.idle (x : Barrier) : Bool :=
  x.pendF.all (fun e => e.2.isEmpty) && x.inR.isEmpty && x.pendR.isEmpty && x.sent.isEmpty && x.away.isEmpty && x.rootCount == 0 && x.waiters.isEmpty

/-- R231: the barrier with what a first arrival fixes. -/
def Barrier.fix (x : Barrier) (a : Arrival) : Barrier :=
  if x.idle then { x with scope := a.scope, count := a.count, frond := a.frond, fixed := true } else x

/-- R231: whether an arrival keeps the fixed values. -/
def Barrier.agrees (x : Barrier) (a : Arrival) : Bool :=
  x.scope == a.scope && x.count == a.count && (a.scope != 0 || x.frond == a.frond)

/-- R231, R233: an arrival is refused: its record completes with a status. -/
def State.refuseArr (s : State) (a : Arrival) (status unit : Nat) : State :=
  match s.findRec a.q a.seq with
  | some r => s.setRec { r.failWith status unit with workDone := true }
  | none => s

/-- R233: a node refuses an arrival that would take its pending count past 0xFFFF; it is logged. -/
def State.saturatedArr (s : State) (b : Nat) (a : Arrival) (unit : Nat) : State :=
  (s.ev 0x13 Status.saturated unit (b + a.scope * 2 ^ 12) (qseq a.q a.seq)).refuseArr a Status.saturated unit

/-- R232: the root numbers one arrival: it belongs to the generation being filled; the `COUNT`-th fills it. -/
def Barrier.number (x : Barrier) (w : Option (Nat × Word32)) : Barrier :=
  let waiters := match w with
    | some e => x.waiters ++ [(e.1, e.2, x.gen)]
    | none => x.waiters
  if x.count ≤ x.rootCount + 1 then { x with waiters, rootCount := 0, gen := x.gen + 1, released := x.released ++ [x.gen] }
  else { x with waiters, rootCount := x.rootCount + 1 }

/-- R232: the root numbers `n` arrivals of another member. -/
def numberMany : Nat → Barrier → Barrier
  | 0, x => x
  | n + 1, x => numberMany n (x.number none)

/-- R232: an arrive-only record completes once the root has accepted its arrival. -/
def State.arriveOnly (s : State) (a : Arrival) : State :=
  match s.findRec a.q a.seq with
  | some r => if a.wait then s else s.setRec { r with workDone := true }
  | none => s

/-- R232: the root accepts an arrival of this module. -/
def State.rootAccept (s : State) (b : Nat) (a : Arrival) : State :=
  let waits := a.wait && (s.findRec a.q a.seq).isSome
  let x := (s.bar b).number (if waits then some (a.q, a.seq) else none)
  (s.setBar b { x with touched := true }).arriveOnly a

/-- R30, R32: whether the nodes accept arrivals. -/
def State.counting (s : State) : Bool := !s.stopped.contains .arrivals

/-- R230, R231, R233: a frond node takes the arrival at its input. -/
def State.frondArrival (s : State) (b f : Nat) : State :=
  let x := s.bar b
  match Tbl.get [] x.inF f with
  | [] => s
  | a :: rest =>
    let x := { x with inF := Tbl.put [] x.inF f rest }
    let y := x.fix a
    if !y.agrees a then (s.setBar b x).refuseArr a Status.fieldRange 0
    else if a.scope = 0 then (s.setBar b y).rootAccept b a
    else if 0xFFFF < y.pendAt f + 1 then (s.setBar b x).saturatedArr b a (unitId 1 f)
    else s.setBar b { y with pendF := Tbl.put [] y.pendF f (Tbl.get [] y.pendF f ++ [a]), touched := true }

/-- R230, R233, R357: the rachis node takes a forwarded arrival: it is the root for module scope, and for group scope on the group's
lowest member; else it holds the arrival until the group root accepts it. -/
def State.rachisArrival (s : State) (b : Nat) : State :=
  let x := s.bar b
  match x.inR with
  | [] => s
  | a :: rest =>
    let s' := s.setBar b { x with inR := rest }
    if a.scope = 1 ∨ s.group.isRoot then s'.rootAccept b a
    else if 0xFFFF < pendCount (x.sent ++ x.pendR) + 1 then s'.saturatedArr b a (unitId 0 0)
    else s'.setBar b { x with inR := rest, pendR := x.pendR ++ [a], touched := true }

/-- The context whose allotment holds a barrier. -/
def State.barCtx (s : State) (b : Nat) : Option Nat :=
  (s.ctxs.find? fun e => decide (e.2.barBase ≤ b) && decide (b < e.2.barBase + e.2.barCount)).map (·.1)

/-- R230: a message for a barrier goes to a member. -/
def State.tellMember (s : State) (m : Nat) (o : Out) : State := match s.portTo m with
  | some n => (s.emit o).sendControl n
  | none => s.emit o

/-- R230 to R232, R357: the group root takes a member's message of arrivals and answers it; arrivals whose `COUNT` or scope disagree are
refused. -/
def State.remoteArrivals (s : State) (b member num count : Nat) : State :=
  let a : Arrival := { q := 0, seq := 0, scope := 2, count, frond := 0, wait := false, num, member := some member }
  let y := (s.bar b).fix a
  if s.group.inGroup ∧ s.group.isRoot ∧ y.agrees a then
    let s := (s.setBar b { numberMany num y with touched := true }).tellMember member (.barAnswer member b num (some (y.gen, y.rootCount)))
    match s.barCtx b with
    | some c => s.touch c
    | none => s
  else s.tellMember member (.barAnswer member b num none)

/-- R232: arrivals that the root has accepted: an arrive-only record is done, a waiter awaits the release of its generation. -/
def acceptedArr (b : Nat) (gen : Word32) (place : Nat) (s : State) (a : Arrival × Nat) : State :=
  let x := s.bar b
  let g := gen + BitVec.ofNat 32 ((place + a.2) / Nat.max 1 x.count)
  let s := s.setBar b { x with away := x.away ++ [g] }
  if a.1.wait && (s.findRec a.1.q a.1.seq).isSome then s.setBar b { s.bar b with waiters := x.waiters ++ [(a.1.q, a.1.seq, g)] }
  else s.arriveOnly a.1

/-- R230 to R232, R238, R357: the rachis node takes what comes from another member. -/
def State.remoteArrival (s : State) (b : Nat) (m : RemoteArr) : State :=
  let x := s.bar b
  match m with
  | .arrivals member num count => s.remoteArrivals b member.val num count
  | .accepted num gen place => (x.sent.take num).zipIdx.foldl (acceptedArr b gen place) (s.setBar b { x with sent := x.sent.drop num })
  | .refused num =>
    (x.sent.take num).foldl (fun s a => s.refuseArr a Status.fieldRange 0) (s.setBar b { x with sent := x.sent.drop num })
  | .ownerLost => if x.scope = 2 then s.loseWaiters fun r => s.barOf r == b else s

/-- `BARRIER_ARRIVAL` (R32, R230 to R233, R238): a node of the tree takes an arrival, or what another member sends for a group's
barrier. DESIGN CHOICE (log entry 131): the root's answers and the word of a lost owner come by this command. -/
def execBarrierArrival (b : Nat) (node : BNode) (remote : Option RemoteArr) (s : State) : Host.Outcome State Fault Refusal :=
  .next (if !s.counting then s
    else match node, remote with
    | .frond f, _ => s.frondArrival b f
    | .rachis, none => s.rachisArrival b
    | .rachis, some m => s.remoteArrival b m)

/-! ## Forwarding and release -/

/-- `BARRIER_FORWARD` (R230, R357): a node sends the arrivals that it holds for a barrier to the node above as one message with their
count, and goes on counting them until that node accepts them. -/
def execBarrierForward (b : Nat) (node : BNode) (s : State) : Host.Outcome State Fault Refusal :=
  let x := s.bar b
  .next (match node with
    | .frond f =>
      if (s.frond f).path then
        s.setBar b { x with pendF := Tbl.put [] x.pendF f [], inR := x.inR ++ Tbl.get [] x.pendF f }
      else s
    | .rachis =>
      match (memberList s.group.members).head? with
      | none => s
      | some root =>
        match s.portTo root with
        | none => s
        | some n =>
          if x.pendR.isEmpty ∨ !s.group.inGroup then s
          else
            ((s.setBar b { x with pendR := [], sent := x.sent ++ x.pendR }).emit
              (.barArrivals b (pendCount x.pendR) x.count)).sendControl n)

/-- R232: the waiters of a released generation are done. -/
def State.releaseGen (s : State) (b : Nat) (gen : Word32) : State :=
  let x := s.bar b
  let (go, stay) := x.waiters.partition fun w => w.2.2 == gen
  let s := s.setBar b { x with waiters := stay, released := x.released.filter (· != gen), away := x.away.filter (· != gen) }
  go.foldl (fun s w => match s.findRec w.1 w.2.1 with
    | some r => s.setRec { r with workDone := true, gen := some gen }
    | none => s) s

/-- `BARRIER_RELEASE` (R232, R357): the release of a generation travels down the tree; at the group root it also goes to the other
members, and on another member it comes from the root. -/
def execBarrierRelease (b : Nat) (gen : Word32) (s : State) : Host.Outcome State Fault Refusal :=
  let x := s.bar b
  .next (if x.released.contains gen then
      let s' := s.releaseGen b gen
      if x.scope = 2 then s'.tellMembers s.group.members (.barRelease b gen) else s'
    else if x.scope = 2 ∧ s.group.inGroup ∧ !s.group.isRoot then
      (s.setBar b { x with gen := gen + 1 }).releaseGen b gen
    else s)

/-! ## The deadlock detector -/

/-- R236: an arrive-and-wait `BARRIER` record. -/
def Rec.arriveWait (r : Rec) : Bool := r.op == 0x52 && r.variant == 0

/-- R236: a queue's head record is held only by an unsatisfied wait list. -/
def State.heldByWait (s : State) (q : Nat) : Bool :=
  s.issueRoom q && (s.headBad q).isNone && !s.unmapped (s.headRec q) && !s.recWaitSat (s.headRec q)

/-- R236: a queue is blocked on synchronisation. -/
def State.blockedOnSync (s : State) (q : Nat) : Bool :=
  s.heldByWait q || (!(s.qRecs q).isEmpty && (s.qRecs q).all Rec.arriveWait)

/-- Whether a context lies in a scope of the detector. -/
def inScope (sc : Scope) (c : Nat) : Bool :=
  match sc with
  | .module => true
  | .context d => d == c

/-- R236: the non-empty queues of active contexts of a scope. -/
def State.scopeQueues (s : State) (sc : Scope) : List Nat :=
  (s.queues.filter fun e => e.2.live && inScope sc e.2.ctx && (s.ctx e.2.ctx).st == .active
    && (e.2.occ != 0 || !(s.qRecs e.1).isEmpty)).map (·.1)

/-- R236: whether a scope is deadlocked at this instant, its window aside. -/
def State.stuck (s : State) (sc : Scope) : Bool :=
  let qs := s.scopeQueues sc
  let recs := s.recs.filter fun r => inScope sc r.ctx
  !qs.isEmpty && qs.all s.blockedOnSync && recs.all Rec.arriveWait
    && qs.all fun q => !((s.queue q).occ != 0 && (s.headRec q).op == 0x51 && (s.headRec q).fld 0x40 32 != 0)

/-- R236: whether a scope's whole window has passed without an event that ends it, and the scope may be reported. -/
def State.windowPassed (s : State) (sc : Scope) : Bool :=
  match sc with
  | .module => !s.dlReported && decide (s.lastAct + 500000000 ≤ s.time.now)
  | .context c =>
    let x := s.ctx c
    x.dlWindowMs != 0 && !x.dlReported && decide (x.lastAct + x.dlWindowMs * 1000000 ≤ s.time.now)

/-- R237: the snapshot of one blocked queue, as a continuation entry; its barrier is that of its first `BARRIER` in flight. -/
def State.snapshot (s : State) (q : Nat) : EvEntry :=
  let qu := s.queue q
  let held := s.heldByWait q
  let r := if held then s.headRec q else (s.qRecs q).headD (s.headRec q)
  let fs := if held then r.waits.map fun n => match (s.ctx r.ctx).flag n with
      | some (b, i) => (64 * b + i, (s.flagBlock b).getLsbD i)
      | none => (0, false)
    else []
  let nums := (fs.zipIdx).foldl (fun a e => a + e.1.1 * 2 ^ (16 * e.2)) 0
  let sts := (fs.zipIdx).foldl (fun a e => a + if e.1.2 then 2 ^ e.2 else 0) 0
  let bar := (s.qRecs q).find? Rec.arriveWait
  { seq := 0, time := 0, kind := 0x03, status := Status.deadlock, isCont := true, unit := 0
    d0 := qu.ctx + q * 2 ^ 8 + qu.head.toNat * 2 ^ 32, d1 := r.op, d2 := nums, d3 := sts
    d4 := match bar with
      | some w => let x := s.bar (s.barOf w)
        x.rootCount + x.count * 2 ^ 16 + x.gen.toNat * 2 ^ 32
      | none => 0 }

/-- `DEADLOCK_DETECTED` (R236, R237): one event-log entry with a snapshot of up to 64 blocked queues, and the module error interrupt. -/
def execDeadlockDetected (sc : Scope) (at_ : Nat) (s : State) : Host.Outcome State Fault Refusal :=
  let s := s.advance at_
  .next (if s.stuck sc && s.windowPassed sc then
    let qs := (s.scopeQueues sc).take 64
    let d0 := match sc with
      | .module => 1
      | .context c => c * 2 ^ 8
    let s' := (s.evAdd { seq := 0, time := 0, kind := 0x03, status := Status.deadlock, cont := qs.length, unit := 0
                         d0, d1 := qs.length }).moduleError Status.deadlock
    let s' := qs.foldl (fun t q => t.evAdd (s.snapshot q)) s'
    match sc with
    | .module => { s' with dlReported := true }
    | .context c => s'.setCtx c { s'.ctx c with dlReported := true }
  else s)

end Sys2Proof.Machine
end

