-- ==== Sys2Proof/Machine/ContextCmds.lean ====
section
/-! DEFINITION. The Molian commands on contexts (R198, R200, R215, R265, R274). -/

namespace Sys2Proof.Machine

open Sys2Proof

/-- The windows that a `CTX_CREATE` request lists: base, size in 64 KiB units, `WRITE`. -/
def Req.windows (r : Req) : List (Nat × Nat × Nat) :=
  (List.range (r.fld 0x13 8)).map fun i => (r.fld (0x30 + 16 * i) 64, r.fld (0x38 + 16 * i) 32, r.fld (0x3C + 16 * i) 8)

/-- Whether two ranges (first, count) share a number. -/
def rangesMeet (a n b m : Nat) : Bool := decide (0 < n) && decide (0 < m) && decide (a < b + m) && decide (b < a + n)

/-- R272 step 5: the first failing test of the windows, in entry order. -/
def windowFault : List (Nat × Nat × Nat) → Option Nat
  | [] => none
  | (b, n, _) :: r =>
    if b % 65536 ≠ 0 then some Status.misaligned
    else if 2 ^ 41 ≤ b ∨ 2 ^ 41 < b + n * 65536 then some Status.outOfBounds
    else windowFault r

/-- R236, R274: the applied deadlock window. -/
def dlApplied (x : Nat) : Nat := if x = 0 then 0 else clampNat 10 60000 x

/-- R198, R274: the steps of `CTX_CREATE`. -/
def ctxCreateRun (r : Req) (s : State) : Ans :=
  let c := r.fld 0x10 16
  let priv := r.fld 0x12 8
  let bb := r.fld 0x18 16
  let bc := r.fld 0x1A 16
  let sf := r.fld 0x1E 16
  let sc := r.fld 0x20 16
  let ws := r.windows
  if 256 ≤ c ∨ 2 ≤ priv ∨ 16 < r.fld 0x13 8 ∨ 4096 < bb + bc ∨ 8192 < sf + sc ∨ ws.any (fun w => decide (2 ≤ w.2.2)) then
    .fail Status.fieldRange
  else
    let dl := dlApplied (r.fld 0x14 32)
    let ql := Nat.min 2048 (r.fld 0x1C 16)
    let cl := clampOf 0x14 32 (r.fld 0x14 32) dl ++ clampOf 0x1C 16 (r.fld 0x1C 16) ql
    if (s.ctx c).st ≠ .free then .fail Status.contextState
    else match windowFault ws with
      | some st => .fail st
      | none =>
        if s.ctxs.any (fun e => e.2.st != .free &&
            (rangesMeet bb bc e.2.barBase e.2.barCount || rangesMeet sf sc e.2.strFirst e.2.strCount)) then
          .fail Status.capacity
        else
          let x : Ctx :=
            { st := .active, windows := ws.map fun w => { base := w.1, size := w.2.1 * 65536, write := w.2.2 == 1 }
              barBase := bb, barCount := bc, queueLimit := ql, strFirst := sf, strCount := sc, priv := priv == 1
              dlWindowMs := dl, lastAct := s.time.now }
          .done 0 0 0 cl ((s.clearBars bb bc).setCtx c x)

/-- R269: the `LENGTH` of a `CTX_CREATE` with `n` windows: the array of 16-byte entries stands at 0x30; without one the last field ends at
0x22. -/
def ctxCreateLen (n : Nat) : Nat := if n = 0 then 0x12 else 0x20 + 16 * n

/-- `CTX_CREATE` (R198, R200, R239). -/
def execCtxCreate (mb : Fin 32) (s : State) : Host.Outcome State Fault Refusal :=
  .next (molian mb 0x0401 .ownerPort (fun r => ctxCreateLen (r.fld 0x13 8))
    (fun r => [fieldAt 0x10 16, fieldAt 0x12 8, fieldAt 0x13 8, fieldAt 0x14 32, fieldAt 0x18 16, fieldAt 0x1A 16,
        fieldAt 0x1C 16, fieldAt 0x1E 16, fieldAt 0x20 16]
      ++ ((List.range (r.fld 0x13 8)).map fun i =>
        [fieldAt (0x30 + 16 * i) 64, fieldAt (0x38 + 16 * i) 32, fieldAt (0x3C + 16 * i) 8]).flatten)
    ctxCreateRun s)

/-- The checks that the commands naming one context share: a host core names its own, the number is below 256, the
context's state is legal. -/
def onCtx (r : Req) (s : State) (legal : CtxState → Bool) (act : Nat → Ans) : Ans :=
  let c := r.fld 0x10 16
  if s.foreign r.by_ c then .fail Status.notOwner
  else if 256 ≤ c then .fail Status.fieldRange
  else if !legal (s.ctx c).st then .fail Status.contextState
  else act c

/-- `CTX_DESTROY` (R200, R215): the context's records end, its objects are freed and cleared. -/
def execCtxDestroy (mb : Fin 32) (s : State) : Host.Outcome State Fault Refusal :=
  .next (molianFixed mb 0x0402 .owner 2 [(0x10, 16)] (fun r s =>
    onCtx r s (· != .free) fun c => .done 0 0 0 [] (s.destroyCtx c)) s).settle

/-- `CTX_SUSPEND` (R200, R215, R238, R254): issue stops; the command completes when no started record remains. -/
def execCtxSuspend (mb : Fin 32) (s : State) : Host.Outcome State Fault Refusal :=
  .next (molianFixed mb 0x0403 .owner 8 [(0x10, 16), (0x14, 32)] (fun r s =>
    onCtx r s (· == .active) fun c =>
      let t := timeoutApplied (r.fld 0x14 32)
      let s := s.setCtx c { s.ctx c with suspending := true }
      let s := (s.ownerLost c).stopCores c
      .wait (s.time.now + timeoutNs t) (clampOf 0x14 32 (r.fld 0x14 32) t) s) s).settle

/-- R274: a waiting `CTX_SUSPEND` that ends before its records have leaves the context suspended; started records run on. -/
def suspendEnd (mb : Fin 32) (status : Nat) (s : State) : State :=
  let b := s.mbox mb
  let r := s.req mb
  (s.suspended (r.fld 0x10 16)).reply mb status 0 0 b.clamps

/-- `CTX_SUSPEND_TIMEOUT` (R274). -/
def execCtxSuspendTimeout (mb : Fin 32) (at_ : Nat) (s : State) : Host.Outcome State Fault Refusal :=
  let s := s.advance at_
  let b := s.mbox mb
  .next (if b.cur && b.begun && (s.req mb).opcode == 0x0403 && decide (b.deadline ≤ s.time.now) then suspendEnd mb Status.timeout s else s)

/-- `CTX_RESUME` (R200, R254). -/
def execCtxResume (mb : Fin 32) (s : State) : Host.Outcome State Fault Refusal :=
  .next (molianFixed mb 0x0404 .owner 2 [(0x10, 16)] (fun r s =>
    onCtx r s (· == .suspended) fun c =>
      .done 0 0 0 [] (((((s.setCtx c { s.ctx c with st := .active }).touch c).resumeWaits c).resumeCores c).unpause c)) s)

/-- `CTX_ADOPT` (R200, R265). -/
def execCtxAdopt (mb : Fin 32) (s : State) : Host.Outcome State Fault Refusal :=
  .next (molianFixed mb 0x0405 .ownerPort 2 [(0x10, 16)] (fun r s =>
    onCtx r s (· == .orphaned) fun c => .done 0 0 0 [] (s.setCtx c { s.ctx c with st := .suspended })) s)

end Sys2Proof.Machine
end

