-- ==== Sys2Proof/Machine/Movement.lean ====
section
/-! DEFINITION. The data effects of the movement records, host transfers, spores, flags and collectives: `COPY`, `PERMUTE`, `GATHER`,
`SCATTER_ADD`, `HOST_WRITE`, `HOST_READ`, `SPORE_WRITE`, `FLAG_SET`, `COLLECTIVE` (R142, R169 to R181, R226, R353 to R356). -/

namespace Sys2Proof.Machine

open Sys2Proof

/-! ## `COPY`, `PERMUTE`, `GATHER`, `SCATTER_ADD` -/

/-- The element that a movement record reads for a destination index: its pattern and poison, `PAD`'s pattern, or nothing. The
number of the source element is kept for the order of R169. -/
def State.moved (s : State) (r : Rec) (x : Desc) (ix : List Nat) : Option (Nat × Bool × Nat) :=
  match r.readsAt 1 ix with
  | none => none
  | some jx =>
    let gather := r.op == 0x32
    let z := r.idx.getD (ix.getD r.dim 0) 0
    let known := !gather || (decide (0 ≤ z) && decide (z < (x.ext.getD r.dim 0 : Nat)))
    if gather && !r.within 2 0 [ix.getD r.dim 0] then none
    else if known && (List.zip jx x.ext).all (fun e => decide (e.1 < e.2)) && r.within 1 0 jx then
      let e := s.elem r x jx
      some (e.1, e.2, indexNum x.ext jx)
    else if r.padSel = 1 then some (r.fld 0x20 32 % 2 ^ fmtBits x.fmt, false, elems x.ext)
    else none

/-- R171, R185: one destination element of a copy: its pattern unchanged where the formats agree, else converted. -/
def State.moveElem (s : State) (r : Rec) (d x : Desc) (ix : List Nat) : List OutElem :=
  match s.moved r x ix with
  | none => []
  | some (pat, p, _) =>
    if d.fmt = x.fmt then [{ ix, pat, poison := p }]
    else
      let q := encodeElem d.fmt (decodeElem x.fmt pat)
      [{ ix, pat := q.1, poison := p, sat := if q.2 then 1 else 0 }]

/-- Insert a contribution in ascending order of its source number, after equal ones. -/
def insertContrib (c : Nat × Contrib) : List (Nat × Contrib) → List (Nat × Contrib)
  | [] => [c]
  | e :: r => if c.1 < e.1 then c :: e :: r else e :: insertContrib c r

/-- R169: contributions in ascending order of their source index. -/
def sortContribs (l : List (Nat × Contrib)) : List Contrib :=
  (l.foldl (fun acc c => insertContrib c acc) []).map (·.2)

/-- R169: the contributions of a movement record under `ACCUM`. -/
def State.moveContribs (s : State) (r : Rec) (x : Desc) (live : List (List Nat)) : List Contrib :=
  sortContribs (live.filterMap fun ix => (s.moved r x ix).map fun e => (e.2.2, (ix, decodeElem x.fmt e.1, e.2.1, 0)))

/-- R144, R145, R170: the contributions of a `SCATTER_ADD`, in ascending order of the source element. -/
def State.scatterContribs (s : State) (r : Rec) (d x : Desc) : List Contrib :=
  (allIdx x.ext).filterMap fun jx =>
    let z := r.idx.getD (jx.getD r.dim 0) 0
    let ix := setAt jx r.dim z.toNat
    if r.within 2 0 [jx.getD r.dim 0] ∧ 0 ≤ z ∧ z < (d.ext.getD r.dim 0 : Nat) ∧ r.within 0 0 ix then
      (s.opnd r 1 0 x jx).map fun v => (ix, v.1, v.2, 0)
    else none

/-- The destination elements of a movement record: none where its source or its destination has no element (R161). -/
def State.moveElems (s : State) (r : Rec) (d x : Desc) : List OutElem :=
  let live := (allIdx d.ext).filter fun ix => !r.skipped d.ext ix && r.within 0 0 ix
  if elems x.ext = 0 ∨ elems d.ext = 0 then []
  else if r.op = 0x33 then accumElems d x.fmt (if r.emptyLen then [] else s.scatterContribs r d x)
  else if r.accum then accumElems d x.fmt (s.moveContribs r x live)
  else (live.map (s.moveElem r d x)).flatten

/-- R152: the outputs of `COPY`, `PERMUTE`, `GATHER` and `SCATTER_ADD` are formed. -/
def State.moveWork (s : State) (r : Rec) : State :=
  match r.desc 0, r.desc 1 with
  | some d, some x => s.formOuts r (s.sourceCols r) d (s.moveElems r d x) 0
  | _, _ => s

/-- `COPY` (R169, R171, R172). -/
def execCopy (q : Nat) (seq : Word32) (s : State) : Host.Outcome State Fault Refusal :=
  .next (onData q seq 0x30 s State.moveWork)

/-- `PERMUTE` (R171, R172). -/
def execPermute (q : Nat) (seq : Word32) (s : State) : Host.Outcome State Fault Refusal :=
  .next (onData q seq 0x31 s State.moveWork)

/-- `GATHER` (R169, R170). -/
def execGather (q : Nat) (seq : Word32) (s : State) : Host.Outcome State Fault Refusal :=
  .next (onData q seq 0x32 s State.moveWork)

/-- `SCATTER_ADD` (R169, R170). -/
def execScatterAdd (q : Nat) (seq : Word32) (s : State) : Host.Outcome State Fault Refusal :=
  .next (onData q seq 0x33 s State.moveWork)

/-! ## Host transfers (R179 to R181) -/

/-- R179: the bytes that a device operand's elements take densely, in index order. -/
def denseBytes (d : Desc) : Nat := (elems d.ext * fmtBits d.fmt + 7) / 8

/-- R142: byte `i` of a record's spore. -/
def Rec.sporeByte (r : Rec) (i : Nat) : Byte := BitVec.ofNat 8 (r.fld (0x40 + i) 8)

/-- R179: byte `k` of the dense image of a device operand, and its poison; padding and skipped elements do not occur. -/
def State.denseByte (s : State) (r : Rec) (d : Desc) (k : Nat) : Byte × Bool :=
  if d.fmt = 0 then
    let lo := s.elem r d (indexOf d.ext (2 * k))
    let hi := if 2 * k + 1 < elems d.ext then s.elem r d (indexOf d.ext (2 * k + 1)) else (0, false)
    (BitVec.ofNat 8 (lo.1 + 16 * hi.1), lo.2 || hi.2)
  else
    let n := fmtBits d.fmt / 8
    let e := s.elem r d (indexOf d.ext (k / n))
    (BitVec.ofNat 8 (e.1 >>> (8 * (k % n))), e.2)

/-- R179: the posted writes of bytes at host addresses: pieces of at most `most` consecutive bytes that cross no 4 KiB boundary,
newest first. -/
def hostPieces (most : Nat) (bs : List (Nat × Byte × Bool)) : List (Nat × List (Byte × Bool)) :=
  bs.foldl (fun ps b =>
    match ps with
    | [] => [(b.1, [b.2])]
    | p :: r =>
      if b.1 = p.1 + p.2.length ∧ p.2.length < most ∧ b.1 % 4096 ≠ 0 then (p.1, p.2 ++ [b.2]) :: r
      else (b.1, [b.2]) :: p :: r) []

/-- R179: read requests for consecutive bytes at host addresses: of at most `most` bytes, crossing no 4 KiB boundary, newest first. -/
def readPieces (most : Nat) (as : List Nat) : List (Nat × Nat) :=
  as.foldl (fun ps a =>
    match ps with
    | [] => [(a, 1)]
    | p :: r => if a = p.1 + p.2 ∧ p.2 < most ∧ a % 4096 ≠ 0 then (p.1, p.2 + 1) :: r else (a, 1) :: p :: r) []

/-- The device operand of a host transfer over its actual extent. -/
def Rec.hostDesc (r : Rec) : Option Desc :=
  let i := if r.op = 0x35 then 0 else 1
  if r.spore then none else (r.desc i).map fun d => { d with ext := r.actual i d.ext }

/-- R179: the bytes that a host transfer moves. -/
def Rec.hostTotal (r : Rec) : Nat :=
  if r.spore then r.sporeLen
  else match r.hostDesc with
    | some d => denseBytes d
    | none => 0

/-- R146, R179: the offsets from the start of the host range that a ticket covers: of the elements within the actual extent, those whose
place in the whole operand lies in the ticket's tiles. -/
def Rec.ticketBytes (r : Rec) (t : Nat) : List Nat :=
  match r.hostDesc, r.desc (if r.op = 0x35 then 0 else 1) with
  | some d, some all =>
    (List.range (denseBytes d)).filter fun k =>
      let p := place all.ext (indexOf d.ext (8 * k / fmtBits d.fmt))
      r.ticketAt p.1 p.2 == t
  | _, _ => if t = 0 then List.range r.hostTotal else []

/-- R142, R179: the byte that a `HOST_WRITE` sends at an offset, and its poison. -/
def State.hostByte (s : State) (r : Rec) (k : Nat) : Byte × Bool :=
  match r.hostDesc with
  | none => (r.sporeByte k, false)
  | some d => s.denseByte r d k

/-- R179: the points of a ticket's bytes at which the engine reads zero length: after each 1 MiB and at the end. -/
def ackPoints (total : Nat) : List Nat :=
  ((List.range (total / 1048576)).map fun i => 1048576 * (i + 1)) ++ (if total % 1048576 = 0 then [] else [total])

/-- R256, R370: a host transfer goes ahead: the link is up and the port is not fenced. -/
def State.hostUp (s : State) (r : Rec) : Bool := (s.port r.variant).linkUp && !(s.port r.variant).fence

/-- R178, R179: the bytes of a ticket of a `HOST_WRITE` are posted, and its acknowledging reads sent, each from the address of the last
byte before it. -/
def State.postTicket (s : State) (r : Rec) (t : Nat) : State :=
  let p : Fin 4 := Fin.ofNat 4 r.variant
  let ks := r.ticketBytes t
  let addr := r.fld 0x30 64
  let data := ks.map fun k => (addr + k, s.hostByte r k)
  let s' := (hostPieces (s.port p).maxPayload data).reverse.foldl
    (fun s x => s.toHost p (.hostPost p x.1 (x.2.map (·.1)) (x.2.any (·.2)))) s
  let s' := (ackPoints ks.length).foldl (fun s n => s.toHost p (.hostReq p (addr + ks.getD (n - 1) 0) 0)) s'
  if data.any (·.2.2) then s'.setRec (r.failWith Status.poison 0) else s'

/-- R179, R255: the read requests of a ticket of a `HOST_READ` are sent, unless they are or the link retrains. -/
def State.askTicket (s : State) (r : Rec) (t : Nat) : State :=
  let p : Fin 4 := Fin.ofNat 4 r.variant
  let x := r.ticket t
  if x.asked || (s.port p).retraining then s
  else
    let s := (readPieces (s.port p).maxRead ((r.ticketBytes t).map (r.fld 0x38 64 + ·))).reverse.foldl (fun s x => s.toHost p (.hostReq p x.1 x.2)) s
    s.setRec { r with tickets := { r.tickets with tab := Tbl.put {} r.tickets.tab t { x with asked := true } } }

/-- R179, R255: the read requests that a `HOST_READ` owes are sent: those of the tickets that are held. -/
def State.askTickets (s : State) (r : Rec) : State :=
  if r.op = 0x35 ∧ r.workDone ∧ !r.halted then
    (r.tickets.tab.filter fun e => match e.2.st with
      | .claimed _ _ => true
      | _ => false).foldl (fun s e => match s.findRec r.q r.seq with
        | some r => s.askTicket r e.1
        | none => s) s
  else s

/-- R178: the bytes of a record that are acknowledged. -/
def Rec.acked (r : Rec) : Nat := sumNat (r.tickets.tab.map fun e => e.2.acked)

/-- R178: the offsets of a ticket's bytes that are not acknowledged: those that no controller accepted, and those to come. -/
def Rec.unacked (r : Rec) (t : Nat) : List Nat :=
  let x := r.ticket t
  x.dropped ++ if x.st == .committed then [] else (r.ticketBytes t).drop x.acked

/-- R257: the resume point of a host transfer: the lowest offset that is not acknowledged, or its end. -/
def Rec.resumePoint (r : Rec) : Nat := ((List.range r.tickets.total).map r.unacked).flatten.foldl Nat.min r.hostTotal

/-- R256: the tickets of a record halt, keeping their counts: what its claimants hold they hold no longer. -/
def Rec.haltTickets (r : Rec) : Rec :=
  { r with tickets := { r.tickets with
      tab := r.tickets.tab.map fun e => (e.1, match e.2.st with
        | .committed => e.2
        | _ => { e.2 with st := .unclaimed, epoch := e.2.epoch + 1, got := [], asked := false })
      claimants := r.tickets.claimants.map fun e => (e.1, { e.2 with held := 0 }) } }

/-- R256, R257: a host transfer halts with a status: its event-log entry, the bytes acknowledged, the resume point. -/
def State.haltXfer (s : State) (r : Rec) (status : Nat) : State :=
  let s := s.ev 0x04 status (unitId 8 r.variant) (qseq r.q r.seq) r.variant r.acked r.resumePoint
  s.setRec { (r.failWith status (unitId 8 r.variant)).haltTickets with workDone := true, halted := true, evSeq := s.evNewest }

/-- `HOST_WRITE` (R142, R179, R181, R257): its source is read; each ticket's bytes are posted at its commit. -/
def execHostWrite (q : Nat) (seq : Word32) (s : State) : Host.Outcome State Fault Refusal :=
  .next (onData q seq 0x34 s fun s r =>
    if s.hostUp r then
      (s.noteReads .frond (s.sourceCols r)).setRec { r with workDone := true, codes := r.codes ++ s.downCode (s.sourceCols r) }
    else s.haltXfer r Status.hostLinkLost)

/-- `HOST_READ` (R179, R180, R257): the read requests of the tickets that are held are sent, those of the others as they are claimed. -/
def execHostRead (q : Nat) (seq : Word32) (s : State) : Host.Outcome State Fault Refusal :=
  .next (onRec q seq 0x35 s fun r =>
    if s.hostUp r then
      let r := { r with workDone := true }
      (s.setRec r).askTickets r
    else s.haltXfer r Status.hostLinkLost)

/-! ## Spores (R142) and flags (R226) -/

/-- R142: the writes of a record's spore. -/
def Rec.sporeWrites (r : Rec) : List DWrite :=
  (List.range r.sporeLen).map fun i => { dpa := r.fld 0x30 64 + i, val := r.sporeByte i, poison := false }

/-- R142: write a record's spore. -/
def State.putSpore (s : State) (r : Rec) : State :=
  if r.spore then s.writeAll .frond r.sporeWrites else s

/-- The columns that a record's spore lies in. -/
def State.sporeCols (s : State) (r : Rec) : List Nat := if r.spore then s.colsOf (r.fld 0x30 64) r.sporeLen else []

/-- `SPORE_WRITE` (R142): the spore waits for the commit of its ticket. -/
def execSporeWrite (q : Nat) (seq : Word32) (s : State) : Host.Outcome State Fault Refusal :=
  .next (onRec q seq 0x36 s fun r => s.setRec { r with workDone := true })

/-- `FLAG_SET` (R142, R226): the spore, then the flags of the signal list in one flag-store operation; a spore that could not be
written leaves them as they are. -/
def execFlagSet (q : Nat) (seq : Word32) (s : State) : Host.Outcome State Fault Refusal :=
  .next (onRec q seq 0x50 s fun r =>
    let down := s.downCode (s.sporeCols r)
    let s := s.putSpore r
    let s := if down.isEmpty ∧ r.codes.isEmpty then s.putFlags r.ctx (r.variant == 0) r.signals else s
    s.setRec (r.worked 0 0 false false down))

/-! ## Collectives (R353 to R356) -/

/-- R353: a member's rank in a set. -/
def rankOf (m : BitVec 16) (me : Nat) : Nat := ((memberList m).filter fun k => decide (k < me)).length

/-- R356: the reduction of one element's contributions in ascending rank: the pattern and whether it saturated. -/
def collReduce (fmt : Nat) (cs : List Word32) : Nat × Bool :=
  if fmt = 0 then storeInt 4 ((cs.map fun c => toSigned 32 c.toNat).sum)
  else
    let f := if fmt = 1 then 0x0A else 0x0B
    let vs := cs.map fun c => (decodeElem f (if fmt = 1 then c.toNat % 65536 else c.toNat)).toFlt
    let total := vs.tail.foldl fadd (vs.headD 0)
    encodeElem f (.flt total)

/-- R355: the destination elements, from the contributions of all ranks. -/
def collElem (r : Rec) (ranks : List (List (Word32 × Bool))) (rank c : Nat) (k : Nat) : Nat × Bool × Nat :=
  let at_ (l : List (Word32 × Bool)) (i : Nat) : Word32 × Bool := l.getD i (0, false)
  if r.variant = 1 then
    let e := at_ (ranks.getD (k / c) []) (k % c)
    (e.1.toNat, e.2, 0)
  else
    let i := if r.variant = 2 then rank * (c / ranks.length) + k else k
    let cs := ranks.map fun l => at_ l i
    let q := collReduce (r.fld 0x40 2) (cs.map (·.1))
    (q.1, cs.any (·.2), if q.2 then 1 else 0)

/-- The data effect of `COLLECTIVE`: this member's source joins the others' in ascending rank; an element beyond its actual extent joins
as `PAD` (R144), or else as zero, one of the destination stays as it is (R145). -/
def State.collectiveWork (s : State) (r : Rec) (others : List (List (Word32 × Bool))) : State :=
  match r.desc 0, r.desc 1 with
  | some d, some x =>
    let rank := rankOf r.members s.group.member
    let mine := (allIdx x.ext).map fun ix =>
      if r.within 1 0 ix then (BitVec.ofNat 32 (s.elem r x ix).1, (s.elem r x ix).2)
      else (if r.padSel = 1 then BitVec.ofNat 32 (r.fld 0x20 32 % 2 ^ fmtBits x.fmt) else 0, false)
    let ranks := others.take rank ++ [mine] ++ others.drop rank
    let es := ((List.range (elems d.ext)).filter fun k => r.within 0 0 (indexOf d.ext k)).map fun k =>
      let e := collElem r ranks rank (elems x.ext) k
      ({ ix := indexOf d.ext k, pat := e.1 % 2 ^ fmtBits d.fmt, poison := e.2.1, sat := e.2.2 } : OutElem)
    (s.noteReads .frond (s.sourceCols r)).writeElems { r with codes := r.codes ++ s.downCode (s.sourceCols r) } d es
  | _, _ => s

/-- `COLLECTIVE` (R353 to R356): `others` the contributions of the other members in ascending rank, `agree` whether the matched
records agree in `VARIANT`, `FMT` and element count. -/
def execCollective (q : Nat) (seq : Word32) (others : List (List (Word32 × Bool))) (agree : Bool) (s : State) :
    Host.Outcome State Fault Refusal :=
  .next (onData q seq 0x40 s fun s r =>
    if !agree then s.setRec { r.failWith Status.fieldRange 0 with workDone := true }
    else s.collectiveWork r others)

end Sys2Proof.Machine
end

