-- ==== Sys2Proof/Machine/Ownership.lean ====
section
/-! DEFINITION. Module, version and ownership commands, the claim window and the lease (R260 to R266, R389 to R391). -/

namespace Sys2Proof.Machine

open Sys2Proof

/-- How many of the first `n` indices satisfy a test. -/
def countIf (n : Nat) (f : Nat → Bool) : Nat := ((List.range n).filter f).length

/-- R389: the units of a `UNIT_KIND` in service. -/
def State.unitsUp (s : State) (kind : Nat) : Nat :=
  let ch := countIf 1024 fun c => (s.chan c).svc == .inService
  match kind with
  | 0 => 1
  | 1 => countIf 4 fun f => (s.frond f).path
  | 2 => countIf 32 fun st => s.stackUp st
  | 3 => ch
  | 4 => 2 * ch
  | 5 => 64 * ch
  | 6 => 32 * ch
  | 7 => countIf 64 fun c => (s.core c).svc == .inService
  | 8 => countIf 4 fun p => (s.port p).linkUp && !(s.port p).fence
  | 9 => countIf 16 fun n => (s.hcore n).svc == .inService
  | 10 => countIf 8 fun n => (s.rport n).up
  | 11 => countIf 8 fun l => (s.flink l).svc == .inService
  | 12 => countIf 64 fun e => (s.engine e).svc == .inService
  | _ => 0

/-- R389: the body of `GET_CAPS`, 60 bytes. -/
def State.capsBody (s : State) : Nat :=
  (List.range 13).foldl (fun a k => a + s.unitsUp k * 2 ^ (32 * k)) 0
    + s.pool * 2 ^ (8 * 0x34) + s.power.envelope * 2 ^ (8 * 0x38)

/-- A firmware slot, by number. -/
def Firmware.slot (f : Firmware) (i : Nat) : Slot := if i = 0 then f.slotA else f.slotB
/-- Set a firmware slot. -/
def Firmware.setSlot (f : Firmware) (i : Nat) (v : Slot) : Firmware := if i = 0 then { f with slotA := v } else { f with slotB := v }

/-- R390: a slot's firmware version: 0 when it holds no image that verifies. -/
def Slot.shown (x : Slot) : Nat := if x.valid then x.version.toNat else 0

/-- R390: the body of `GET_VERSION`, 72 bytes. -/
def State.versionBody (s : State) : Nat :=
  let c (x : Slot) : Nat := if x.valid then x.security.toNat else 0
  let run := s.fw.slot s.fw.running
  s.fw.slotA.shown + s.fw.slotB.shown * 2 ^ 32 + c s.fw.slotA * 2 ^ 64 + c s.fw.slotB * 2 ^ 80
    + (s.fw.active + s.fw.running * 2 + (if run.trial then 4 else 0)) * 2 ^ 96 + Config.romVersion.toNat * 2 ^ 128
    + (Config.measurement run.version run.security run.raises run.length run.digest).toNat * 2 ^ 192

/-- `GET_CAPS` (R389): units in service, the token pool, the envelope. -/
def execGetCaps (mb : Fin 32) (s : State) : Host.Outcome State Fault Refusal :=
  .next (molianFixed mb 0x0101 .any 0 [] (fun _ s => .done 0 60 s.capsBody [] s) s)

/-- `GET_VERSION` (R390): firmware versions, slots, ROM version, measurement. -/
def execGetVersion (mb : Fin 32) (s : State) : Host.Outcome State Fault Refusal :=
  .next (molianFixed mb 0x0102 .any 0 [] (fun _ s => .done 0 72 s.versionBody [] s) s)

/-- `GET_OWNER` (R391): the ownership body. -/
def execGetOwner (mb : Fin 32) (s : State) : Host.Outcome State Fault Refusal :=
  .next (molianFixed mb 0x0206 .any 0 [] (fun _ s => .done 0 24 0 [] s) s)

/-- R262, R263: a claim: held while the window is open, accepted while vacant, refused while owned. -/
def claimRun (takeover : Bool) (dispose reqLease leaseOff : Nat) (r : Req) (s : State) : Ans :=
  let ms := leaseApplied reqLease
  let cl := clampOf leaseOff 32 reqLease ms
  match r.by_ with
  | .hcore _ => .fail Status.notOwner
  | .port p =>
    match s.own.st with
    | .owned _ => .fail Status.notOwner
    | .window =>
      let c : HeldClaim := { port := p, mb := r.mb.val, takeover, dispose, leaseMs := ms }
      .wait s.own.windowEnd cl { s with own := { s.own with claims := s.own.claims ++ [c] } }
    | .vacant =>
      let s := s.ownerChange (some p) (if takeover then 0x06 else 0x05) ms
      let s := if takeover then s.disposeOrphans (dispose == 1) else s
      .done 0 24 0 cl s

/-- `CLAIM` (R262, R263). -/
def execClaim (mb : Fin 32) (s : State) : Host.Outcome State Fault Refusal :=
  .next (molianFixed mb 0x0201 .port 4 [(0x10, 32)] (fun r s => claimRun false 0 (r.fld 0x10 32) 0x10 r s) s)

/-- `TAKEOVER` (R262, R265). -/
def execTakeover (mb : Fin 32) (s : State) : Host.Outcome State Fault Refusal :=
  .next (molianFixed mb 0x0205 .port 8 [(0x10, 8), (0x14, 32)] (fun r s =>
    if 2 ≤ r.fld 0x10 8 then .fail Status.fieldRange else claimRun true (r.fld 0x10 8) (r.fld 0x14 32) 0x14 r s) s)

/-- R264: a renewal that the owner's port has rung before the expiry instant, and that has not executed. -/
def State.renewing (s : State) (p : Fin 4) : Bool :=
  [0, 1, 2, 3].any fun m =>
    let mb : Fin 32 := Fin.ofNat 32 (4 * p.val + m)
    let b := s.mbox mb
    b.cur && !b.begun && (s.req mb).opcode == 0x0202 && (s.req mb).shapeOk 4 [fieldAt 0x10 32] && decide (b.acceptAt < s.own.leaseEnd)

/-- R264: a lease whose expiry instant has come lapses, unless a renewal was accepted before. -/
def State.lapseDue (s : State) : State :=
  match s.own.st with
  | .owned p => if s.own.leaseEnd ≤ s.time.now ∧ s.renewing p = false then s.lapse else s
  | _ => s

/-- `RENEW_LEASE` (R262, R264): the lease restarts; one accepted at the expiry instant comes too late. DEDUCED (log entry 14): a renewal is a
change with a cause of R391. -/
def execRenewLease (mb : Fin 32) (s : State) : Host.Outcome State Fault Refusal :=
  let b := s.mbox mb
  let s := if b.cur && !b.begun && (s.req mb).opcode == 0x0202 then s.lapseDue else s
  .next (molianFixed mb 0x0202 .ownerPort 4 [(0x10, 32)] (fun r s =>
    let ms := leaseApplied (r.fld 0x10 32)
    .done 0 24 0 (clampOf 0x10 32 (r.fld 0x10 32) ms) (s.ownerChange s.ownerPort 0x0A ms)) s)

/-- `RELEASE` (R262): ownership is given up; `ORPHAN_OK` 0 requires every context free. -/
def execRelease (mb : Fin 32) (s : State) : Host.Outcome State Fault Refusal :=
  .next (molianFixed mb 0x0203 .ownerPort 1 [(0x10, 8)] (fun r s =>
    if 2 ≤ r.fld 0x10 8 then .fail Status.fieldRange
    else if r.fld 0x10 8 = 0 && s.ctxs.any (fun e => e.2.st != .free) then .fail Status.contextState
    else .done 0 0 0 [] (s.ownerChange none 0x08 0)) s)

/-- `HANDOVER` (R262, R266): write permission and ownership move to another port; a target whose link is down or whose
port is fenced (R370) leaves ownership unchanged. -/
def execHandover (mb : Fin 32) (s : State) : Host.Outcome State Fault Refusal :=
  .next (molianFixed mb 0x0204 .ownerPort 8 [(0x10, 8), (0x14, 32)] (fun r s =>
    let p := r.fld 0x10 8
    let ms := leaseApplied (r.fld 0x14 32)
    if 4 ≤ p || s.isOwner (Fin.ofNat 4 p) then .fail Status.fieldRange
    else if !(s.port p).linkUp || (s.port p).fence then .fail Status.hostLinkLost
    else .done 0 24 0 (clampOf 0x14 32 (r.fld 0x14 32) ms) (s.ownerChange (some (Fin.ofNat 4 p)) 0x07 ms)) s)

/-- R263: the better of two held claims: higher priority, then lower port, then the earlier. -/
def betterClaim (prio : List Nat) (a b : HeldClaim) : HeldClaim :=
  let pa := prio.getD a.port.val 0
  let pb := prio.getD b.port.val 0
  if pa < pb ∨ (pa = pb ∧ b.port < a.port) then b else a

/-- R263: the winner of the held claims. -/
def electClaim (prio : List Nat) : List HeldClaim → Option HeldClaim
  | [] => none
  | c :: r => some (r.foldl (betterClaim prio) c)

/-- R262, R263: the window closes: a winner owns the module and the losing claims complete `ERR_NOT_OWNER`, or the module is
vacant. -/
def State.closeWindow (s : State) : State :=
  match s.own.st with
  | .window =>
    if s.phase = .ready ∧ s.own.windowEnd ≤ s.time.now then
      let claims := s.own.claims
      match electClaim s.own.prioAtOpen claims with
      | none => s.ownerChange none 0x04 0
      | some w =>
        let cl := (s.mbox w.mb).clamps
        let s := s.ownerChange (some w.port) (if w.takeover then 0x03 else 0x02) w.leaseMs
        let s := if w.takeover then s.disposeOrphans (w.dispose == 1) else s
        let s := s.reply (Fin.ofNat 32 w.mb) 0 24 0 cl
        (claims.filter (· != w)).foldl (fun s c => s.reply (Fin.ofNat 32 c.mb) Status.notOwner 24 0 []) s
    else s
  | _ => s

/-- The state that a command answers. -/
def nextOf (s : State) : Host.Outcome State Fault Refusal → State
  | .next t => t
  | _ => s

/-- R263: the claims that were rung while the window was open are held, those too that have not executed. -/
def State.holdClaims (s : State) : State :=
  if s.own.st = .window then
    (List.range 16).foldl (fun s m =>
      let mb : Fin 32 := Fin.ofNat 32 m
      let s := nextOf s (execClaim mb s)
      nextOf s (execTakeover mb s)) s
  else s

/-- `OWNERSHIP_WINDOW_CLOSE` (R262, R263): 50 ms after ready. -/
def execOwnershipWindowClose (at_ : Nat) (s : State) : Host.Outcome State Fault Refusal :=
  let s := s.advance at_
  .next (if s.phase = .ready ∧ s.own.windowEnd ≤ s.time.now then s.holdClaims.closeWindow else s)

/-- `LEASE_EXPIRY` (R262, R264): the lease of the owner lapses at its expiry instant. -/
def execLeaseExpiry (at_ : Nat) (s : State) : Host.Outcome State Fault Refusal :=
  .next (s.advance at_).lapseDue

end Sys2Proof.Machine
end

