-- ==== Sys2Proof/Machine/Integrity.lean ====
section
/-! DEFINITION. Memory integrity commands and events: scrub, logs, buckets, flip mask, repair (R280 to R283, R288 to R295). -/

namespace Sys2Proof.Machine

open Sys2Proof

/-! ## Scrub (R293 to R295) -/

/-- R295: the summary of a scrub; `list`: the DPAs of its uncorrectable columns. -/
structure ScrubSum where
  read : Nat := 0
  corrected : Nat := 0
  mend : Nat := 0
  bad : Nat := 0
  poisoned : Nat := 0
  skipped : Nat := 0
  list : List Nat := []
deriving DecidableEq, Repr

/-- R293, R294: scrub one physical column: one read with its write-back. -/
def scrubPhys (x : State × ScrubSum) (col dpa : Nat) : State × ScrubSum :=
  let (s, m) := x
  if !s.colUp col then (s, { m with skipped := m.skipped + 1 })
  else
    let m := { m with read := m.read + 1 }
    let valid := (s.mem.chk col).getLsbD 40
    let (o, d) := s.readCol col
    let s := s.noteRead .scrub col
    match o with
    | .clean => if valid then (s, m) else (s.writeFull .scrub col d false, { m with mend := m.mend + 1 })
    | .uncorrectable =>
      (s.writeFull .scrub col d true,
       { m with bad := m.bad + 1, list := m.list ++ [dpa] })
    | .poisoned => (s, { m with poisoned := m.poisoned + 1 })
    | _ => (s, { m with corrected := m.corrected + 1 })

/-- R294: scrub the `n` columns of ascending DPA from `base`. -/
def scrubFrom (base n : Nat) (s : State) : State × ScrubSum :=
  (List.range n).foldl (fun x i => scrubPhys x (s.lay.colOf (base + 32 * i)) (base + 32 * i)) (s, {})

/-- Insert into an ascending list. -/
def insertAsc (x : Nat) : List Nat → List Nat
  | [] => [x]
  | a :: r => if x < a then x :: a :: r else a :: insertAsc x r

/-- R341: scrub both pseudo-channels of the channels of a list. -/
def scrubChannels (chs : List Nat) (s : State) : State × ScrubSum :=
  let r := chs.foldl (fun x c => (List.range (2 * 33554432)).foldl (fun x i =>
    scrubPhys x (2 * c * 33554432 + i) (s.lay.dpaOf (2 * c * 33554432 + i))) x) (s, ({} : ScrubSum))
  (r.1, { r.2 with list := r.2.list.foldr insertAsc [] })

/-- R295: the summary as a response body of 0x238 bytes. -/
def ScrubSum.body (m : ScrubSum) (duration : Nat) : Nat :=
  m.read + m.corrected * 2 ^ 64 + m.mend * 2 ^ 128 + m.bad * 2 ^ 192 + m.poisoned * 2 ^ 256 + m.skipped * 2 ^ 320
    + duration % 2 ^ 32 * 2 ^ 384 + Nat.min 64 m.list.length * 2 ^ 416
    + natOf ((m.list.take 64).map (bytesOf 8)).flatten * 2 ^ (8 * 0x38)

/-- The columns of a range that are in service. -/
def State.scrubCols (s : State) (base n : Nat) : List Nat := ((List.range n).map fun i => s.lay.colOf (base + 32 * i)).filter s.colUp

/-- A scrub of `n` columns from `base`, begun at `startAt`, and its body: the scrub port comes through to each bank pair as R93 to R100
let it. -/
def scrubAnswer (startAt base n : Nat) (s : State) : State × Nat :=
  let (s, m) := scrubFrom base n (s.reach rachis 16 (s.scrubCols base n))
  (s, m.body (s.elapsedUs startAt))

/-- R274: the applied length of a `SCRUB` request. -/
def scrubLen (r : Req) : Nat := clampNat 32 (2 ^ 41 - r.fld 0x10 64) (r.fld 0x18 64)

/-- `SCRUB` (R293 to R295) over its whole range. A request that reaches its maximum time ends under `MAILBOX_WATCHDOG_TIMEOUT`. -/
def execScrub (mb : Fin 32) (s : State) : Host.Outcome State Fault Refusal :=
  .next (molianFixed mb 0x0A01 .owner 16 [(0x10, 64), (0x18, 64)] (fun r s =>
    let base := r.fld 0x10 64
    let len := r.fld 0x18 64
    if base % 32 ≠ 0 then .fail Status.misaligned
    else if 2 ^ 41 ≤ base then .fail Status.outOfBounds
    else if len % 32 ≠ 0 then .fail Status.misaligned
    else
      let (s', body) := scrubAnswer (s.mbox mb).startAt base (scrubLen r / 32) s
      .done 0 0x238 body (clampOf 0x18 64 len (scrubLen r)) s') s)

/-! ## Logs (R282, R283, R364, R392) -/

/-- R282: an error-log entry as 32 bytes. -/
def ErrEntry.bits (e : ErrEntry) : Nat :=
  e.seq + e.time * 2 ^ 64 + e.dpa * 2 ^ 128 + e.byte * 2 ^ 176 + e.kind * 2 ^ 184 + e.requester * 2 ^ 188 + e.unit * 2 ^ 192
    + e.rep * 2 ^ 224

/-- R362: an event-log entry as 64 bytes. -/
def EvEntry.bits (e : EvEntry) : Nat :=
  e.seq + e.time * 2 ^ 64 + e.kind * 2 ^ 128 + e.status * 2 ^ 136 + e.cont * 2 ^ 144 + (if e.isCont then 2 ^ 151 else 0)
    + e.unit * 2 ^ 160 + e.d0 * 2 ^ 192 + e.d1 * 2 ^ 256 + e.d2 * 2 ^ 320 + e.d3 * 2 ^ 384 + e.d4 * 2 ^ 448

/-- R283, R364: whether `FIRST` names an entry that has been overwritten; `oldest` is the oldest `SEQ` held. -/
def overwritten (first oldest : Nat) : Bool := decide (Nat.max 1 first < oldest)

/-- R392: the body of a log command: entries of `size` bytes, and the `SEQ` that follows them. -/
def logBody (lost : Bool) (entries : List Nat) (size next : Nat) : Nat :=
  (if lost then 1 else 0) + entries.length * 2 ^ 32 + next * 2 ^ 64
    + natOf (entries.map (bytesOf size)).flatten * 2 ^ 128

/-- R282: the oldest error-log `SEQ` held. -/
def State.errOldest (s : State) : Nat := s.integ.nextSeq - s.integ.log.length
/-- R364: the oldest event-log `SEQ` held. -/
def State.evOldest (s : State) : Nat := s.evlog.nextSeq - s.evlog.log.length

/-- `GET_ERRLOG` (R283, R392). -/
def execGetErrlog (mb : Fin 32) (s : State) : Host.Outcome State Fault Refusal :=
  .next (molianFixed mb 0x0A02 .any 10 [(0x10, 64), (0x18, 16)] (fun r s =>
    let first := r.fld 0x10 64
    let m := clampNat 1 95 (r.fld 0x18 16)
    let es := (s.integ.log.reverse.filter fun e => decide (first ≤ e.seq)).take m
    let next := match es.getLast? with
      | some e => e.seq + 1
      | none => s.integ.nextSeq
    .done 0 (16 + 32 * es.length) (logBody (overwritten first s.errOldest) (es.map ErrEntry.bits) 32 next)
      (clampOf 0x18 16 (r.fld 0x18 16) m) s) s)

/-- R364: the entries that a response of `m` entries returns: whole groups, but for a first group that does not fit. -/
def wholeGroups (es : List EvEntry) (m : Nat) : List EvEntry :=
  let t := es.take m
  match es.drop m with
  | [] => t
  | e :: _ =>
    if e.isCont then
      let u := ((t.reverse.dropWhile (·.isCont)).drop 1).reverse
      if u = [] then t else u
    else t

/-- `GET_EVENT_LOG` (R364, R392). -/
def execGetEventLog (mb : Fin 32) (s : State) : Host.Outcome State Fault Refusal :=
  .next (molianFixed mb 0x0E01 .any 10 [(0x10, 64), (0x18, 16)] (fun r s =>
    let first := r.fld 0x10 64
    let m := clampNat 1 47 (r.fld 0x18 16)
    let es := wholeGroups (s.evlog.log.reverse.filter fun e => decide (first ≤ e.seq)) m
    let next := match es.getLast? with
      | some e => e.seq + 1
      | none => s.evlog.nextSeq
    .done 0 (16 + 64 * es.length) (logBody (overwritten first s.evOldest) (es.map EvEntry.bits) 64 next)
      (clampOf 0x18 16 (r.fld 0x18 16) m) s) s)

/-- R283, R364: copy both logs to NVM. -/
def State.copyLogs (s : State) : State :=
  { s with integ := { s.integ with nvm := s.integ.log }, evlog := { s.evlog with nvm := s.evlog.log } }

/-- `LOG_NVM_COPY` (R283, R364): every 10 s. -/
def execLogNvmCopy (at_ : Nat) (s : State) : Host.Outcome State Fault Refusal :=
  let s := s.advance at_
  .next (if s.integ.nextCopy ≤ s.time.now then
      let s := s.copyLogs
      { s with integ := { s.integ with nextCopy := s.time.now + 10000000000 } }
    else s)

/-! ## Leaky buckets (R280, R281) -/

/-- R281: change one bucket's limits: the schedule restarts, a kept count above the threshold overflows at once. -/
def setBucketOf (leak thr : Nat) (s : State) (st : Nat) : State :=
  let b := s.bucket st
  let above := decide (thr < b.count)
  let s := s.setBucket st { b with leakS := leak, threshold := thr, above, nextLeak := s.time.now + leak * 1000000000 }
  if above then s.bucketOver st else s

/-- `SET_BUCKET` (R281). -/
def execSetBucket (mb : Fin 32) (s : State) : Host.Outcome State Fault Refusal :=
  .next (molianFixed mb 0x0A03 .ownerPort 6 [(0x10, 8), (0x12, 16), (0x14, 16)] (fun r s =>
    let st := r.fld 0x10 8
    let leak := clampNat 1 3600 (r.fld 0x12 16)
    let thr := clampNat 1 65535 (r.fld 0x14 16)
    let cl := clampOf 0x12 16 (r.fld 0x12 16) leak ++ clampOf 0x14 16 (r.fld 0x14 16) thr
    if 32 ≤ st ∧ st ≠ 0xFF then .fail Status.fieldRange
    else .done 0 0 0 cl ((if st = 0xFF then List.range 32 else [st]).foldl (setBucketOf leak thr) s)) s)

/-- `BUCKET_LEAK` (R280, R281): a leak instant of a stack's bucket. -/
def execBucketLeak (st : Fin 32) (at_ : Nat) (s : State) : Host.Outcome State Fault Refusal :=
  let s := s.advance at_
  let b := s.bucket st
  .next (if b.nextLeak ≤ s.time.now then
      s.setBucket st { b with count := b.count - 1, above := b.above && decide (b.threshold < b.count - 1)
                              nextLeak := b.nextLeak + b.leakS * 1000000000 }
    else s)

/-! ## The flip mask (R288, R289) -/

/-- `FLIP_MASK_ARM` (R288, R289). -/
def execFlipMaskArm (mb : Fin 32) (s : State) : Host.Outcome State Fault Refusal :=
  .next (molianFixed mb 0x0A04 .privileged 0x38 [(0x10, 32), (0x20, 256), (0x40, 48)] (fun r s =>
    let u := r.fld 0x10 32
    if bits u 28 4 ≠ 3 ∨ unitOk u = false then .fail Status.fieldRange
    else
      let f : Flip := { dataMask := BitVec.ofNat 256 (r.fld 0x20 256), checkMask := BitVec.ofNat 48 (r.fld 0x40 48) }
      .done 0 0 0 [] { s with mem := { s.mem with flips := Tbl.put none s.mem.flips (bits u 0 28) (some f) } }) s)

/-! ## Repair (R290 to R292) -/

/-- R291 step 2, R292: copy one column through the correcting path into its spare. -/
def repairCol (req : Requester) (s : State) (col : Nat) : State :=
  let (o, d) := s.readCol col
  (s.noteRead req col).writeFull req col d (!o.good)

/-- R290: the spare rows of a row's subarray, and how many a bank has used. -/
def DMem.spares (m : DMem) (bank row : Nat) : Nat × Nat :=
  if row < 31744 then (56, Tbl.get 0 m.mainUsed bank) else (8, Tbl.get 0 m.scaleUsed bank)

/-- R291: repair a row, once the steps in progress at its bank pair have ended: its content is copied into a spare of its subarray, which
serves it from then on. -/
def State.repairRow (s : State) (bank row : Nat) (fuse : Bool) : State :=
  let used := (s.mem.spares bank row).2
  let s := s.endBegun (colUnit ((bank * 32768 + row) * 32))
  let s := ((List.range 32).map fun c => (bank * 32768 + row) * 32 + c).foldl (repairCol .mgmt) s
  let m := s.mem
  let tbl := Tbl.put none (Tbl.get [] m.repairs bank) row (some { spare := used, fuse })
  let m := { m with
    repairs := Tbl.put [] m.repairs bank tbl
    mainUsed := if row < 31744 then Tbl.put 0 m.mainUsed bank (used + 1) else m.mainUsed
    scaleUsed := if row < 31744 then m.scaleUsed else Tbl.put 0 m.scaleUsed bank (used + 1) }
  ({ s with mem := m } : State).err 6 (s.lay.dpaOf ((bank * 32768 + row) * 32)) 0 (reqCode .mgmt) (unitId 5 bank)

/-- `REPAIR_ROW` (R291). -/
def execRepairRow (mb : Fin 32) (s : State) : Host.Outcome State Fault Refusal :=
  .next (molianFixed mb 0x0A05 .ownerPort 7 [(0x10, 32), (0x14, 16), (0x16, 8)] (fun r s =>
    let u := r.fld 0x10 32
    let bank := bits u 0 28
    let row := r.fld 0x14 16
    if bits u 28 4 ≠ 5 ∨ unitOk u = false ∨ 32768 ≤ row ∨ 2 ≤ r.fld 0x16 8 then .fail Status.fieldRange
    else if (s.mem.spares bank row).1 ≤ (s.mem.spares bank row).2 then .fail Status.capacity
    else if !s.pcUp (bank / 32) then .fail Status.outOfService
    else .done 0 0 0 [] (s.repairRow bank row (r.fld 0x16 8 == 1))) s)

/-- R292: the distinct rows of a bank in which the error log shows corrected or uncorrectable events at a column position since
`from_`. -/
def State.errRows (s : State) (bank column from_ : Nat) : List Nat :=
  dedup (s.integ.log.filterMap fun e =>
    if e.kind ≤ 3 ∧ from_ ≤ e.time ∧ e.unit = unitId 5 bank then
      let p := s.lay.loc e.dpa
      if 32 * p.gpc + p.bank = bank ∧ p.col = column then some p.row else none
    else none)

/-- `AUTO_COLUMN_REPAIR` (R290, R292, R293): a column position of a bank shows events in 8 distinct rows within 24 h, counted from its
last repair. -/
def execAutoColumnRepair (bank column : Nat) (at_ : Nat) (s : State) : Host.Outcome State Fault Refusal :=
  let s := s.advance at_
  let gpc := bank / 32
  let key := bank % 32 * 32 + column
  let done := Tbl.get [] s.mem.colRepairs gpc
  let last := (done.filter fun e => e.1 == key).foldl (fun m e => Nat.max m e.2) 0
  let from_ := Nat.max (s.time.now - 86400000000000) last
  .next (if 65536 ≤ bank ∨ 32 ≤ column ∨ s.pcUp gpc = false ∨ (s.errRows bank column from_).length < 8 then s
    else if 8 ≤ done.length then s.err 6 0 0 (reqCode .mgmt) (unitId 5 bank)
    else
      let s := s.reach rachis 16 [bank * 32768 * 32 + column]
      let s := (List.range 32768).foldl (fun s row => repairCol .scrub s ((bank * 32768 + row) * 32 + column)) s
      let s := { s with mem := { s.mem with colRepairs := Tbl.put [] s.mem.colRepairs gpc (done ++ [(key, s.time.now)]) } }
      s.err 6 (s.lay.dpaOf (bank * 32768 * 32 + column)) 0 (reqCode .mgmt) (unitId 5 bank))

end Sys2Proof.Machine
end

