-- ==== Sys2Proof/Machine/Lifecycle.lean ====
section
/-! DEFINITION. Shut-downs, loss of input, retention, resets of the whole module, start-up and readiness (R261, R315 to R318, R326 to
R334, R336, R345, R373, R375). -/

namespace Sys2Proof.Machine

open Sys2Proof

/-! ## Phases -/

/-- R381: enter a phase; each change of `PHASE` drives `SMB_ALERT#` low. -/
def State.setPhase (s : State) (p : Phase) : State := { s with phase := p, side := { s.side with alert := true } }

/-- End the accepted request of a mailbox when the present phase does not accept its opcode (R272). -/
def refuseMb (s : State) (i : Nat) : State :=
  let mb : Fin 32 := Fin.ofNat 32 i
  if (s.mbox mb).cur then
    match s.phaseRefusal (s.req mb).opcode with
    | some st => s.reply mb st 0 0 []
    | none => s
  else s

/-- End the requests that the present phase does not accept. -/
def State.refuseAll (s : State) : State := (List.range 32).foldl refuseMb s

/-! ## Resets of the logic (R261, R330, R334, R336) -/

/-- R297, R315, R334: the compute rails fall: units, cores, host cores, links and rhizoid ports return to their reset state, and hold
nothing; service states are kept, and a port that is down for its credits stays so (R32). -/
def State.computeOff (s : State) : State :=
  { s with
    pairs := []
    fronds := s.fronds.map fun e => (e.1, { path := e.2.path : Frond })
    flinks := s.flinks.map fun e => (e.1, { svc := e.2.svc : FLink })
    oldLinks := []
    routeNew := []
    fabricHeld := []
    cores := s.cores.map fun e => (e.1, { svc := e.2.svc : Core })
    hcores := s.hcores.map fun e => (e.1, { svc := e.2.svc : HCore })
    lines := []
    power := { s.power with lowerTo := none, tokens := 0, stackEighths := [], rports := [], waiting := [], liens := [], grants := [] }
    rports := s.rports.map fun e => (e.1, { svc := e.2.svc, mismatch := e.2.mismatch : RPort }) }

/-- R307, R311: the thermal manager starts anew: what the domains read and the substitutions of R309 stand. -/
def Therm.restart (x : Therm) : Therm :=
  { doms := x.doms.map fun e => (e.1, { e.2 with sensors := e.2.sensors.map fun y => (y.1, { y.2 with missed := 0 }) }) }

/-- R309: a warm module reset and a cold power-on let the compute sensors that are substituted be found in range. -/
def Therm.recheck (x : Therm) : Therm :=
  { x with doms := x.doms.map fun e =>
      (e.1, if e.1 < 37 then { e.2 with sensors := e.2.sensors.map fun y => (y.1, { y.2 with recheck := y.2.out }) } else e.2) }

/-- R330: logic resets on the resume path: what `State.computeOff` gives, and mailboxes, engines and the arbiter's requests; contexts are
orphaned; memory, layout, repairs, logs, flags, buckets, envelope and limits are kept. -/
def State.logicReset (s : State) : State :=
  let s := s.leaveGroup
  let s := { s with recs := [] }
  let s := s.orphanAll.computeOff
  { s with
    time := { s.time with root := 0, wantRoot := none, holdover := false, frac := 0 }
    booted := false
    mem := { s.mem with flips := [] }
    queues := s.queues.map fun e => (e.1, { e.2 with drainTo := none, waitFrom := none })
    sched := {}
    mirrors := []
    bars := s.bars.map fun e => (e.1, { e.2 with waiters := [] })
    own := { s.own with st := .window, leaseEnd := 0, windowEnd := 0, claims := [] }
    mboxes := []
    intrs := []
    therm := s.therm.restart
    group := {} }

/-- R283, R364: the logs as NVM holds them, restored. -/
def State.restoreLogs (s : State) : Integrity × EvLog :=
  let n (l : List Nat) : Nat := match l with
    | [] => 1
    | x :: _ => x + 1
  ({ log := s.integ.nvm, nvm := s.integ.nvm, nextSeq := n (s.integ.nvm.map (·.seq)), nextCopy := s.integ.nextCopy },
   { log := s.evlog.nvm, nvm := s.evlog.nvm, nextSeq := n (s.evlog.nvm.map (·.seq)) })

/-- R327, R330, R334: the module without power: device memory and every volatile state lost; what NVM, the fuses and the pack
hold is kept. -/
def State.coldBase (s : State) : State :=
  let logs := s.restoreLogs
  { State.reset with
    time := { now := s.time.now }
    fw := s.fw
    lay := s.lay
    mem := { undef := undefAll (s.free + 1), repairs := s.mem.repairs, mainUsed := s.mem.mainUsed, scaleUsed := s.mem.scaleUsed
             colRepairs := s.mem.colRepairs }
    integ := { logs.1 with
      buckets := (List.range 32).foldl (fun t st => Tbl.put {} t st { nextLeak := s.time.now + 10000000000 }) [] }
    evlog := logs.2
    own := { nvmPrio := s.own.nvmPrio }
    shut := s.shut
    pack := { s.pack with inMc := s.pack.nvmIn, outMc := s.pack.nvmOut, charging := false }
    therm := s.therm.restart
    delays := { sets := s.delays.sets }
    side := s.side
    out := s.out
    free := s.free + 1
    pending := s.pending }

/-! ## Shut-downs (R315 to R318) -/

/-- R310, R317: the temperature, in 1/16 degree, at or below which a domain counts as cooled; none for those that do not count. -/
def coolPoint (d : Nat) : Option Int :=
  if d < 37 then some (95 * 16) else if d < 69 then some (85 * 16) else if d = 71 then some (55 * 16) else none

/-- R317 `SD_COOLED`: each domain that counts has been sampled and reads at or below its point. -/
def State.cooled (s : State) : Bool :=
  (List.range 72).all fun d => match coolPoint d with
    | some t => (s.dom d).sampled && decide ((s.dom d).reading ≤ t)
    | none => true

/-- R317: write the shut-down record. -/
def State.writeRecord (s : State) (kind cause sensor unit : Nat) (reading threshold : Int) : State :=
  { s with shut := { s.shut with
      time := s.time.now, kind, read := false, cause, sensor, root := s.time.root, unit, reading, threshold
      envelope := s.power.envelope, held := s.heldQ } }

/-- R317: the record as 32 bytes. -/
def State.recordBody (s : State) : Nat :=
  let r := s.shut
  r.time + r.kind * 2 ^ 64 + (if r.read then 2 ^ 66 else 0) + (if s.cooled then 2 ^ 67 else 0) + r.cause * 2 ^ 72
    + r.sensor * 2 ^ 80 + r.root * 2 ^ 88 + r.unit * 2 ^ 96 + ofSigned 16 r.reading * 2 ^ 128
    + ofSigned 16 r.threshold * 2 ^ 144 + r.envelope * 2 ^ 160 + r.held * 2 ^ 192

/-- R315, R334: issue stops: work in flight is abandoned without completion records, tokens return; the ordinary accesses that channel
controllers have accepted are served, and the compute rails fall. -/
def State.abandonWork (s : State) : State :=
  let s := s.recs.foldl (fun s r => s.dropRec r) s
  let s := { s with pairs := s.pairs.map fun (e : Nat × Pair) => (e.1, ({ ordQ := e.2.ordQ, owed := e.2.owed, nextRef := e.2.nextRef } : Pair)) }
  s.quiesce.computeOff

/-- R315: a logic shut-down: the record, the latch, the logs in NVM; contents are preserved. -/
def State.logicShutdown (s : State) (cause sensor unit : Nat) (reading threshold : Int) : State :=
  match s.phase with
  | .ready | .starting | .held =>
    let s := (s.writeRecord 1 cause sensor unit reading threshold).abandonWork.copyLogs
    let s := ({ s with shut := { s.shut with latched := true } } : State).setPhase .logicShut
    s.refuseAll
  | _ => s

/-- R315: a full shut-down: the record, the latch, the logs in NVM; device memory is lost. -/
def State.fullShutdown (s : State) (cause sensor unit : Nat) (reading threshold : Int) : State :=
  match s.phase with
  | .ready | .starting | .held | .logicShut =>
    let s := (s.writeRecord 2 cause sensor unit reading threshold).copyLogs.coldBase
    ({ s with shut := { s.shut with latched := true } } : State).setPhase .fullShut
  | _ => s

/-- R311: a domain whose shut-down is cleared goes on from its warning and throttle counters. -/
def Domain.unshut (x : Domain) : Nat := if 10 ≤ x.warnDown then 0 else if 10 ≤ x.thrDown then 1 else 2

/-- R311: domain `d` once the latch is cleared: its shut-down level has ended, but for the pack cells, which shut nothing down (R310). -/
def Domain.released (d : Nat) (x : Domain) : Domain :=
  if x.level = 3 ∧ d ≠ 69 then { x with level := x.unshut, shutUp := 0, band := if 37 ≤ d ∧ d < 69 then 1 + x.unshut else 0 } else x

/-- R311, R318: every domain's shut-down level ends with the latch. -/
def State.unshutAll (s : State) : State :=
  { s with therm := { s.therm with doms := s.therm.doms.map fun e => (e.1, e.2.released e.1) } }

/-- R318: the latch is cleared: after a logic shut-down the module resumes, after a full one it starts from cold. A latch found
with a record of cause 0x05 lost its contents with the input (R327). -/
def State.clearLatch (s : State) : State :=
  let kept := s.phase == .logicShut && s.shut.cause != 5
  let s := { s with shut := { s.shut with latched := false }, valid := kept }
  let s := if s.phase = .logicShut then { s.logicReset with mboxes := s.mboxes, intrs := s.intrs } else s
  s.unshutAll.setPhase .starting

/-- R318, R380: whether the latch may be cleared. -/
def State.mayClear (s : State) : Bool := s.shut.latched && s.shut.read && s.cooled

/-- `CLEAR_SHUTDOWN` (R318). -/
def execClearShutdown (mb : Fin 32) (s : State) : Host.Outcome State Fault Refusal :=
  .next (molianFixed mb 0x0E03 .port 0 [] (fun _ s =>
    if s.mayClear then .done 0 0 0 [] s.clearLatch else .fail Status.contextState) s)

/-- `GET_SHUTDOWN_RECORD` (R317): the record; `SD_READ` is set by the read. -/
def execGetShutdownRecord (mb : Fin 32) (s : State) : Host.Outcome State Fault Refusal :=
  .next (molianFixed mb 0x0E02 .any 0 [] (fun r s =>
    let read := match r.by_ with
      | .port _ => decide (s.shut.kind ≠ 0)
      | .hcore _ => false
    .done 0 32 s.recordBody [] { s with shut := { s.shut with read := s.shut.read || read } }) s)

/-- `REFCLK_LOST` (R24): the root PLL enters holdover, and logic that runs shuts down with cause 0x04. -/
def execRefclkLost (at_ : Nat) (s : State) : Host.Outcome State Fault Refusal :=
  let s := s.advance at_
  .next (if s.phase.powered then
      ({ s with time := { s.time with holdover := true } } : State).logicShutdown 4 0 0 0 0
    else s)

/-- `REFCLK_WARNING` (R24): REFCLK between ±300 and ±1,000 ppm of nominal logs a warning. DESIGN CHOICE (log entry 99): R363 gives no
words for it; the entry is of kind 0x08 with the domain 0x82, which R363 does not use, and the deviation in ppm in D1. -/
def execRefclkWarning (ppm : Int) (s : State) : Host.Outcome State Fault Refusal :=
  .next (if s.phase.powered ∧ 300 < ppm.natAbs ∧ ppm.natAbs ≤ 1000 then s.ev 0x08 0 0 (0x82 + s.time.root * 2 ^ 16) (ofSigned 64 ppm)
    else s)

/-! ## Loss of input and retention (R326 to R328, R373, R375) -/

/-- R327: the input is lost, or retention ends, without usable contents: a record of cause 0x05, then no power. -/
def State.loseContents (s : State) : State := ((s.writeRecord 2 5 0 0 0 0).coldBase).setPhase .off

/-- R326: entry into retention. -/
def State.enterRetention (s : State) : State :=
  let s := s.abandonWork.ev 0x0D 0 0 0
  let s := { s.copyLogs with pack := { s.pack with nvmIn := s.pack.inMc, nvmOut := s.pack.outMc, charging := false } }
  let s := { s.logicReset with ports := [] }
  s.setPhase .retention

/-- R326, R327: the input is lost. With a full shut-down latched device memory is lost already, and no record is written. -/
def State.inputLost (s : State) : State :=
  match s.phase with
  | .off | .retention => s
  | _ =>
    if s.shut.latched ∧ s.shut.kind = 2 ∧ s.shut.cause ≠ 5 then s.coldBase.setPhase .off
    else if s.pack.ready then s.enterRetention
    else s.loseContents

/-- `INPUT_POWER_LOST` (R326, R327): the input has stayed below 40 V for 20 µs. -/
def execInputPowerLost (at_ : Nat) (s : State) : Host.Outcome State Fault Refusal :=
  .next (s.advance at_).inputLost

/-- `INPUT_OVERVOLTAGE` (R373): above 63 V for 10 µs the input is disconnected. -/
def execInputOvervoltage (at_ mv : Nat) (s : State) : Host.Outcome State Fault Refusal :=
  let s := s.advance at_
  .next (if 63000 < mv then s.inputLost else s)

/-- `INPUT_OVERCURRENT` (R375): above 60 A for 100 µs the input is disconnected, which is logged. -/
def execInputOvercurrent (at_ ma : Nat) (s : State) : Host.Outcome State Fault Refusal :=
  let s := s.advance at_
  .next (if 60000 < ma ∧ s.phase ≠ .off ∧ s.phase ≠ .retention then
      (s.ev 0x08 0 0 (0x81 + 3 * 2 ^ 10 + s.time.root * 2 ^ 16) ma).inputLost
    else s)

/-- R363 kind 0x08: the level of an input voltage outside 44 to 60 V. -/
def voltLevel (mv : Nat) : Nat :=
  if 40000 ≤ mv ∧ mv < 44000 then 1 else if 60000 < mv ∧ mv ≤ 63000 then 2 else 0

/-- `INPUT_VOLTAGE_WARNING` (R373): one entry per minute while the input stays at 40 to 44 V or 60 to 63 V. -/
def execInputVoltageWarning (at_ mv : Nat) (s : State) : Host.Outcome State Fault Refusal :=
  let s := s.advance at_
  let lvl := voltLevel mv
  let due := match s.voltLogAt with
    | none => true
    | some t => decide (t + 60000000000 ≤ s.time.now)
  .next (if lvl = 0 ∨ s.phase = .off ∨ s.phase = .retention then s
    else
      let s := { s with power := { s.power with inputMv := mv } }
      if due then
        ({ s with voltLogAt := some s.time.now } : State).ev 0x08 0 0 (0x81 + lvl * 2 ^ 8 + s.time.root * 2 ^ 16) mv
      else s)

/-- `PACK_RESERVE_REACHED` (R325, R327): in retention the stored energy reaches the reserve. The timebase stands still there (R326). -/
def execPackReserveReached (e : RetentionUse) (s : State) : Host.Outcome State Fault Refusal :=
  .next (if s.phase = .retention then
      (s.packSet { s.pack.served e.chargeUsed e.powerMw with storedMwh := packReserve }).loseContents
    else s)

/-- `PACK_SELF_DISCONNECT` (R325, R327): the pack's own protection disconnects it in retention. -/
def execPackSelfDisconnect (e : RetentionUse) (s : State) : Host.Outcome State Fault Refusal :=
  .next (if s.phase = .retention then
      (s.packSet { s.pack.served e.chargeUsed e.powerMw with cut := true }).loseContents
    else s)

/-- `PACK_REMOVED` (R321): `PRESENT` and `READY` are cleared; in retention device memory is lost. A pack that counts as absent since
its missed polls is gone for good. -/
def execPackRemoved (s : State) : Host.Outcome State Fault Refusal :=
  .next (if !s.pack.present then { s with pack := { s.pack with missed := 0 } }
    else
      let s := s.packSet s.pack.gone
      if s.phase = .retention then s.loseContents else s)

/-- `RETENTION_EXIT` (R328): the input has stayed within 44 to 60 V for 100 ms: the exit event, and the resume path. -/
def execRetentionExit (nsHeld chargeUsed powerMw : Nat) (s : State) : Host.Outcome State Fault Refusal :=
  .next (if s.phase = .retention then
      let s := { s with valid := true
                        pack := s.pack.served chargeUsed powerMw }
      (s.ev 0x0D 0 0 1 nsHeld chargeUsed).setPhase .starting
    else s)

/-! ## Start-up (R329 to R333, R345) -/

/-- R331: a slot as the ROM finds it: rejected when its header or digest does not verify, or its security version is too low. DEDUCED (log
entry 146): a slot that fails any of the three checks holds no image that verifies (R390). -/
def Slot.verify (x : Slot) (h : Option FwHeader) (minSec : BitVec 16) : Slot × Bool :=
  match h with
  | none => ({ x with valid := false }, false)
  | some h =>
    let ok := decide (minSec.toNat ≤ h.security.toNat)
    let y := { x with valid := ok, version := h.version, security := h.security, raises := h.raises, length := h.length, digest := h.digest }
    (y, !x.rejected && ok)

/-- R331: select the slot to boot: the active one, else the other, each rejection logged; none when both are rejected. -/
def State.selectSlot (s : State) (a b : Option FwHeader) : State × Option Nat :=
  let va := s.fw.slotA.verify a s.fw.minSecurity
  let vb := s.fw.slotB.verify b s.fw.minSecurity
  let s := { s with fw := { s.fw with slotA := va.1, slotB := vb.1 } }
  let ok (i : Nat) : Bool := if i = 0 then va.2 else vb.2
  let act := s.fw.active
  if ok act then (s, some act)
  else
    let s := s.ev 0x10 0 0 act
    if ok (1 - act) then (s, some (1 - act)) else (s.ev 0x10 0 0 (1 - act), none)

/-- R329 step 4: links train, frond cores and host cores run BIST; what fails is out of service, logged. -/
def State.computeOn (s : State) (r : StartReport) : State :=
  let s := r.badLinks.foldl (fun s l => if s.linkUp l then s.fenceLink l else s) s
  let s := r.badCores.foldl (fun s c => if s.coreUp c then s.fenceCore c Status.outOfService else s) s
  r.badHostCores.foldl (fun s (n : Fin 16) =>
    if (s.hcore n).svc = .inService then
      (s.setHCore n { s.hcore n with svc := .fenced }).ev 0x0A Status.outOfService (unitId 9 n) 1
    else s) s

/-- R332, R43: a channel that fails training is out of service and logged. -/
def failTraining (s : State) (ch : Nat) : State :=
  if ch < 1024 ∧ (s.chan ch).svc = .inService then s.fenceChannel ch Status.outOfService else s

/-- R332: the channel of a lane. -/
def laneChannel (x : LaneFit) : Nat := x.lane / 10

/-- R332: the delays that training has found for a lane at a root step are stored. -/
def Delays.store (d : Delays) (root : Nat) (x : LaneFit) : Delays :=
  { d with sets := Tbl.put [] d.sets root (Tbl.put (0, 0) (Tbl.get [] d.sets root) x.lane (x.write, x.read)) }

/-- R25, R332: the set of a root step comes into force. -/
def Delays.load (d : Delays) (root : Nat) : Delays := { d with inForce := Tbl.get [] d.sets root }

/-- R332: the delays that a retrain has found for lanes at the present root step are stored, and come into force. -/
def State.storeLanes (s : State) (lanes : List LaneFit) : State :=
  { s with delays := (lanes.foldl (fun d x => d.store s.time.root x) s.delays).load s.time.root }

/-- R332: whether a lane's eye is too narrow. -/
def eyeNarrow (x : LaneFit) : Bool := decide (x.width < 20)

/-- R332: the stack interfaces train at the three root steps; a lane whose eye stays narrower than 20 steps takes its channel out. -/
def State.train (s : State) (fits : List RootFit) : State :=
  let s := { s with delays := (fits.foldl (fun d x => d.store x.root x.fit) s.delays).load 0 }
  (dedup ((fits.filter fun x => eyeNarrow x.fit).map fun x => laneChannel x.fit)).foldl failTraining s

/-- R333: the initialisation of device memory from cold: every column of a channel in service is zero with its reset check bits. -/
def State.initMemory (s : State) : State :=
  let up (g : Nat) : Bool := (s.chan (g / 2)).svc == .inService
  let m := s.mem
  { s with mem := { m with
      bytes := m.bytes.filter fun c => !up (locOf (c.1 / 32)).gpc
      check := m.check.filter fun c => !up (locOf c.1).gpc
      undef := m.undef.filter fun e => !up e.1 } }

/-- R329 steps 2 to 7 (`DBG_EN` low): firmware, latch, clocks, links and cores, training, device memory. A module whose slots are both
rejected answers no mailbox (R331). -/
def State.boot (s : State) (r : StartReport) : State :=
  let (s, slot) := s.selectSlot r.slotA r.slotB
  match slot with
  | none => ({ s with mboxes := [] } : State).setPhase .held
  | some i =>
    let s := { s with fw := { s.fw with running := i, bootAt := s.time.now } }
    if s.shut.latched then
      s.setPhase (if s.shut.kind = 2 ∧ s.shut.cause ≠ 5 then .fullShut else .logicShut)
    else
      let s := if s.phase = .starting then s else s.setPhase .starting
      let s := { s with time := { s.time with root := 0, holdover := false }, booted := true }
      let s := (s.computeOn r).train r.fits
      let s := if s.valid then s else s.initMemory
      let s := { s with valid := false }
      if s.pack.present then s.packSet (s.pack.authenticate r.pack) else s

/-- `START_UP` (R329, R330): the start sequence once the input is stable: from an unpowered module, at the start of a reset's
resume path, or again after a held step 2. With `DBG_EN` high at power-on, start-up stops at step 1 (R382). -/
def execStartUp (r : StartReport) (s : State) : Host.Outcome State Fault Refusal :=
  .next (match s.phase with
    | .off =>
      let s := ({ s with therm := s.therm.recheck } : State).setPhase .starting
      if r.dbgEn then { s with jtag := { enabled := true } } else s.boot r
    | .starting =>
      if s.booted || s.jtag.enabled then s
      else if r.dbgEn && !s.valid then { s with jtag := { enabled := true } }
      else s.boot r
    | .held => s.boot r
    | _ => s)

/-- R345: the slot that runs leaves trial at its first ready, and the minimum security version rises when its header asks. -/
def State.endTrial (s : State) : State :=
  let i := s.fw.running
  let x := s.fw.slot i
  if x.trial then
    let fw := s.fw.setSlot i { x with trial := false }
    let lo := if x.raises ∧ fw.minSecurity.toNat < x.security.toNat then x.security else fw.minSecurity
    { s with fw := { fw with minSecurity := lo } }
  else s

/-- `READY_REACHED` (R261, R329 step 8): the module is ready and the ownership window opens for 50 ms. -/
def execReadyReached (at_ : Nat) (s : State) : Host.Outcome State Fault Refusal :=
  let s := s.advance at_
  .next (if s.phase = .starting ∧ s.booted then
      let s := s.endTrial.setPhase .ready
      let s := { s with resetBusy := false, resetBy := none, own := { s.own with
        st := .window, windowEnd := s.time.now + 50000000, claims := [], prioAtOpen := s.own.nvmPrio, cause := 0x01 } }
      s.ownershipIrq
    else s)

/-- `FW_TRIAL_FALLBACK` (R345): a slot on trial that misses ready in 60 s, or whose watchdog resets the management processor, is
rejected and the previous slot boots. -/
def execFwTrialFallback (at_ : Nat) (watchdog : Bool) (s : State) : Host.Outcome State Fault Refusal :=
  let s := s.advance at_
  let i := s.fw.running
  let x := s.fw.slot i
  .next (if s.phase = .starting ∧ s.booted ∧ x.trial ∧ (watchdog ∨ s.fw.bootAt + 60000000000 ≤ s.time.now) then
      let fw := s.fw.setSlot i { x with rejected := true, trial := false }
      let s := { s with fw := { fw with active := 1 - i, running := 1 - i, bootAt := s.time.now } }
      s.ev 0x10 0 0 (i + 2 * 2 ^ 8)
    else s)

/-! ## The warm module reset (R335, R336) -/

/-- R335: a refused write of `MODULE_RESET`: `REFUSED` and an entry of kind 0x16 with the value written and the cause. -/
def State.refuseReset (s : State) (p : Fin 4) (value cause : Nat) : State :=
  let s := s.setPort p { s.port p with resetRefused := true }
  s.ev 0x16 0 (unitId 8 p.val) (value + cause * 2 ^ 32)

/-- R335: the value of a `MODULE_RESET` write. -/
def resetWord (kind frond ctx : Nat) (key : Byte) : Nat := kind + frond * 4 + ctx * 2 ^ 8 + key.toNat * 2 ^ 16

/-- R335: whether a write of `MODULE_RESET` by a port meets a reset in progress, which that port has ordered. DEDUCED (log entry 146): the
reset has ended its ownership (R334), and its further writes are still those of the port that resets. -/
def State.resetting (s : State) (p : Fin 4) : Bool := s.resetBusy && s.resetBy == some p

/-- R32, R334, R336: the warm module reset itself: records in flight complete `ERR_CANCELLED`, what controllers have accepted is served, the
contents-valid mark is written, logic resets, and every stopped pool grants again. -/
def State.warmReset (s : State) : State :=
  let s := (s.cancelAll s.recs true).quiesce.logicReset
  ({ s with valid := true, resetBusy := true, stopped := [], power := { s.power with stopped := false }
            therm := s.therm.recheck } : State).setPhase .starting

/-- R335: a write of `MODULE_RESET` that orders a reset: it has no effect from another port than the owner's; it is refused while a reset is
in progress, and with a wrong `KEY`. -/
def State.orderedReset (s : State) (p : Fin 4) (value : Nat) (key : Byte) (act : State → State) : State :=
  if s.resetting p then s.refuseReset p value 1
  else if !s.isOwner p then s
  else if key ≠ 0xA5#8 then s.refuseReset p value 0
  else act s

/-- `WARM_MODULE_RESET` (R335, R336): only the owner's port resets; a wrong `KEY` refuses the write. -/
def execWarmModuleReset (p : Fin 4) (key : Byte) (s : State) : Host.Outcome State Fault Refusal :=
  .next (s.orderedReset p (resetWord 1 0 0 key) key fun s => { s.warmReset with resetBy := some p })

end Sys2Proof.Machine
end

