-- ==== Sys2Proof/Machine/QueueCmds.lean ====
section
/-! DEFINITION. The Molian commands on queues, streams and flag windows, and the completion-ring head (R201 to R220, R388). -/

namespace Sys2Proof.Machine

open Sys2Proof

/-! ## Queues -/

/-- R201: the applied number of entries: the nearest power of two from 64 to 65,536, ties downward. -/
def entriesApplied (x : Nat) : Nat :=
  if x ≤ 64 then 64
  else if 65536 ≤ x then 65536
  else
    let lo := 2 ^ Nat.log2 x
    if 2 * lo - x < x - lo then 2 * lo else lo

/-- R201: the tests of one ring: base, bytes. -/
def State.ringFault (s : State) (c base size : Nat) : Option Nat :=
  if base % 4096 ≠ 0 then some Status.misaligned
  else if !s.inOneWindow c base size then some Status.outOfBounds
  else none

/-- The lowest queue number on which no queue exists. DESIGN CHOICE (log entry 33): the spec does not say which number is taken. -/
def State.freeQueue (s : State) : Option Nat := (List.range 2048).find? fun q => !(s.queue q).live

/-- The steps of `Q_CREATE` (R201, R272, R354). -/
def qCreateRun (r : Req) (s : State) : Ans :=
  let c := r.fld 0x10 16
  if s.foreign r.by_ c then .fail Status.notOwner
  else if 256 ≤ c then .fail Status.fieldRange
  else
    let prio := Nat.min 3 (r.fld 0x12 8)
    let weight := clampNat 1 16 (r.fld 0x13 8)
    let n := entriesApplied (r.fld 0x14 32)
    let ring := r.fld 0x18 64
    let cq := r.fld 0x20 64
    let cl := clampOf 0x12 8 (r.fld 0x12 8) prio ++ clampOf 0x13 8 (r.fld 0x13 8) weight ++ clampOf 0x14 32 (r.fld 0x14 32) n
    let st := (s.ctx c).st
    if st != .active && st != .suspended then .fail Status.contextState
    else match s.ringFault c ring (128 * n) with
      | some e => .fail e
      | none => match s.ringFault c cq (32 * n) with
        | some e => .fail e
        | none =>
          if rangesMeet ring (128 * n) cq (32 * n) then .fail Status.overlap
          else if (s.ctx c).queueLimit ≤ (s.ctxQueues c).length then .fail Status.capacity
          else match s.freeQueue with
            | none => .fail Status.capacity
            | some q =>
              let qu : Queue := { live := true, ctx := c, entries := n, ring, cqRing := cq, prio, weight }
              let s := { s with group := { s.group with counts := s.group.counts.filter fun e => e.1 != q } }
              .done 0 4 q cl (s.setQueue q qu)

/-- `Q_CREATE` (R201, R388). -/
def execQCreate (mb : Fin 32) (s : State) : Host.Outcome State Fault Refusal :=
  .next (molianFixed mb 0x0501 .owner 24 [(0x10, 16), (0x12, 8), (0x13, 8), (0x14, 32), (0x18, 64), (0x20, 64)] qCreateRun s)

/-- The checks that the commands naming one queue share (R216). -/
def onQueue (r : Req) (s : State) (act : Nat → Ans) : Ans :=
  let q := r.fld 0x10 16
  let qu := s.queue q
  if qu.live && s.foreign r.by_ qu.ctx then .fail Status.notOwner
  else if 2048 ≤ q then .fail Status.fieldRange
  else if !qu.live then .fail Status.contextState
  else act q

/-- `Q_DESTROY` (R216). -/
def execQDestroy (mb : Fin 32) (s : State) : Host.Outcome State Fault Refusal :=
  .next (molianFixed mb 0x0502 .owner 2 [(0x10, 16)] (fun r s => onQueue r s fun q =>
    if (s.queue q).occ ≠ 0 ∨ s.qRecs q ≠ [] then .fail Status.contextState
    else .done 0 0 0 [] (s.setQueue q {})) s)

/-- `Q_DRAIN` (R215, R216): records up to `TAIL` run, later ones are held until the command completes. -/
def execQDrain (mb : Fin 32) (s : State) : Host.Outcome State Fault Refusal :=
  .next (molianFixed mb 0x0503 .owner 8 [(0x10, 16), (0x14, 32)] (fun r s => onQueue r s fun q =>
    let t := timeoutApplied (r.fld 0x14 32)
    let qu := s.queue q
    .wait (s.time.now + timeoutNs t) (clampOf 0x14 32 (r.fld 0x14 32) t) (s.setQueue q { qu with drainTo := some qu.tail })) s).settle

/-- R215: a `Q_DRAIN` ends before its queue has drained: records not started are cancelled, `ERR_TIMEOUT`; started ones stop at their next
tile or row boundary. DEDUCED (log entry 130): since the command has completed, they may start again from there. -/
def drainEnd (mb : Fin 32) (status : Nat) (s : State) : State :=
  let b := s.mbox mb
  let q := (s.req mb).fld 0x10 16
  let qu := s.queue q
  let s := s.cancelAll ((s.qRecs q).filter fun r => !r.started) true
  let s : State := { s with recs := s.recs.map fun (r : Rec) => if r.q = q then { r with started := r.workDone || r.arrived } else r }
  let s := match qu.drainTo with
    | some upto => s.cancelUnissued q upto
    | none => s
  let s := (s.setQueue q { s.queue q with drainTo := none }).touch qu.ctx
  (s.reply mb status 0 0 b.clamps).settle

/-- `Q_DRAIN_TIMEOUT` (R215). -/
def execQDrainTimeout (mb : Fin 32) (at_ : Nat) (s : State) : Host.Outcome State Fault Refusal :=
  let s := s.advance at_
  let b := s.mbox mb
  .next (if b.cur && b.begun && (s.req mb).opcode == 0x0503 && decide (b.deadline ≤ s.time.now) then drainEnd mb Status.timeout s else s)

/-- `CQ_HEAD_WRITE` (R204, R215): software has consumed completion entries; a value that precedes `CQ_HEAD` or passes
`CQ_TAIL` is discarded and logged. -/
def execCqHeadWrite (by_ : Agent) (q : Nat) (v : Word32) (s : State) : Host.Outcome State Fault Refusal :=
  .next (doorbellPage by_ q 8 v s (cqHeadPut by_ q v))

/-! ## Streams -/

/-- `STREAM_ALLOC` (R32, R210, R388): a free context has no range (DEDUCED, log entry 129). -/
def execStreamAlloc (mb : Fin 32) (s : State) : Host.Outcome State Fault Refusal :=
  .next (molianFixed mb 0x0601 .owner 4 [(0x10, 16), (0x12, 16)] (fun r s =>
    let c := r.fld 0x10 16
    let n := r.fld 0x12 16
    let x := s.ctx c
    if s.foreign r.by_ c then .fail Status.notOwner
    else if 256 ≤ c then .fail Status.fieldRange
    else if n ≠ 0xFFFF ∧ (8192 ≤ n ∨ (x.st ≠ .free ∧ (n < x.strFirst ∨ x.strFirst + x.strCount ≤ n))) then .fail Status.fieldRange
    else if x.st != .active && x.st != .suspended then .fail Status.contextState
    else if s.stopped.contains .streams then .fail Status.internal
    else
      let cands := if n = 0xFFFF then (List.range x.strCount).map (x.strFirst + ·) else [n]
      match cands.find? (fun i => (s.stream i).st == .free) with
      | none => .fail Status.capacity
      | some i => .done 0 4 i [] (s.setStream i { st := .active, ctx := c })) s)

/-- R272: the checks that the commands naming one stream share; `bad`: another field of the request has no meaningful clamp (step 3). -/
def onStream (r : Req) (s : State) (bad : Bool) (act : Nat → Ans) : Ans :=
  let i := r.fld 0x10 16
  let t := s.stream i
  if t.st != .free && s.foreign r.by_ t.ctx then .fail Status.notOwner
  else if decide (8192 ≤ i) || bad then .fail Status.fieldRange
  else if t.st == .free then .fail Status.contextState
  else act i

/-- `STREAM_FREE` (R210): refused while an issued record names the stream. -/
def execStreamFree (mb : Fin 32) (s : State) : Host.Outcome State Fault Refusal :=
  .next (molianFixed mb 0x0602 .owner 2 [(0x10, 16)] (fun r s => onStream r s false fun i =>
    if s.recs.any (fun x => x.streams.contains i) then .fail Status.contextState
    else .done 0 0 0 [] (s.setStream i {})) s)

/-- R162: the element-format codes. -/
def fmtCodes : List Nat := [0x00, 0x01, 0x02, 0x03, 0x04, 0x05, 0x08, 0x09, 0x0A, 0x0B]

/-- R137: the address of the object that a line reference names. -/
def lineAddr (ref : Nat) : Nat := 64 * (ref % 2 ^ 35)

/-- R209, R137: the bit positions, in the request area, of the fields of the entry image that are not reserved: of a line reference that
`FIELD_MASK` selects, `LINE`; one that it does not select is ignored whatever its value. -/
def entryFields (mask : Nat) : List (Nat × Nat) :=
  [(0, 2), (8, 8), (32, 32), (64, if mask.testBit 1 then 35 else 64), (128, if mask.testBit 2 then 35 else 64), (192, 6), (208, 16),
    (224, 32), (256, 16), (288, 32), (320, 16)].map fun f => (8 * 0x20 + f.1, f.2)

/-- R209, R272 step 3: a field of a `STREAM_SET` that has no meaningful clamp: a mask bit beyond the seven RW fields, a selected format. -/
def streamSetBad (mask img : Nat) : Bool := decide (128 ≤ mask) || (mask.testBit 3 && !fmtCodes.contains (bits img 192 6))

/-- R209: a line reference that a `STREAM_SET` writes lies outside the windows of the stream's context. -/
def streamSetOut (s : State) (c mask img : Nat) : Bool :=
  let out (i ref : Nat) : Bool := mask.testBit i && !s.inWindows c (lineAddr ref) (lineAddr ref + 127) false
  out 1 (bits img 64 64) || out 2 (bits img 128 64)

/-- `STREAM_SET` (R209, R212, R213): waits while a record in flight advances the stream. -/
def execStreamSet (mb : Fin 32) (s : State) : Host.Outcome State Fault Refusal :=
  .next (molian mb 0x0603 .owner (fun _ => 0x90)
    (fun r => [fieldAt 0x10 16, fieldAt 0x12 16] ++ entryFields (r.fld 0x12 16)) (fun r s =>
      onStream r s (streamSetBad (r.fld 0x12 16) (r.fld 0x20 1024)) fun i =>
        if streamSetOut s (s.stream i).ctx (r.fld 0x12 16) (r.fld 0x20 1024) then .fail Status.outOfBounds
        else .wait (s.time.now + 1000000000) [] s) s).settle

/-! ## Flag windows (R218, R220) -/

/-- R218: a slot as its 16-byte entry. -/
def FSlot.entry (f : FSlot) : Nat :=
  if f.mapped then
    f.block + 2 ^ 10 + (if f.mirror then 2 ^ 11 else 0) + (if f.msix then 2 ^ 12 else 0) + f.vector * 2 ^ 16
      + f.addr.toNat * 2 ^ 64
  else 0

/-- R220: the slots that the records held at `HEAD` or in flight of a context name. -/
def State.namedSlots (s : State) (c : Nat) : List Nat :=
  let inFlight := ((s.ctxRecs c).map fun r => r.waits ++ r.signals).flatten
  let held := ((s.ctxQueues c).map fun q =>
    let qu := s.queue q
    if qu.occ = 0 then []
    else
      let raw := (s.readNum (qu.ring + 128 * (qu.head.toNat % qu.entries)) 32).1
      ((List.range (Nat.min 4 (bits raw 24 3))).map fun i => bits raw (32 + 16 * i) 16)
        ++ ((List.range (Nat.min 4 (bits raw 27 3))).map fun i => bits raw (96 + 16 * i) 16)).flatten
  (inFlight ++ held).map (· / 64)

/-- R220: unbind a slot: its block is cleared. -/
def State.unbindSlot (s : State) (c slot : Nat) : State :=
  let x := s.ctx c
  let f := Tbl.get ({} : FSlot) x.slots slot
  if f.mapped then (s.hwClear f.block).setCtx c { x with slots := Tbl.put {} x.slots slot {} } else s

/-- R220: bind a block to a slot: the block is cleared, and its mirror, when enabled, is owed one write. -/
def State.bindSlot (s : State) (c slot : Nat) (f : FSlot) : State :=
  let s := s.unbindSlot c slot
  let s := s.hwClear f.block
  let x := s.ctx c
  let s := s.setCtx c { x with slots := Tbl.put {} x.slots slot f }
  if f.mirror then { s with mirrors := Tbl.put {} s.mirrors f.block { write := true } } else s

/-- R218: the MSI-X vectors that the owner's host has enabled. DEDUCED (log entry 20): all of the table's while MSI-X is enabled, else none. -/
def State.vectorsOn (s : State) : Nat := match s.ownerPort with
  | some p => if (s.port p).msixOn then 2048 else 0
  | none => 0

/-- The steps of `FLAG_WINDOW_MAP` (R218, R220, R272). -/
def flagMapRun (r : Req) (s : State) : Ans :=
  let c := r.fld 0x10 16
  let slot := r.fld 0x12 16
  let op := r.fld 0x14 8
  let e := r.fld 0x20 128
  let st := (s.ctx c).st
  let f : FSlot := { block := bits e 0 10, mapped := true, mirror := e.testBit 11, msix := e.testBit 12
                     vector := bits e 16 11, addr := BitVec.ofNat 64 (bits e 64 64) }
  let cur := Tbl.get ({} : FSlot) (s.ctx c).slots slot
  let elsewhere : Bool := match s.binding f.block with
    | some (c', i', _) => !(c' == c && i' == slot)
    | none => false
  if s.foreign r.by_ c then .fail Status.notOwner
  else if 256 ≤ c ∨ 1024 ≤ slot ∨ 3 ≤ op ∨ (op = 0 ∧ f.msix ∧ s.vectorsOn ≤ f.vector) then .fail Status.fieldRange
  else if st = .free ∨ (op < 2 ∧ st = .orphaned) then .fail Status.contextState
  else if (op = 0 ∨ (op = 1 ∧ cur.mapped)) ∧ (s.namedSlots c).contains slot then .fail Status.contextState
  else if op = 0 ∧ f.addr.toNat % 8 ≠ 0 then .fail Status.misaligned
  else if op = 0 ∧ elsewhere = true then .fail Status.capacity
  else
    let s := if op = 0 then s.bindSlot c slot f else if op = 1 then s.unbindSlot c slot else s
    .done 0 16 (Tbl.get ({} : FSlot) (s.ctx c).slots slot).entry [] s

/-- `FLAG_WINDOW_MAP` (R218 to R220, R388). -/
def execFlagWindowMap (mb : Fin 32) (s : State) : Host.Outcome State Fault Refusal :=
  .next (molian mb 0x0701 .owner (fun _ => 0x20) (fun _ =>
    [fieldAt 0x10 16, fieldAt 0x12 16, fieldAt 0x14 8, (8 * 0x20, 13), (8 * 0x20 + 16, 11), (8 * 0x28, 64)]) flagMapRun s)

end Sys2Proof.Machine
end

