-- ==== Sys2Proof/Machine/Rhizoid.lean ====
section
/-! DEFINITION. Rhizoid ports and module groups (R346 to R354, R358). -/

namespace Sys2Proof.Machine

open Sys2Proof

/-! ## Ports (R346 to R349) -/

/-- R347: a flit's first 248 bytes, one little-endian number: `SEQ`, `ACK`, `NAK`, `CLASS`, `CRED_D`, `CRED_C`, `PAYLOAD`. -/
def flitBody (f : Flit) : Nat :=
  f.seq.toNat + f.ack.toNat * 2 ^ 12 + f.nak.toNat * 2 ^ 24 + f.control.toNat * 2 ^ 25 + f.credD % 256 * 2 ^ 26
    + f.credC % 16 * 2 ^ 34 + (f.payload.take 240).foldr (fun b n => b.toNat + n * 256) 0 * 2 ^ 64

/-- R347: the flit's 256 bytes: `CRC` over bytes 0x00 to 0xF7 stands above them; the polynomial is no part of the spec. -/
def flitWord (f : Flit) : Nat := flitBody f + (Config.flitCrc (flitBody f)).toNat * 2 ^ 1984

/-- R346, R349: a port comes up with empty buffers and full credits. -/
def RPort.trained (p : RPort) (serial : Word64) : RPort := { svc := p.svc, up := true, serial, rx := p.rx }

/-- Whether a port may train: in service, down, no credit mismatch, its 100 quanta granted (R297, R346, R349). -/
def State.mayTrain (s : State) (n : Nat) : Bool :=
  let p := s.rport n
  p.svc == .inService && !p.up && !p.mismatch && Tbl.get false s.power.rports n

/-- `RHIZOID_PORT_TRAINED` (R346): the neighbour appears and the port trains. -/
def execRhizoidPortTrained (n : Fin 8) (serial : Word64) (s : State) : Host.Outcome State Fault Refusal :=
  .next (if s.mayTrain n then s.setRPort n ((s.rport n).trained serial) else s)

/-- R349: start a retrain; credits are kept. -/
def State.startRetrain (s : State) (n : Nat) : State :=
  s.setRPort n { s.rport n with retraining := true, retrainAt := s.time.now, naks := 0 }

/-- `RHIZOID_LINK_RETRAIN` (R358). -/
def execRhizoidLinkRetrain (n : Fin 8) (s : State) : Host.Outcome State Fault Refusal :=
  .next (if (s.rport n).up && !(s.rport n).retraining then s.startRetrain n else s)

/-- R358, R350: a port has gone down; when both ports of its direction are down, the reroute is logged. -/
def State.portDownLog (s : State) (n : Nat) : State :=
  (s.ev 0x0B 0 (unitId 10 n) 1).rerouteLog n

/-- R349: the credits agree with the free buffers that the receiver reports. -/
def RPort.balanced (p : RPort) (freeD freeC : Nat) : Bool := p.credD == freeD && p.credC == freeC

/-- `RHIZOID_RETRAIN_DONE` (R349): equal credits resume the link; a difference takes the port down with `ERR_LINK_CREDIT`. -/
def execRhizoidRetrainDone (n : Fin 8) (freeD freeC : Nat) (s : State) : Host.Outcome State Fault Refusal :=
  let p := s.rport n
  .next (if !p.up || !p.retraining then s
    else if p.balanced freeD freeC then s.setRPort n { p with retraining := false, naks := 0 }
    else s.creditLost n)

/-- `RHIZOID_RETRAIN_TIMEOUT` (R349): a retrain not completed within 2 ms takes the port down; training is retried every second. -/
def execRhizoidRetrainTimeout (n : Fin 8) (at_ : Nat) (s : State) : Host.Outcome State Fault Refusal :=
  let s := s.advance at_
  let p := s.rport n
  .next (if p.up && p.retraining && decide (p.retrainAt + 2000000 ≤ s.time.now) then
      let s := s.rportDown n
      (s.setRPort n { s.rport n with retryAt := s.time.now + 1000000000 }).portDownLog n
    else s)

/-- `RHIZOID_TRAIN_RETRY` (R349): once per second; `serial` is the neighbour's when training succeeds. -/
def execRhizoidTrainRetry (n : Fin 8) (at_ : Nat) (serial : Option Word64) (s : State) : Host.Outcome State Fault Refusal :=
  let s := s.advance at_
  let p := s.rport n
  .next (if 0 < p.retryAt ∧ p.retryAt ≤ s.time.now ∧ s.mayTrain n then
      match serial with
      | some k => s.setRPort n (p.trained k)
      | none => s.setRPort n { p with retryAt := p.retryAt + 1000000000 }
    else s)

/-- R348: the flits that an `ACK` acknowledges leave the sender's store. -/
def dropAcked (l : List (BitVec 12 × Bool)) (ack : BitVec 12) : List (BitVec 12 × Bool) :=
  if l.any (·.1 == ack) then (l.dropWhile (·.1 != ack)).drop 1 else l

/-- R348: a received `ACK`, its credits, which let waiting control flits leave, and its `NAK`: replay from `ACK` + 1; 8 in a row
for the same flit retrain the port. -/
def State.flitAnswer (s : State) (n : Fin 8) (f : Flit) : State :=
  let p := s.rport n
  let old := { p with unacked := dropAcked p.unacked f.ack, credD := Nat.min 480 (p.credD + f.credD)
                      credC := Nat.min 32 (p.credC + f.credC) }
  let p := old.sendHeld
  if f.nak then
    let naks := if p.nakSeq = f.ack + 1 ∧ 0 < p.naks then p.naks + 1 else 1
    let s := s.setRPort n { p with naks, nakSeq := f.ack + 1 }
    let s := old.unacked.foldl (fun s e => s.emit (.flitReplay n e.1)) s
    if 8 ≤ naks then s.startRetrain n else s
  else s.setRPort n { p with naks := 0 }

/-- R348: the flit itself: delivered in its order, exactly once; a repeated one is discarded; idle flits carry no payload. -/
def State.flitDeliver (s : State) (n : Fin 8) (f : Flit) : State :=
  let p := s.rport n
  if f.payload = [] then s
  else if f.seq = p.rxSeq + 1 then
    (s.setRPort n { p with rxSeq := f.seq, rx := p.rx ++ [f.payload] }).emit (.flitAck n f.seq false)
  else if (p.rxSeq - f.seq).toNat < 2048 then s.emit (.flitAck n p.rxSeq false)
  else s.emit (.flitAck n p.rxSeq true)

/-- `RHIZOID_FLIT_RECEIVE` (R347, R348): a flit whose CRC fails is discarded and answered with `NAK`. -/
def execRhizoidFlitReceive (n : Fin 8) (f : Flit) (s : State) : Host.Outcome State Fault Refusal :=
  let p := s.rport n
  .next (if !p.up || p.retraining then s
    else if !f.crcOk then s.emit (.flitAck n p.rxSeq true)
    else
      let s := s.flitAnswer n f
      (if (s.rport n).retraining then s else s.flitDeliver n f).settleUnits)

/-! ## Membership (R351, R352) -/

/-- R351: the join completes: all counts start at 0. -/
def State.joined (s : State) : State :=
  { s with group := { s.group with inGroup := true, broken := false, joinMb := none, msgs := [], counts := [], cancels := [] } }

/-- R351: a failed join leaves the module outside the group. -/
def State.joinFailed (s : State) : State := { s with group := { s.group with joinMb := none, msgs := [] } }

/-- R346: the member at whose position a port's neighbour stands. -/
def neighbourOf (m n : Nat) : Nat :=
  let x := m % 4
  let y := m / 4
  match n / 2 with
  | 0 => (x + 1) % 4 + 4 * y
  | 1 => (x + 3) % 4 + 4 * y
  | 2 => x + 4 * ((y + 1) % 4)
  | _ => x + 4 * ((y + 3) % 4)

/-- R346, R351: whether a port that is up has the neighbour that it expects, by the serial numbers of the members' messages: the member of
its position, and none of them where that position is empty. -/
def State.placed (s : State) (msgs : List JoinMsg) (n : Nat) : Bool :=
  let p := s.rport n
  !p.up || msgs.all fun m => (m.member.val == neighbourOf s.group.member n) == (m.serial == p.serial)

/-- R351: judge the pending join against the messages that have arrived. -/
def State.judgeJoin (s : State) : State :=
  let g := s.group
  match g.joinMb with
  | none => s
  | some mb =>
    let ours := g.msgs.filter fun m => g.members.getLsbD m.member.val && m.member.val != g.member
    let others := (memberList g.members).filter (· != g.member)
    if ours.any (fun m => m.token != g.token || m.members != g.members) then
      s.joinFailed.reply mb Status.notOwner 0 0 []
    else if others.all (fun i => ours.any fun m => m.member.val == i) then
      if ours.all (·.routesOk) && (List.range 8).all (s.placed ours) && others.all (fun i => (s.portTo i).isSome) then s.joined.reply mb 0 0 0 []
      else s.joinFailed.reply mb Status.unsupported 0 0 []
    else s

/-- `GROUP_JOIN` (R351): a group of one joins at once; otherwise the join waits up to 1 s for every other member's message. -/
def execGroupJoin (mb : Fin 32) (s : State) : Host.Outcome State Fault Refusal :=
  .next (molianFixed mb 0x0D01 .ownerPort 12 [(0x10, 64), (0x18, 8), (0x1A, 16)] (fun r s =>
    let m := r.fld 0x18 8
    let ms := BitVec.ofNat 16 (r.fld 0x1A 16)
    if 16 ≤ m ∨ ms.getLsbD m = false then .fail Status.fieldRange
    else if s.group.inGroup then .fail Status.contextState
    else
      let s := { s with group := { s.group with member := m, token := BitVec.ofNat 64 (r.fld 0x10 64), members := ms } }
      if memberList ms = [m] then .done 0 0 0 [] s.joined
      else
        let s := s.tellMembers ms (.joinMsg (BitVec.ofNat 64 (r.fld 0x10 64)) ms m)
        .wait (s.time.now + 1000000000) [] { s with group := { s.group with joinMb := some mb } }) s).judgeJoin

/-- `GROUP_JOIN_MESSAGE` (R351): another member's join message. -/
def execGroupJoinMessage (msg : JoinMsg) (s : State) : Host.Outcome State Fault Refusal :=
  .next (if s.group.inGroup then s
    else ({ s with group := { s.group with msgs := (s.group.msgs.filter fun m => m.member != msg.member) ++ [msg] } } : State).judgeJoin)

/-- `GROUP_LEAVE` (R352). -/
def execGroupLeave (mb : Fin 32) (s : State) : Host.Outcome State Fault Refusal :=
  .next (molianFixed mb 0x0D02 .ownerPort 0 [] (fun _ s =>
    if s.group.inGroup then .done 0 0 0 [] s.leaveGroup else .fail Status.contextState) s).settle

/-- `MEMBER_UNREACHABLE` (R352, R358): a member unreachable for 100 ms breaks the group. -/
def execMemberUnreachable (m : Fin 16) (at_ : Nat) (s : State) : Host.Outcome State Fault Refusal :=
  let s := s.advance at_
  .next (if s.group.inGroup && s.group.members.getLsbD m.val && m.val != s.group.member then s.leaveGroup.settle else s)

/-- `GROUP_BREAK` (R352): another member's membership has ended; it ends here too. -/
def execGroupBreak (s : State) : Host.Outcome State Fault Refusal :=
  .next (if s.group.inGroup then s.endMembership.settle else s)

/-- `COLLECTIVE_CANCEL` (R196, R354): the matched record completes `ERR_CANCELLED`; one that issues later at that count will. -/
def execCollectiveCancel (q : Nat) (members : BitVec 16) (k : Nat) (s : State) : Host.Outcome State Fault Refusal :=
  .next (match s.recs.find? (fun r => r.op == 0x40 && r.q == q && r.fld 0x42 16 == members.toNat && r.collK == k) with
    | some r => (s.endRec r Status.cancelled).settle
    | none => { s with group := { s.group with cancels := (q, members.toNat, k) :: s.group.cancels } })

end Sys2Proof.Machine
end

