-- ==== Sys2Proof/Machine/Service.lean ====
section
/-! DEFINITION. Service actions: units out of and into service, secure erase, frond and context resets, firmware update, the
firmware watchdog (R273, R337 to R345, R393). -/

namespace Sys2Proof.Machine

open Sys2Proof

/-! ## Units out of service (R339, R340) -/

/-- R339: whether a unit is in service. -/
def State.inSvc (s : State) (u : Nat) : Bool :=
  let i := bits u 0 28
  match bits u 28 4 with
  | 2 => (unitChannels u).any fun c => (s.chan c).svc == .inService
  | 3 => (s.chan i).svc == .inService
  | 7 => (s.core i).svc == .inService
  | 9 => (s.hcore i).svc == .inService
  | 10 => (s.rport i).svc == .inService
  | 11 => (s.flink i).svc == .inService
  | 12 => (s.engine i).svc == .inService
  | _ => true

/-- R339: a unit begins to drain: nothing new is bound to it. A host core stops at an instruction boundary. -/
def State.drainUnit (s : State) (u : Nat) : State :=
  let i := bits u 0 28
  match bits u 28 4 with
  | 7 => s.setCore i { s.core i with svc := .draining }
  | 9 => s.setHCore i { s.hcore i with stopped := true }
  | 10 => s
  | _ => (unitChannels u).foldl (fun s c =>
      if (s.chan c).svc = .inService then s.setChan c { s.chan c with svc := .draining } else s) s

/-- R215: a pair's directed work stops at the boundary of its step; its token returns there, after the re-run of the step if one is due. -/
def State.stopPair (s : State) (su : Nat) : State :=
  let p := s.pair su
  let s := s.setPair su { p with todo := [], rerun := p.rerun.map fun x => { x with steps := x.steps.take 1 } }
  if p.rerun.isSome then s else s.returnToken su

/-- R215, R339: abort of a channel or stack cancels its bound entries at once. -/
def State.abortUnit (s : State) (u : Nat) : State :=
  (unitChannels u).foldl (fun s c =>
    if (s.chan c).svc = .draining then
      let s := s.abandonUnits (fun x => x / 32 == c) Status.cancelled (unitId 3 c)
      (s.pairs.filter fun e => e.1 / 32 == c).foldl (fun s e => s.stopPair e.1) s
    else s) (s.unitAbort u)

/-- `UNIT_DISABLE` (R339, R340). -/
def execUnitDisable (mb : Fin 32) (s : State) : Host.Outcome State Fault Refusal :=
  .next (molianFixed mb 0x0B01 .ownerPort 12 [(0x10, 32), (0x14, 8), (0x18, 32)] (fun r s =>
    let u := r.fld 0x10 32
    let t := timeoutApplied (r.fld 0x18 32)
    if !unitOk u || !([2, 3, 7, 9, 10].contains (bits u 28 4)) || decide (2 ≤ r.fld 0x14 8) then .fail Status.fieldRange
    else if !s.inSvc u then .fail Status.contextState
    else
      let s := s.drainUnit u
      .wait (s.time.now + timeoutNs t) (clampOf 0x18 32 (r.fld 0x18 32) t) (if r.fld 0x14 8 = 1 then s.abortUnit u else s)) s).settle

/-- R340: a drain ends before the unit is idle: what remains is treated as abort and the unit is out of service. A unit that is idle by
then has drained. -/
def disableEnd (mb : Fin 32) (status : Nat) (s : State) : State :=
  let s := s.settle
  let b := s.mbox mb
  if !(b.cur && b.begun) then s
  else
    let u := (s.req mb).fld 0x10 32
    let s := (s.abortUnit u).unitOut u Status.cancelled
    ((s.ev 0x0A status u 0).reply mb status 0 0 b.clamps).settle

/-- `UNIT_DISABLE_TIMEOUT` (R340). -/
def execUnitDisableTimeout (mb : Fin 32) (at_ : Nat) (s : State) : Host.Outcome State Fault Refusal :=
  let s := s.advance at_
  let b := s.mbox mb
  .next (if b.cur && b.begun && (s.req mb).opcode == 0x0B01 && decide (b.deadline ≤ s.time.now) then disableEnd mb Status.timeout s else s)

/-! ## Readmission (R341, R342, R393) -/

/-- R341 step 2: the flip mask is disarmed, the sorus units are reset, the error state of the base die is cleared. -/
def State.resetChannel (s : State) (ch : Nat) : State :=
  let s := { s with pairs := s.pairs.filter (fun e => e.1 / 32 != ch)
                    mem := { s.mem with flips := Tbl.put none s.mem.flips ch none } }
  s.setChan ch { s.chan ch with parityAt := [] }

/-- R332, R341 step 3: the lanes of channels whose retrain a readmission reports. -/
def lanesOf (o : Readmission) (chs : List Nat) : List LaneFit := o.lanes.filter fun x => chs.contains (laneChannel x)

/-- R341: readmit channels: reset, retrain at the present root step, scrub, service; `startAt`: when the request began. -/
def readmitChannels (startAt : Nat) (chs : List Nat) (u : Nat) (o : Readmission) (s : State) : Ans :=
  let s := chs.foldl (fun s c => s.resetChannel c) s
  if !o.passes || (lanesOf o chs).any eyeNarrow then .done Status.outOfService 0 0 [] (s.ev 0x0A Status.outOfService u 3)
  else
    let s := chs.foldl (fun s c => s.setChan c { s.chan c with svc := .inService }) (s.storeLanes (lanesOf o chs))
    let x := scrubChannels chs s
    .done 0 0x238 (x.2.body (s.elapsedUs startAt)) [] (x.1.ev 0x0A 0 u 2)

/-- R342, R393: a readmitted core or engine claims no ticket of a record already in flight. -/
def State.barClaimant (s : State) (i : Nat) : State :=
  { s with recs := s.recs.map fun r =>
      { r with tickets := { r.tickets with
          claimants := Tbl.put {} r.tickets.claimants i { r.claimant i with barred := true } } } }

/-- R342, R393: readmit one unit that is no channel or stack. -/
def readmitOther (u : Nat) (s : State) : State :=
  let i := bits u 0 28
  match bits u 28 4 with
  | 7 => (s.setCore i { svc := .inService }).barClaimant i
  | 9 =>
    let h := s.hcore i
    s.setHCore i { h with svc := .inService, run := false, stopped := true, lastCtx := none, regs := {}, il1 := [] }
  | 10 => s.setRPort i { svc := .inService }
  | 11 => (s.setFLink i {}).reroute s.linkMask
  | _ => (s.setEngine i {}).barClaimant (64 + i)

/-- R306, R341, R342: the free quanta that a readmission needs: a stack's floor, level 4 for a core's BIST. -/
def State.readmitNeeds (s : State) (u : Nat) : Nat :=
  let i := bits u 0 28
  match bits u 28 4 with
  | 2 => if s.stackUp i then 0 else 63
  | 3 => if s.stackUp (i / 32) then 0 else 63
  | 7 => 120
  | _ => 0

/-- The checks of `UNIT_READMIT` on the unit that it names (R16, R349, R393). -/
def State.readmitFault (s : State) (u : Nat) : Option Nat :=
  let k := bits u 28 4
  if !unitOk u || !([2, 3, 7, 9, 10, 11, 12].contains k) then some Status.fieldRange
  else if s.inSvc u && !(k == 10 && (s.rport (bits u 0 28)).mismatch) then some Status.contextState
  else none

/-- The steps of `UNIT_READMIT`. -/
def readmitRun (o : Readmission) (r : Req) (s : State) : Ans :=
  let u := r.fld 0x10 32
  let k := bits u 28 4
  match s.readmitFault u with
  | some st => .fail st
  | none =>
  if k = 2 ∨ k = 3 then readmitChannels (s.mbox r.mb).startAt (unitChannels u) u o s
  else if o.passes ∨ k = 9 then .done 0 0 0 [] ((readmitOther u s).ev 0x0A 0 u 2)
  else .done Status.outOfService 0 0 [] (s.ev 0x0A Status.outOfService u 3)

/-- R299, R303, R306: whether the arbiter can grant what a readmission needs: its request is served in its turn, a core may borrow from
reserved quanta, a floor may not. -/
def State.readmitCovered (s : State) (u : Nat) : Bool :=
  s.readmitNeeds u == 0
    || (s.granting && s.newTurn && decide (s.readmitNeeds u ≤ (if bits u 28 4 = 7 then s.freeQ else s.freeQ - s.reservedQ)))

/-- R306: whether a request that passes its checks waits until the arbiter can grant what the readmission needs. -/
def State.readmitWaits (s : State) (r : Req) : Bool :=
  r.shapeOk 4 [fieldAt 0x10 32] && s.allowed .ownerPort r.by_ && (s.readmitFault (r.fld 0x10 32)).isNone
    && !s.readmitCovered (r.fld 0x10 32)

/-- `UNIT_READMIT` (R306, R341, R342, R393). -/
def execUnitReadmit (mb : Fin 32) (outcome : Readmission) (s : State) : Host.Outcome State Fault Refusal :=
  .next (if s.readmitWaits (s.req mb) then s
    else molianFixed mb 0x0B02 .ownerPort 4 [(0x10, 32)] (readmitRun outcome) s)

/-! ## Secure erase (R343) -/

/-- R343 step 3: what the waves leave: every column of a channel in service is zero, units, cores, frond stores and flip masks are
reset. -/
def State.erase (s : State) : State :=
  let s := s.initMemory
  { s with
    mem := { s.mem with flips := [] }
    pairs := s.pairs.map fun e => (e.1, e.2.reset)
    cores := s.cores.map fun e => (e.1, { svc := e.2.svc : Core })
    fronds := s.fronds.map fun e => (e.1, { e.2 with sums := [], maxima := [], preImages := [], tails := [] }) }

/-- R343 step 1: no lien, no level. -/
def State.dropLevels (s : State) : State :=
  (List.range 64).foldl (fun s c => s.lower (.core (Fin.ofNat 64 c)) (s.core c).level) s.dropLiens

/-- The channels out of service. -/
def State.outChannels (s : State) : List Nat := (s.chans.filter fun e => e.2.svc != .inService).map (·.1)

/-- R343: the steps of `SECURE_ERASE`; `bad`: the physical columns that fail the sampled verify twice. -/
def eraseRun (bad : List Nat) (r : Req) (s : State) : Ans :=
  if r.fld 0x10 32 ≠ 0x45524153 then .fail Status.fieldRange
  else if s.queueOrCore then .fail Status.contextState
  else
    let s := s.dropLevels
    if !s.granting ∨ Nat.min s.bandFigure s.freeQ < 4096 then .done Status.powerDenied 0 0 [] s
    else
      let s := s.erase
      let skipped := s.outChannels
      let s := skipped.foldl (fun s c => s.ev 0x0A Status.outOfService (unitId 3 c) 4) s
      let s := bad.foldl (fun s c => s.ev 0x0A Status.internal (unitId 5 (colBank c)) 4 (s.lay.dpaOf c)) s
      .done (if bad ≠ [] then Status.internal else if skipped ≠ [] then Status.outOfService else 0) 0 0 [] s

/-- `SECURE_ERASE` (R343). -/
def execSecureErase (mb : Fin 32) (badColumns : List Nat) (s : State) : Host.Outcome State Fault Refusal :=
  .next (molianFixed mb 0x0B03 .ownerPort 4 [(0x10, 32)] (eraseRun badColumns) s)

/-! ## Frond and context resets (R335, R337, R338) -/

/-- R153, R337: the sums of a frond's reduction path are lost: the output rows that await the epilogue there are not written. -/
def State.lostSums (s : State) (f : Nat) : State :=
  { s with recs := s.recs.map fun r =>
      let lost := if r.op = 0x10 ∧ r.engine = 1 then
          (r.rowsLeft s.lay).filter fun n => decide (n < r.sweptTo) && r.sumFrond s.lay n == f
        else []
      if lost = [] then r else { r.failWith Status.cancelled (unitId 1 f) with lostRows := r.lostRows ++ lost } }

/-- R172, R337: whether a record has a pre-image or staged data in a frond's shared memory. -/
def State.inShared (s : State) (f : Nat) (r : Rec) : Bool :=
  ((s.frond f).preImages.any fun e => e.q == r.q && e.seq == r.seq)
    || (r.staged && r.workDone && !r.outs.isEmpty && (r.fronds s.lay).headD 0 == f)

/-- R115, R337: one core of a frond that is reset, and the engine beside it: their tickets are reissued, a core that fails its BIST is
fenced. -/
def resetTileUnit (ok : List (Fin 64)) (s : State) (c : Nat) : State :=
  let s := (s.reissueAll (.core (Fin.ofNat 64 c)) false).reissueAll (.engine (Fin.ofNat 64 c)) false
  let x := s.core c
  let s := s.setCore c { svc := x.svc, level := x.level, lentLevel := x.lentLevel, lastOp := x.lastOp }
  if x.svc = .inService ∧ Fin.ofNat 64 c ∉ ok then s.fenceCore c Status.outOfService else s

/-- R337: reset a frond; `ok`: its cores that pass BIST. -/
def State.frondReset (s : State) (f : Nat) (ok : List (Fin 64)) : State :=
  let lost := s.recs.filter (s.inShared f)
  let s := (s.abandonUnits (fun u => u / 8192 == f) Status.cancelled (unitId 1 f)).lostSums f
  let s := (s.pairs.filter fun e => e.1 / 8192 == f).foldl (fun s e => s.returnToken e.1) s
  let s := { s with pairs := s.pairs.map fun (e : Nat × Pair) => if e.1 / 8192 = f then (e.1, e.2.reset) else e
                    mem := { s.mem with flips := s.mem.flips.filter (fun e => e.1 / 256 != f) } }
  let s := s.setFrond f { s.frond f with sums := [], maxima := [], preImages := [], tails := [] }
  let s := s.cancelAll lost true
  (((List.range 16).map (16 * f + ·)).foldl (resetTileUnit ok) s).settle

/-- `FROND_RESET` (R335, R337): by the owner's port with `KEY` 0xA5, or by firmware. -/
def execFrondReset (by_ : ResetBy) (f : Fin 4) (key : Byte) (bistOk : List (Fin 64)) (s : State) :
    Host.Outcome State Fault Refusal :=
  .next (match by_ with
    | .firmware => s.frondReset f bistOk
    | .port p => s.orderedReset p (resetWord 2 f 0 key) key fun s => s.frondReset f bistOk)

/-- R338: one queue of a context reset: its rings are emptied, kind 0x11 records how they stood. -/
def resetQueue (s : State) (q : Nat) : State :=
  let qu := s.queue q
  let s := s.ev 0x11 0 0 (q + qu.ctx * 2 ^ 16) qu.head.toNat qu.tail.toNat qu.cqHead.toNat qu.cqTail.toNat
  s.setQueue q { qu with head := qu.tail, cqTail := qu.tail, cqHead := qu.tail, drainTo := none, cancelTo := none
                         waitFrom := none, waited := 0 }

/-- R229, R236, R338: reset a context: its flag blocks stay bound, so that a mirror shows their clear; the deadlock windows begin afresh. -/
def State.contextReset (s : State) (c : Nat) : State :=
  let x := s.ctx c
  let s := s.cancelAll (s.ctxRecs c) false
  let s := (s.ctxQueues c).foldl resetQueue s
  let s := (x.slots.filter (·.2.mapped)).foldl (fun s e => s.putBlock e.2.block 0) s
  let s := s.clearBars x.barBase x.barCount
  let s := s.coresOf c fun s n =>
    let s := s.resetHCore n
    s.setHCore n { s.hcore n with run := false, stopped := true }
  ((s.setCtx c { s.ctx c with st := .suspended, suspending := false }).touch c).settle

/-- `CONTEXT_RESET` (R335, R338): a free or orphaned context refuses the write. -/
def execContextReset (p : Fin 4) (ctx : Nat) (key : Byte) (s : State) : Host.Outcome State Fault Refusal :=
  let w := resetWord 3 0 ctx key
  .next (s.orderedReset p w key fun s => match (s.ctx ctx).st with
    | .free => s.refuseReset p w 2
    | .orphaned => s.refuseReset p w 2
    | _ => s.contextReset ctx)

/-! ## Firmware update (R344) -/

/-- `FW_STAGE` (R344): a chunk of image is written into the slot that does not run. -/
def execFwStage (mb : Fin 32) (s : State) : Host.Outcome State Fault Refusal :=
  .next (molian mb 0x0F01 .ownerPort (fun r => 16 + r.fld 0x14 16)
    (fun r => [fieldAt 0x10 32, fieldAt 0x14 16, fieldAt 0x20 (8 * r.fld 0x14 16)]) (fun r s =>
      let off := r.fld 0x10 32
      let n := r.fld 0x14 16
      if off % 64 ≠ 0 ∨ n % 64 ≠ 0 ∨ n < 64 ∨ 3968 < n ∨ 380 * 2 ^ 20 + 4096 < off + n then .fail Status.fieldRange
      else
        let i := 1 - s.fw.running
        let x := s.fw.slot i
        let fw := s.fw.setSlot i { x with valid := false, staged := (off, bytesOf n (r.fld 0x20 (8 * n))) :: x.staged }
        .done 0 0 0 [] { s with fw }) s)

/-- `FW_ACTIVATE` (R344): verify a slot as R331 gives and name it active; a slot that is not the running one boots on trial
(R345). `header`: what its header says when its signature and digest verify. -/
def execFwActivate (mb : Fin 32) (header : Option FwHeader) (s : State) : Host.Outcome State Fault Refusal :=
  .next (molianFixed mb 0x0F02 .ownerPort 1 [(0x10, 8)] (fun r s =>
    let i := r.fld 0x10 8
    if 2 ≤ i then .fail Status.fieldRange
    else
      let v := ({ s.fw.slot i with rejected := false } : Slot).verify header s.fw.minSecurity
      if !v.2 then .done Status.unsupported 0 0 [] s
      else
        let x := { v.1 with trial := v.1.trial || i != s.fw.running }
        let s := { s with fw := { s.fw.setSlot i x with active := i } }
        .done 0 0 0 [] (s.ev 0x10 0 0 (i + 2 ^ 8))) s)

/-! ## The firmware watchdog (R273) -/

/-- R273, R296, R351: what a request that executes and waits gives up at its limit. -/
def undoWaiting (mb : Fin 32) (op : Nat) (s : State) : State :=
  match op with
  | 0x0801 => { s with power := { s.power with lowerTo := none } }
  | 0x0D01 => s.joinFailed
  | 0x0201 => { s with own := { s.own with claims := s.own.claims.filter fun c => c.mb != mb.val } }
  | 0x0205 => { s with own := { s.own with claims := s.own.claims.filter fun c => c.mb != mb.val } }
  | _ => s

/-- R295: a `SCRUB` that reaches its maximum time: the summary of the columns done. -/
def scrubTimeout (mb : Fin 32) (columnsDone : Nat) (s : State) : State :=
  let r := s.req mb
  let base := r.fld 0x10 64
  let n := Nat.min columnsDone (scrubLen r / 32)
  let x := scrubAnswer (s.mbox mb).startAt base n s
  x.1.reply mb Status.timeout 0x238 x.2 (clampOf 0x18 64 (r.fld 0x18 64) (scrubLen r))

/-- R273, R284: a request that executes and waits ends with a status and its stated effect at time-out. -/
def endWaiting (mb : Fin 32) (status : Nat) (s : State) : State :=
  let op := (s.req mb).opcode
  if op = 0x0B01 then disableEnd mb status s
  else if op = 0x0403 then suspendEnd mb status s
  else if op = 0x0503 then drainEnd mb status s
  else (undoWaiting mb op s).reply mb status 0 0 (s.mbox mb).clamps

/-- R273, R274, R295: the firmware watchdog ends the request of a mailbox with `ERR_TIMEOUT` and its stated effect. -/
def watchdog (mb : Fin 32) (columnsDone : Nat) (s : State) : State :=
  let r := s.req mb
  if (s.mbox mb).begun then endWaiting mb Status.timeout s
  else if r.opcode = 0x0A01 ∧ r.shapeOk 16 [fieldAt 0x10 64, fieldAt 0x18 64] ∧ s.allowed .owner r.by_ ∧ r.fld 0x10 64 % 32 = 0
      ∧ r.fld 0x10 64 < 2 ^ 41 ∧ r.fld 0x18 64 % 32 = 0 then scrubTimeout mb columnsDone s
  else s.reply mb Status.timeout 0 0 []

/-- R284: the management processor reads a column that is uncorrectable or poisoned: the request in progress completes
`ERR_UNCORRECTABLE`. DEDUCED (log entry 145): that of the lowest mailbox whose request executes, with its effect at time-out. -/
def State.machineCheck (s : State) : State :=
  match s.mboxes.find? fun e => e.2.cur && e.2.begun && !isClaim (s.req (Fin.ofNat 32 e.1)).opcode with
  | some e => endWaiting (Fin.ofNat 32 e.1) Status.uncorrectable s
  | none => s

/-- `MAILBOX_WATCHDOG_TIMEOUT` (R273): at the maximum time of a request that waits for no other; `columnsDone`: what a `SCRUB` has done by then. -/
def execMailboxWatchdogTimeout (mb : Fin 32) (at_ columnsDone : Nat) (s : State) : Host.Outcome State Fault Refusal :=
  let s := s.advance at_
  let b := s.mbox mb
  let open_ := s.own.st == .window
  let runs := b.begun || !s.excluded (s.req mb)
  .next (if b.cur && runs && decide (b.startAt + maxTime (s.req mb) b.slow open_ ≤ s.time.now) then watchdog mb columnsDone s else s)

end Sys2Proof.Machine
end

