-- ==== Sys2Proof/Machine/SorusWord.lean ====
section
/-! DEFINITION. The 64-bit sorus command words (R79 to R84): their fields, their encoder and their decoder. -/

namespace Sys2Proof.Machine

open Sys2Proof

/-- R81: the commands, with the operands that their words carry. -/
inductive SWord where
  | scfg (loadCfg loadScale loadPat : Bool) (config : BitVec 32)
  | sld (masked first : Bool) (vec : BitVec 3) (umask : BitVec 16) (colOff ncol : BitVec 8)
  | slut
  | smac (nrows : BitVec 4) (w : BitVec 16) (abase : BitVec 8)
  | sfet (status : Bool) (nent : BitVec 4)
  | scpy (d x : BitVec 16)
  | sini (d : BitVec 16)
  | slog (fn : LogFn) (d x y : BitVec 16)
  | selt (op : EltOp) (d x y : BitVec 16)
  | snrm (x : BitVec 16) (cFirst cLast : BitVec 5)
  | sbrd (pcsel : BitVec 2) (umask : BitVec 16) (reps : BitVec 16)
deriving DecidableEq, Repr

/-- R81: the code of a logic function. -/
def logCode (fn : LogFn) : Nat :=
  match fn with
  | .and => 0
  | .or => 1
  | .xor => 2
  | .andn => 3
  | .not => 4

/-- R81: the code of an element-wise operation. -/
def eltCode (op : EltOp) : Nat :=
  match op with
  | .add => 0
  | .sub => 1
  | .mul => 2
  | .sadd => 3
  | .min => 4
  | .max => 5
  | .clamp => 6
  | .lut => 7

/-- R81 `SOP`. -/
def SWord.sop : SWord → Nat
  | .scfg .. => 0x0
  | .sld .. => 0x1
  | .slut => 0x2
  | .smac .. => 0x3
  | .sfet .. => 0x4
  | .scpy .. => 0x5
  | .sini .. => 0x6
  | .slog .. => 0x7
  | .selt .. => 0x8
  | .snrm .. => 0x9
  | .sbrd .. => 0xF

/-- A Boolean as a bit. -/
def bitOf (b : Bool) : BitVec 1 := BitVec.ofBool b

/-- R81 `VAR`: bits [53:48]. -/
def SWord.var : SWord → BitVec 6
  | .scfg a b c _ => 0#3 ++ bitOf c ++ bitOf b ++ bitOf a
  | .sld m f v _ _ _ => 0#1 ++ v ++ bitOf f ++ bitOf m
  | .slut => 0#6
  | .smac n _ _ => 0#2 ++ n
  | .sfet s n => 0#1 ++ n ++ bitOf s
  | .scpy _ _ => 0#6
  | .sini _ => 0#6
  | .slog fn _ _ _ => BitVec.ofNat 6 (logCode fn)
  | .selt op _ _ _ => BitVec.ofNat 6 (eltCode op)
  | .snrm _ _ _ => 0#6
  | .sbrd p _ _ => 0#4 ++ p

/-- R81: the operands, bits [47:0]. -/
def SWord.operands : SWord → BitVec 48
  | .scfg _ _ _ c => 0#16 ++ c
  | .sld _ _ _ u o n => u ++ o ++ n ++ 0#16
  | .slut => 0#48
  | .smac _ w a => w ++ a ++ 0#24
  | .sfet _ _ => 0#48
  | .scpy d x => d ++ x ++ 0#16
  | .sini d => d ++ 0#32
  | .slog _ d x y => d ++ x ++ y
  | .selt _ d x y => d ++ x ++ y
  | .snrm x f l => 0#16 ++ x ++ 0#6 ++ f ++ l
  | .sbrd _ u r => u ++ r ++ 0#16

/-- R79: the word of a command for unit `unit` of pseudo-channel `pc`. -/
def SWord.word (c : SWord) (pc : BitVec 1) (unit : BitVec 4) : BitVec 64 :=
  1#1 ++ BitVec.ofNat 4 c.sop ++ pc ++ unit ++ c.var ++ c.operands

/-- R79, R81, R83: whether a command's word keeps the rules of the table: `UNIT` 0 for a masked load, a mask that is not zero, Y zero
where the operation reads none, `PCSEL` not reserved. -/
def SWord.ok (c : SWord) (unit : BitVec 4) : Bool :=
  match c with
  | .sld m _ _ u _ _ => !m || (u != 0 && unit == 0)
  | .slog fn _ _ y => fn != .not || y == 0
  | .selt op _ _ y => !eltUnary op || y == 0
  | .sbrd p _ _ => p != 0
  | _ => true

/-- R81: the command that `SOP`, `VAR` and the operands of a word spell, reserved values refused. -/
def SWord.parse (sop : Nat) (v : BitVec 6) (o : BitVec 48) : Option SWord :=
  match sop with
  | 0x0 => some (.scfg (v.getLsbD 0) (v.getLsbD 1) (v.getLsbD 2) (o.extractLsb' 0 32))
  | 0x1 => some (.sld (v.getLsbD 0) (v.getLsbD 1) (v.extractLsb' 2 3) (o.extractLsb' 32 16) (o.extractLsb' 24 8) (o.extractLsb' 16 8))
  | 0x2 => some .slut
  | 0x3 => some (.smac (v.extractLsb' 0 4) (o.extractLsb' 32 16) (o.extractLsb' 24 8))
  | 0x4 => some (.sfet (v.getLsbD 0) (v.extractLsb' 1 4))
  | 0x5 => some (.scpy (o.extractLsb' 32 16) (o.extractLsb' 16 16))
  | 0x6 => some (.sini (o.extractLsb' 32 16))
  | 0x7 => if (v.extractLsb' 0 3).toNat ≤ 4 then
      some (.slog (logFnOf (v.extractLsb' 0 3).toNat) (o.extractLsb' 32 16) (o.extractLsb' 16 16) (o.extractLsb' 0 16)) else none
  | 0x8 => some (.selt (eltOpOf (v.extractLsb' 0 3).toNat) (o.extractLsb' 32 16) (o.extractLsb' 16 16) (o.extractLsb' 0 16))
  | 0x9 => some (.snrm (o.extractLsb' 16 16) (o.extractLsb' 5 5) (o.extractLsb' 0 5))
  | 0xF => some (.sbrd (v.extractLsb' 0 2) (o.extractLsb' 32 16) (o.extractLsb' 16 16))
  | _ => none

/-- R79 to R84: the command, pseudo-channel and unit of a word; `none` for an ordinary column command, a reserved value, a
reserved bit that is set, or a rule of R83 that is broken. -/
def SWord.decode (w : BitVec 64) : Option (SWord × BitVec 1 × BitVec 4) :=
  if w.getLsbD 63 then
    let unit := w.extractLsb' 54 4
    match SWord.parse (w.extractLsb' 59 4).toNat (w.extractLsb' 48 6) (w.extractLsb' 0 48) with
    | some c => if c.var = w.extractLsb' 48 6 ∧ c.operands = w.extractLsb' 0 48 ∧ c.ok unit then some (c, w.extractLsb' 58 1, unit) else none
    | none => none
  else none

/-- A burst that no payload carries. -/
def noBurst : Burst := { data := 0, check := 0 }

/-- R77, R81: the command of the table that a word, decoded for unit `unit` of pseudo-channel `pc` of channel `ch`, asks for with its
payload, for a context. An `SBRD` needs the word that follows it (`SWord.broadcast`). -/
def SWord.instr (c : SWord) (ch : Nat) (pc : BitVec 1) (unit : BitVec 4) (ctx : Nat) (mid : Bool) (p : List Burst) : Option Instr :=
  let gpc := 2 * ch + pc.toNat
  let su := 16 * gpc + unit.toNat
  match c with
  | .scfg a b d config =>
    let pat := if b then p.drop 1 else p
    some (.scfg su ctx mid { loadCfg := a, loadScale := b, loadPat := d, config, scale := p.headD noBurst
                             pat0 := pat.headD noBurst, pat1 := pat.getD 1 noBurst })
  | .sld masked first vec umask colOff ncol =>
    some (.sld gpc ctx mid (if masked then umask else BitVec.ofNat 16 (2 ^ unit.toNat))
      { first, vec := vec.toFin, colOff := colOff.toNat, payload := p.take (ncol.toNat + 1) })
  | .slut => some (.slut su ctx mid p)
  | .smac n w a => some (.smac su ctx (n.toNat + 1) w a.toNat)
  | .sfet st n => some (.sfet su ctx st (n.toNat + 1))
  | .scpy d x => some (.scpy su ctx d x)
  | .sini d => some (.sini su ctx d)
  | .slog fn d x y => some (.slog su ctx fn d x y)
  | .selt op d x y => some (.selt su ctx op d x y)
  | .snrm x f l => some (.snrm su ctx x f.toNat l.toNat)
  | .sbrd _ _ _ => none

/-- R84: the follower that a command is; none for a command that does not follow `SBRD`. -/
def SWord.follower (c : SWord) (p : List Burst) : Option Follower :=
  match c with
  | .scfg a b d config =>
    let pat := if b then p.drop 1 else p
    some (.cfg { loadCfg := a, loadScale := b, loadPat := d, config, scale := p.headD noBurst
                 pat0 := pat.headD noBurst, pat1 := pat.getD 1 noBurst })
  | .scpy d x => some (.copy d x)
  | .sini d => some (.init d)
  | .slog fn d x y => some (.log fn d x y)
  | _ => none

/-- R79, R81, R84: the broadcast that an `SBRD` word and the word that follows it, whose `UNIT` is 0, spell in channel `ch`. -/
def SWord.broadcast (prefix_ word : BitVec 64) (ch ctx : Nat) (p : List Burst) : Option Instr :=
  match SWord.decode prefix_, SWord.decode word with
  | some (.sbrd pcsel umask reps, _), some (c, _, unit) =>
    if unit = 0 then (c.follower p).map fun f => .sbrd ch ctx pcsel umask (reps.toNat + 1) f else none
  | _, _ => none

end Sys2Proof.Machine
end

