-- ==== Sys2Proof/Machine/HostPort.lean ====
section
/-! DEFINITION. The host ports: CXL.mem, decoders, links, resets, fences, host transfers' answers, bus mastering (R179, R180, R229, R240
to R248, R255 to R258, R370, R394). -/

namespace Sys2Proof.Machine

open Sys2Proof

/-! ## Decoders (R242) -/

/-- R242: the volatile range that every port's memory-device registers report, from DPA 0 on, in bytes. -/
def volatileRange : Nat := 2048 * 2 ^ 30

/-- A decoder of a port. -/
def Port.dec (p : Port) (i : Nat) : Hdm := Tbl.get {} p.hdm i

/-- R242: the first DPA after what the decoders before `i` map. -/
def Port.dpaBefore (p : Port) (i : Nat) : Nat := if i = 0 then 0 else (p.dec (i - 1)).dpaStart + (p.dec (i - 1)).size

/-- R242: the condition of the event-log entry with which a commit fails: 0 interleave ways, 1 a multiple of 256 MiB, 2 the order,
3 another commit error, or DPAs beyond the device's. -/
def Port.commitError (p : Port) (c : HdmCommit) : Option Nat :=
  let mib := 2 ^ 28
  if c.ways ≠ 1 then some 0
  else if c.base % mib ≠ 0 ∨ c.size % mib ≠ 0 ∨ c.skip % mib ≠ 0 then some 1
  else if (c.dec.val ≠ 0 ∧ !(p.dec (c.dec.val - 1)).on) ∨ ([0, 1, 2, 3].any fun i => decide (c.dec.val < i) && (p.dec i).on) then some 2
  else if c.other ∨ volatileRange < p.dpaBefore c.dec.val + c.skip + c.size then some 3
  else none

/-- `HDM_DECODER_COMMIT` (R242): the decoder commits, or the commit fails and kind 0x15 is logged; or the host clears its commit. -/
def execHdmDecoderCommit (p : Fin 4) (c : HdmCommit) (s : State) : Host.Outcome State Fault Refusal :=
  let pt := s.port p
  .next (if !c.on then s.setPort p { pt with hdm := Tbl.put {} pt.hdm c.dec.val {} }
    else match pt.commitError c with
    | some e => (s.ev 0x15 0 (unitId 8 p.val) (c.dec.val + e * 2 ^ 8)).emit (.hdmCommit p c.dec false)
    | none =>
      let d : Hdm := { base := c.base, size := c.size, skip := c.skip, dpaStart := pt.dpaBefore c.dec.val + c.skip, on := true }
      (s.setPort p { pt with hdm := Tbl.put {} pt.hdm c.dec.val d }).emit (.hdmCommit p c.dec true))

/-- R242, R394: the DPA of the line that a host address names, through the port's committed decoders. -/
def Port.dpaOf (p : Port) (hpa : Nat) : Option Nat :=
  let a := hpa / 64 * 64
  [0, 1, 2, 3].findSome? fun i =>
    let d := p.dec i
    if d.on ∧ d.base ≤ a ∧ a < d.base + d.size then some (a - d.base + d.dpaStart) else none

/-! ## CXL.mem (R243 to R246, R336, R370, R394) -/

/-- The two columns of the line at a DPA. -/
def State.lineCols (s : State) (dpa : Nat) : List Nat := [s.lay.colOf dpa, s.lay.colOf (dpa + 32)]

/-- The line at a DPA as it is read, and whether it is delivered with poison. -/
def State.readLine (s : State) (dpa : Nat) : BitVec 512 × Bool := s.readPair (s.lay.colOf dpa) (s.lay.colOf (dpa + 32))

/-- Whether an access of the rachis to the line at a DPA is served at once (R22, R23, R91 to R100). -/
def State.clearLine (s : State) (dpa : Nat) : Bool := (s.lineCols dpa).all (s.clearCol rachis)

/-- R336, R370: whether CXL.mem on a port reaches device memory: the module is ready and the port not fenced. -/
def State.memOpen (s : State) (p : Fin 4) : Bool := s.phase == .ready && !(s.port p).fence

/-- R246: the earlier writes of a port that are on their way reach their queues, with what their source sent besides, in its order.
DESIGN CHOICE (log entry 110): the command that needs it stands for the time that they take. -/
def State.writesIn (s : State) (p : Fin 4) : State :=
  if s.underway.any fun h => OrdAccess.writeOf p h.2 then s.deliver fun h => h.1 == rachis else s

/-- R246, R370, R394: a read that reaches no DPA: after the port's earlier writes, poison, with data that the spec does not give. -/
def State.poisonRead (s : State) (p : Fin 4) : State :=
  let s := s.writesIn p
  s.fresh.toHost p (.cxlData p (BitVec.ofNat 512 (Config.freeWord s.free).toNat) true)

/-- `MEMRD` (R244, R246, R394): the read goes to its channel controller's queue, behind the writes of the port, and is answered when it is
served. -/
def execMemrd (p : Fin 4) (hpa : Nat) (s : State) : Host.Outcome State Fault Refusal :=
  .next (if !(s.port p).linkUp then s
    else if !s.memOpen p then s.poisonRead p
    else match (s.port p).dpaOf hpa with
      | none => s.poisonRead p
      | some dpa => s.send rachis (.lineRead p (s.lay.colOf dpa) (s.lay.colOf (dpa + 32))))

/-- R243, R329, R336, R370, R394: a CXL.mem write on a port: to the queue of the line that it maps, when the port owns the module, else
discarded. Every write completes. -/
def cxlWrite (p : Fin 4) (hpa : Nat) (line : BitVec 512) (be : Word64) (poison : Bool) (s : State) : State :=
  if !(s.port p).linkUp then s
  else match (s.port p).dpaOf hpa with
    | none => (s.discard p hpa (bits line.toNat 0 64)).toHost p (.cxlDone p)
    | some dpa =>
      if s.phase ≠ .ready ∨ !s.isOwner p then (s.discard p dpa (bits line.toNat 0 64)).toHost p (.cxlDone p)
      else if (s.port p).fence then s.toHost p (.cxlDone p)
      else s.send rachis (.lineWrite p (s.lay.colOf dpa) (s.lay.colOf (dpa + 32)) line be poison)

/-- `MEMWR` (R243, R244): a full line, with its poison. -/
def execMemwr (p : Fin 4) (hpa : Nat) (line : BitVec 512) (poison : Bool) (s : State) : Host.Outcome State Fault Refusal :=
  .next (cxlWrite p hpa line (BitVec.allOnes 64) poison s)

/-- `MEMWRPTL` (R243, R244): the bytes that the byte enables name. -/
def execMemwrptl (p : Fin 4) (hpa : Nat) (line : BitVec 512) (be : Word64) (poison : Bool) (s : State) :
    Host.Outcome State Fault Refusal :=
  .next (cxlWrite p hpa line be poison s)

/-- `MEMINV` (R243, R244): a full line. -/
def execMeminv (p : Fin 4) (hpa : Nat) (line : BitVec 512) (s : State) : Host.Outcome State Fault Refusal :=
  .next (cxlWrite p hpa line (BitVec.allOnes 64) false s)

/-! ## Command parity (R286, R287) -/

/-- R286: a poisoned full-column write over columns; the data under the poison is not given by the spec. -/
def State.poisonCols (s : State) (req : Requester) (cols : List Nat) : State :=
  cols.foldl (fun s c =>
    if s.colUp c then s.fresh.writeFull req c (BitVec.ofNat 256 (Config.freeWord s.free).toNat) true else s) s

/-- R286: the columns of a failed read are uncorrectable for the record that reads them. -/
def State.badFor (s : State) (q : Nat) (seq : Word32) (cols : List Nat) : State :=
  match s.findRec q seq with
  | some r => s.setRec { r with badCols := r.badCols ++ cols }
  | none => s

/-- R286: a failed sorus command: its record issues nothing further to the pseudo-channel; the unit is reset; its token returns. -/
def State.sorusFailed (s : State) (su q : Nat) (seq : Word32) : State :=
  let s := match s.findRec q seq with
    | some r =>
      if r.inBank && !r.swept && !r.workDone then
        let lost := (r.unitsOf s.lay).filter fun u => u / 16 == su / 16 && !(r.lostUnits.contains u)
        s.setRec ((r.failWith Status.uncorrectable (unitId 4 (su / 16))).loseUnits lost)
      else s
    | none => s
  let s := s.returnToken su
  s.setPair su (s.pair su).reset

/-- R284 to R286: the lines of columns that a failed read was to fill are filled with poison, with data that the spec does not give: what
consumes it faults. -/
def State.fillBad (s : State) (cols : List Nat) : State :=
  (dedup (cols.map fun c => s.lay.dpaOf c / 64)).foldl (fun s i =>
    match Tbl.get none s.lines i with
    | some _ => s
    | none =>
      let line : Line := { data := BitVec.ofNat 512 (Config.freeWord s.free).toNat, poison := true }
      { s.fresh.makeRoom [i] with lines := Tbl.put none (s.fresh.makeRoom [i]).lines i (some line) }) s

/-- R282, R286: who issued the command that failed. -/
def parityRequester : ParityCmd → Requester
  | .recRead _ _ _ => .frond
  | .hostRead _ _ => .host
  | .coreRead _ _ _ => .hostCore
  | .otherRead r _ => r
  | .headRead _ _ => .sequencer
  | .write r _ _ _ => r
  | .sorus _ _ _ => .sequencer
  | .refresh _ => .controller
  | .word _ _ _ _ => .sequencer

/-- R286: the columns that a failed command names. -/
def parityCols : ParityCmd → List Nat
  | .recRead _ _ cols => cols
  | .hostRead _ cols => cols
  | .coreRead _ _ cols => cols
  | .otherRead _ cols => cols
  | .headRead _ cols => cols
  | .write _ cols _ _ => cols
  | _ => []

/-- R282, R286: a failure's error-log entry: the DPA of its first column, where it has one. -/
def State.logParity (s : State) (gpc : Nat) (cmd : ParityCmd) : State :=
  let dpa := match parityCols cmd with
    | c :: _ => s.lay.dpaOf c
    | [] => 0
  s.err 4 dpa 0 (reqCode (parityRequester cmd)) (unitId 3 (gpc / 2))

/-- R286: the effect of a failed command by its kind, besides the entry with `KIND` 4. A read's columns are uncorrectable (R284); a write
is followed by a poisoning write, which may fail too (R287). -/
def State.parityEffect (s : State) (gpc : Nat) (cmd : ParityCmd) : State :=
  let bad (s : State) : State := (parityCols cmd).foldl (fun s c => s.logBad (parityRequester cmd) c false) s
  match cmd with
  | .recRead q seq cols => (bad s).badFor q seq cols
  | .hostRead p _ => (bad s).poisonRead p
  | .coreRead _ _ cols => (bad s).fillBad cols
  | .otherRead req _ => if req = .mgmt then (bad s).machineCheck else bad s
  | .headRead q cols => (bad s).headFails q cols
  | .write req cols cxl again =>
    let s := if again then (s.logParity gpc cmd).fenceChannel (gpc / 2) Status.uncorrectable else s.poisonCols req cols
    if cxl then match s.ownerPort with
      | some p => s.toHost p (.aer p)
      | none => s
    else s
  | .sorus su q seq => s.sorusFailed su q seq
  | .refresh _ => s
  | .word su q seq _ => s.sorusFailed su q seq

/-- R83: whether a unit received a word that it executes: one without a reserved value. -/
def wordOk : ParityCmd → Bool
  | .word _ _ _ w => (SWord.decode w).isSome
  | _ => false

/-- R287: the command errors that a failed command counts: two where its poisoning write failed too. -/
def parityCount : ParityCmd → Nat
  | .write _ _ _ true => 2
  | _ => 1

/-- R286, R287: a command error of a channel. -/
def State.commandError (s : State) (gpc : Nat) (cmd : ParityCmd) : State :=
  let ch := gpc / 2
  let s := (s.logParity gpc cmd).parityEffect gpc cmd
  let recent := List.replicate (parityCount cmd) s.time.now ++ (s.chan ch).parityAt.filter fun t => decide (s.time.now < t + 1000000000)
  let s := s.setChan ch { s.chan ch with parityAt := recent }
  (if 16 < recent.length ∧ (s.chan ch).svc ≠ .fenced then s.fenceChannel ch Status.uncorrectable else s).settle

/-- `COMMAND_PARITY_ERROR` (R83, R286, R287): a command error, or a word with a reserved value, which its unit does not execute: an
error-log entry with `KIND` 4, the effect by kind; more than 16 errors of a channel within 1 s fence it. -/
def execCommandParityError (gpc : Nat) (cmd : ParityCmd) (at_ : Nat) (s : State) : Host.Outcome State Fault Refusal :=
  let s := s.advance at_
  .next (if wordOk cmd then s else s.commandError gpc cmd)

/-! ## Links (R229, R241, R255, R256) -/

/-- R256, R370: the host transfers on a port whose tickets are not all committed halt. -/
def State.haltPort (s : State) (p : Fin 4) : State :=
  (s.recs.filter fun r => (r.op == 0x34 || r.op == 0x35) && r.variant == p.val && !r.halted
      && decide (r.tickets.done < r.tickets.total)).foldl
    (fun s r => s.haltXfer r Status.hostLinkLost) s

/-- R241: the lanes of a trained width as the code of `WIDTH`; 0 for a width that does not train. -/
def widthCode (lanes : Nat) : Nat := if lanes = 16 then 4 else if lanes = 8 then 3 else if lanes = 4 then 2 else 0

/-- Whether host links can be up: input power is present and the rachis runs. -/
def State.linksLive (s : State) : Bool :=
  match s.phase with
  | .off => false
  | .retention => false
  | .fullShut => false
  | _ => true

/-- R229, R256: a host link is lost: what has not been sent to the host is lost, the port's transfers halt, mirroring stops. -/
def State.linkLost (s : State) (p : Fin 4) : State :=
  if (s.port p).linkUp then
    let s := s.setPort p { s.port p with linkUp := false, retraining := false, heldOut := [], width := 0, rate64 := false }
    (s.haltPort p).mirrorStop p 0
  else s

/-- R241, R255: a link has trained, or trained again: what waited for it is sent. -/
def State.linkTrained (s : State) (p : Fin 4) (width : Nat) (rate64 : Bool) : State :=
  let held := (s.port p).heldOut
  let s := s.setPort p { s.port p with linkUp := true, retraining := false, heldOut := [], width := widthCode width, rate64 }
  let s := if width = 16 ∧ rate64 then s else s.ev 0x0B 0 (unitId 8 p.val) 0
  let s := (held.foldl State.emit s).hostReturn p
  (s.recs.filter fun r => r.op == 0x35 && r.variant == p.val).foldl (fun s r => s.askTickets r) s

/-- `HOST_LINK_UP` (R229, R241, R255): a port has trained; below x16 at 64 GT/s a warning is logged; transfers and mirroring resume. A
retrain that took 100 ms was a loss first. -/
def execHostLinkUp (p : Fin 4) (width : Nat) (rate64 : Bool) (s : State) : Host.Outcome State Fault Refusal :=
  .next (if widthCode width = 0 ∨ !s.linksLive then s
    else (if (s.port p).retraining ∧ (s.port p).retrainAt + 100000000 ≤ s.time.now then s.linkLost p else s).linkTrained p width rate64)

/-- `HOST_LINK_RETRAIN` (R255): nothing is lost; transfers stall and responses wait until the link has trained again. -/
def execHostLinkRetrain (p : Fin 4) (s : State) : Host.Outcome State Fault Refusal :=
  .next (if (s.port p).linkUp && !(s.port p).retraining then s.setPort p { s.port p with retraining := true, retrainAt := s.time.now } else s)

/-- `HOST_LINK_LOST` (R256). -/
def execHostLinkLost (p : Fin 4) (s : State) : Host.Outcome State Fault Refusal := .next (s.linkLost p)

/-- R258: a port reset leaves a mailbox idle; a request that firmware has accepted runs to its end, its response discarded. -/
def resetMailbox (s : State) (mb : Nat) : State :=
  let b := s.mbox mb
  s.setMbox mb { sram := b.sram, cur := b.cur, begun := b.begun, deadline := b.deadline, clamps := b.clamps
                 acceptAt := b.acceptAt, startAt := b.startAt, slow := b.slow, discard := b.cur, behind := b.behind.map fun e => (e.1, true, e.2.2) }

/-- `PORT_RESET` (R256, R258): the link goes down; configuration, decoders, MSI-X, mailboxes and the fence return to reset. -/
def execPortReset (p : Fin 4) (s : State) : Host.Outcome State Fault Refusal :=
  let s := s.linkLost p
  let s := s.setPort p { s.port p with
    busMaster := false, maxPayload := 128, maxRead := 512
    msixOn := false, msixMask := false, msixOpen := [], msixPend := [], msixMsg := [], hdm := [], bar0 := 0, bar2 := 0, fence := false }
  .next ([0, 1, 2, 3].foldl (fun s m => resetMailbox s (4 * p.val + m)) s)

/-- `PORT_FENCE_SET` (R229, R370). -/
def State.fencePort (s : State) (p : Fin 4) : State :=
  if (s.port p).fence then s
  else
    let s := s.setPort p { s.port p with fence := true }
    (s.haltPort p).mirrorStop p 2

/-- R229, R370: `PORT_FENCE` returns to 0. -/
def State.unfencePort (s : State) (p : Fin 4) : State :=
  if (s.port p).fence then (s.setPort p { s.port p with fence := false }).hostReturn p else s

/-- `PORT_FENCE_SET` (R370): the port, its link apart, is treated as if its link were lost. -/
def execPortFenceSet (p : Fin 4) (s : State) : Host.Outcome State Fault Refusal := .next (s.fencePort p)
/-- `PORT_FENCE_CLEAR` (R370): the return of the link for mirroring. -/
def execPortFenceClear (p : Fin 4) (s : State) : Host.Outcome State Fault Refusal := .next (s.unfencePort p)

/-- `BUS_MASTERING_CHANGE` (R179, R229): mirroring and messages stop or resume. -/
def execBusMasteringChange (p : Fin 4) (on : Bool) (s : State) : Host.Outcome State Fault Refusal :=
  let old := (s.port p).busMaster
  let s := s.setPort p { s.port p with busMaster := on }
  .next (if old && !on then s.mirrorStop p 1 else if on && !old then s.hostReturn p else s)

/-! ## Host transfers (R178 to R180) -/

/-- A host transfer, of one of some operations, that has begun and goes on; its link does not retrain (R255). -/
def onXfer (q : Nat) (seq : Word32) (ops : List Nat) (s : State) (act : Rec → State) : State :=
  match s.findRec q seq with
  | some r =>
    if ops.contains r.op ∧ r.workDone ∧ !r.halted ∧ r.tickets.done < r.tickets.total ∧ !(s.port r.variant).retraining then act r else s
  | none => s

/-- A record with a ticket's count of acknowledged bytes (R178) and the data that has come for it. -/
def Rec.gotBytes (r : Rec) (t acked : Nat) (got : List Byte) : Rec :=
  { r with tickets := { r.tickets with tab := Tbl.put {} r.tickets.tab t { r.ticket t with acked, got } } }

/-- Whether a ticket is being committed. -/
def Rec.inCommit (r : Rec) (t : Nat) : Bool :=
  match (r.ticket t).st with
  | .committing _ _ => true
  | _ => false

/-- Whether a claimant holds a ticket. -/
def Rec.inHand (r : Rec) (t : Nat) : Bool :=
  match (r.ticket t).st with
  | .claimed _ _ => true
  | _ => false

/-- `HOST_ACK_READ_COMPLETE` (R179): an acknowledging read of a ticket of a `HOST_WRITE` completes; the ticket's bytes before it count as
acknowledged. -/
def execHostAckReadComplete (q : Nat) (seq : Word32) (at_ : AckPoint) (s : State) : Host.Outcome State Fault Refusal :=
  .next (onXfer q seq [0x34] s fun r =>
    if r.inCommit at_.ticket ∧ (ackPoints (r.ticketBytes at_.ticket).length).contains at_.bytes ∧ (r.ticket at_.ticket).acked < at_.bytes then
      s.setRec (r.gotBytes at_.ticket at_.bytes [])
    else s)

/-- R180: data arrives for a ticket of a `HOST_READ`. -/
def Rec.dataIn (r : Rec) (t : Nat) (bs : List Byte) : Rec :=
  r.gotBytes t (r.ticket t).acked (((r.ticket t).got ++ bs).take (r.ticketBytes t).length)

/-- `HOST_READ_COMPLETION` (R178, R180): data for a ticket, or a halt with `ERR_OUT_OF_BOUNDS` (of a `HOST_WRITE` too, by its
acknowledging read). -/
def execHostReadCompletion (q : Nat) (seq : Word32) (res : HostReadRes) (s : State) : Host.Outcome State Fault Refusal :=
  .next (onXfer q seq [0x34, 0x35] s fun r =>
    match res with
    | .data ticket bs => if r.op = 0x35 ∧ r.inHand ticket then s.setRec (r.dataIn ticket bs) else s
    | .ur => s.haltXfer r Status.outOfBounds
    | .ca => s.haltXfer r Status.outOfBounds)

/-- `HOST_COMPLETION_TIMEOUT` (R180). -/
def execHostCompletionTimeout (q : Nat) (seq : Word32) (s : State) : Host.Outcome State Fault Refusal :=
  .next (onXfer q seq [0x34, 0x35] s fun r => s.haltXfer r Status.timeout)

end Sys2Proof.Machine
end

