-- ==== Sys2Proof/Machine/Registers.lean ====
section
/-! DEFINITION. Register pages: what each offset of BAR0 reads as, and what a write of it does (R27, R29, R253, R267 to R271, R335, R365
to R370). -/

namespace Sys2Proof.Machine

open Sys2Proof

/-! ## Fields of a write -/

/-- A register write: offset, bytes, value. -/
structure RegWrite where
  off : Nat
  size : Nat
  v : Nat
deriving DecidableEq, Repr

/-- Whether a write covers a byte of the field of `n` bytes at offset `fo`. -/
def RegWrite.hits (w : RegWrite) (fo n : Nat) : Bool := decide (w.off < fo + n) && decide (fo < w.off + w.size)

/-- R365: the value that a write gives the field of `n` bytes at `fo`: bytes that it does not cover keep their value. -/
def RegWrite.into (w : RegWrite) (fo n old : Nat) : Nat :=
  natOf ((List.range n).map fun i =>
    let a := fo + i
    if w.off ≤ a ∧ a < w.off + w.size then BitVec.ofNat 8 (w.v >>> (8 * (a - w.off))) else BitVec.ofNat 8 (old >>> (8 * i)))

/-! ## Host-core control blocks (R253) -/

/-- R253: start a host core at its `ENTRY`: under another context than its last it is reset first. -/
def State.startCore (s : State) (n : Nat) : State :=
  let h := s.hcore n
  let s := if h.lastCtx = some h.ctx then s else s.resetHCore n
  let x := s.hcore n
  s.setHCore n { x with
    run := true, stopped := false, lastCtx := some h.ctx, regs := { x.regs with pc := h.entry } }

/-- R253 step 3: whether a host core may start. -/
def State.mayStart (s : State) (h : HCore) : Bool := (s.ctx h.ctx).st == .active && h.entry.toNat % 4 == 0

/-- R253: one write of a host core's control block, in the order of its steps: `w` its first word, when written, `entry` its `ENTRY`,
when written. `RUN` of a core out of service stays 0 (R339); that this is no refusal is DEDUCED (log entry 87). -/
def coreCtrl (n : Nat) (w : Option Nat) (entry : Option Word64) (s : State) : State :=
  let h := s.hcore n
  let word := w.getD 0
  let err := h.ctrlErr && !(w.isSome && word.testBit 3)
  let ctx := if w.isSome then bits word 8 8 else h.ctx
  let ent := entry.getD h.entry
  let moved := ctx != h.ctx || ent != h.entry
  let h1 : HCore := if h.run then { h with ctrlErr := err || moved } else { h with ctrlErr := err, ctx, entry := ent }
  let s := s.setHCore n h1
  let s :=
    if w.isNone then s
    else if word.testBit 0 then
      if h1.run then s
      else if !s.mayStart h1 then s.setHCore n { h1 with ctrlErr := true }
      else if h1.svc = .inService then s.startCore n else s
    else if h1.run then s.setHCore n { h1 with run := false, stopped := true } else s
  if w.isSome && word.testBit 1 then
    if (s.hcore n).run then s.setHCore n { s.hcore n with ctrlErr := true } else s.resetHCore n
  else s

/-- R253: a write of a control block from a port acts for the owner's port only. -/
def coreBlock (p : Fin 4) (s : State) (f : State → State) : State := if s.isOwner p then f s else s

/-- `HOST_CORE_RUN` (R253): a write of the first word with `RUN` 1. -/
def execHostCoreRun (p : Fin 4) (n : Fin 16) (w : Word32) (s : State) : Host.Outcome State Fault Refusal :=
  .next (coreBlock p s (coreCtrl n.val (some (w ||| 1#32).toNat) none))

/-- `HOST_CORE_STOP` (R253): a write of the first word with `RUN` 0. -/
def execHostCoreStop (p : Fin 4) (n : Fin 16) (w : Word32) (s : State) : Host.Outcome State Fault Refusal :=
  .next (coreBlock p s (coreCtrl n.val (some (w &&& 0xFFFFFFFE#32).toNat) none))

/-- `HOST_CORE_RESET` (R253): a write of the first word with `RESET` 1. -/
def execHostCoreReset (p : Fin 4) (n : Fin 16) (w : Word32) (s : State) : Host.Outcome State Fault Refusal :=
  .next (coreBlock p s (coreCtrl n.val (some (w ||| 2#32).toNat) none))

/-! ## The interrupt page (R368) -/

/-- R368: a write of `EVLOG_ACK`: at most the newest entry; vector 2 is sent again while entries remain. -/
def evlogAck (a : Agent) (v : Nat) (s : State) : State :=
  let i := agentIdx a
  let s := s.setIntr i { s.intr i with ack := Nat.min v s.evNewest }
  match a with
  | .port p => if s.evPending i then s.msix p 2 else s
  | .hcore _ => s

/-- `EVLOG_ACK_WRITE` (R368). -/
def execEvlogAckWrite (by_ : Agent) (v : Word64) (s : State) : Host.Outcome State Fault Refusal := .next (evlogAck by_ v.toNat s)

/-- R368: the W1C bits that a write clears. -/
def Intr.clear (i : Intr) (causes ovf : Nat) : Intr :=
  let left := i.ovf &&& ~~~(BitVec.ofNat 32 ovf)
  { i with
    modErr := i.modErr && !causes.testBit 0
    bucket := i.bucket && !causes.testBit 2 && !(left == 0 && i.ovf != 0)
    ownership := i.ownership && !causes.testBit 3
    mbDone := i.mbDone &&& ~~~(BitVec.ofNat 4 (bits causes 4 4))
    ovf := left }

/-- R368: a write of an agent's interrupt page, by the offset in the page. -/
def intrWrite (a : Agent) (w : RegWrite) (s : State) : State :=
  let i := agentIdx a
  let s := s.setIntr i ((s.intr i).clear (w.into 0x008 1 0) (w.into 0x010 4 0))
  if w.hits 0x028 8 then evlogAck a (w.into 0x028 8 (s.intr i).ack) s else s

/-! ## Mailbox blocks (R267, R268) -/

/-- R267, R268: a write of a mailbox block: the request area, refused while busy, and the control page. -/
def mailboxWrite (mb : Fin 32) (w : RegWrite) (s : State) : State :=
  let b := s.mbox mb
  if w.off < 0x1000 then
    if b.st = .busy then s.setMbox mb { b with ringErr := true }
    else
      let mask := (2 ^ (8 * w.size) - 1) <<< (8 * w.off)
      s.setMbox mb { b with req := (b.req &&& ~~~(BitVec.ofNat 32768 mask)) ||| (BitVec.ofNat 32768 ((w.v % 2 ^ (8 * w.size)) <<< (8 * w.off))) }
  else if w.off < 0x2000 then s
  else
    let ring := (w.into 0x2000 4 0).testBit 0
    let ctl := w.into 0x2004 1 (if b.irqEn then 8 else 0)
    let s := if ring then (match execMailboxRing mb s with
      | .next t => t
      | _ => s) else s
    if w.hits 0x2004 1 then
      let b := s.mbox mb
      s.setMbox mb { b with ringErr := b.ringErr && !ctl.testBit 2, irqEn := ctl.testBit 3 }
    else s

/-! ## Doorbell, flag and port-status pages (R204, R228, R335, R366, R367, R369, R370) -/

/-- R366: a write of a doorbell page. -/
def doorbellWrite (a : Agent) (q : Nat) (w : RegWrite) (s : State) : State :=
  let s := if w.hits 0 4 then
      let v := BitVec.ofNat 32 (w.into 0 4 (s.queue q).tail.toNat)
      doorbellPage a q 0 v s (tailWrite a q v)
    else s
  if w.hits 8 4 then
    let v := BitVec.ofNat 32 (w.into 8 4 (s.queue q).cqHead.toNat)
    doorbellPage a q 8 v s (cqHeadPut a q v)
  else s

/-- R367: a write of a context's flag page. -/
def flagWrite (a : Agent) (c : Nat) (w : RegWrite) (s : State) : State :=
  let slot := w.off % 0x2000 / 8
  let mask := BitVec.ofNat 64 (w.into (w.off / 8 * 8) 8 0)
  if w.hits 0 2 then flagPageOne a c 0 (BitVec.ofNat 16 (w.into 0 2 0)) true s
  else if w.hits 8 2 then flagPageOne a c 8 (BitVec.ofNat 16 (w.into 8 2 0)) false s
  else if 0x2000 ≤ w.off ∧ w.off < 0x4000 then flagPageMask a c 0x2000 slot mask true s
  else if 0x4000 ≤ w.off ∧ w.off < 0x6000 then flagPageMask a c 0x4000 slot mask false s
  else s

/-- R335: the reset that the value of a `MODULE_RESET` write orders. -/
def orderReset (p : Fin 4) (v : Nat) (s : State) : State :=
  match bits v 0 2 with
  | 1 => { s.warmReset with resetBy := some p }
  | 2 => s.frondReset (bits v 2 2) ((List.range 64).map (Fin.ofNat 64))
  | 3 =>
    let c := bits v 8 8
    (match (s.ctx c).st with
    | .free => s.refuseReset p v 2
    | .orphaned => s.refuseReset p v 2
    | _ => s.contextReset c)
  | _ => s

/-- R5, R335: the owner's write of `MODULE_RESET`: `REFUSED`, then `KEY`, then the reset that `KIND` names. DESIGN CHOICE (log entry 146): a
write that covers `KIND`, `FROND` or `CTX` but not `KEY` (a byte write of `CTX`, say) has `KEY` 0 and is refused; one that covers none of them
nor `KEY` orders no reset and is not refused. -/
def resetWrite (p : Fin 4) (w : RegWrite) (s : State) : State :=
  let v := w.into 0x080 4 0
  if !s.isOwner p && !s.resetting p then s
  else
    let s := if v.testBit 25 then s.setPort p { s.port p with resetRefused := false } else s
    if !w.hits 0x080 3 then s else s.orderedReset p v (BitVec.ofNat 8 (bits v 16 8)) (orderReset p v)

/-- R253, R335, R369, R370: a write of a port's status page. -/
def portWrite (p : Fin 4) (w : RegWrite) (s : State) : State :=
  let old := if (s.port p).fence then 1 else 0
  let s := if w.hits 0x018 1 then (if (w.into 0x018 1 old).testBit 0 then s.fencePort p else s.unfencePort p) else s
  let s := if w.hits 0x080 4 then resetWrite p w s else s
  if 0x100 ≤ w.off ∧ w.off < 0x200 then
    let n := (w.off - 0x100) / 16
    let base := 0x100 + 16 * n
    let h := s.hcore n
    let word := if w.hits base 4 then some (w.into base 4 ((if h.run then 1 else 0) + h.ctx * 2 ^ 8)) else none
    let entry := if w.hits (base + 8) 8 then some (BitVec.ofNat 64 (w.into (base + 8) 8 h.entry.toNat)) else none
    coreBlock p s (coreCtrl n word entry)
  else s

/-! ## MSI-X and the configuration space (R179, R248, R258) -/

/-- The model's own offset, beyond BAR0, of a port's MSI-X enable bit and, above it, Function Mask. PRESUMED (log entries 85, 127), as are
the offsets below. -/
def msixCtl : Nat := 0x04000000
/-- The model's own offset of a port's device-control register (Max_Payload_Size in bits 7 to 5, Max_Read_Request_Size in bits 14 to 12). -/
def devCtl : Nat := 0x04000008
/-- The model's own offset of the MSI-X table; 16 bytes a vector: message address, message data, mask bit. -/
def msixTab : Nat := 0x04010000

/-- The model's own offsets of a port's base address registers. -/
def barReg : Nat := 0x04000010
/-- The model's own offset of a port's memory-device registers: the base and the size of the volatile range of R242. -/
def memDev : Nat := 0x04000020

/-- R248: a host unmasks a vector: what is pending is sent. -/
def State.msixUnmask (s : State) (p : Fin 4) (v : Nat) : State :=
  (s.setPort p { s.port p with msixOpen := Tbl.put false (s.port p).msixOpen v true }).msixFlush p

/-- R179: the sizes that a device-control word sets, of at most 512 bytes and 4 KiB. -/
def Port.withSizes (pt : Port) (x : Nat) : Port :=
  { pt with maxPayload := Nat.min 512 (128 * 2 ^ bits x 5 3), maxRead := Nat.min 4096 (128 * 2 ^ bits x 12 3) }

/-- R248: a host writes a field of an MSI-X table entry. -/
def msixEntryWrite (p : Fin 4) (v : Nat) (w : RegWrite) (off : Nat) (s : State) : State :=
  let pt := s.port p
  let m := Tbl.get (0, 0) pt.msixMsg v
  let addr := if w.hits off 8 then w.into off 8 m.1 else m.1
  let data := if w.hits (off + 8) 4 then w.into (off + 8) 4 m.2 else m.2
  let s := s.setPort p { pt with msixMsg := Tbl.put (0, 0) pt.msixMsg v (addr, data) }
  if !w.hits (off + 12) 4 then s
  else
    let mask := (w.into (off + 12) 4 (if Tbl.get false pt.msixOpen v then 0 else 1)).testBit 0
    if mask then s.setPort p { s.port p with msixOpen := Tbl.put false (s.port p).msixOpen v false } else s.msixUnmask p v

/-- R179, R248, R258: a host writes a port's MSI-X enable and Function Mask bits, its device-control register, its base address
registers, or its MSI-X table. -/
def msixWrite (p : Fin 4) (w : RegWrite) (s : State) : State :=
  let pt := s.port p
  if w.off = msixCtl then (s.setPort p { pt with msixOn := w.v.testBit 0, msixMask := w.v.testBit 1 }).msixFlush p
  else if w.hits barReg 8 then s.setPort p { pt with bar0 := BitVec.ofNat 64 (w.into barReg 8 pt.bar0.toNat / 2 ^ 26 * 2 ^ 26) }
  else if w.hits (barReg + 8) 8 then s.setPort p { pt with bar2 := BitVec.ofNat 64 (w.into (barReg + 8) 8 pt.bar2.toNat) }
  else if w.off = devCtl then s.setPort p (pt.withSizes w.v)
  else if msixTab ≤ w.off ∧ w.off < msixTab + 16 * 2048 then
    let v := (w.off - msixTab) / 16
    msixEntryWrite p v w (msixTab + 16 * v) s
  else s

/-! ## The page map (R250, R365) -/

/-- The mailbox block that an agent's offset lies in, and the offset in it. -/
def mailboxAt (a : Agent) (off : Nat) : Option (Fin 32 × Nat) :=
  if off < 0x1000 ∨ 0xD000 ≤ off then none
  else
    let m := (off - 0x1000) / 0x3000
    match a with
    | .port p => some (Fin.ofNat 32 (4 * p.val + m), (off - 0x1000) % 0x3000)
    | .hcore n => if m = 0 then some (Fin.ofNat 32 (16 + n.val), off - 0x1000) else none

/-- R27, R365: a register write acts by the page it lies in: 1, 2, 4 or 8 bytes at a naturally aligned offset. -/
def regWrite (a : Agent) (w : RegWrite) (s : State) : State :=
  if !([1, 2, 4, 8].contains w.size) || w.off % w.size != 0 then s
  else match mailboxAt a w.off with
    | some (mb, x) => mailboxWrite mb { w with off := x } s
    | none =>
      let o := w.off
      if 0x10000 ≤ o ∧ o < 0x810000 then doorbellWrite a ((o - 0x10000) / 0x1000) { w with off := o % 0x1000 } s
      else if 0x1000000 ≤ o ∧ o < 0x2000000 then flagWrite a ((o - 0x1000000) / 0x10000) { w with off := o % 0x10000 } s
      else if 0x2000000 ≤ o ∧ o < 0x2001000 then intrWrite a { w with off := o % 0x1000 } s
      else match a with
        | .port p =>
          if 0x3000000 ≤ o ∧ o < 0x3001000 then portWrite p { w with off := o % 0x1000 } s
          else if msixCtl ≤ o then msixWrite p w s else s
        | .hcore _ => s

/-- `REGISTER_WRITE` (R365): a write acts on each field that it covers by the field's access type. -/
def execRegisterWrite (by_ : Agent) (off size : Nat) (v : Word64) (s : State) : Host.Outcome State Fault Refusal :=
  .next (regWrite by_ { off, size, v := v.toNat % 2 ^ (8 * size) } s)

/-! ## Reads -/

/-- R29: the capability descriptor, word by word. -/
def descriptor : List Nat :=
  [0x56443332, 0x00900100, 0xB3202048, 0, 4 + 8 * 2 ^ 8 + 32 * 2 ^ 16 + 2 * 2 ^ 24, 32 + 4 * 2 ^ 8 + 16 * 2 ^ 16 + 16 * 2 ^ 24,
   32768, 1024 + 32 * 2 ^ 16 + 48 * 2 ^ 24, 2048, 8 + 384 * 2 ^ 16, 8192, 8192 + 16 * 2 ^ 16 + 8 * 2 ^ 24, 256 + 128 * 2 ^ 16,
   256 + 64 * 2 ^ 16 + 8 * 2 ^ 24, 64 + 64 * 2 ^ 8 + 8 * 2 ^ 16 + 32 * 2 ^ 24, 256 + 256 * 2 ^ 16,
   32 + 8 * 2 ^ 8 + 8 * 2 ^ 16 + 4 * 2 ^ 24, 4096, 512, 32768, 4096 + 8192 * 2 ^ 16, 4096 + 1024 * 2 ^ 16, 8192, 65536,
   4096 + 16 * 2 ^ 16, 256 + 2048 * 2 ^ 16, 4 + 8 * 2 ^ 8 + 16 * 2 ^ 16 + 16 * 2 ^ 24, 4 + 4 * 2 ^ 8 + 8 * 2 ^ 16 + 16 * 2 ^ 24,
   8000 + 1000 * 2 ^ 16, 2 + 5 * 2 ^ 8 + 8 * 2 ^ 16 + 10 * 2 ^ 24, 20 + 3 * 2 ^ 8, 8000 + 24000 * 2 ^ 16, 100 + 18000 * 2 ^ 16,
   64 + 128 * 2 ^ 8 + 32 * 2 ^ 16 + 128 * 2 ^ 24, 6 + 10 * 2 ^ 8, 1024]

/-- R271: a clamp-report entry as one number of 24 bytes. -/
def Clamp.entry (c : Clamp) : Nat :=
  c.off + c.lsb * 2 ^ 12 + c.widthM1 * 2 ^ 17 + c.requested % 2 ^ 64 * 2 ^ 64 + c.applied % 2 ^ 64 * 2 ^ 128

/-- R271: the clamp report: at most 42 entries; beyond them the last one marks the rest. -/
def clampReport (cs : List Clamp) : Nat :=
  let es := if cs.length ≤ 42 then cs.map Clamp.entry else (cs.take 41).map Clamp.entry ++ [0xFFFFFFFF]
  (es.zipIdx.map fun e => e.1 * 2 ^ (192 * e.2)).sum

/-- R270: the response area as one number. -/
def Resp.image (r : Resp) : Nat :=
  r.opcode + r.tag * 2 ^ 16 + r.status * 2 ^ 32 + r.bodyLen * 2 ^ 48 + Nat.min 255 r.clamps.length * 2 ^ 64 + r.execUs.toNat * 2 ^ 96
    + r.body % 2 ^ (8 * 0xBF0) * 2 ^ 128 + clampReport r.clamps * 2 ^ (8 * 0xC00)

/-- The 64 bits at an offset of a number of bytes. -/
def word64 (x off : Nat) : Nat := bits x (8 * off) 64

/-- R267, R268: the 64 bits at an offset of a mailbox block. -/
def State.mailboxRead (s : State) (mb : Fin 32) (off : Nat) : Nat :=
  let b := s.mbox mb
  let st := match b.st with
    | .idle => 0
    | .busy => 1
    | .complete => 2
  if off < 0x1000 then word64 b.req.toNat off
  else if off < 0x2000 then word64 b.resp.image (off - 0x1000)
  else if off = 0x2000 then
    (st + (if b.ringErr then 4 else 0) + (if b.irqEn then 8 else 0) + b.lastStatus * 2 ^ 8 + b.lastTag * 2 ^ 16) * 2 ^ 32
  else 0

/-- R366: the 64 bits at an offset of a doorbell page. -/
def State.doorbellRead (s : State) (q off : Nat) : Nat :=
  let qu := s.queue q
  if !qu.live then 0
  else match off with
    | 0x00 => qu.tail.toNat
    | 0x08 => qu.cqHead.toNat
    | 0x10 => qu.head.toNat
    | 0x18 => qu.cqTail.toNat
    | 0x20 =>
      let held := (s.ctx qu.ctx).st != .active || qu.drainTo == some qu.head
      (if held then 2 else 1) + (if qu.occ != 0 && !s.canIssueRec q then 4 else 0) + qu.ctx * 2 ^ 8 + Nat.log2 qu.entries * 2 ^ 16
        + qu.prio * 2 ^ 24 + qu.weight * 2 ^ 26
    | _ => 0

/-- R367: the 64 bits at an offset of a context's flag page: the `TEST` words. -/
def State.flagRead (s : State) (c off : Nat) : Nat :=
  if 0x6000 ≤ off ∧ off < 0x8000 then
    let f := Tbl.get ({} : FSlot) (s.ctx c).slots ((off - 0x6000) / 8)
    if f.mapped then (s.flagBlock f.block).toNat else 0
  else 0

/-- R368: the 64 bits at an offset of an agent's interrupt page. -/
def State.intrRead (s : State) (a : Agent) (off : Nat) : Nat :=
  let i := s.intr (agentIdx a)
  let b (x : Bool) (k : Nat) : Nat := if x then 2 ^ k else 0
  match off with
  | 0x00 => s.time.now % 2 ^ 64
  | 0x08 => b i.modErr 0 + b (s.evPending (agentIdx a)) 1 + b i.bucket 2 + b i.ownership 3 + i.mbDone.toNat * 2 ^ 4
  | 0x10 => i.ovf.toNat
  | 0x18 => s.evNewest
  | 0x20 => s.evOldest
  | 0x28 => i.ack
  | 0x30 => s.integ.nextSeq - 1
  | 0x38 => s.evlog.errStatus
  | 0x40 => s.evlog.errEvent
  | _ => 0

/-- R369 `OWNER_STATE`. -/
def State.ownerCode (s : State) : Nat :=
  match s.own.st with
  | .window => 0
  | .owned _ => 1
  | .vacant => 2

/-- R253, R335, R369: the 64 bits at an offset of a port's status page. -/
def State.portRead (s : State) (p : Fin 4) (off : Nat) : Nat :=
  let pt := s.port p
  let b (x : Bool) (k : Nat) : Nat := if x then 2 ^ k else 0
  if 0x100 ≤ off ∧ off < 0x200 then
    let h := s.hcore ((off - 0x100) / 16)
    if off % 16 = 0 then b h.run 0 + b h.stopped 2 + b h.ctrlErr 3 + h.ctx * 2 ^ 8 else h.entry.toNat
  else match off with
    | 0x00 => b pt.linkUp 0 + b (!s.isOwner p) 1 + b (s.isOwner p) 2 + b pt.fence 3 + pt.width * 2 ^ 4 + b pt.rate64 8
        + s.ownerCode * 2 ^ 10 + p.val * 2 ^ 12
    | 0x08 => pt.discarded
    | 0x10 => s.own.gen
    | 0x18 => b pt.fence 0
    | 0x80 => b s.resetBusy 24 + b pt.resetRefused 25
    | _ => 0

/-- R242, R248, R258: the 64 bits at an offset of a port's configuration space and memory-device registers, at the model's own offsets. -/
def State.configRead (s : State) (p : Fin 4) (off : Nat) : Nat :=
  let pt := s.port p
  let b (x : Bool) (k : Nat) : Nat := if x then 2 ^ k else 0
  if off = msixCtl then b pt.msixOn 0 + b pt.msixMask 1
  else if off = devCtl then Nat.log2 (pt.maxPayload / 128) * 2 ^ 5 + Nat.log2 (pt.maxRead / 128) * 2 ^ 12
  else if off = barReg then pt.bar0.toNat
  else if off = barReg + 8 then pt.bar2.toNat
  else if off = memDev + 8 then volatileRange
  else if msixTab ≤ off ∧ off < msixTab + 16 * 2048 then
    let v := (off - msixTab) / 16
    let m := Tbl.get (0, 0) pt.msixMsg v
    if off % 16 = 0 then m.1 else m.2 + b (!Tbl.get false pt.msixOpen v) 32
  else 0

/-- R250, R365: the 64 bits that an agent reads at an aligned offset of BAR0; anything not named reads as zero. -/
def State.regRead64 (s : State) (a : Agent) (off : Nat) : Nat :=
  if off < 0x1000 then descriptor.getD (off / 4) 0 + descriptor.getD (off / 4 + 1) 0 * 2 ^ 32
  else match mailboxAt a off with
    | some (mb, x) => s.mailboxRead mb x
    | none =>
      if 0x10000 ≤ off ∧ off < 0x810000 then
        let q := (off - 0x10000) / 0x1000
        (match a with
        | .port _ => s.doorbellRead q (off % 0x1000)
        | .hcore n => if (s.queue q).ctx = (s.hcore n).ctx then s.doorbellRead q (off % 0x1000) else 0)
      else if 0x1000000 ≤ off ∧ off < 0x2000000 then
        let c := (off - 0x1000000) / 0x10000
        (match a with
        | .port _ => s.flagRead c (off % 0x10000)
        | .hcore n => if c = (s.hcore n).ctx then s.flagRead c (off % 0x10000) else 0)
      else if 0x2000000 ≤ off ∧ off < 0x2001000 then s.intrRead a (off % 0x1000)
      else match a with
        | .port p => if 0x3000000 ≤ off ∧ off < 0x3001000 then s.portRead p (off % 0x1000) else s.configRead p off
        | .hcore _ => 0

/-- R27: a register read of 1, 2, 4 or 8 bytes at a naturally aligned offset. -/
def State.regRead (s : State) (a : Agent) (off size : Nat) : Nat := bits (s.regRead64 a (off / 8 * 8)) (8 * (off % 8)) (8 * size)

end Sys2Proof.Machine
end

