-- ==== Sys2Proof/Machine/HostCore.lean ====
section
/-! DEFINITION. The accesses of host cores: device memory through their caches, registers, cache-block operations (R249 to R252, R284,
R285). -/

namespace Sys2Proof.Machine

open Sys2Proof

/-- R253: whether a host core executes. -/
def HCore.live (h : HCore) : Bool := h.run && !h.stopped

/-- R253, R315: whether a host core executes: while the module is ready. -/
def State.executes (s : State) (n : Fin 16) : Bool := (s.hcore n.val).live && s.phase == .ready

/-- The access fault that an access raises. -/
def AccKind.trap : AccKind → Trap
  | .store _ => .store
  | .fetch => .fetch
  | _ => .load

/-- R250: the BAR0 offset that an address of a host core's device-register ranges stands for. -/
def coreOffset (ctx addr : Nat) : Option Nat :=
  let base := 0x100000000000
  let o := addr - base
  if addr < base then none
  else if o < 0x4000 ∨ (0x10000 ≤ o ∧ o < 0x810000) ∨ (0x2000000 ≤ o ∧ o < 0x2001000) then some o
  else if 0x1000000 ≤ o ∧ o < 0x1010000 then some (flagOff ctx + (o - 0x1000000))
  else none

/-- R250, R251: an access that may not be made: an access fault, logged with the core's unit identifier. -/
def State.accessFault (s : State) (n : Fin 16) (kind : Trap) (addr value : Nat) : State :=
  (s.ev 0x0E Status.outOfBounds (unitId 9 n.val) addr value (0x10 + n.val)).emit (.coreFault n kind addr)

/-- The line of the host cores' caches that a line number names, filled from device memory when it is absent (R249, R285): the read comes
through to its bank pair as R94 to R100 let it. `used`: the lines of the access. -/
def State.fillLine (used : List Nat) (s : State) (i : Nat) : State :=
  match Tbl.get none s.lines i with
  | some _ => s
  | none =>
    let s := (s.makeRoom used).reach rachis 8 (s.lineCols (64 * i))
    let l := s.readLine (64 * i)
    let s := s.noteReads .hostCore (s.lineCols (64 * i))
    { s with lines := Tbl.put none s.lines i (some { data := l.1, poison := l.2 }) }

/-- A line as the caches hold it. -/
def State.line (s : State) (i : Nat) : Line := (Tbl.get none s.lines i).getD { data := 0 }

/-- R285: whether a line is poisoned: until stores have written every one of its bytes. -/
def Line.bad (l : Line) : Bool := l.poison && l.written != BitVec.allOnes 64

/-- The lines that an access touches. -/
def linesOf (addr size : Nat) : List Nat := dedup ((List.range size).map fun k => (addr + k) / 64)

/-- The byte at a DPA in the caches. -/
def State.cachedByte (s : State) (a : Nat) : Byte := (s.line (a / 64)).data.extractLsb' (8 * (a % 64)) 8

/-- A line with one byte stored by a host core. -/
def Line.store (l : Line) (n i : Nat) (b : Byte) : Line :=
  { l with
    data := (l.data &&& ~~~(BitVec.ofNat 512 (255 <<< (8 * i)))) ||| BitVec.ofNat 512 (b.toNat <<< (8 * i))
    by_ := n, dirty := true, written := l.written ||| BitVec.ofNat 64 (2 ^ i) }

/-- R249: store one byte in the caches. -/
def State.storeByte (s : State) (n a : Nat) (b : Byte) : State :=
  { s with lines := Tbl.put none s.lines (a / 64) (some ((s.line (a / 64)).store n (a % 64) b)) }

/-- R249: room for one more line in an instruction L1. DESIGN CHOICE (log entry 111), as for the L2. -/
def State.makeInstrRoom (s : State) (n : Nat) (used : List Nat) : State :=
  let h := s.hcore n
  if h.il1.length < l1Lines then s
  else
    let old := h.il1.filter fun e => !used.contains e.1
    match old[(Config.freeWord s.free).toNat % old.length]? with
    | some e => s.fresh.setHCore n { h with il1 := Tbl.put none h.il1 e.1 none }
    | none => s

/-- R249: fill a line of a core's instruction L1 from the caches that the cores share. -/
def State.fillInstr (n : Nat) (used : List Nat) (s : State) (i : Nat) : State :=
  match Tbl.get none (s.hcore n).il1 i with
  | some _ => s
  | none =>
    let s := (s.fillLine used i).makeInstrRoom n used
    s.setHCore n { s.hcore n with il1 := Tbl.put none (s.hcore n).il1 i (some ((s.line i).data, (s.line i).bad)) }

/-- R249, R284: a fetch, from the core's instruction L1: what it holds is what it has seen since its last `fence.i`. -/
def State.fetch (s : State) (n : Fin 16) (addr size : Nat) : State :=
  let used := linesOf addr size
  let s := used.foldl (State.fillInstr n.val used) s
  let at_ (i : Nat) : BitVec 512 × Bool := (Tbl.get none (s.hcore n.val).il1 i).getD (0, false)
  if used.any fun i => (at_ i).2 then s.emit (.coreFault n .fetch addr)
  else s.emit (.coreData n (BitVec.ofNat 64 (natOf ((List.range size).map fun k =>
    (at_ ((addr + k) / 64)).1.extractLsb' (8 * ((addr + k) % 64)) 8))))

/-- R249, R251, R284: an access to device memory inside the windows. A store of a poisoned line raises no fault. -/
def State.memAccess (s : State) (n : Fin 16) (addr size : Nat) (kind : AccKind) : State :=
  if kind = .fetch then s.fetch n addr size else
  let s := (linesOf addr size).foldl (State.fillLine (linesOf addr size)) s
  match kind with
  | .store d => (List.range size).foldl (fun s k => s.storeByte n.val (addr + k) (BitVec.ofNat 8 (d.toNat >>> (8 * k)))) s
  | _ =>
    if (linesOf addr size).any fun i => (s.line i).bad then s.emit (.coreFault n .load addr)
    else s.emit (.coreData n (BitVec.ofNat 64 (natOf ((List.range size).map fun k => s.cachedByte (addr + k)))))

/-- Whether an access writes. -/
def AccKind.writes : AccKind → Bool
  | .store _ => true
  | _ => false

/-- What a store stores; 0 for another access. -/
def storeValue : AccKind → Nat
  | .store d => d.toNat
  | _ => 0

/-- R250, R251: one access of an executing host core: to device memory, to a device register, or to nothing. -/
def State.coreAccess (s : State) (n : Fin 16) (addr size : Nat) (kind : AccKind) : State :=
  let ctx := (s.hcore n.val).ctx
  if addr + size ≤ 2 ^ 41 then
    if s.inWindows ctx addr (addr + size - 1) (AccKind.writes kind) then s.memAccess n addr size kind
    else s.accessFault n (AccKind.trap kind) addr (storeValue kind)
  else match coreOffset ctx addr, kind with
    | some o, .load => s.emit (.coreData n (BitVec.ofNat 64 (s.regRead (.hcore n) o size)))
    | some o, .store d => regWrite (.hcore n) { off := o, size, v := d.toNat % 2 ^ (8 * size) } s
    | _, _ => s.accessFault n (AccKind.trap kind) addr (storeValue kind)

/-- R252: a `fence` of a host core: the lines that it has written back reach the visibility point of R178. DESIGN CHOICE (log entry 110):
the command stands for the time that they take; what the rachis sent besides goes with them, in its order. -/
def State.coreFence (s : State) : State :=
  if s.underway.any fun h => ordReq h.2 == .hostCore then s.deliver fun h => h.1 == rachis else s

/-- `HOST_CORE_ACCESS` (R249 to R252, R284, R285): a load, store or fetch of 1, 2, 4 or 8 bytes by a core that executes; its `fence`; or
its `fence.i`, after which it fetches anew. -/
def execHostCoreAccess (n : Fin 16) (addr size : Nat) (kind : AccKind) (s : State) : Host.Outcome State Fault Refusal :=
  .next (if !s.executes n then s
    else if kind = .fenceI then s.setHCore n.val { s.hcore n.val with il1 := [] }
    else if kind = .fence then s.coreFence
    else if [1, 2, 4, 8].contains size then s.coreAccess n addr size kind else s)

/-- R34, R250: run a cache-block operation of a core that executes on the line of an address in device memory; it has no effect on a
device register, and any other address is a store access fault. -/
def onLine (n : Fin 16) (addr : Nat) (s : State) (f : Nat → State) : Host.Outcome State Fault Refusal :=
  .next (if !s.executes n then s
    else if addr < 2 ^ 41 then f (addr / 64)
    else if (coreOffset (s.hcore n.val).ctx addr).isSome then s
    else s.accessFault n .store addr 0)

/-- `CBO_CLEAN` (R252): the line is written back to the visibility point. -/
def execCboClean (n : Fin 16) (addr : Nat) (s : State) : Host.Outcome State Fault Refusal := onLine n addr s fun i => s.cleanLine i true
/-- `CBO_FLUSH` (R252): the line is written back and discarded. -/
def execCboFlush (n : Fin 16) (addr : Nat) (s : State) : Host.Outcome State Fault Refusal := onLine n addr s fun i => s.cleanLine i false
/-- `CBO_INVAL` (R252): the copy is discarded. -/
def execCboInval (n : Fin 16) (addr : Nat) (s : State) : Host.Outcome State Fault Refusal :=
  onLine n addr s fun i => { s with lines := Tbl.put none s.lines i none }

end Sys2Proof.Machine
end

