-- ==== Sys2Proof/Machine/Jtag.lean ====
section
/-! DEFINITION. The debug port: boundary scan (R382). -/

namespace Sys2Proof.Machine

open Sys2Proof

/-- A die's TAP, in chain order: the rachis, frond dies 0 to 3, the 32 base dies. -/
def State.tap (s : State) (d : Nat) : Tap := Tbl.get {} s.jtag.taps d

/-- R382: an instruction on a die's TAP: held in Test-Logic-Reset unless boundary scan is entered. -/
def onTap (die : Fin 37) (s : State) (tap : Tap) (tdo : List Bool) : State :=
  if s.jtag.enabled then
    { s with jtag := { s.jtag with taps := Tbl.put {} s.jtag.taps die.val tap } }.emit (.tdo die tdo)
  else s

/-- R382: the IDCODE of a die. -/
def idcodeOf (d : Nat) : Nat := if d = 0 then 0x1B320001 else if d < 5 then 0x1B321001 else 0x1B322001

/-- `BYPASS` (R382): one bit between TDI and TDO, 0 at first. -/
def execBypass (die : Fin 37) (tdi : List Bool) (s : State) : Host.Outcome State Fault Refusal :=
  .next (onTap die s { s.tap die.val with ir := 0, driving := false } (tdi.zipIdx.map fun b => b.2 != 0 && tdi.getD (b.2 - 1) false))

/-- `IDCODE` (R382): the 32 bits of the die's code, least significant first. -/
def execIdcode (die : Fin 37) (s : State) : Host.Outcome State Fault Refusal :=
  .next (onTap die s { s.tap die.val with ir := 1, driving := false } ((List.range 32).map (idcodeOf die.val).testBit))

/-- What the pins of a die show to its boundary register: not given by the spec. -/
def State.pin (s : State) (i : Nat) : Bool := (Config.boundaryPins (s.free + i / 64)).getLsbD (i % 64)

/-- `SAMPLE/PRELOAD` (R382): the pins are sampled and shifted out, the boundary register is loaded. -/
def execSamplePreload (die : Fin 37) (preload : List Bool) (s : State) : Host.Outcome State Fault Refusal :=
  let t := onTap die s { ir := 2, boundary := preload, driving := false } ((List.range preload.length).map s.pin)
  .next (if s.jtag.enabled then { t with free := t.free + preload.length / 64 + 1 } else t)

/-- `EXTEST` (R382): the boundary register drives the pins. -/
def execExtest (die : Fin 37) (s : State) : Host.Outcome State Fault Refusal :=
  .next (onTap die s { s.tap die.val with ir := 3, driving := true } [])

end Sys2Proof.Machine
end

