-- ==== Sys2Proof/Machine/LayoutCmds.lean ====
section
/-! DEFINITION. The layout commands (R44 to R48). -/

namespace Sys2Proof.Machine

open Sys2Proof

/-- R44: the layout record that `GET_LAYOUT` returns, 32 bytes. -/
def Layout.record (l : Layout) : Nat :=
  l.mode + l.n0 * 2 ^ 32 + l.n1 * 2 ^ 48 + l.n2 * 2 ^ 64 + l.n3 * 2 ^ 80 + l.gen * 2 ^ 96 + l.first * 2 ^ 160

/-- R48: whether a pseudo-channel's content becomes undefined when the layout changes. -/
def Layout.losesContent (a b : Layout) (gpc : Nat) : Bool :=
  let f := gpc / 512
  let changed := a.mode != b.mode || (if a.mode = 1 then a.n0 != b.n0 else a.n f != b.n f)
  if a.inPool gpc then !b.inPool gpc || changed else b.inPool gpc

/-- R8, R48: make the content of the pseudo-channels that a test names undefined, under a fresh tag. -/
def DMem.undefine (m : DMem) (f : Nat → Bool) (tag : Nat) : DMem :=
  { m with
    bytes := m.bytes.filter fun c => !f (locOf (c.1 / 32)).gpc
    check := m.check.filter fun c => !f (locOf c.1).gpc
    undef := ((List.range 2048).filter f).foldl (fun t g => Tbl.put 0 t g tag) m.undef }

/-- R47 step 4: load a new layout at one instant. -/
def State.loadLayout (s : State) (l : Layout) : State :=
  let m := s.mem.undefine (s.lay.losesContent l) (s.free + 1)
  { s with lay := { l with gen := s.lay.gen + 1 }, mem := m, free := s.free + 1 }

/-- R44: the applied layout of a request, in module-wide mode with the applied `IL_COUNT_F0` for every frond. -/
def layoutApplied (mode a b c d : Nat) : Layout :=
  let n0 := clampCount a
  if mode = 1 then { mode, n0, n1 := n0, n2 := n0, n3 := n0 }
  else { mode, n0, n1 := clampCount b, n2 := clampCount c, n3 := clampCount d }

/-- `SET_LAYOUT` (R44 to R48); `nvmOk`: the NVM write of step 4 succeeds. -/
def execSetLayout (mb : Fin 32) (nvmOk : Bool) (s : State) : Host.Outcome State Fault Refusal :=
  .next (molian mb 0x0301 .ownerPort (fun _ => 0x20)
    (fun _ => [(0x80, 2), fieldAt 0x14 32, fieldAt 0x18 32, fieldAt 0x1C 32, fieldAt 0x20 32, fieldAt 0x24 16]) (fun r s =>
      let mode := bits r.img 0x80 2
      let l := layoutApplied mode (r.fld 0x14 16) (r.fld 0x16 16) (r.fld 0x18 16) (r.fld 0x1A 16)
      let cl := clampOf 0x14 16 (r.fld 0x14 16) l.n0 ++ clampOf 0x16 16 (r.fld 0x16 16) l.n1
        ++ clampOf 0x18 16 (r.fld 0x18 16) l.n2 ++ clampOf 0x1A 16 (r.fld 0x1A 16) l.n3
      if 2 ≤ mode then .fail Status.fieldRange
      else if s.queueOrCore then .fail Status.contextState
      else if { l with gen := s.lay.gen } = s.lay then .done 0 0 0 cl s
      else if nvmOk then .done 0 0 0 cl (s.quiesce.loadLayout l)
      else .done Status.internal 0 0 cl s.quiesce) s)

/-- `GET_LAYOUT` (R44). -/
def execGetLayout (mb : Fin 32) (s : State) : Host.Outcome State Fault Refusal :=
  .next (molianFixed mb 0x0302 .any 0 [] (fun _ s => .done 0 32 s.lay.record [] s) s)

end Sys2Proof.Machine
end

