-- ==== Sys2Proof/Machine/MemRows.lean ====
section
/-! DEFINITION. The row operations that records run in the banks: `MEM_ROWOP`, `MEM_EW`, `MEM_NORM` (R70 to R72, R84, R86, R139, R141,
R153, R302, R386). -/

namespace Sys2Proof.Machine

open Sys2Proof

/-! ## Rows of a record (R86 to R91, R153) -/

/-- A row operation of a record: its unit, its command, the vector that it feeds (R141 `VEC`). -/
structure MRow where
  su : Nat
  cmd : RowCmd
  vec : Nat := 0
deriving DecidableEq, Repr

/-- What the rows of a record have done: the state, the saturations, whether a result carries poison, the rows run, the sums of each
vector with their poison. -/
structure RowsDone where
  st : State
  sats : Nat := 0
  poison : Bool := false
  rows : Nat := 0
  sums : Tbl (Int × Int × Bool) := []

/-- R72: an `SNRM` entry joins the sum and the sum of squares of its vector. -/
def addPartial (v : Nat) (t : Tbl (Int × Int × Bool)) (e : FifoEntry) : Tbl (Int × Int × Bool) :=
  let w (i : Nat) : Int := toSigned 64 ((e.words.getD i 0).toNat + (e.words.getD (i + 1) 0).toNat * 2 ^ 32)
  let old := Tbl.get (0, 0, false) t v
  Tbl.put (0, 0, false) t v (old.1 + w 0, old.2.1 + w 2, old.2.2 || e.poison)

/-- R86 to R91: one row operation of a record, and the fetch after it. -/
def RowsDone.row (r : Rec) (d : RowsDone) (m : MRow) : RowsDone :=
  let x := (d.st.recCmd r m.su m.cmd).fetchUnit m.su
  { d with st := x.1, rows := d.rows + 1, sums := x.2.foldl (addPartial m.vec) d.sums }

/-- The units of row operations. -/
def rowUnits (rows : List MRow) : List Nat := dedup (rows.map (·.su))

/-- R54, R59: the loads of a record reach the units of its rows. -/
def State.prepare (s : State) (r : Rec) (rows : List MRow) (cs : List LoadCmd) : State :=
  (rowUnits rows).foldl (fun s su => cs.foldl (fun s c => s.recLoad r su c) s) (s.takeUnits r (rowUnits rows))

/-- R57: the rows of a record run in their order; then the status of their units is read. -/
def State.runRows (s : State) (r : Rec) (cs : List LoadCmd) (rows : List MRow) : RowsDone :=
  let d := rows.foldl (RowsDone.row r) { st := s.prepare r rows cs }
  let x := d.st.readStatuses (rowUnits rows)
  { d with st := x.1, sats := x.2.1, poison := x.2.2 }

/-- The record after its rows: `per` output elements a row. -/
def RowsDone.finish (d : RowsDone) (r : Rec) (per : Nat) : State :=
  d.st.setRec { r.worked d.sats (d.rows * per) d.poison false [] with swept := true }

/-- R153, R302: whether the rows of a unit still run. -/
def Rec.unitRuns (r : Rec) (su : Nat) : Bool := !r.lostUnits.contains su

/-- Whether the rows of a record may run: their units are free. -/
def State.rowsReady (s : State) (rows : List MRow) : Bool := (rowUnits rows).all s.unitFree

/-- R141: the row operations of a list, each made a command by `f`. -/
def Rec.listRows (l : Layout) (r : Rec) (f : BitVec 16 → BitVec 16 → BitVec 16 → RowCmd) : List MRow :=
  (r.rowE.map fun e =>
    let su := unitOf l e.window e.unit
    if r.unitRuns su then
      (List.range e.nrows).map fun i => { su, cmd := f (advanceRow e.d i) (advanceRow e.x i) (advanceRow e.y i), vec := e.vec : MRow }
    else []).flatten

/-- A load of a configuration word, of the scale register, of the pattern register. -/
def cfgLoad (config : Option Nat) (scale : Option Burst) (pat : Option (Burst × Burst)) : LoadCmd :=
  let none_ : Burst := { data := 0, check := 0 }
  .cfg { loadCfg := config.isSome, loadScale := scale.isSome, loadPat := pat.isSome, config := BitVec.ofNat 32 (config.getD 0)
         scale := scale.getD none_, pat0 := (pat.getD (none_, none_)).1, pat1 := (pat.getD (none_, none_)).2 }

/-- The bytes of an object of a record as payload bursts (R77). -/
def State.bursts (s : State) (r : Rec) (dpa n : Nat) : List Burst :=
  (List.range n).map fun b => burstOf ((List.range 32).map fun i =>
    let x := s.recByte r (dpa + 32 * b + i)
    (toSigned 8 x.1.toNat, x.2))

/-! ## `MEM_ROWOP` -/

/-- R139: the command of a `MEM_ROWOP` function on rows. -/
def rowopCmd (fn : Nat) (d x y : BitVec 16) : RowCmd :=
  match fn with
  | 0 => .copy d x
  | 1 => .init d
  | n => .log (logFnOf (n - 2)) d x y

/-- R86, R215: a pseudo-channel that a broadcast skips: decode saw it out of service, or it has left service since. -/
def State.bcSkips (s : State) (r : Rec) (g : Nat) : Bool := r.gonePcs.contains g || !s.pcUp g

/-- R84, R86, R386: the row operations of a broadcast, unit by unit; none in a pseudo-channel that it skips. -/
def State.bcRowList (s : State) (r : Rec) : List MRow :=
  (((s.bcPcs r).filter fun g => !s.bcSkips r g).map fun g => (r.bcUnits.map fun p => (List.range r.bcReps).map fun i =>
    let (d, x, y) := r.bcRows i
    { su := 16 * g + p, cmd := rowopCmd r.fn d x y : MRow }).flatten).flatten

/-- R86: the record of a broadcast with the unit identifier of the first pseudo-channel that it skips. -/
def State.noteSkipped (s : State) (r : Rec) : Rec :=
  match (s.bcPcs r).find? (s.bcSkips r) with
  | some g => { r with skipUnit := unitId 4 g }
  | none => r

/-- The columns of the pattern that an initialise reads. -/
def State.patternCols (s : State) (r : Rec) : List Nat := if r.fn = 1 ∧ !r.spore then s.colsOf (lineDpa (r.fld 0x38 64)) 64 else []

/-- R139: the pattern of an initialise: its spore, or the 64 bytes at `REF1`. -/
def State.patternOf (s : State) (r : Rec) : Burst × Burst :=
  if r.spore then
    let p := BitVec.ofNat 512 (bits r.raw.toNat 512 512)
    ({ data := lineHalf p 0, check := freshCheck (lineHalf p 0) false }, { data := lineHalf p 1, check := freshCheck (lineHalf p 1) false })
  else match s.bursts r (lineDpa (r.fld 0x38 64)) 2 with
    | [a, b] => (a, b)
    | _ => ({ data := 0, check := 0 }, { data := 0, check := 0 })

/-- R302: the rows of a `MEM_ROWOP`; with the pool at 0 a broadcast stops. -/
def State.rowopRows (s : State) (r : Rec) : List MRow :=
  if r.broadcast then (if r.codes.any (fun c => c.1 == Status.powerDenied) then [] else s.bcRowList r)
  else r.listRows s.lay (rowopCmd r.fn)

/-- The data effect of `MEM_ROWOP`. -/
def State.rowopWork (s : State) (r : Rec) (rows : List MRow) : State :=
  let loads := if r.fn = 1 then [cfgLoad none none (some (s.patternOf r))] else []
  ((s.noteReads .frond (s.patternCols r)).runRows r loads rows).finish (if r.broadcast then s.noteSkipped r else r) 1024

/-- `MEM_ROWOP` (R71, R84 to R86, R139, R141, R386): copies, initialises and logic on whole rows. -/
def execMemRowop (q : Nat) (seq : Word32) (s : State) : Host.Outcome State Fault Refusal :=
  .next (onRec q seq 0x11 s fun r =>
    let rows := s.rowopRows r
    if s.rowsReady rows then (s.reachRec r (s.patternCols r)).rowopWork r rows else s)

/-! ## `MEM_EW` -/

/-- The columns of the lookup table that a `MEM_EW` reads. -/
def State.tableCols (s : State) (r : Rec) : List Nat := if r.variant = 7 then s.colsOf (lineDpa (r.fld 0x38 64)) 256 else []

/-- R55, R56, R139: the loads of a `MEM_EW` record: `LANE` and `SHIFT`, the constants, the table at `REF1`. -/
def State.ewLoads (s : State) (r : Rec) : List LoadCmd :=
  let f := r.fld 0x40 8
  let k := BitVec.ofNat 256 (r.fld 0x44 32 + r.fld 0x48 32 * 2 ^ 32 + r.fld 0x4C 16 * 2 ^ 64)
  cfgLoad (some (bits f 0 2 * 2 ^ 8 + bits f 2 6 * 2 ^ 10)) (some { data := k, check := freshCheck k false }) none
    :: (if r.variant = 7 then [.lut (s.bursts r (lineDpa (r.fld 0x38 64)) 8)] else [])

/-- The rows of a `MEM_EW`. -/
def State.ewRows (s : State) (r : Rec) : List MRow := r.listRows s.lay fun d x y => .elt (eltOpOf r.variant) d x y

/-- The data effect of `MEM_EW`. -/
def State.memEwWork (s : State) (r : Rec) (rows : List MRow) : State :=
  ((s.noteReads .frond (s.tableCols r)).runRows r (s.ewLoads r) rows).finish r (8192 / laneBits (r.fld 0x40 2))

/-- `MEM_EW` (R69, R70, R139, R141): element-wise operations on rows. -/
def execMemEw (q : Nat) (seq : Word32) (s : State) : Host.Outcome State Fault Refusal :=
  .next (onRec q seq 0x12 s fun r =>
    if s.rowsReady (s.ewRows r) then (s.reachRec r (s.tableCols r)).memEwWork r (s.ewRows r) else s)

/-! ## `MEM_NORM` -/

/-- R72, R139: the rows of a `MEM_NORM`, from `C_FIRST` to `C_LAST`. -/
def State.normRows (s : State) (r : Rec) : List MRow :=
  r.listRows s.lay fun _ x _ => .nrm x (bits r.raw.toNat (8 * 0x40 + 8) 5) (r.fld 0x42 5)

/-- Whether a unit that feeds vector `v` is abandoned. -/
def Rec.vecLost (l : Layout) (r : Rec) (v : Nat) : Bool := r.rowE.any fun e => e.vec == v && !r.unitRuns (unitOf l e.window e.unit)

/-- R139: the reciprocal square root of the mean of `sq` over `n` plus `eps`, where it is defined. -/
def exactRsqrt (sq : Int) (n : Nat) (eps : Word32) : Option FVal :=
  match fp32Val eps with
  | .fin neg m e =>
    let z : Int := if neg then -(m : Int) else m
    let p : Int := sq * (2 ^ (-e).toNat : Nat) + z * ((2 ^ e.toNat : Nat) : Int) * n
    if 0 < p then some (sqrtVal (n * 2 ^ (-e).toNat) p.toNat) else none
  | _ => none

/-- R139: the reciprocal of a sum, where it is defined. -/
def exactRecip (z : Int) : Option FVal :=
  if z = 0 then none
  else match ratVal 1 z.natAbs with
    | .fin _ m e => some (.fin (decide (z < 0)) m e)
    | v => some v

/-- R139: the result elements of vector `v` from its sum and sum of squares. -/
def Rec.normResult (r : Rec) (d : Desc) (v : Nat) (e : Int × Int × Bool) : List OutElem :=
  let one (ix : List Nat) (val : Val) : OutElem :=
    let q := encodeElem d.fmt val
    { ix, pat := q.1, sat := if q.2 then 1 else 0, poison := e.2.2 }
  let eps := BitVec.ofNat 32 (r.fld 0x48 32)
  match r.variant with
  | 0 => [one [0, v] (.int e.1), one [1, v] (.int e.2.1)]
  | 1 => [one [v] (.flt (oneUlp (Config.normRsqrt e.2.1 (r.fld 0x44 32) eps) (exactRsqrt e.2.1 (r.fld 0x44 32) eps)))]
  | _ => [one [v] (.flt (oneUlp (Config.normRecip e.1) (exactRecip e.1)))]

/-- R139: the extents of the results of a `MEM_NORM`: a sum and a sum of squares of each vector, or one value of each. -/
def Rec.normExt (r : Rec) (d : Desc) : List Nat := if r.variant = 0 then [2, d.ext.getD 1 0] else [d.ext.headD 0]

/-- The result elements of a `MEM_NORM` whose units have all run. -/
def Rec.normElems (l : Layout) (r : Rec) (d : Desc) (sums : Tbl (Int × Int × Bool)) : List OutElem :=
  (((List.range ((r.normExt d).getLastD 0)).filter fun v => !r.vecLost l v).map fun v => r.normResult d v (Tbl.get (0, 0, false) sums v)).flatten

/-- The data effect of `MEM_NORM`: the rows run, the results are written. -/
def State.memNormWork (s : State) (r : Rec) (d : Desc) : State :=
  let x := s.runRows r [cfgLoad (some (r.fld 0x40 2 * 2 ^ 8)) none none] (s.normRows r)
  let r' : Rec := { r with swept := true, sat := r.sat + x.sats }
  (x.st.setRec r').writeElems r' d (r.normElems s.lay d x.sums)

/-- `MEM_NORM` (R72, R139, R141): normalising partials of vectors, and what the scalar unit forms of them. -/
def execMemNorm (q : Nat) (seq : Word32) (s : State) : Host.Outcome State Fault Refusal :=
  .next (onRec q seq 0x13 s fun r =>
    match r.desc 1 with
    | some d =>
      if s.rowsReady (s.normRows r) then (s.reachRec r (s.descCols d (r.normExt d))).memNormWork r d else s
    | none => s)

end Sys2Proof.Machine
end

