-- ==== Sys2Proof/Machine/Thermal.lean ====
section
/-! DEFINITION. Sensors, thresholds, throttling, bands and root steps (R25, R307 to R314, R319). -/

namespace Sys2Proof.Machine

open Sys2Proof

/-- The classes of thermal domains (R307). -/
inductive DomClass where
  | logic | dram | pack | inlet | outlet
deriving DecidableEq, Repr

/-- R319: the class of a domain by its entry index. -/
def domClass (d : Nat) : DomClass :=
  if d < 37 then .logic else if d < 69 then .dram else if d = 69 then .pack else if d = 70 then .inlet else .outlet

/-- R307: how many sensors a domain has. -/
def sensorCount (d : Nat) : Nat := if d < 4 then 16 else if d = 4 then 8 else if d < 37 then 2 else if d < 69 then 32 else 1

/-- R309, R363: the unit identifier of a domain's die or stack. -/
def domUnit (d : Nat) : Nat :=
  if d < 4 then unitId 1 d else if d = 4 then 0 else if d < 37 then unitId 2 (d - 5) else if d < 69 then unitId 2 (d - 37) else 0

/-! ## Sensors (R307 to R309) -/

/-- R307: whether a reading lies within −40 to 150 °C. -/
def tempOk (v : Int) : Bool := decide (-640 ≤ v) && decide (v ≤ 2400)

/-- R307: how many samples in a row have had no reading of a sensor. -/
def Sensor.missing (x : Sensor) (r : Option Int) : Nat := if r.isSome then 0 else Nat.min 10 (x.missed + 1)

/-- R307: whether a sensor is out of range: by its reading, or by none for 10 ms, which are ten samples. -/
def sensorBad (x : Sensor) (r : Option Int) : Bool :=
  match r with
  | some v => !tempOk v
  | none => decide (10 ≤ x.missing r)

/-- R308: the neighbours of DRAM sensor `i` (2 × die + position). -/
def neighbours (i : Nat) : List Nat :=
  [if i % 2 = 0 then i + 1 else i - 1, if i / 2 = 15 then i - 2 else i + 2]

/-- The reading of a sensor in a sample. -/
def readOf (reads : List (Option Int)) (i : Nat) : Option Int := (reads.getD i none)

/-- R308: the readings of the usable neighbours of a DRAM sensor. -/
def usableNb (x : Domain) (reads : List (Option Int)) (i : Nat) : List Int :=
  (neighbours i).filterMap fun j =>
    match readOf reads j with
    | some v => if tempOk v && !(Tbl.get {} x.sensors j).out then some v else none
    | none => none

/-- Whether two readings differ by more than 15 °C. -/
def farApart (a b : Int) : Bool := decide (240 < (a - b).natAbs)

/-- R308: judge a DRAM sensor: its new state, and the value that it gives its domain. -/
def dramSensor (now : Nat) (x : Domain) (reads : List (Option Int)) (i : Nat) : Sensor × Option Int :=
  let sn := Tbl.get ({} : Sensor) x.sensors i
  let r := readOf reads i
  let nbs := usableNb x reads i
  let near := match r with
    | some v => tempOk v && nbs.any fun n => !farApart v n
    | none => false
  let okSince := if sn.out && near then (match sn.okSince with
    | some t => some t
    | none => some now) else none
  let readmit := match okSince with
    | some t => decide (t + 1000000000 ≤ now)
    | none => false
  let away := match r with
    | some v => decide (nbs.length = 2) && nbs.all fun n => farApart v n
    | none => false
  let out := if sn.out then !readmit else sensorBad sn r || away
  let value := if out then (maxInt nbs).map (· + 80) else r
  ({ missed := sn.missing r, out, okSince := if out then okSince else none }, value)

/-- R309: judge a sensor of another class: a compute sensor stays substituted until its first reading after a reset is in range. -/
def otherSensor (c : DomClass) (x : Domain) (reads : List (Option Int)) (i : Nat) : Sensor × Option Int :=
  let sn := Tbl.get ({} : Sensor) x.sensors i
  let r := readOf reads i
  let bad := sensorBad sn r
  let out := if c = .logic ∧ !(sn.recheck && r.isSome) then sn.out || bad else bad
  let value := if out then (match c with
      | .logic => some 1696
      | .outlet => some 976
      | .inlet => some 736
      | _ => none)
    else r
  ({ missed := sn.missing r, out, recheck := sn.recheck && r.isNone }, value)

/-- R308, R309: judge sensor `i` of a domain. -/
def judgeSensor (now d : Nat) (x : Domain) (reads : List (Option Int)) (i : Nat) : Sensor × Option Int :=
  if domClass d = .dram then dramSensor now x reads i else otherSensor (domClass d) x reads i

/-- R309: the entry of an exclusion or substitution (0 for DRAM, 1 elsewhere) or a readmission (2), with the sensor's reading `r`, or
what stands for it when it gives none. -/
def logSensor (s : State) (d i : Nat) (was is : Bool) (r : Option Int) : State :=
  if was = is then s
  else
    let action := if !is then 2 else if domClass d = .dram then 0 else 1
    s.ev 0x07 0 (domUnit d) (i + action * 2 ^ 8) (ofSigned 64 (r.getD 0))

/-! ## Thresholds (R310, R311) -/

/-- R310: the thresholds of a class in 1/16 °C: warning, its clear point, throttle, its clear point, shut-down, its clear point. -/
def thresholds (c : DomClass) : Int × Int × Int × Int × Int × Int :=
  match c with
  | .logic => (1520, 1440, 1680, 1600, 1888, 1520)
  | .dram => (1360, 1280, 1520, 1440, 1680, 1360)
  | .pack => (720, 640, 880, 800, 1040, 800)
  | .outlet => (880, 800, 960, 880, 1040, 880)
  | .inlet => (720, 720, 0, 0, 0, 0)

/-- R311: count one reading against the thresholds, and the level that follows. -/
def Domain.judge (x : Domain) (c : DomClass) (r : Int) : Domain :=
  let t := thresholds c
  let cnt (b : Bool) (n : Nat) : Nat := if b then Nat.min 1000 (n + 1) else 0
  if c = .inlet then
    let inside := decide (240 ≤ r) && decide (r ≤ 720)
    let x := { x with reading := r, warnUp := cnt (!inside) x.warnUp, warnDown := cnt inside x.warnDown }
    { x with level := if x.level = 0 then (if 2 ≤ x.warnUp then 1 else 0) else if 10 ≤ x.warnDown then 0 else 1 }
  else
    let x := { x with
      reading := r
      warnUp := cnt (decide (t.1 ≤ r)) x.warnUp
      warnDown := cnt (decide (r ≤ t.2.1)) x.warnDown
      thrUp := cnt (decide (t.2.2.1 ≤ r)) x.thrUp
      thrDown := cnt (decide (r ≤ t.2.2.2.1)) x.thrDown
      shutUp := cnt (decide (t.2.2.2.2.1 ≤ r)) x.shutUp
      shutDown := cnt (decide (r ≤ t.2.2.2.2.2)) x.shutDown }
    let lvl :=
      if x.level = 3 then (if c = .pack ∧ 10 ≤ x.shutDown then x.unshut else 3)
      else if 2 ≤ x.shutUp then 3
      else if (if 2 ≤ x.level then decide (x.thrDown < 10) else decide (2 ≤ x.thrUp)) then 2
      else if (if 1 ≤ x.level then decide (x.warnDown < 10) else decide (2 ≤ x.warnUp)) then 1
      else 0
    { x with level := lvl }

/-! ## Acting on a level (R309, R310, R312, R314, R315) -/

/-- R312: lower the cores of a frond, or the eighths of a stack, to their cap; what they held above it returns. -/
def State.applyCaps (s : State) (d : Nat) : State :=
  if (s.dom d).level < 2 then s
  else if d < 4 then
    ((List.range 16).map (16 * d + ·)).foldl (fun s c => s.capAt (.core (Fin.ofNat 64 c)) (s.core c).level 2) s
  else if 5 ≤ d ∧ d < 37 then s.capAt (.stack (Fin.ofNat 32 (d - 5))) (s.eighths (d - 5)) 4
  else s

/-- R310, R315: a shut-down that a domain's level calls for. -/
def State.thermalShut (s : State) (d sensor : Nat) : State :=
  let r := (s.dom d).reading
  match domClass d with
  | .logic => s.logicShutdown 1 sensor (domUnit d) r 1888
  | .dram => s.fullShutdown 2 sensor (domUnit d) r 1680
  | .outlet => s.logicShutdown 3 sensor (domUnit d) r 1040
  | _ => s

/-- R309, R310: what the pack's cell temperature and its sensor do: charging stops, the pack disconnects, retention ends. -/
def State.packThermal (s : State) : State :=
  let x := s.dom 69
  let s := s.packSet { s.pack with
    hot := decide (2 ≤ x.level), disconnected := decide (x.level = 3), sensorOk := !(Tbl.get {} x.sensors 0).out }
  if x.level = 3 ∧ s.phase = .retention then s.loseContents else s

/-- The index of the first of the given values that equals a reading. -/
def sensorAt (vals : List (Option Int)) (r : Int) : Nat := (vals.takeWhile (· != some r)).length

/-- R308: whether an excluded DRAM sensor has no usable neighbour: the domain then reads 96 °C. -/
def aloneOut (d : Nat) (x : Domain) (reads : List (Option Int)) (js : List (Sensor × Option Int)) : Bool :=
  domClass d = .dram && (List.range (sensorCount d)).any fun i => (js.getD i ({}, none)).1.out && (usableNb x reads i).isEmpty

/-- R314, R332: at a change of its band a stack's interface re-centres: the delays of the lanes at the present root step; a lane that shows no
eye within ±8 steps is swept in full, which is logged (DESIGN CHOICE, log entry 137: as a degraded link), and one whose eye stays narrower
than 20 steps takes its channel out of service. -/
def State.recentre (s : State) (st : Nat) (lanes : List LaneFit) : State :=
  let mine := lanes.filter fun x => laneChannel x / 32 == st
  let s := s.storeLanes mine
  let full := mine.filter (·.full)
  let s := full.foldl (fun s x => s.ev 0x0B 0 (unitId 3 (laneChannel x)) 0 x.lane) s
  ((dedup ((full.filter eyeNarrow).map laneChannel)).foldl failTraining s).settle

/-- R307 to R314: one sample of one domain. -/
def sampleDom (s : State) (d : Nat) (reads : List (Option Int)) (lanes : List LaneFit) : State :=
  let x := s.dom d
  let now := s.time.now
  let js := (List.range (sensorCount d)).map fun i => judgeSensor now d x reads i
  let vals := js.map (·.2)
  let r := if aloneOut d x reads js then 1536 else (maxInt (vals.filterMap id)).getD x.reading
  let tbl := (List.range (sensorCount d)).foldl (fun t i => Tbl.put {} t i ((js.getD i ({}, none)).1)) ([] : Tbl Sensor)
  let s := (List.range (sensorCount d)).foldl (fun s i =>
    logSensor s d i (Tbl.get ({} : Sensor) x.sensors i).out (Tbl.get ({} : Sensor) tbl i).out
      (match readOf reads i with
      | some v => some v
      | none => (js.getD i ({}, none)).2)) s
  let y := ({ x with sampled := true, sensors := tbl, subst := tbl.any (·.2.out) }).judge (domClass d) r
  let y := { y with
    band := if domClass d = .dram then 1 + Nat.min 2 y.level else 0
    throttleAt := if y.level < 2 then none else if x.level < 2 then some now else x.throttleAt }
  let s := s.setDom d y
  let s := if y.level = x.level then s
    else
      let s := s.ev 0x08 0 (domUnit d) (d + y.level * 2 ^ 8 + s.time.root * 2 ^ 16) (ofSigned 64 y.reading)
      if x.level < y.level then { s with side := { s.side with alert := true } } else s
  let s := s.applyCaps d
  let s := if domClass d = .dram ∧ Nat.max 1 x.band ≠ y.band ∧ s.booted then s.recentre (d - 37) lanes else s
  if domClass d = .pack then s.packThermal
  else if y.level = 3 ∧ x.level ≠ 3 then s.thermalShut d (sensorAt vals r)
  else s

/-- R313: whether a cause of a root step stands. -/
def State.hotCause (s : State) : Bool :=
  (List.range 37).any (fun d => decide (2 ≤ (s.dom d).level)) || decide (2 ≤ (s.dom 71).level) || s.therm.powerHigh

/-- R313: whether the input power or current stands above its limit. -/
def State.inputHigh (s : State) (mw ma : Nat) : Bool := decide (21 * 100 * s.power.envelope < 20 * mw) || decide (48000 < ma)

/-- Whether a domain is sampled in the present phase: all while the thermal manager is powered, the pack cells in retention. -/
def State.sampled (s : State) (d : Nat) : Bool :=
  decide (d < 72) && (d != 69 || s.pack.present) &&
    (match s.phase with
     | .off => false
     | .retention => d == 69
     | _ => true)

/-- `THERMAL_SAMPLE` (R307 to R314): the sensors of the listed domains, once per millisecond, and the input as measured. -/
def execThermalSample (at_ : Nat) (samples : List DomSample) (input : InputReading) (s : State) :
    Host.Outcome State Fault Refusal :=
  let s := s.advance at_
  let s := samples.foldl (fun s x => if s.sampled x.dom then sampleDom s x.dom x.reads x.lanes else s) s
  .next (if s.phase = .off ∨ s.phase = .retention then s
    else
      let s := { s with power := { s.power with inputMv := input.mv, inputMa := input.ma, inputMw := input.mw } }
      let s := { s with therm := { s.therm with powerHigh := s.inputHigh input.mw input.ma } }
      { s with therm := { s.therm with clearedAt :=
          if s.hotCause then none else (match s.therm.clearedAt with
            | some t => some t
            | none => some s.time.now) } })

/-! ## Root steps (R25, R313) -/

/-- R313: ask for a root step, and log it (kind 0x08, domain 0x80). -/
def State.askRoot (s : State) (r cause : Nat) : State :=
  ({ s with time := { s.time with wantRoot := some r } } : State).ev 0x08 0 0 (0x80 + cause * 2 ^ 10 + r * 2 ^ 16)

/-- R313: whether a cause of a step down stands at this instant, and the code of the cause. -/
def State.stepCause (s : State) (c : StepCause) : Bool × Nat :=
  match c with
  | .logic d =>
    let x := s.dom d
    (decide (d < 37) && decide (2 ≤ x.level) && (match x.throttleAt with
      | some t => decide (t + 10000000 ≤ s.time.now)
      | none => false), 0)
  | .outlet => (decide (2 ≤ (s.dom 71).level) && (s.dom 71).throttleAt.isSome, 1)
  | .power mw => (s.inputHigh mw 0, 2)
  | .current ma => (s.inputHigh 0 ma, 3)

/-- R313: a step down starts the domain's next 10 ms; the outlet steps once per crossing; power and current stand until a sample
finds them cleared. -/
def State.stepTaken (s : State) (c : StepCause) : State :=
  match c with
  | .logic d => s.setDom d { s.dom d with throttleAt := some s.time.now }
  | .outlet => s.setDom 71 { s.dom 71 with throttleAt := none }
  | _ => { s with therm := { s.therm with powerHigh := true, clearedAt := none } }

/-- R313: whether the root may be asked to step: it runs, and no step asked for is still to come: one step at a time. -/
def State.mayStep (s : State) : Bool := s.phase.compute && s.time.wantRoot.isNone

/-- `THROTTLE_STEP_DOWN` (R313). -/
def execThrottleStepDown (at_ : Nat) (cause : StepCause) (s : State) : Host.Outcome State Fault Refusal :=
  let s := s.advance at_
  let (due, code) := s.stepCause cause
  .next (if s.mayStep && due then
      let s := s.stepTaken cause
      if s.time.root < 2 then s.askRoot (s.time.root + 1) code else s
    else s)

/-- `THROTTLE_STEP_UP` (R313): every cause cleared for 100 ms, at most one step up per 100 ms. -/
def execThrottleStepUp (at_ : Nat) (s : State) : Host.Outcome State Fault Refusal :=
  let s := s.advance at_
  let due := match s.therm.clearedAt with
    | some t => decide (t + 100000000 ≤ s.time.now) && decide (s.therm.lastUp + 100000000 ≤ s.time.now)
    | none => false
  .next (if s.mayStep && due && decide (0 < s.time.root) then
      ({ s with therm := { s.therm with lastUp := s.time.now } } : State).askRoot (s.time.root - 1) 4
    else s)

/-- R25: of the refreshes that controllers pull in at a retarget, the first four of each channel. -/
def firstFour : List Nat → List Nat → List Nat
  | _, [] => []
  | seen, su :: r =>
    if (seen.filter fun x => x / 32 == su / 32).length < 4 then su :: firstFour (su :: seen) r else firstFour seen r

/-- R25: the bank pairs whose refreshes the controllers pull in: at most four of each channel, which ones is not stated: a free value
(DESIGN CHOICE, log entry 129). -/
def State.pulledIn (s : State) : List Nat := firstFour [] ((Config.pulledRefreshes s.free).filter fun su => decide (su < 32768))

/-- R343: a `SECURE_ERASE` that executes has its limit extended when the root reaches 4.8 GHz before 50 ms have passed. -/
def Mbox.slowed (b : Mbox) (s : State) (root : Nat) : Mbox :=
  if b.cur ∧ root = 2 ∧ s.time.now < b.startAt + 50000000 then { b with slow := true } else b

/-- `ROOT_RETARGET` (R25): outside training, controllers pull in refreshes, all clocks move together to the step asked for, and the delays
stored for it are loaded (R332); the timebase counts on under R26. DESIGN CHOICE (log entry 109): the LCLK already counted of a period of 4
or 3 are forgotten. -/
def execRootRetarget (s : State) : Host.Outcome State Fault Refusal :=
  .next (match s.time.wantRoot with
    | some r =>
      if s.phase = .starting ∧ s.booted = false then s
      else
        let s := s.pulledIn.foldl (fun s su => s.issueRefresh su) s.fresh
        { s with time := { s.time with root := r, wantRoot := none, frac := 0 }, delays := s.delays.load r
                 mboxes := s.mboxes.map fun e => (e.1, e.2.slowed s r) }
    | none => s)

/-! ## Telemetry (R319) -/

/-- R319: one entry of `GET_THERMAL`. -/
def State.thermEntry (s : State) (d : Nat) : Nat :=
  let x := s.dom d
  let band := if domClass d = .dram then Nat.max 1 x.band else 0
  ofSigned 16 x.reading + x.level * 2 ^ 16 + band * 2 ^ 18 + (if x.subst then 2 ^ 20 else 0)

/-- `GET_THERMAL` (R319): 72 entries of 4 bytes. -/
def execGetThermal (mb : Fin 32) (s : State) : Host.Outcome State Fault Refusal :=
  .next (molianFixed mb 0x0901 .any 0 [] (fun _ s =>
    .done 0 288 (natOf ((List.range 72).map fun d => bytesOf 4 (s.thermEntry d)).flatten) [] s) s)

end Sys2Proof.Machine
end

