-- ==== Sys2Proof/Machine/Sideband.lean ====
section
/-! DEFINITION. Sideband management and its alert (R317 to R320, R331, R379 to R381). -/

namespace Sys2Proof.Machine

open Sys2Proof

/-- R376: the `READY` pin is released while the module is ready, and low at every other time. -/
def State.readyPin (s : State) : Bool := s.phase == .ready

/-- R376: `THERM_TRIP#` is driven low while a shut-down latch stands. -/
def State.thermTripLow (s : State) : Bool := s.shut.latched

/-- R380: the phases in which a sideband command is answered: `both` also in retention and full shut-down, `full` also in full
shut-down, `none` in neither. An unpowered module answers nothing. -/
inductive SbWhen where
  | both | full | none
deriving DecidableEq, Repr

/-- R380: whether a command is answered in a phase. -/
def sbAnswered (w : SbWhen) (p : Phase) : Bool :=
  match p, w with
  | .retention, .both => true
  | .retention, _ => false
  | .fullShut, .none => false
  | _, _ => true

/-- R379, R380: run a sideband command where it is answered; elsewhere it reads `ERR_OUT_OF_SERVICE`. -/
def sbRun (w : SbWhen) (s : State) (f : State → State) : Host.Outcome State Fault Refusal :=
  .next (if s.phase = .off then s else if sbAnswered w s.phase then f s else s.emit (.sideband Status.outOfService []))

/-- R379: a read's answer: status and the little-endian bytes of its data. -/
def State.sbAnswer (s : State) (n x : Nat) : State := s.emit (.sideband Status.ok (bytesOf n x))

/-- `SB_IDENT` (R380): `PART_ID`, the module serial, the firmware versions of both slots. -/
def execSbIdent (s : State) : Host.Outcome State Fault Refusal :=
  sbRun .both s fun s => s.sbAnswer 20 (0xB3202048 + Config.moduleSerial.toNat * 2 ^ 32 + s.fw.slotA.shown * 2 ^ 96
    + s.fw.slotB.shown * 2 ^ 128)

/-- R381: the code of `PHASE`. -/
def phaseCode : Phase → Nat
  | .off => 0
  | .starting => 0
  | .ready => 1
  | .retention => 2
  | .logicShut => 3
  | .fullShut => 4
  | .held => 5

/-- R381: the `SB_STATE` word. -/
def State.stateWord (s : State) : Nat :=
  let b (x : Bool) (i : Nat) : Nat := if x then 2 ^ i else 0
  let own := if s.phase = .ready then (match s.own.st with
    | .window => 0
    | .owned p => 1 + p.val * 4
    | .vacant => 2) else 3
  phaseCode s.phase + own * 2 ^ 3 + b s.pack.ready 7 + s.time.root * 2 ^ 8 + b s.shut.read 10 + b s.cooled 11
    + b (s.fw.slot s.fw.running).trial 12

/-- `SB_STATE` (R381). -/
def execSbState (s : State) : Host.Outcome State Fault Refusal := sbRun .both s fun s => s.sbAnswer 4 s.stateWord

/-- The highest reading of `n` domains from `d` on. -/
def State.hottest (s : State) (d n : Nat) : Int := (maxInt ((List.range n).map fun i => (s.dom (d + i)).reading)).getD 0

/-- `SB_THERMAL` (R380): seven readings of 16 bits. -/
def execSbThermal (s : State) : Host.Outcome State Fault Refusal :=
  sbRun .full s fun s =>
    s.emit (.sideband Status.ok (([s.hottest 0 4, s.hottest 4 1, s.hottest 5 32, s.hottest 37 32, s.hottest 69 1, s.hottest 70 1,
      s.hottest 71 1].map fun z => bytesOf 2 (ofSigned 16 z)).flatten))

/-- `SB_POWER` (R319, R380). -/
def execSbPower (s : State) : Host.Outcome State Fault Refusal :=
  sbRun .full s fun s => s.sbAnswer 12 (s.power.inputMv + s.power.inputMa * 2 ^ 32 + s.power.inputMw * 2 ^ 64)

/-- `SB_SHUTDOWN` (R317, R380): the record; the read sets `SD_READ`. -/
def execSbShutdown (s : State) : Host.Outcome State Fault Refusal :=
  sbRun .full s fun s =>
    let t := s.sbAnswer 32 s.recordBody
    { t with shut := { t.shut with read := t.shut.read || decide (t.shut.kind ≠ 0) } }

/-- `SB_CLEAR` (R318, R380): as `CLEAR_SHUTDOWN`. -/
def execSbClear (s : State) : Host.Outcome State Fault Refusal :=
  sbRun .full s fun s =>
    if s.mayClear then s.clearLatch.emit (.sideband Status.ok []) else s.emit (.sideband Status.contextState [])

/-- `SB_PACK` (R320, R380): bytes 0x00 to 0x1F of `PACK_STATUS`. -/
def execSbPack (s : State) : Host.Outcome State Fault Refusal := sbRun .both s fun s => s.sbAnswer 32 s.pack.body

/-- `SB_CLAIM_PRIO` (R263, R380): the claim priorities of the four ports, read, or written to NVM for the next window. -/
def execSbClaimPrio (w : Option Word32) (s : State) : Host.Outcome State Fault Refusal :=
  sbRun .none s fun s =>
    match w with
    | none => s.emit (.sideband Status.ok (s.own.nvmPrio.map fun x => BitVec.ofNat 8 x))
    | some v =>
      let s := { s with own := { s.own with nvmPrio := (List.range 4).map fun i => bits v.toNat (8 * i) 8 } }
      s.emit (.sideband Status.ok [])

/-- `SB_FW_RECOVER` (R331, R380): image bytes into a slot while the module is held with both slots rejected; the slot is judged anew
at the next attempt to boot. -/
def execSbFwRecover (slot off : Nat) (data : List Byte) (s : State) : Host.Outcome State Fault Refusal :=
  sbRun .none s fun s =>
    if s.phase ≠ .held then s.emit (.sideband Status.contextState [])
    else if 2 ≤ slot ∨ 64 < data.length then s.emit (.sideband Status.fieldRange [])
    else
      let x := s.fw.slot slot
      let fw := s.fw.setSlot slot { x with rejected := false, staged := (off, data) :: x.staged }
      { s with fw }.emit (.sideband Status.ok [])

/-- `SB_ALERT_RESPONSE` (R381): a read of the alert response address releases `SMB_ALERT#`. -/
def execSbAlertResponse (s : State) : Host.Outcome State Fault Refusal :=
  .next (if s.phase = .off then s else { s with side := { s.side with alert := false } })

end Sys2Proof.Machine
end

