-- ==== Sys2Proof/Machine/TensorRecords.lean ====
section
/-! DEFINITION. The records that frond cores compute: `MATMUL`, `MATMUL_Q`, `EW_CHAIN`, `REDUCE`, `NORM` (R118 to R131, R139, R140, R186,
R188). -/

namespace Sys2Proof.Machine

open Sys2Proof

/-- `MATMUL` (R118 to R123, R139): the output tiles of a product, each through its chain. -/
def execMatmul (q : Nat) (seq : Word32) (s : State) : Host.Outcome State Fault Refusal :=
  .next (onData q seq 0x01 s State.matmulWork)

/-- `MATMUL_Q` (R139, R186, R188): a product with its rescale before the chain. -/
def execMatmulQ (q : Nat) (seq : Word32) (s : State) : Host.Outcome State Fault Refusal :=
  .next (onData q seq 0x02 s State.matmulWork)

/-- `EW_CHAIN` (R125 to R127, R139, R140). -/
def execEwChain (q : Nat) (seq : Word32) (s : State) : Host.Outcome State Fault Refusal :=
  .next (onData q seq 0x20 s State.ewWork)

/-- `REDUCE` (R128, R130, R131, R139). -/
def execReduce (q : Nat) (seq : Word32) (s : State) : Host.Outcome State Fault Refusal :=
  .next (onData q seq 0x21 s State.reduceWork)

/-- `NORM` (R139). -/
def execNorm (q : Nat) (seq : Word32) (s : State) : Host.Outcome State Fault Refusal :=
  .next (onData q seq 0x22 s State.normWork)

end Sys2Proof.Machine
end

