-- ==== Sys2Proof/Machine/Tickets.lean ====
section
/-! DEFINITION. The ticket protocol of the tile dispatcher, the chunks that it loads into core memory, the commit of a ticket's outputs
(R115, R116, R120, R148 to R152, R176, R178). -/

namespace Sys2Proof.Machine

open Sys2Proof

/-! ## Claimants (R21, R32, R149, R151, R176) -/

/-- R149, R176: a claimant that may hold tickets of a record: a core, or an engine for what engines run. -/
def Rec.servedBy (r : Rec) (who : Claimant) : Bool :=
  match who with
  | .core _ => !r.byEngine
  | .engine _ => r.byEngine

/-- R133: whether a claimant starts operations: a core does at a grant level of 1 or more. -/
def State.mayRun (s : State) (who : Claimant) : Bool :=
  match who with
  | .core c => decide (0 < (s.core c.val).level)
  | .engine _ => true

/-- R21, R32, R133, R151: whether a claimant takes new tickets: it is in service and not under `UNIT_DISABLE`, it starts operations, its
frond has its path, and what it draws on is not stopped. -/
def State.claims (s : State) (who : Claimant) : Bool :=
  (s.frond (claimantFrond who)).path && !s.stopped.contains .tickets && s.mayRun who
    && match who with
      | .core c => s.coreUp c.val
      | .engine e => (s.engine e.val).svc == .inService && !s.stopped.contains .dmaBytes

/-- R146: the tickets of the range of a claimant's frond. -/
def State.rangeOf (s : State) (r : Rec) (who : Claimant) : List Nat :=
  let (first, n) := ticketRange r.tickets.total (r.fronds s.lay) (claimantFrond who)
  (List.range n).map (first + ·)

/-! ## Chunks (R116, R146, R148, R154) -/

/-- R146: the first tile of a ticket, along M and along N. -/
def Rec.firstTile (r : Rec) (t : Nat) : Nat × Nat :=
  let gm := Nat.max 1 r.tickets.gridM
  let gn := Nat.max 1 r.tickets.gridN
  let (i, j) := if r.tickets.order = 0 then (t / gn, t % gn) else (t % gm, t / gm)
  (i * r.blkM, j * r.blkN)

/-- The first tiles of the chunks of `blk` tiles from `first` on, of a grid of `grid` tiles, taken `c` at a time. -/
def chunkStarts (first blk grid c : Nat) : List Nat :=
  (List.range (Nat.max 1 (ceilDiv (Nat.min blk (grid - first)) (Nat.max 1 c)))).map (first + Nat.max 1 c * ·)

/-- R146: the places of a grid in a loop order: outermost to innermost M, N, K by the codes of an order field. -/
def inOrder (code : Nat) (ms ns ks : List Nat) : List (Nat × Nat × Nat) :=
  match code with
  | 0 => (ms.map fun m => (ns.map fun n => ks.map fun k => (m, n, k)).flatten).flatten
  | 1 => (ms.map fun m => (ks.map fun k => ns.map fun n => (m, n, k)).flatten).flatten
  | 2 => (ns.map fun n => (ms.map fun m => ks.map fun k => (m, n, k)).flatten).flatten
  | 3 => (ns.map fun n => (ks.map fun k => ms.map fun m => (m, n, k)).flatten).flatten
  | 4 => (ks.map fun k => (ms.map fun m => ns.map fun n => (m, n, k)).flatten).flatten
  | _ => (ks.map fun k => (ns.map fun n => ms.map fun m => (m, n, k)).flatten).flatten

/-- R146, R154: the chunks of a ticket in their order: the tiles along M and N, and the K chunk, at which each starts; an operation without a
K dimension has one. -/
def Rec.chunks (r : Rec) (t : Nat) : List (Nat × Nat × Nat) :=
  let (i, j) := r.firstTile t
  if r.hasK then
    inOrder r.orderC (chunkStarts i r.blkM r.grid.1 r.chunk.1) (chunkStarts j r.blkN r.grid.2 r.chunk.2)
      (List.range (Nat.max 1 (ceilDiv r.kSteps (Nat.max 1 r.blkCK))))
  else [(i, j, 0)]

/-- R148: the weight block of a chunk: the record, the chunk's first tile along N, its K chunk. DESIGN CHOICE (log entry 126): blocks are
known by the record that loaded them. -/
def Rec.weightBlock (r : Rec) (at_ : Nat × Nat × Nat) : List Nat := [r.q, r.seq.toNat, at_.2.1, at_.2.2]

/-- Whether a record has weights that a core keeps. -/
def Rec.hasWeights (r : Rec) : Bool := r.isMatmul || r.op == 0x10

/-- R62: elements of a format packed into bytes, each with its poison. -/
def packElems (f : Nat) : List (Nat × Bool) → List (Byte × Bool)
  | [] => []
  | [a] => if f = 0 then [(BitVec.ofNat 8 (a.1 % 16), a.2)] else (bytesOf (fmtBits f / 8) a.1).map (·, a.2)
  | a :: b :: r =>
    if f = 0 then (BitVec.ofNat 8 (a.1 % 16 + b.1 % 16 * 16), a.2 || b.2) :: packElems f r
    else (bytesOf (fmtBits f / 8) a.1).map (·, a.2) ++ packElems f (b :: r)

/-- The pattern of weight (n, k) of a placement map, and whether it is bad. -/
def State.mapWeight (s : State) (r : Rec) (n k : Nat) : Nat × Bool :=
  match (r.rowsOf s.lay n).find? (·.k == k / r.sliceE) with
  | some g =>
    let q := (n - g.n) * r.sliceE + k % r.sliceE
    let c := s.bankCol r (rowCol g.su g.w (q / colWeights r.w8))
    let b := 256 / colWeights r.w8
    (bits c.1.toNat (b * (q % colWeights r.w8)) b, c.2)
  | none => (0, false)

/-- The elements of a chunk of a product, operand by operand (1 activations, 2 weights, 3 scales): their format, their runs. R192: in place
of an activation of a listed outlier channel, zero. -/
def State.chunkElems (s : State) (r : Rec) (at_ : Nat × Nat × Nat) : List (Nat × Nat × List (List (Nat × Bool))) :=
  let (i, j, kc) := at_
  let upTo (n : Nat) (l : List Nat) : List Nat := l.filter (decide <| · < n)
  let ms := upTo r.matrix.1 ((List.range (r.chunk.1 * r.tileM)).map (i * r.tileM + ·))
  let ns := upTo r.matrix.2 ((List.range (r.chunk.2 * r.tileN)).map (j * r.tileN + ·))
  let ks := upTo r.kTotal ((List.range (r.blkCK * r.kStep)).map (kc * r.blkCK * r.kStep + ·))
  let outs := match r.desc 1 with
    | some d => d.outChans
    | none => []
  let rows (d : Desc) (l : List Nat) : List (List (Nat × Bool)) := l.map fun m => ks.map fun k => s.elem r d [k, m]
  (match r.actDesc with
    | some x => [(1, x.fmt, ms.map fun m => ks.map fun k => if outs.contains k then (0, false) else s.elem r x [k, m])]
    | none => [])
  ++ (if r.op = 0x10 then [(2, if r.w8 then 1 else 0, ns.map fun n => ks.map (s.mapWeight r n))]
    else match r.desc 2 with
      | some w => [(2, w.fmt, rows w ns)] ++ (if w.scaled then
          [(3, scaleFmtCode w.scaleFmt, ns.map fun n => (ks.filter (· % groupSize w.group == 0)).map fun k =>
            s.recNum r (lineDpa w.scaleRef + fmtBits (scaleFmtCode w.scaleFmt) / 8 * w.scaleIdx [k, n])
              (fmtBits (scaleFmtCode w.scaleFmt) / 8))]
        else [])
      | none => [])

/-- The source elements of the ticket of an operation without a K dimension. -/
def State.tileElems (s : State) (r : Rec) (t : Nat) : List (Nat × Nat × List (List (Nat × Bool))) :=
  match r.desc 0, r.desc 1 with
  | some d, some x =>
    let ixs := (allIdx d.ext).filter fun ix => r.ticketAt (place d.ext ix).1 (place d.ext ix).2 == t
    [(1, x.fmt, [(ixs.filterMap (r.readsAt 1)).map (s.elem r x)])]
  | _, _ => []

/-- R116: what a chunk brings into core memory: the bytes of each operand from the place that the dispatcher gives it. -/
def State.chunkBytes (s : State) (r : Rec) (t : Nat) (at_ : Nat × Nat × Nat) : List (Nat × Byte × Bool) :=
  ((if r.hasK then s.chunkElems r at_ else s.tileElems r t).map fun o =>
    ((o.2.2.map (packElems o.2.1)).flatten).zipIdx.map fun b => (Config.tilePlace t o.1 + b.2, b.1)).flatten

/-- R116, R148: a chunk is loaded into the core memory of a claimant, which holds its weight block from then on. -/
def State.loadChunk (s : State) (r : Rec) (who : Claimant) (t : Nat) (at_ : Nat × Nat × Nat) : State :=
  match who with
  | .core c =>
    let k := (s.core c.val).storeBytes (s.chunkBytes r t at_)
    s.setCore c.val { k with resident := if r.hasWeights then some (r.weightBlock at_) else k.resident }
  | .engine _ => s

/-- R152, R155: an output as it is staged in core memory: its format and pattern; under `ACCUM` what is to be added. -/
def OutElem.staged (d : Desc) (e : OutElem) : Nat × Nat :=
  match e.acc with
  | some (f, v :: _) => (f, (encodeElem f v).1)
  | _ => (d.fmt, e.pat)

/-- R116, R155: the outputs of a ticket are stored in the core memory of its claimant, at the place that the dispatcher gives them. -/
def State.stageOuts (s : State) (r : Rec) (who : Claimant) (t : Nat) : State :=
  match who, r.desc 0 with
  | .core c, some d =>
    let bs := ((r.outs.filter fun e => e.1 == t).map fun e => packElems (e.2.staged d).1 [((e.2.staged d).2, e.2.poison)]).flatten
    s.setCore c.val ((s.core c.val).storeBytes (bs.zipIdx.map fun b => (Config.tilePlace t 0 + b.2, b.1)))
  | _, _ => s

/-! ## Claims (R115, R149, R150) -/

/-- R148, R149: whether the first chunk of a ticket uses the weight block that a core keeps. -/
def State.keepsBlock (s : State) (r : Rec) (who : Claimant) (t : Nat) : Bool :=
  match who with
  | .core c => r.hasWeights && (s.core c.val).resident == ((r.chunks t).head?.map r.weightBlock)
  | .engine _ => false

/-- R149: the ticket that a claim takes: the head of the reissue list, else the lowest unclaimed ticket within 64 of the walk front
whose first weight block is resident, else the lowest unclaimed ticket. -/
def State.nextTicket (s : State) (r : Rec) (who : Claimant) : Option Nat :=
  let mine := (s.rangeOf r who).filter fun t => !r.lostTickets.contains t
  match r.tickets.reissue.find? fun t => mine.contains t with
  | some t => some t
  | none =>
    match mine.filter fun t => (r.ticket t).st == .unclaimed with
    | [] => none
    | front :: rest =>
      some (((front :: rest).find? fun t => decide (t ≤ front + 64) && s.keepsBlock r who t).getD front)

/-- R115: a core that takes its first tile for another context is reset, element by element of R114. DESIGN CHOICE (log entry 144): a context
that is destroyed and created again under its number is another one (`State.forgetCtx`). -/
def State.tileFor (s : State) (who : Claimant) (ctx : Nat) : State :=
  match who with
  | .core c =>
    let k := s.core c.val
    if k.lastCtx = some ctx then s
    else s.setCore c.val { corrected := k.corrected, svc := k.svc, lastCtx := some ctx, level := k.level, lentLevel := k.lentLevel
                           waiting := k.waiting, lastOp := k.lastOp }
  | .engine _ => s

/-- R149: grant a ticket. -/
def Rec.granted (r : Rec) (who : Claimant) (serial : BitVec 16) (t now : Nat) : Rec :=
  let i := claimantIdx who
  let x := r.ticket t
  let cl := r.claimant i
  { r with tickets := { r.tickets with
      tab := Tbl.put {} r.tickets.tab t { x with st := .claimed who x.epoch, since := now }
      reissue := r.tickets.reissue.filter (· != t)
      claimants := Tbl.put {} r.tickets.claimants i { cl with held := cl.held + 1, lastSerial := some serial, lastTicket := some t } } }

/-- R116, R179: a granted ticket's first work: its first chunk, or the read requests of a `HOST_READ` that has begun. -/
def State.beginTicket (s : State) (r : Rec) (who : Claimant) (t : Nat) : State :=
  if r.op = 0x35 ∧ r.workDone then s.askTicket r t else s.loadChunk r who t ((r.chunks t).headD (0, 0, 0))

/-- R149, R150: a claim on a started record. A replayed one is answered whatever the claimant's service. -/
def State.claim (s : State) (r : Rec) (who : Claimant) (serial : BitVec 16) : State :=
  let cl := r.claimant (claimantIdx who)
  if cl.lastSerial = some serial then s.emit (.already who cl.lastTicket)
  else if !s.claims who then s
  else if cl.held = 2 then s.emit (.already who none)
  else if cl.barred || r.halted || r.paused then s.emit (.exhausted who)
  else match s.nextTicket r who with
    | none => s.emit (.exhausted who)
    | some t =>
      let r' := r.granted who serial t s.time.now
      ((((s.tileFor who r.ctx).setRec r').emit (.grant who t (r.ticket t).epoch)).beginTicket r' who t)

/-- `CLAIM_TICKET` (R149, R150): a claim is answered with a grant, `already_claimed` or `exhausted`. -/
def execClaimTicket (q : Nat) (seq : Word32) (who : Claimant) (serial : BitVec 16) (s : State) :
    Host.Outcome State Fault Refusal :=
  .next (match s.findRec q seq with
    | some r => if r.started && r.servedBy who then s.claim r who serial else s
    | none => s)

/-! ## Commits (R120, R149, R151, R152, R178) -/

/-- The outputs of a record that a ticket commits. -/
def Rec.ticketOuts (r : Rec) (t : Nat) : List OutElem := (r.outs.filter fun e => e.1 == t).map (·.2)

/-- R152: the pre-image of a ticket: the destination bytes that it adds to, as they stand. -/
def State.preImage (s : State) (r : Rec) (t : Nat) : List (Nat × Byte × Bool) :=
  match r.desc 0 with
  | some d => ((r.ticketOuts t).map fun e => (List.range (Nat.max 1 (fmtBits d.fmt / 8))).map fun i =>
      let a := d.elemDpa (d.off e.ix) + i
      (a, s.readByte a)).flatten
  | none => []

/-- Whether a record's tickets add to what they find. -/
def Rec.adds (r : Rec) : Bool := r.accum || r.op == 0x33

/-- R178, R180, R215, R255: whether a ticket may be committed: its record's data has been read, the record has not stopped with its context,
of a `HOST_READ` its data has arrived, of a `HOST_WRITE` the link does not retrain. -/
def State.formed (s : State) (r : Rec) (t : Nat) : Bool :=
  r.workDone && !r.halted && !r.paused && (r.op != 0x35 || (r.ticket t).got.length == (r.ticketBytes t).length)
    && (r.op != 0x34 || !(s.port r.variant).retraining)

/-- R149, R152: a granted commit: the pre-image is kept under `ACCUM`, unless a reissued ticket has one already; the core has loaded the
ticket's further chunks in their order (R116, R148) and stored its outputs; a `HOST_WRITE` posts its bytes (R179). -/
def State.commitGo (s : State) (r : Rec) (who : Claimant) (t epoch : Nat) : State :=
  let f := claimantFrond who
  let fr := s.frond f
  let has := fr.preImages.any fun e => e.q == r.q && e.seq == r.seq && e.ticket == t
  let s := if r.adds && !has then
      s.setFrond f { fr with preImages := fr.preImages ++ [{ q := r.q, seq := r.seq, ticket := t, bytes := s.preImage r t }] }
    else s
  let s := ((r.chunks t).tail.foldl (fun s at_ => s.loadChunk r who t at_) s).stageOuts r who t
  let x := r.ticket t
  let r := { r with tickets := { r.tickets with tab := Tbl.put {} r.tickets.tab t { x with st := .committing who epoch } } }
  let s := (s.setRec r).emit (.go who t)
  if r.op = 0x34 then s.postTicket r t else s

/-- `COMMIT_REQUEST` (R149, R151): `go` for a ticket claimed by its requester in its epoch once its outputs are formed and stored, which a core
at grant level 0 (R133) does not do; else `stale`. -/
def execCommitRequest (q : Nat) (seq : Word32) (who : Claimant) (ticket epoch : Nat) (s : State) :
    Host.Outcome State Fault Refusal :=
  .next (match s.findRec q seq with
    | some r =>
      if (r.ticket ticket).st ≠ .claimed who epoch then s.emit (.stale who ticket)
      else if s.formed r ticket && s.mayRun who then s.commitGo r who ticket epoch
      else s
    | none => s.emit (.stale who ticket))

/-- R149, R178: a ticket whose writes are all answered: `n` bytes acknowledged, those at the offsets `dropped` accepted by no controller. -/
def Rec.commitDone (r : Rec) (who : Claimant) (t n : Nat) (dropped : List Nat) : Rec :=
  let i := claimantIdx who
  let x := r.ticket t
  let cl := r.claimant i
  { r with
    outs := r.outs.filter fun e => e.1 != t
    tickets := { r.tickets with
      tab := Tbl.put {} r.tickets.tab t { x with st := .committed, acked := n, dropped, got := [] }
      done := r.tickets.done + 1
      claimants := Tbl.put {} r.tickets.claimants i { cl with held := cl.held - 1 } } }

/-- Whether a claimant is committing a ticket of a record. -/
def Rec.committing (r : Rec) (who : Claimant) (t : Nat) : Bool :=
  match (r.ticket t).st with
  | .committing w _ => w == who
  | _ => false

/-- An element of a descriptor in bytes that `rd` gives. -/
def Desc.elemFrom (d : Desc) (rd : Nat → Byte × Bool) (ix : List Nat) : Nat × Bool :=
  let n := d.off ix
  let a := d.elemDpa n
  if d.fmt = 0 then (bits (rd a).1.toNat (if n % 2 = 0 then 0 else 4) 4, (rd a).2)
  else
    let bs := (List.range (fmtBits d.fmt / 8)).map fun i => rd (a + i)
    (natOf (bs.map (·.1)), bs.any (·.2))

/-- R152: a byte of the destination as it stood before the first commit of a ticket. -/
def State.byteBefore (s : State) (r : Rec) (who : Claimant) (t a : Nat) : Byte × Bool :=
  match (s.frond (claimantFrond who)).preImages.find? fun e => e.q == r.q && e.seq == r.seq && e.ticket == t with
  | some p => ((p.bytes.find? (·.1 == a)).map (·.2)).getD (s.readByte a)
  | none => s.readByte a

/-- R152, R169: an output that adds to what its element held. -/
def OutElem.onto (d : Desc) (rd : Nat → Byte × Bool) (e : OutElem) : OutElem :=
  match e.acc with
  | none => e
  | some (f, cs) =>
    let old := d.elemFrom rd e.ix
    let q := accumulate d.fmt f (decodeElem d.fmt old.1) cs
    { e with pat := q.1, poison := e.poison || old.2, sat := e.sat + (if q.2 then 1 else 0), acc := none }

/-- What the commit of a ticket writes: its elements, or the bytes of a transfer or a spore. -/
structure CommitWrites where
  elems : List OutElem := []
  writes : List DWrite := []

/-- R179: the writes of dense bytes at offsets of the host range to the elements of a device operand. -/
def State.denseWrites (s : State) (d : Desc) (bs : List (Nat × Byte)) : List DWrite :=
  if d.fmt = 0 then
    s.nibbleWrites d ((bs.map fun b => [(2 * b.1, 0), (2 * b.1 + 1, 4)].filterMap fun k =>
      if k.1 < elems d.ext then some ({ ix := indexOf d.ext k.1, pat := bits b.2.toNat k.2 4, poison := false } : OutElem)
      else none).flatten)
  else
    let w := fmtBits d.fmt / 8
    bs.map fun b => { dpa := d.elemDpa (d.off (indexOf d.ext (b.1 / w))) + b.1 % w, val := b.2, poison := false }

/-- R142, R152, R180: what the commit of a ticket writes. -/
def State.commitWrites (s : State) (r : Rec) (who : Claimant) (t : Nat) : CommitWrites :=
  if r.op = 0x35 then
    match r.hostDesc with
    | some d => { writes := s.denseWrites d (List.zip (r.ticketBytes t) (r.ticket t).got) }
    | none => {}
  else if r.op = 0x36 then { writes := r.sporeWrites }
  else match r.desc 0 with
    | some d =>
      let es := (r.ticketOuts t).map (OutElem.onto d (s.byteBefore r who t))
      { elems := es, writes := s.elemWrites d es }
    | none => {}

/-- The columns of the writes of a commit. -/
def State.commitCols (s : State) (w : CommitWrites) : List Nat := dedup (w.writes.map fun x => s.lay.colOf x.dpa)

/-- R120, R130: what the commit of a core's ticket brings to the record of the core's own count and flag. -/
def State.coreCounts (s : State) (who : Claimant) : Nat × Bool :=
  match who with
  | .core c => ((s.core c.val).satCount, (s.core c.val).empty)
  | .engine _ => (0, false)

/-- The core's count and flag start afresh. -/
def State.clearCounts (s : State) (who : Claimant) : State :=
  match who with
  | .core c => s.setCore c.val { s.core c.val with satCount := 0, empty := false }
  | .engine _ => s

/-- R178: whether a byte of the dense image of an operand has an element in a column out of service. -/
def State.denseDown (s : State) (d : Desc) (k : Nat) : Bool :=
  [8 * k / fmtBits d.fmt, (8 * k + 7) / fmtBits d.fmt].any fun e =>
    decide (e < elems d.ext) && !s.colUp (s.lay.colOf (d.elemDpa (d.off (indexOf d.ext e))))

/-- R178: the bytes of a commit that are acknowledged, and the offsets of a `HOST_READ` ticket's bytes that are not. -/
def State.commitAcks (s : State) (r : Rec) (t : Nat) (w : CommitWrites) : Nat × List Nat :=
  match r.op, r.hostDesc with
  | 0x34, _ => ((r.ticketBytes t).length, [])
  | 0x35, some d =>
    let down := (r.ticketBytes t).filter (s.denseDown d)
    ((r.ticketBytes t).length - down.length, down)
  | _, _ => ((w.writes.filter fun x => s.colUp (s.lay.colOf x.dpa)).length, [])

/-- R120, R149, R152, R178: the writes of a ticket reach memory, the ticket becomes committed, its pre-image is freed. DESIGN CHOICE (log
entry 124): a ticket's outputs become visible together, at this command, which adds the core's count of saturations to the record's. -/
def State.commitTicket (s : State) (r : Rec) (who : Claimant) (t : Nat) (w : CommitWrites) : State :=
  let k := s.coreCounts who
  let down := s.downCode (s.commitCols w)
  let s := s.clearCounts who
  let f := claimantFrond who
  let fr := s.frond f
  let s := s.setFrond f { fr with preImages := fr.preImages.filter fun e => !(e.q == r.q && e.seq == r.seq && e.ticket == t) }
  let a := s.commitAcks r t w
  let r := r.commitDone who t a.1 a.2
  let poison := w.elems.any (·.poison)
  ((s.writeAll .frond w.writes).setRec { r with
    sat := r.sat + sumNat (w.elems.map (·.sat)) + k.1, produced := r.produced + w.elems.length
    empty := r.empty || w.elems.any (·.empty) || k.2
    codes := r.codes ++ down ++ (if poison then [(Status.poison, 0)] else []) }).settle

/-- `COMMIT_DONE` (R149, R152): every write of a ticket is acknowledged: of a `HOST_WRITE` by the host (R179), else as their queues take
them. -/
def execCommitDone (q : Nat) (seq : Word32) (who : Claimant) (ticket : Nat) (s : State) : Host.Outcome State Fault Refusal :=
  .next (match s.findRec q seq with
    | some r =>
      let w := s.commitWrites r who ticket
      if r.committing who ticket && (r.op != 0x34 || (r.ticket ticket).acked == (r.ticketBytes ticket).length) then
        (s.reachRec r (s.commitCols w)).commitTicket r who ticket w
      else s
    | none => s)

/-! ## The time-out (R151, R176) -/

/-- R151: whether a claimant has held a ticket of a record for more than 100 ms. -/
def State.heldTooLong (s : State) (r : Rec) (who : Claimant) : Bool :=
  (r.heldTickets who false).any fun t => decide ((r.ticket t).since + 100000000 < s.time.now)

/-- `TICKET_HOLD_TIMEOUT` (R151, R176): the claimant is fenced, its tickets are reissued, `ERR_TIMEOUT` is logged. -/
def execTicketHoldTimeout (q : Nat) (seq : Word32) (who : Claimant) (at_ : Nat) (s : State) :
    Host.Outcome State Fault Refusal :=
  let s := s.advance at_
  .next (match s.findRec q seq with
    | some r =>
      if s.heldTooLong r who then
        match who with
        | .core c => (s.fenceCore c.val Status.timeout).settle
        | .engine e => (s.fenceEngine e.val Status.timeout).settle
      else s
    | none => s)

end Sys2Proof.Machine
end

