-- ==== Sys2Proof/Machine/Dispatch.lean ====
section
/-! DEFINITION. What each command does: one arm per constructor of `Instr`. -/

namespace Sys2Proof.Machine

open Sys2Proof

/-- The effect of a command on everything but the queue. -/
def exec (i : Instr) (s : State) : Host.Outcome State Fault Refusal :=
  match i with
  | .getCaps mb => Sys2Proof.Machine.execGetCaps mb s
  | .getVersion mb => Sys2Proof.Machine.execGetVersion mb s
  | .claim mb => Sys2Proof.Machine.execClaim mb s
  | .renewLease mb => Sys2Proof.Machine.execRenewLease mb s
  | .release mb => Sys2Proof.Machine.execRelease mb s
  | .handover mb => Sys2Proof.Machine.execHandover mb s
  | .takeover mb => Sys2Proof.Machine.execTakeover mb s
  | .getOwner mb => Sys2Proof.Machine.execGetOwner mb s
  | .setLayout mb nvmOk => Sys2Proof.Machine.execSetLayout mb nvmOk s
  | .getLayout mb => Sys2Proof.Machine.execGetLayout mb s
  | .ctxCreate mb => Sys2Proof.Machine.execCtxCreate mb s
  | .ctxDestroy mb => Sys2Proof.Machine.execCtxDestroy mb s
  | .ctxSuspend mb => Sys2Proof.Machine.execCtxSuspend mb s
  | .ctxSuspendTimeout mb at_ => Sys2Proof.Machine.execCtxSuspendTimeout mb at_ s
  | .ctxResume mb => Sys2Proof.Machine.execCtxResume mb s
  | .ctxAdopt mb => Sys2Proof.Machine.execCtxAdopt mb s
  | .qCreate mb => Sys2Proof.Machine.execQCreate mb s
  | .qDestroy mb => Sys2Proof.Machine.execQDestroy mb s
  | .qDrain mb => Sys2Proof.Machine.execQDrain mb s
  | .qDrainTimeout mb at_ => Sys2Proof.Machine.execQDrainTimeout mb at_ s
  | .streamAlloc mb => Sys2Proof.Machine.execStreamAlloc mb s
  | .streamFree mb => Sys2Proof.Machine.execStreamFree mb s
  | .streamSet mb => Sys2Proof.Machine.execStreamSet mb s
  | .flagWindowMap mb => Sys2Proof.Machine.execFlagWindowMap mb s
  | .setEnvelope mb => Sys2Proof.Machine.execSetEnvelope mb s
  | .envelopeLowerEdge => Sys2Proof.Machine.execEnvelopeLowerEdge s
  | .getPower mb => Sys2Proof.Machine.execGetPower mb s
  | .setSorusLimit mb => Sys2Proof.Machine.execSetSorusLimit mb s
  | .getThermal mb => Sys2Proof.Machine.execGetThermal mb s
  | .scrub mb => Sys2Proof.Machine.execScrub mb s
  | .getErrlog mb => Sys2Proof.Machine.execGetErrlog mb s
  | .setBucket mb => Sys2Proof.Machine.execSetBucket mb s
  | .flipMaskArm mb => Sys2Proof.Machine.execFlipMaskArm mb s
  | .repairRow mb => Sys2Proof.Machine.execRepairRow mb s
  | .unitDisable mb => Sys2Proof.Machine.execUnitDisable mb s
  | .unitDisableTimeout mb at_ => Sys2Proof.Machine.execUnitDisableTimeout mb at_ s
  | .unitReadmit mb outcome => Sys2Proof.Machine.execUnitReadmit mb outcome s
  | .secureErase mb badColumns => Sys2Proof.Machine.execSecureErase mb badColumns s
  | .packStatus mb => Sys2Proof.Machine.execPackStatus mb s
  | .packAuth mb reply => Sys2Proof.Machine.execPackAuth mb reply s
  | .retainArm mb => Sys2Proof.Machine.execRetainArm mb s
  | .groupJoin mb => Sys2Proof.Machine.execGroupJoin mb s
  | .groupLeave mb => Sys2Proof.Machine.execGroupLeave mb s
  | .getEventLog mb => Sys2Proof.Machine.execGetEventLog mb s
  | .getShutdownRecord mb => Sys2Proof.Machine.execGetShutdownRecord mb s
  | .clearShutdown mb => Sys2Proof.Machine.execClearShutdown mb s
  | .fwStage mb => Sys2Proof.Machine.execFwStage mb s
  | .fwActivate mb header => Sys2Proof.Machine.execFwActivate mb header s
  | .mailboxRing mb => Sys2Proof.Machine.execMailboxRing mb s
  | .mailboxWatchdogTimeout mb at_ columnsDone => Sys2Proof.Machine.execMailboxWatchdogTimeout mb at_ columnsDone s
  | .matmul q seq => Sys2Proof.Machine.execMatmul q seq s
  | .matmulQ q seq => Sys2Proof.Machine.execMatmulQ q seq s
  | .gemvMem q seq => Sys2Proof.Machine.execGemvMem q seq s
  | .memRowop q seq => Sys2Proof.Machine.execMemRowop q seq s
  | .memEw q seq => Sys2Proof.Machine.execMemEw q seq s
  | .memNorm q seq => Sys2Proof.Machine.execMemNorm q seq s
  | .ewChain q seq => Sys2Proof.Machine.execEwChain q seq s
  | .reduce q seq => Sys2Proof.Machine.execReduce q seq s
  | .norm q seq => Sys2Proof.Machine.execNorm q seq s
  | .copy q seq => Sys2Proof.Machine.execCopy q seq s
  | .permute q seq => Sys2Proof.Machine.execPermute q seq s
  | .gather q seq => Sys2Proof.Machine.execGather q seq s
  | .scatterAdd q seq => Sys2Proof.Machine.execScatterAdd q seq s
  | .hostWrite q seq => Sys2Proof.Machine.execHostWrite q seq s
  | .hostRead q seq => Sys2Proof.Machine.execHostRead q seq s
  | .sporeWrite q seq => Sys2Proof.Machine.execSporeWrite q seq s
  | .collective q seq others agree => Sys2Proof.Machine.execCollective q seq others agree s
  | .flagSet q seq => Sys2Proof.Machine.execFlagSet q seq s
  | .flagWait q => Sys2Proof.Machine.execFlagWait q s
  | .barrier q seq => Sys2Proof.Machine.execBarrier q seq s
  | .scfg su ctx mid c => Sys2Proof.Machine.execScfg su ctx mid c s
  | .sld gpc ctx mid umask c => Sys2Proof.Machine.execSld gpc ctx mid umask c s
  | .slut su ctx mid payload => Sys2Proof.Machine.execSlut su ctx mid payload s
  | .smac su ctx nrows w abase => Sys2Proof.Machine.execSmac su ctx nrows w abase s
  | .sfet su ctx status nent => Sys2Proof.Machine.execSfet su ctx status nent s
  | .scpy su ctx d x => Sys2Proof.Machine.execScpy su ctx d x s
  | .sini su ctx d => Sys2Proof.Machine.execSini su ctx d s
  | .slog su ctx fn d x y => Sys2Proof.Machine.execSlog su ctx fn d x y s
  | .selt su ctx op d x y => Sys2Proof.Machine.execSelt su ctx op d x y s
  | .snrm su ctx x cFirst cLast => Sys2Proof.Machine.execSnrm su ctx x cFirst cLast s
  | .sbrd ch ctx pcsel umask reps f => Sys2Proof.Machine.execSbrd ch ctx pcsel umask reps f s
  | .heldCommandApply su => Sys2Proof.Machine.execHeldCommandApply su s
  | .sorusTokenGrant su => Sys2Proof.Machine.execSorusTokenGrant su s
  | .sorusParityRerun su => Sys2Proof.Machine.execSorusParityRerun su s
  | .pairRefresh su act => Sys2Proof.Machine.execPairRefresh su act s
  | .ordinaryAccessServe su arrived => Sys2Proof.Machine.execOrdinaryAccessServe su arrived s
  | .mma c o => Sys2Proof.Machine.execMma c o s
  | .accClose c acc => Sys2Proof.Machine.execAccClose c acc s
  | .drain c o => Sys2Proof.Machine.execDrain c o s
  | .vchain c o => Sys2Proof.Machine.execVchain c o s
  | .coreReduce c o => Sys2Proof.Machine.execCoreReduce c o s
  | .tload c t addr => Sys2Proof.Machine.execTload c t addr s
  | .tstore c t addr => Sys2Proof.Machine.execTstore c t addr s
  | .vload c v addr => Sys2Proof.Machine.execVload c v addr s
  | .vstore c v addr => Sys2Proof.Machine.execVstore c v addr s
  | .coreFault c kind => Sys2Proof.Machine.execCoreFault c kind s
  | .claimTicket q seq who serial => Sys2Proof.Machine.execClaimTicket q seq who serial s
  | .commitRequest q seq who ticket epoch => Sys2Proof.Machine.execCommitRequest q seq who ticket epoch s
  | .commitDone q seq who ticket => Sys2Proof.Machine.execCommitDone q seq who ticket s
  | .ticketHoldTimeout q seq who at_ => Sys2Proof.Machine.execTicketHoldTimeout q seq who at_ s
  | .doorbellTail by_ q v => Sys2Proof.Machine.execDoorbellTail by_ q v s
  | .cqHeadWrite by_ q v => Sys2Proof.Machine.execCqHeadWrite by_ q v s
  | .recordIssue q => Sys2Proof.Machine.execRecordIssue q s
  | .recordStart q seq => Sys2Proof.Machine.execRecordStart q seq s
  | .epilogue q seq n => Sys2Proof.Machine.execEpilogue q seq n s
  | .wideningRerun q seq => Sys2Proof.Machine.execWideningRerun q seq s
  | .recordComplete q seq => Sys2Proof.Machine.execRecordComplete q seq s
  | .flagPageSet by_ ctx n => Sys2Proof.Machine.execFlagPageSet by_ ctx n s
  | .flagPageClear by_ ctx n => Sys2Proof.Machine.execFlagPageClear by_ ctx n s
  | .setMask by_ ctx slot mask => Sys2Proof.Machine.execSetMask by_ ctx slot mask s
  | .clearMask by_ ctx slot mask => Sys2Proof.Machine.execClearMask by_ ctx slot mask s
  | .flagWaitTimeout q at_ => Sys2Proof.Machine.execFlagWaitTimeout q at_ s
  | .flagMirrorWrite block => Sys2Proof.Machine.execFlagMirrorWrite block s
  | .barrierArrival b node remote => Sys2Proof.Machine.execBarrierArrival b node remote s
  | .barrierForward b node => Sys2Proof.Machine.execBarrierForward b node s
  | .barrierRelease b gen => Sys2Proof.Machine.execBarrierRelease b gen s
  | .deadlockDetected sc at_ => Sys2Proof.Machine.execDeadlockDetected sc at_ s
  | .memrd p hpa => Sys2Proof.Machine.execMemrd p hpa s
  | .memwr p hpa line poison => Sys2Proof.Machine.execMemwr p hpa line poison s
  | .memwrptl p hpa line be poison => Sys2Proof.Machine.execMemwrptl p hpa line be poison s
  | .meminv p hpa line => Sys2Proof.Machine.execMeminv p hpa line s
  | .bucketLeak st at_ => Sys2Proof.Machine.execBucketLeak st at_ s
  | .logNvmCopy at_ => Sys2Proof.Machine.execLogNvmCopy at_ s
  | .ledgerNvmCopy at_ => Sys2Proof.Machine.execLedgerNvmCopy at_ s
  | .commandParityError gpc cmd at_ => Sys2Proof.Machine.execCommandParityError gpc cmd at_ s
  | .autoColumnRepair bank column at_ => Sys2Proof.Machine.execAutoColumnRepair bank column at_ s
  | .hdmDecoderCommit p c => Sys2Proof.Machine.execHdmDecoderCommit p c s
  | .hostLinkUp p width rate64 => Sys2Proof.Machine.execHostLinkUp p width rate64 s
  | .hostLinkRetrain p => Sys2Proof.Machine.execHostLinkRetrain p s
  | .hostLinkLost p => Sys2Proof.Machine.execHostLinkLost p s
  | .portReset p => Sys2Proof.Machine.execPortReset p s
  | .hostAckReadComplete q seq at_ => Sys2Proof.Machine.execHostAckReadComplete q seq at_ s
  | .hostReadCompletion q seq res => Sys2Proof.Machine.execHostReadCompletion q seq res s
  | .hostCompletionTimeout q seq => Sys2Proof.Machine.execHostCompletionTimeout q seq s
  | .portFenceSet p => Sys2Proof.Machine.execPortFenceSet p s
  | .portFenceClear p => Sys2Proof.Machine.execPortFenceClear p s
  | .evlogAckWrite by_ v => Sys2Proof.Machine.execEvlogAckWrite by_ v s
  | .registerWrite by_ off size v => Sys2Proof.Machine.execRegisterWrite by_ off size v s
  | .warmModuleReset p key => Sys2Proof.Machine.execWarmModuleReset p key s
  | .frondReset by_ f key bistOk => Sys2Proof.Machine.execFrondReset by_ f key bistOk s
  | .contextReset p ctx key => Sys2Proof.Machine.execContextReset p ctx key s
  | .hostCoreRun p n w => Sys2Proof.Machine.execHostCoreRun p n w s
  | .hostCoreStop p n w => Sys2Proof.Machine.execHostCoreStop p n w s
  | .hostCoreReset p n w => Sys2Proof.Machine.execHostCoreReset p n w s
  | .hostCoreAccess n addr size kind => Sys2Proof.Machine.execHostCoreAccess n addr size kind s
  | .cboClean n addr => Sys2Proof.Machine.execCboClean n addr s
  | .cboFlush n addr => Sys2Proof.Machine.execCboFlush n addr s
  | .cboInval n addr => Sys2Proof.Machine.execCboInval n addr s
  | .ownershipWindowClose at_ => Sys2Proof.Machine.execOwnershipWindowClose at_ s
  | .leaseExpiry at_ => Sys2Proof.Machine.execLeaseExpiry at_ s
  | .quantaRequest h m => Sys2Proof.Machine.execQuantaRequest h m s
  | .quantaGrant at_ => Sys2Proof.Machine.execQuantaGrant at_ s
  | .coreLend c => Sys2Proof.Machine.execCoreLend c s
  | .coreRegrant c => Sys2Proof.Machine.execCoreRegrant c s
  | .arbiterLedgerCheck counts => Sys2Proof.Machine.execArbiterLedgerCheck counts s
  | .thermalSample at_ samples input => Sys2Proof.Machine.execThermalSample at_ samples input s
  | .throttleStepDown at_ cause => Sys2Proof.Machine.execThrottleStepDown at_ cause s
  | .throttleStepUp at_ => Sys2Proof.Machine.execThrottleStepUp at_ s
  | .rootRetarget => Sys2Proof.Machine.execRootRetarget s
  | .refclkLost at_ => Sys2Proof.Machine.execRefclkLost at_ s
  | .refclkWarning ppm => Sys2Proof.Machine.execRefclkWarning ppm s
  | .inputPowerLost at_ => Sys2Proof.Machine.execInputPowerLost at_ s
  | .inputOvervoltage at_ mv => Sys2Proof.Machine.execInputOvervoltage at_ mv s
  | .inputOvercurrent at_ ma => Sys2Proof.Machine.execInputOvercurrent at_ ma s
  | .inputVoltageWarning at_ mv => Sys2Proof.Machine.execInputVoltageWarning at_ mv s
  | .packReserveReached e => Sys2Proof.Machine.execPackReserveReached e s
  | .packSelfDisconnect e => Sys2Proof.Machine.execPackSelfDisconnect e s
  | .retentionExit nsHeld chargeUsed powerMw => Sys2Proof.Machine.execRetentionExit nsHeld chargeUsed powerMw s
  | .startUp r => Sys2Proof.Machine.execStartUp r s
  | .readyReached at_ => Sys2Proof.Machine.execReadyReached at_ s
  | .fwTrialFallback at_ watchdog => Sys2Proof.Machine.execFwTrialFallback at_ watchdog s
  | .packPoll at_ reading => Sys2Proof.Machine.execPackPoll at_ reading s
  | .packDetect reading reply => Sys2Proof.Machine.execPackDetect reading reply s
  | .packRemoved => Sys2Proof.Machine.execPackRemoved s
  | .packLedgerCheck storedNow => Sys2Proof.Machine.execPackLedgerCheck storedNow s
  | .frontPathLost f => Sys2Proof.Machine.execFrontPathLost f s
  | .frondPathReturn f => Sys2Proof.Machine.execFrondPathReturn f s
  | .fabricLinkRetrain l => Sys2Proof.Machine.execFabricLinkRetrain l s
  | .fabricLinkFence l => Sys2Proof.Machine.execFabricLinkFence l s
  | .fabricRouteRelease source granule => Sys2Proof.Machine.execFabricRouteRelease source granule s
  | .rhizoidFlitReceive n f => Sys2Proof.Machine.execRhizoidFlitReceive n f s
  | .rhizoidRetrainDone n freeD freeC => Sys2Proof.Machine.execRhizoidRetrainDone n freeD freeC s
  | .rhizoidRetrainTimeout n at_ => Sys2Proof.Machine.execRhizoidRetrainTimeout n at_ s
  | .rhizoidTrainRetry n at_ serial => Sys2Proof.Machine.execRhizoidTrainRetry n at_ serial s
  | .groupJoinMessage msg => Sys2Proof.Machine.execGroupJoinMessage msg s
  | .memberUnreachable m at_ => Sys2Proof.Machine.execMemberUnreachable m at_ s
  | .groupBreak => Sys2Proof.Machine.execGroupBreak s
  | .collectiveCancel q members k => Sys2Proof.Machine.execCollectiveCancel q members k s
  | .sbIdent => Sys2Proof.Machine.execSbIdent s
  | .sbState => Sys2Proof.Machine.execSbState s
  | .sbThermal => Sys2Proof.Machine.execSbThermal s
  | .sbPower => Sys2Proof.Machine.execSbPower s
  | .sbShutdown => Sys2Proof.Machine.execSbShutdown s
  | .sbClear => Sys2Proof.Machine.execSbClear s
  | .sbPack => Sys2Proof.Machine.execSbPack s
  | .sbClaimPrio w => Sys2Proof.Machine.execSbClaimPrio w s
  | .sbFwRecover slot off data => Sys2Proof.Machine.execSbFwRecover slot off data s
  | .sbAlertResponse => Sys2Proof.Machine.execSbAlertResponse s
  | .bypass die tdi => Sys2Proof.Machine.execBypass die tdi s
  | .idcode die => Sys2Proof.Machine.execIdcode die s
  | .samplePreload die preload => Sys2Proof.Machine.execSamplePreload die preload s
  | .extest die => Sys2Proof.Machine.execExtest die s
  | .busMasteringChange p on => Sys2Proof.Machine.execBusMasteringChange p on s
  | .rhizoidPortTrained n serial => Sys2Proof.Machine.execRhizoidPortTrained n serial s
  | .rhizoidLinkRetrain n => Sys2Proof.Machine.execRhizoidLinkRetrain n s

end Sys2Proof.Machine
end

