-- ==== Sys2Proof/Safety.lean ====
section
/-! DEFINITION. The vocabulary of the claims: answers of a step, requests that are admitted, responses, and what an operation leaves alone. -/

namespace Sys2Proof

open Sys2Proof.Machine

/-- R272 steps 1 and 2: a mailbox holds an accepted request of a command that has not begun: its shape is right, its agent has the
authority, no conflicting request runs (R273) and no port reset has touched the mailbox (R258). -/
def Admitted (s : State) (mb : Fin 32) (opcode : Nat) (auth : Auth) (len : Nat) (fs : List (Nat × Nat)) : Prop :=
  (s.mbox mb).cur = true ∧ (s.mbox mb).begun = false ∧ (s.mbox mb).discard = false ∧ (s.mbox mb).behind = []
    ∧ (s.req mb).opcode = opcode ∧ s.excluded (s.req mb) = false ∧ (s.req mb).shapeOk len fs = true
    ∧ s.allowed auth (s.req mb).by_ = true

/-- The fields of a command's body, by byte offset and width, as `Admitted` takes them. -/
def bodyFields (fs : List (Nat × Nat)) : List (Nat × Nat) := fs.map fun f => fieldAt f.1 f.2

/-- R268, R270: a mailbox holds the response to a request: state complete, opcode and tag echoed, status, body. -/
def Answered (t : State) (mb : Fin 32) (r : Req) (status bodyLen body : Nat) : Prop :=
  let b := t.mbox mb
  b.st = .complete ∧ b.cur = false ∧ b.begun = false ∧ b.lastStatus = status ∧ b.lastTag = r.tag ∧ b.resp.opcode = r.opcode
    ∧ b.resp.tag = r.tag ∧ b.resp.status = status ∧ b.resp.bodyLen = bodyLen ∧ b.resp.body = body

/-- `t` is `s` but for one mailbox's response and what reports it: the interrupt pages, what waits at the ports, the event log, what leaves
the module; a request in another mailbox that has waited for this one starts (R273). -/
def AnswerOnly (s t : State) (mb : Fin 32) : Prop :=
  (∃ mbs ps is ev o, t = { s with mboxes := mbs, ports := ps, intrs := is, evlog := ev, out := o })
    ∧ ∀ k, k ≠ mb.val → t.mbox k = s.mbox k ∨ ((s.mbox k).cur = true ∧ (s.mbox k).begun = false ∧ t.mbox k = (s.mbox k).starts s)

/-- The same from a state `u` that a command's own steps have reached. -/
def Ends (s u t : State) (mb : Fin 32) (status bodyLen body : Nat) : Prop :=
  Answered t mb (s.req mb) status bodyLen body ∧ AnswerOnly u t mb

/-- A mailbox holds a response with a status. -/
def Completed (t : State) (mb : Fin 32) (status : Nat) : Prop :=
  (t.mbox mb).st = .complete ∧ (t.mbox mb).cur = false ∧ (t.mbox mb).lastStatus = status ∧ (t.mbox mb).resp.status = status

/-- R262: ownership has changed at this instant: `OWNER_GEN` has risen by 1, the cause is kept, no claim is held, a lease runs. -/
def NewOwner (s t : State) (st : OwnSt) (cause leaseEnd : Nat) : Prop :=
  t.own.st = st ∧ t.own.gen = s.own.gen + 1 ∧ t.own.cause = cause ∧ t.own.claims = [] ∧ t.own.leaseEnd = leaseEnd
    ∧ t.own.nvmPrio = s.own.nvmPrio

/-- R263: no accepted claim has yet to execute. -/
def NoClaimWaits (s : State) : Prop :=
  ∀ mb : Fin 32, (s.mbox mb).cur = true → (s.mbox mb).begun = false → (s.req mb).opcode ≠ 0x0201 ∧ (s.req mb).opcode ≠ 0x0205

/-- The module as a whole is as it was: time, phase, firmware, layout, thermal state, shut-down record, pack, pins, debug port, fabric
links. -/
def SameModule (s t : State) : Prop :=
  t.time = s.time ∧ t.phase = s.phase ∧ t.valid = s.valid ∧ t.fw = s.fw ∧ t.lay = s.lay ∧ t.therm = s.therm ∧ t.shut = s.shut
    ∧ t.pack = s.pack ∧ t.side = s.side ∧ t.jtag = s.jtag ∧ t.flinks = s.flinks ∧ t.booted = s.booted ∧ t.resetBusy = s.resetBusy

/-- As `SameModule`, for what writes lines back: a link that retrains may keep a write for later. -/
def SameBut (s t : State) : Prop :=
  t.time = s.time ∧ t.phase = s.phase ∧ t.valid = s.valid ∧ t.fw = s.fw ∧ t.lay = s.lay ∧ t.therm = s.therm ∧ t.shut = s.shut
    ∧ t.pack = s.pack ∧ t.side = s.side ∧ t.jtag = s.jtag ∧ t.booted = s.booted ∧ t.resetBusy = s.resetBusy

/-- A record in flight of an operation that has started, whose work is not done, and that has not stopped with its context (R215). -/
def Runs (s : State) (q : Nat) (seq : Word32) (op : Nat) (r : Rec) : Prop :=
  s.findRec q seq = some r ∧ r.op = op ∧ r.started = true ∧ r.workDone = false ∧ r.paused = false

/-- What the work of a record leaves alone, whatever is served beside it: the module as a whole, contexts, queues, streams, flags, cores,
mailboxes, barriers, and every other record in flight. -/
def ModFrame (s t : State) (r : Rec) : Prop :=
  SameModule s t ∧ t.own = s.own ∧ t.ctxs = s.ctxs ∧ t.queues = s.queues ∧ t.streams = s.streams ∧ t.flags = s.flags
    ∧ t.cores = s.cores ∧ t.mboxes = s.mboxes ∧ t.bars = s.bars
    ∧ ∀ q seq, ¬ (q = r.q ∧ seq = r.seq) → t.findRec q seq = s.findRec q seq

/-- What a record's work outside the banks leaves alone: units, channels and grants too. -/
def WorkFrame (s t : State) (r : Rec) : Prop := ModFrame s t r ∧ t.pairs = s.pairs ∧ t.chans = s.chans ∧ t.power = s.power

/-- R159: a record's work is done: the record is still in flight, with the operands that it was issued with. -/
def WorkDone (t : State) (r : Rec) : Prop :=
  ∃ r', t.findRec r.q r.seq = some r' ∧ r'.raw = r.raw ∧ r'.ctx = r.ctx ∧ r'.workDone = true ∧ ∀ c ∈ r.codes, c ∈ r'.codes

/-- Two states agree on the content of a physical column. -/
def SameCol (s t : State) (col : Nat) : Prop := t.mem.data col = s.mem.data col ∧ t.mem.chk col = s.mem.chk col

/-- A record's work leaves every column that holds neither a byte of its sources nor of its destination `d` as it was. -/
def KeepsOthers (s t : State) (r : Rec) (d : Desc) : Prop :=
  ∀ col, col ∉ s.sourceCols r →
    (∀ ix ∈ allIdx d.ext, ∀ i, i < Nat.max 1 (fmtBits d.fmt / 8) → col ≠ s.lay.colOf (d.elemDpa (d.off ix) + i)) → SameCol s t col

/-- Memory changes at most in some columns: of columns that are only read, those that an error is corrected in. -/
def OnlyCols (s t : State) (cols : List Nat) : Prop := ∀ col, col ∉ cols → SameCol s t col

/-- No access waits at any bank pair. -/
def NoneWait (s : State) : Prop := ∀ su, (s.pair su).ordQ = []

/-- No access waits at a bank pair, and none is on its way to one. -/
def NoAccess (s : State) : Prop := NoneWait s ∧ s.underway = []

/-- R22, R23, R91 to R100: nothing stands before accesses of a source to columns: none of its requests to their granules is on its way, and at
their pairs no unit computes, no re-run is due, no refresh is at its limit, and no access waits. -/
def AtRest (s : State) (src : Nat) (cols : List Nat) : Prop :=
  (∀ h ∈ s.underway, s.aheadOf src cols h = false)
    ∧ ∀ col ∈ cols, (s.pair (colUnit col)).rerun = none ∧ (s.pair (colUnit col)).token = false ∧ (s.pair (colUnit col)).owed < 4
        ∧ (s.pair (colUnit col)).ordQ = []

/-- What accesses that come through to the banks leave alone, whatever they find there. -/
def Behind (s t : State) : Prop :=
  t.time = s.time ∧ t.phase = s.phase ∧ t.lay = s.lay ∧ t.own = s.own ∧ t.ctxs = s.ctxs ∧ t.queues = s.queues ∧ t.recs = s.recs
    ∧ t.streams = s.streams ∧ t.flags = s.flags ∧ t.bars = s.bars ∧ t.cores = s.cores ∧ t.fronds = s.fronds ∧ t.mboxes = s.mboxes
    ∧ t.therm = s.therm ∧ t.pack = s.pack ∧ t.shut = s.shut

/-- What a record's work in the banks leaves alone: as `WorkFrame`, but for the units that it uses, whose tokens are back (R88). -/
def BankFrame (s t : State) (r : Rec) (us : List Nat) : Prop :=
  ModFrame s t r ∧ t.chans = s.chans ∧ t.power = s.power
    ∧ (∀ k, k ∉ us → t.pair k = s.pair k) ∧ ∀ k ∈ us, (t.pair k).token = false ∧ (t.pair k).rerun = none

/-- R159, R215: a record that has left the ring is in flight and not started, or its completion record has been written. -/
def LeftRing (s t : State) (q : Nat) : Prop :=
  (t.queue q).head = (s.queue q).head + 1 ∧ (t.queue q).tail = (s.queue q).tail
    ∧ (((∃ x ∈ t.recs, x.q = q ∧ x.seq = (s.queue q).head ∧ x.raw = (s.headRec q).raw ∧ x.started = false)
          ∧ (t.queue q).cqTail = (s.queue q).cqTail)
        ∨ (t.queue q).cqTail = (s.queue q).cqTail + 1)

/-- R63 to R68, R74: the entry that sweeping segment `i` of weight row `w` of a unit pushes: for every vector, the sum over the segment of
factor × weight × activation, in a 48-bit accumulator, saturated to 32 bits. -/
def sweptEntry (s : State) (u : Sorus) (su : Nat) (w : BitVec 16) (a i : Nat) : FifoEntry :=
  let e := segLen u.w8 u.vecs
  let sc := rowCol su (scaleRowOf w).1 (scaleRowOf w).2
  let factor (q : Nat) : Int := if u.scaled then scaleLane (s.mem.data sc) (laneOf (groupSize u.group) e q) else 1
  let weight (q : Nat) : Int := colWeight u.w8 (s.mem.data (rowCol su w (q / colWeights u.w8))) (q % colWeights u.w8)
  let sum (v : Nat) : Int := ((List.range e).map fun k => factor (i * e + k) * weight (i * e + k) * u.actAt v (32 * a + k)).sum
  { words := ((List.range u.vecs).map fun v => BitVec.ofInt 32 (satS 32 (BitVec.ofInt 48 (sum v)).toInt).1)
      ++ List.replicate (8 - u.vecs) 0
    count := u.vecs, snrm := false
    poison := (u.scaled && colBad (s.mem.data sc) (s.mem.chk sc)) || u.actPoison != 0
      || (List.range (e / colWeights u.w8)).any fun c =>
          let col := rowCol su w (i * e / colWeights u.w8 + c)
          colBad (s.mem.data col) (s.mem.chk col) }

/-- No `UNIT_DISABLE` waits for its unit's last work (R340). -/
def NoDisableWaits (s : State) : Prop := ∀ mb : Fin 32, (s.mbox mb).begun = true → (s.req mb).opcode ≠ 0x0B01

/-- R21, R61, R82, R88, R91: a row command that its controller issues and runs: the unit, as the command meets it, is `u`; it holds a token, and
its frond has its path; the command keeps the rules; no access waits for the pair, no unit of its pseudo-channel for a token (R86, R94), and no
`UNIT_DISABLE` for its end (R340); no channel's flip mask is armed; no column that it reads is reported (R100). -/
def Issues (s : State) (su ctx : Nat) (cmd : RowCmd) (u : Sorus) : Prop :=
  s.canIssue su = true ∧ s.unitPath su = true ∧ NoDisableWaits s ∧ (s.pair su).token = true ∧ u = ((s.pair su).ready ctx).unit ∧ u.cmdOk cmd = true
    ∧ (s.pair su).ordQ = [] ∧ (∀ k, k / 16 = su / 16 → (s.pair k).todo = [])
    ∧ (∀ ch, Tbl.get none s.mem.flips ch = none)
    ∧ ∀ r ∈ (cmdRows cmd).2, ∀ c, c < 32 → colMasked (s.mem.data (rowCol su r c)) (s.mem.chk (rowCol su r c)) = false

/-- R88, R284, R300: a command at a unit has ended: the token is back, and nothing but that pair, the token count, memory and the log of
poisoned columns that it has read has changed. -/
def UnitDone (s t : State) (su : Nat) : Prop :=
  (t.pair su).token = false ∧ (t.pair su).rerun = none ∧ t.power.tokens = s.power.tokens - 1 ∧ (∀ k, k ≠ su → t.pair k = s.pair k)
    ∧ SameModule s t ∧ t.own = s.own ∧ t.ctxs = s.ctxs ∧ t.queues = s.queues ∧ t.recs = s.recs ∧ t.flags = s.flags ∧ t.out = s.out
    ∧ t.cores = s.cores ∧ t.evlog = s.evlog ∧ t.integ.buckets = s.integ.buckets ∧ t.integ.nvm = s.integ.nvm
    ∧ ∀ e ∈ t.integ.log, e ∈ s.integ.log ∨ e.kind = 8

/-- R71, R73: row `d` of a unit holds `f c` in each of its columns, with fresh check bits and poison `p c`, and no other column of memory
has changed. -/
def RowWritten (s t : State) (su : Nat) (d : BitVec 16) (f : Nat → BitVec 256) (p : Nat → Bool) : Prop :=
  (∀ c, c < 32 → t.mem.data (rowCol su d c) = f c ∧ t.mem.chk (rowCol su d c) = freshCheck (f c) (p c))
    ∧ ∀ col, (∀ c, c < 32 → col ≠ rowCol su d c) → SameCol s t col

/-- R125, R126: what a chain on a core leaves in its destination: every active element holds the chain's result for it, an inactive one its old
value, or zero under the zero policy. `k` is the core before it (its remainder mask built), `k'` after. -/
def ChainWrites (k k' : Core) (o : ChainOp) : Prop :=
  ∀ e, e < chainCount o →
    let active := maskBit (k.maskOf o.mask) (refIsTile o.src || refIsTile o.dst) e
    (active = true → k'.refElem o.dst o.outLane e % 2 ^ 32 = (k.chainElem o e).1.pat % 2 ^ 32)
      ∧ (active = false → k'.refElem o.dst o.outLane e % 2 ^ 32 = if o.zero then 0 else k.refElem o.dst o.outLane e % 2 ^ 32)

/-- R180, R256, R257: a host transfer has halted with a status: its work is over, the bytes acknowledged stand. -/
def Halted (t : State) (r : Rec) (status : Nat) : Prop :=
  ∃ r', t.findRec r.q r.seq = some r' ∧ r'.workDone = true ∧ r'.halted = true ∧ (status, unitId 8 r.variant) ∈ r'.codes
    ∧ (∀ k, (r'.ticket k).acked = (r.ticket k).acked) ∧ r'.raw = r.raw

/-- What a link event on a host port leaves alone. -/
def SameBehindPort (s t : State) : Prop :=
  SameModule s t ∧ t.mem = s.mem ∧ t.own = s.own ∧ t.ctxs = s.ctxs ∧ t.queues = s.queues ∧ t.streams = s.streams ∧ t.flags = s.flags
    ∧ t.pairs = s.pairs ∧ t.cores = s.cores ∧ t.power = s.power ∧ t.bars = s.bars

/-- R274: the fields of a `CTX_CREATE` body with `n` windows. -/
def ctxCreateFields (n : Nat) : List (Nat × Nat) :=
  [fieldAt 0x10 16, fieldAt 0x12 8, fieldAt 0x13 8, fieldAt 0x14 32, fieldAt 0x18 16, fieldAt 0x1A 16, fieldAt 0x1C 16,
      fieldAt 0x1E 16, fieldAt 0x20 16]
    ++ ((List.range n).map fun i => [fieldAt (0x30 + 16 * i) 64, fieldAt (0x38 + 16 * i) 32, fieldAt (0x3C + 16 * i) 8]).flatten

/-- R274: the fields of a `SET_LAYOUT` body, of a `STREAM_SET` body, of a `FLAG_WINDOW_MAP` body. -/
def setLayoutFields : List (Nat × Nat) :=
  [(0x80, 2), fieldAt 0x14 32, fieldAt 0x18 32, fieldAt 0x1C 32, fieldAt 0x20 32, fieldAt 0x24 16]
def streamSetFields (mask : Nat) : List (Nat × Nat) := [fieldAt 0x10 16, fieldAt 0x12 16] ++ entryFields mask
def flagMapFields : List (Nat × Nat) :=
  [fieldAt 0x10 16, fieldAt 0x12 16, fieldAt 0x14 8, (8 * 0x20, 13), (8 * 0x20 + 16, 11), (8 * 0x28, 64)]

/-- R274: the fields of a `SET_SORUS_LIMIT` body, of an `FW_STAGE` body with `n` bytes of image. -/
def sorusLimitFields : List (Nat × Nat) :=
  [(0x80, 3), (0x84, 3), (0x88, 3), (0x8C, 3), (0x90, 3), fieldAt 0x14 8, fieldAt 0x16 16]
def fwStageFields (n : Nat) : List (Nat × Nat) := [fieldAt 0x10 32, fieldAt 0x14 16, fieldAt 0x20 (8 * n)]

end Sys2Proof
end

