-- ==== Sys2Proof/WellFormed.lean ====
section
/-! DEFINITION. Which commands are well formed: every index and count within what the spec gives the module. -/

namespace Sys2Proof

/-- Whether a command's operands name things that the module has. 256 as a `ctx` of a sorus command is the management processor. -/
def Instr.wf (i : Instr) : Bool :=
  match i with
  | .getCaps _ => true
  | .getVersion _ => true
  | .claim _ => true
  | .renewLease _ => true
  | .release _ => true
  | .handover _ => true
  | .takeover _ => true
  | .getOwner _ => true
  | .setLayout _ _ => true
  | .getLayout _ => true
  | .ctxCreate _ => true
  | .ctxDestroy _ => true
  | .ctxSuspend _ => true
  | .ctxSuspendTimeout _ _ => true
  | .ctxResume _ => true
  | .ctxAdopt _ => true
  | .qCreate _ => true
  | .qDestroy _ => true
  | .qDrain _ => true
  | .qDrainTimeout _ _ => true
  | .streamAlloc _ => true
  | .streamFree _ => true
  | .streamSet _ => true
  | .flagWindowMap _ => true
  | .setEnvelope _ => true
  | .envelopeLowerEdge => true
  | .getPower _ => true
  | .setSorusLimit _ => true
  | .getThermal _ => true
  | .scrub _ => true
  | .getErrlog _ => true
  | .setBucket _ => true
  | .flipMaskArm _ => true
  | .repairRow _ => true
  | .unitDisable _ => true
  | .unitDisableTimeout _ _ => true
  | .unitReadmit _ _ => true
  | .secureErase _ _ => true
  | .packStatus _ => true
  | .packAuth _ _ => true
  | .retainArm _ => true
  | .groupJoin _ => true
  | .groupLeave _ => true
  | .getEventLog _ => true
  | .getShutdownRecord _ => true
  | .clearShutdown _ => true
  | .fwStage _ => true
  | .fwActivate _ _ => true
  | .mailboxRing _ => true
  | .mailboxWatchdogTimeout _ _ _ => true
  | .matmul q _ => decide (q < 2048)
  | .matmulQ q _ => decide (q < 2048)
  | .gemvMem q _ => decide (q < 2048)
  | .memRowop q _ => decide (q < 2048)
  | .memEw q _ => decide (q < 2048)
  | .memNorm q _ => decide (q < 2048)
  | .ewChain q _ => decide (q < 2048)
  | .reduce q _ => decide (q < 2048)
  | .norm q _ => decide (q < 2048)
  | .copy q _ => decide (q < 2048)
  | .permute q _ => decide (q < 2048)
  | .gather q _ => decide (q < 2048)
  | .scatterAdd q _ => decide (q < 2048)
  | .hostWrite q _ => decide (q < 2048)
  | .hostRead q _ => decide (q < 2048)
  | .sporeWrite q _ => decide (q < 2048)
  | .collective q _ _ _ => decide (q < 2048)
  | .flagSet q _ => decide (q < 2048)
  | .flagWait q => decide (q < 2048)
  | .barrier q _ => decide (q < 2048)
  | .scfg su ctx _ _ => decide (su < 32768) && decide (ctx ≤ 256)
  | .sld gpc ctx _ _ _ => decide (gpc < 2048) && decide (ctx ≤ 256)
  | .slut su ctx _ _ => decide (su < 32768) && decide (ctx ≤ 256)
  | .smac su ctx nrows _ _ => decide (su < 32768) && decide (ctx ≤ 256) && decide (1 ≤ nrows) && decide (nrows ≤ 16)
  | .sfet su ctx _ nent => decide (su < 32768) && decide (ctx ≤ 256) && decide (nent ≤ 16)
  | .scpy su ctx _ _ => decide (su < 32768) && decide (ctx ≤ 256)
  | .sini su ctx _ => decide (su < 32768) && decide (ctx ≤ 256)
  | .slog su ctx _ _ _ _ => decide (su < 32768) && decide (ctx ≤ 256)
  | .selt su ctx _ _ _ _ => decide (su < 32768) && decide (ctx ≤ 256)
  | .snrm su ctx _ cFirst cLast => decide (su < 32768) && decide (ctx ≤ 256) && decide (cFirst ≤ 31) && decide (cLast ≤ 31)
  | .sbrd ch ctx _ _ reps _ => decide (ch < 1024) && decide (ctx ≤ 256) && decide (reps ≤ 65536)
  | .heldCommandApply su => decide (su < 32768)
  | .sorusTokenGrant su => decide (su < 32768)
  | .sorusParityRerun su => decide (su < 32768)
  | .pairRefresh su _ => decide (su < 32768)
  | .ordinaryAccessServe su _ => decide (su < 32768)
  | .mma _ o => decide (o.acc < 32) && decide (o.m ≤ 64) && decide (o.n ≤ 64) && decide (o.k ≤ 256)
  | .accClose _ acc => decide (acc < 32)
  | .drain _ o => decide (o.stages.length ≤ 8) && decide (o.mask.reg < 8)
  | .vchain _ o => decide (1 ≤ o.stages.length) && decide (o.stages.length ≤ 8) && decide (o.mask.reg < 8)
  | .coreReduce _ o => decide (o.dst < 32) && decide (o.mask.reg < 8)
  | .tload _ t addr => decide (t < 8) && decide (addr + 16384 ≤ 2 ^ 22)
  | .tstore _ t addr => decide (t < 8) && decide (addr + 16384 ≤ 2 ^ 22)
  | .vload _ v addr => decide (v < 32) && decide (addr + 1024 ≤ 2 ^ 22)
  | .vstore _ v addr => decide (v < 32) && decide (addr + 1024 ≤ 2 ^ 22)
  | .coreFault _ _ => true
  | .claimTicket q _ _ _ => decide (q < 2048)
  | .commitRequest q _ _ _ _ => decide (q < 2048)
  | .commitDone q _ _ _ => decide (q < 2048)
  | .ticketHoldTimeout q _ _ _ => decide (q < 2048)
  | .doorbellTail _ q _ => decide (q < 2048)
  | .cqHeadWrite _ q _ => decide (q < 2048)
  | .recordIssue q => decide (q < 2048)
  | .recordStart q _ => decide (q < 2048)
  | .epilogue q _ _ => decide (q < 2048)
  | .wideningRerun q _ => decide (q < 2048)
  | .recordComplete q _ => decide (q < 2048)
  | .flagPageSet _ ctx _ => decide (ctx < 256)
  | .flagPageClear _ ctx _ => decide (ctx < 256)
  | .setMask _ ctx slot _ => decide (ctx < 256) && decide (slot < 1024)
  | .clearMask _ ctx slot _ => decide (ctx < 256) && decide (slot < 1024)
  | .flagWaitTimeout q _ => decide (q < 2048)
  | .flagMirrorWrite block => decide (block < 1024)
  | .barrierArrival b _ _ => decide (b < 4096)
  | .barrierForward b _ => decide (b < 4096)
  | .barrierRelease b _ => decide (b < 4096)
  | .deadlockDetected _ _ => true
  | .memrd _ hpa => hpa % 64 == 0
  | .memwr _ hpa _ _ => hpa % 64 == 0
  | .memwrptl _ hpa _ _ _ => hpa % 64 == 0
  | .meminv _ hpa _ => hpa % 64 == 0
  | .bucketLeak _ _ => true
  | .logNvmCopy _ => true
  | .ledgerNvmCopy _ => true
  | .commandParityError gpc _ _ => decide (gpc < 2048)
  | .autoColumnRepair bank column _ => decide (bank < 65536) && decide (column < 32)
  | .hdmDecoderCommit _ c => decide (c.ways ≠ 0)
  | .hostLinkUp _ width _ => [4, 8, 16].contains width
  | .hostLinkRetrain _ => true
  | .hostLinkLost _ => true
  | .portReset _ => true
  | .hostAckReadComplete q _ _ => decide (q < 2048)
  | .hostReadCompletion q _ _ => decide (q < 2048)
  | .hostCompletionTimeout q _ => decide (q < 2048)
  | .portFenceSet _ => true
  | .portFenceClear _ => true
  | .evlogAckWrite _ _ => true
  | .registerWrite _ off size _ => [1, 2, 4, 8].contains size && off % size == 0
  | .warmModuleReset _ _ => true
  | .frondReset _ _ _ _ => true
  | .contextReset _ ctx _ => decide (ctx < 256)
  | .hostCoreRun _ _ _ => true
  | .hostCoreStop _ _ _ => true
  | .hostCoreReset _ _ _ => true
  | .hostCoreAccess _ addr size _ => [1, 2, 4, 8].contains size && addr % size == 0
  | .cboClean _ _ => true
  | .cboFlush _ _ => true
  | .cboInval _ _ => true
  | .ownershipWindowClose _ => true
  | .leaseExpiry _ => true
  | .quantaRequest _ (.ask units) => decide (units ≤ 24000)
  | .quantaRequest _ (.giveBack units) => decide (units ≤ 24000)
  | .quantaGrant _ => true
  | .coreLend _ => true
  | .coreRegrant _ => true
  | .arbiterLedgerCheck _ => true
  | .thermalSample _ _ _ => true
  | .throttleStepDown _ _ => true
  | .throttleStepUp _ => true
  | .rootRetarget => true
  | .refclkLost _ => true
  | .refclkWarning _ => true
  | .inputPowerLost _ => true
  | .inputOvervoltage _ _ => true
  | .inputOvercurrent _ _ => true
  | .inputVoltageWarning _ _ => true
  | .packReserveReached _ => true
  | .packSelfDisconnect _ => true
  | .retentionExit _ _ _ => true
  | .startUp _ => true
  | .readyReached _ => true
  | .fwTrialFallback _ _ => true
  | .packPoll _ _ => true
  | .packDetect _ _ => true
  | .packRemoved => true
  | .packLedgerCheck _ => true
  | .frontPathLost _ => true
  | .frondPathReturn _ => true
  | .fabricLinkRetrain _ => true
  | .fabricLinkFence _ => true
  | .fabricRouteRelease _ _ => true
  | .rhizoidFlitReceive _ _ => true
  | .rhizoidRetrainDone _ _ _ => true
  | .rhizoidRetrainTimeout _ _ => true
  | .rhizoidTrainRetry _ _ _ => true
  | .groupJoinMessage _ => true
  | .memberUnreachable _ _ => true
  | .groupBreak => true
  | .collectiveCancel q _ _ => decide (q < 2048)
  | .sbIdent => true
  | .sbState => true
  | .sbThermal => true
  | .sbPower => true
  | .sbShutdown => true
  | .sbClear => true
  | .sbPack => true
  | .sbClaimPrio _ => true
  | .sbFwRecover slot _ data => decide (slot < 2) && decide (data.length ≤ 64)
  | .sbAlertResponse => true
  | .bypass _ _ => true
  | .idcode _ => true
  | .samplePreload _ _ => true
  | .extest _ => true
  | .busMasteringChange _ _ => true
  | .rhizoidPortTrained _ _ => true
  | .rhizoidLinkRetrain _ => true

end Sys2Proof
end

