-- ==== Sys2Proof/Certificates/Slice0/Obligations.lean ====
section
/-! DEFINITION. The statements for the provers. -/

open Sys2Proof Sys2Proof.Machine

/-! ## The step and the whole machine -/

/-- A step takes the command at the front of the queue and runs it on the state with the queue's rest. -/
def Obligations.StepRunsFront : Prop :=
  ∀ (c : Instr) (s : State) (rest : List Instr), s.pending = c :: rest → step s = exec c { s with pending := rest }

/-- R26, R326: with nothing waiting a step is one LCLK: at 8.0 GHz the timebase of a powered module counts 1 ns, and nothing else changes; without
power and in retention it stands still (the model's choice of an idle step: log entry 2). -/
def Obligations.IdleStepIsOneLclk : Prop :=
  ∀ s : State, s.pending = [] →
    (s.phase ≠ .off → s.phase ≠ .retention → s.time.root = 0 →
      step s = .next { s with time := { s.time with now := s.time.now + 1, frac := 0 } })
    ∧ (s.phase = .off ∨ s.phase = .retention → step s = .next s)

/-- R26, R326: the timebase never goes back, whatever command runs. A command that carries its instant takes it there (`State.advance`), or leaves
it where it is when that is later; without power and in retention it stands still. -/
def Obligations.TimebaseNeverGoesBack : Prop :=
  (∀ (c : Instr) (s t : State), exec c s = .next t → s.time.now ≤ t.time.now)
  ∧ ∀ (s : State) (at_ : Nat),
    (s.phase ≠ .off → s.phase ≠ .retention → s.advance at_ = { s with time := { s.time with now := Nat.max s.time.now at_ } })
    ∧ (s.phase = .off ∨ s.phase = .retention → s.advance at_ = s)
    ∧ (∀ c t, c = .logNvmCopy at_ ∨ c = .ledgerNvmCopy at_ → exec c s = .next t → t.time = (s.advance at_).time)

/-- No command changes the queue of the commands that wait: only a step does. -/
def Obligations.CommandsLeaveTheQueue : Prop :=
  ∀ (c : Instr) (s t : State), exec c s = .next t → t.pending = s.pending

/-- R47, R48: no command but `SET_LAYOUT` changes the layout or its generation: not a reset, not a shut-down, not retention. -/
def Obligations.OnlySetLayoutChangesTheLayout : Prop :=
  ∀ (c : Instr) (s t : State), exec c s = .next t → (∀ mb ok, c ≠ .setLayout mb ok) → t.lay = s.lay

/-- Every step keeps the canonical form of device memory: cells and check bits in strictly rising order, none listed that reads as an
unlisted one does. -/
def Obligations.EveryStepKeepsMemoryForm : Prop :=
  ∀ s t : State, step s = .next t → s.mem.wf = true → t.mem.wf = true

/-- The state after reset: memory in canonical form with nothing listed; layout, tables and queues empty or at their first values; the
envelope 18,000 quanta (R296), `INBANK_BATCH` 8, `TOKEN_LIMIT` 8,192 (R300), all priorities of R93; the claim window not yet timed. -/
def Obligations.ResetState : Prop :=
  State.reset.mem.wf = true ∧ State.reset.mem.bytes = [] ∧ State.reset.pending = [] ∧ State.reset.phase = .starting
    ∧ State.reset.time.root = 0 ∧ State.reset.lay = { mode := 0, n0 := 128, n1 := 128, n2 := 128, n3 := 128, gen := 0 }
    ∧ (∀ c, (State.reset.ctx c).st = .free) ∧ (∀ q, (State.reset.queue q).live = false) ∧ (∀ i, (State.reset.stream i).st = .free)
    ∧ (∀ b, State.reset.flagBlock b = 0) ∧ (∀ mb, (State.reset.mbox mb).st = .idle) ∧ State.reset.recs = []
    ∧ State.reset.power.envelope = 18000 ∧ State.reset.power.inbankBatch = 8 ∧ State.reset.power.tokenLimit = 8192
    ∧ State.reset.power.tokens = 0 ∧ State.reset.shut.latched = false

/-! ## Mailboxes (R267 to R273) -/

/-- R268, R269: ringing an idle mailbox copies the request area and makes the mailbox busy, when the phase and the opcode let the request
in; ringing a busy one only sets `RING_ERR`. R263, R273: a request that names the object of another accepted one, or claims a module that
another one claims, waits for that one when it was rung later, or in the same LCLK by a higher mailbox: its command leaves everything as it
is. -/
def Obligations.RingTakesTheRequest : Prop :=
  (∀ (s : State) (mb : Fin 32), s.phase = .ready ∨ s.phase = .starting →
    ((s.mbox mb).st ≠ .busy → (s.mbox mb).cur = false →
      s.refusal (({ mb, by_ := mbAgent mb, img := (s.mbox mb).req.toNat } : Req).opcode) = none →
      ∃ t, exec (.mailboxRing mb) s = .next t ∧ (t.mbox mb).st = .busy ∧ (t.mbox mb).cur = true ∧ (t.mbox mb).sram = (s.mbox mb).req
        ∧ (t.mbox mb).acceptAt = s.time.now ∧ (∀ k, k ≠ mb.val → t.mbox k = s.mbox k) ∧ ∃ mbs, t = { s with mboxes := mbs })
    ∧ ((s.mbox mb).st = .busy →
      exec (.mailboxRing mb) s = .next (s.setMbox mb { s.mbox mb with ringErr := true })))
  ∧ ∀ (s : State) (mb k : Fin 32), (s.mbox mb).cur = true → (s.mbox k).cur = true →
    (s.mbox k).acceptAt < (s.mbox mb).acceptAt ∨ ((s.mbox k).acceptAt = (s.mbox mb).acceptAt ∧ k < mb) →
    ((s.req mb).opcode = 0x0405 → (s.req k).opcode = 0x0405 → (s.req mb).fld 0x10 16 = (s.req k).fld 0x10 16 → exec (.ctxAdopt mb) s = .next s)
    ∧ ((s.req mb).opcode = 0x0201 → (s.req k).opcode = 0x0201 ∨ (s.req k).opcode = 0x0205 → s.own.st ≠ .window → exec (.claim mb) s = .next s)

/-- R389, R390, R391, R44, R319, R320: the commands that only read answer `OK` with their body, and change nothing else. R283, R364, R392, R317:
the logs are returned from `FIRST` on in `SEQ` order, at most `MAX` entries, whole groups of the event log; the shut-down record is returned, and
a host port's read of a written record sets `SD_READ`. -/
def Obligations.ReadCommandsAnswer : Prop :=
  (∀ (s : State) (mb : Fin 32),
     (Admitted s mb 0x0101 .any 0 [] → ∃ t, exec (.getCaps mb) s = .next t ∧ Ends s s t mb 0 60 s.capsBody)
     ∧ (Admitted s mb 0x0102 .any 0 [] → ∃ t, exec (.getVersion mb) s = .next t ∧ Ends s s t mb 0 72 s.versionBody)
     ∧ (Admitted s mb 0x0206 .any 0 [] → ∃ t, exec (.getOwner mb) s = .next t ∧ Ends s s t mb 0 24 s.ownershipBody)
     ∧ (Admitted s mb 0x0302 .any 0 [] → ∃ t, exec (.getLayout mb) s = .next t ∧ Ends s s t mb 0 32 s.lay.record)
     ∧ (Admitted s mb 0x0802 .any 0 [] → ∃ t, exec (.getPower mb) s = .next t ∧ Ends s s t mb 0 60 s.powerBody)
     ∧ (Admitted s mb 0x0901 .any 0 [] → ∃ t, exec (.getThermal mb) s = .next t
         ∧ Ends s s t mb 0 288 (natOf ((List.range 72).map fun d => bytesOf 4 (s.thermEntry d)).flatten))
     ∧ (Admitted s mb 0x0C01 .any 0 [] → ∃ t, exec (.packStatus mb) s = .next t ∧ Ends s s t mb 0 56 s.pack.body))
  ∧ (∀ (s : State) (mb : Fin 32),
     (Admitted s mb 0x0A02 .any 10 (bodyFields [(0x10, 64), (0x18, 16)]) → 1 ≤ (s.req mb).fld 0x18 16 → (s.req mb).fld 0x18 16 ≤ 95 →
       let es := (s.integ.log.reverse.filter fun e => decide ((s.req mb).fld 0x10 64 ≤ e.seq)).take ((s.req mb).fld 0x18 16)
       ∃ t, exec (.getErrlog mb) s = .next t ∧ Ends s s t mb 0 (16 + 32 * es.length)
         (logBody (overwritten ((s.req mb).fld 0x10 64) s.errOldest) (es.map ErrEntry.bits) 32
           ((es.getLast?.map fun e => e.seq + 1).getD s.integ.nextSeq)))
     ∧ (Admitted s mb 0x0E01 .any 10 (bodyFields [(0x10, 64), (0x18, 16)]) → 1 ≤ (s.req mb).fld 0x18 16 → (s.req mb).fld 0x18 16 ≤ 47 →
       let es := wholeGroups (s.evlog.log.reverse.filter fun e => decide ((s.req mb).fld 0x10 64 ≤ e.seq)) ((s.req mb).fld 0x18 16)
       ∃ t, exec (.getEventLog mb) s = .next t ∧ Ends s s t mb 0 (16 + 64 * es.length)
         (logBody (overwritten ((s.req mb).fld 0x10 64) s.evOldest) (es.map EvEntry.bits) 64
           ((es.getLast?.map fun e => e.seq + 1).getD s.evlog.nextSeq)))
     ∧ (Admitted s mb 0x0E02 .any 0 [] →
       ∃ t, exec (.getShutdownRecord mb) s = .next t
         ∧ Ends s { s with shut := { s.shut with read := s.shut.read || (decide (mb.val < 16) && decide (s.shut.kind ≠ 0)) } } t mb 0 32
             s.recordBody))

/-! ## Ownership (R260 to R266) -/

/-- R262, R264, R266: the ownership commands of a host port, where they execute: a claim or a take-over of a vacant module, the owner's
renewal before its lease has ended, its release, its handover to a port that can be reached. -/
def Obligations.OwnershipCommands : Prop :=
  ∀ (s : State) (mb : Fin 32) (p : Fin 4), mbAgent mb = .port p →
    let r := s.req mb
    (Admitted s mb 0x0201 .port 4 (bodyFields [(0x10, 32)]) → s.own.st = .vacant →
      let ms := leaseApplied (r.fld 0x10 32)
      ∃ t, exec (.claim mb) s = .next t ∧ NewOwner s t (.owned p) 0x05 (s.time.now + leaseNs ms) ∧ SameModule s t
        ∧ Completed t mb (clampStatus 0 (clampOf 0x10 32 (r.fld 0x10 32) ms)))
    ∧ (Admitted s mb 0x0205 .port 8 (bodyFields [(0x10, 8), (0x14, 32)]) → s.own.st = .vacant → r.fld 0x10 8 < 2 →
      let ms := leaseApplied (r.fld 0x14 32)
      ∃ t, exec (.takeover mb) s = .next t ∧ NewOwner s t (.owned p) 0x06 (s.time.now + leaseNs ms) ∧ SameModule s t
        ∧ Completed t mb (clampStatus 0 (clampOf 0x14 32 (r.fld 0x14 32) ms)))
    ∧ (Admitted s mb 0x0202 .ownerPort 4 (bodyFields [(0x10, 32)]) → s.time.now < s.own.leaseEnd →
      let ms := leaseApplied (r.fld 0x10 32)
      ∃ t, exec (.renewLease mb) s = .next t ∧ NewOwner s t (.owned p) 0x0A (s.time.now + leaseNs ms) ∧ SameModule s t
        ∧ Completed t mb (clampStatus 0 (clampOf 0x10 32 (r.fld 0x10 32) ms)))
    ∧ (Admitted s mb 0x0203 .ownerPort 1 (bodyFields [(0x10, 8)]) → r.fld 0x10 8 < 2 →
      (r.fld 0x10 8 = 0 → s.ctxs.any (fun e => e.2.st != .free) = false) →
      ∃ t, exec (.release mb) s = .next t ∧ NewOwner s t .vacant 0x08 0 ∧ SameModule s t ∧ Completed t mb 0)
    ∧ (Admitted s mb 0x0204 .ownerPort 8 (bodyFields [(0x10, 8), (0x14, 32)]) → ∀ q : Fin 4, r.fld 0x10 8 = q.val → q ≠ p →
      (s.port q).linkUp = true → (s.port q).fence = false →
      let ms := leaseApplied (r.fld 0x14 32)
      ∃ t, exec (.handover mb) s = .next t ∧ NewOwner s t (.owned q) 0x07 (s.time.now + leaseNs ms) ∧ SameModule s t
        ∧ Completed t mb (clampStatus 0 (clampOf 0x14 32 (r.fld 0x14 32) ms)))

/-- R261, R262, R264, R329: the events of ownership: the window opens for 50 ms when the module becomes ready; at its end the module is
vacant when nobody has claimed; a lease lapses at its expiry instant, but not while a renewal rung before waits. -/
def Obligations.OwnershipEvents : Prop :=
  ∀ (s : State) (at_ : Nat),
    (s.phase = .starting → s.booted = true →
      ∃ t, exec (.readyReached at_) s = .next t ∧ t.phase = .ready ∧ t.own.st = .window
        ∧ t.own.windowEnd = (s.advance at_).time.now + 50000000 ∧ t.own.claims = [] ∧ t.own.prioAtOpen = s.own.nvmPrio
        ∧ t.own.gen = s.own.gen ∧ t.mem = s.mem ∧ t.ctxs = s.ctxs ∧ t.queues = s.queues ∧ t.lay = s.lay)
    ∧ (s.own.st = .window → s.phase = .ready → s.own.windowEnd ≤ (s.advance at_).time.now → s.own.claims = [] → NoClaimWaits s →
      ∃ t, exec (.ownershipWindowClose at_) s = .next t ∧ NewOwner s t .vacant 0x04 0 ∧ SameModule (s.advance at_) t)
    ∧ (∀ p, s.own.st = .owned p → s.own.leaseEnd ≤ (s.advance at_).time.now →
      (s.renewing p = false → ∃ t, exec (.leaseExpiry at_) s = .next t ∧ NewOwner s t .vacant 0x09 0 ∧ SameModule (s.advance at_) t)
      ∧ (s.renewing p = true → exec (.leaseExpiry at_) s = .next (s.advance at_)))

/-- R263: when the window closes on held claims, those rung in the window that had not executed among them, the claim of the highest priority
wins, ties to the lowest port. -/
def Obligations.WindowElectsHighestPriority : Prop :=
  ∀ (s : State) (at_ : Nat), s.own.st = .window → s.phase = .ready → s.own.windowEnd ≤ (s.advance at_).time.now →
    let u := (s.advance at_).holdClaims
    (NoClaimWaits s → u.own.claims = s.own.claims)
    ∧ (u.own.claims ≠ [] →
      ∃ t w, exec (.ownershipWindowClose at_) s = .next t ∧ w ∈ u.own.claims
        ∧ NewOwner s t (.owned w.port) (if w.takeover then 0x03 else 0x02) (u.time.now + leaseNs w.leaseMs)
        ∧ ∀ c ∈ u.own.claims,
            s.own.prioAtOpen.getD c.port.val 0 < s.own.prioAtOpen.getD w.port.val 0
              ∨ (s.own.prioAtOpen.getD c.port.val 0 = s.own.prioAtOpen.getD w.port.val 0 ∧ w.port ≤ c.port))

/-- R261, R262: when the lease lapses every context that is active or suspended becomes orphaned, and keeps its windows
and its flag slots. -/
def Obligations.LostOwnerOrphansContexts : Prop :=
  ∀ (s : State) (at_ : Nat) (p : Fin 4), s.own.st = .owned p → s.own.leaseEnd ≤ (s.advance at_).time.now → s.renewing p = false →
    ∃ t, exec (.leaseExpiry at_) s = .next t ∧
      ∀ c, (s.ctx c).st = .active ∨ (s.ctx c).st = .suspended → (t.ctx c).st = .orphaned ∧ (t.ctx c).suspending = false
        ∧ (t.ctx c).windows = (s.ctx c).windows ∧ (t.ctx c).slots = (s.ctx c).slots

/-! ## Layout, contexts, queues, streams, flag windows (R44 to R48, R198 to R220) -/

/-- R46 to R48: `SET_LAYOUT` with no queue and no running core lets the accesses and steps in progress end (`State.quiesce`), which with none
changes nothing; then it loads the applied layout, `LAYOUT_GEN` rises by 1, and the columns of a pseudo-channel whose content R48 keeps read as
they then do; a failed NVM write changes nothing but the response; a layout equal to the one in force is loaded already. -/
def Obligations.SetLayoutLoadsTheLayout : Prop :=
  ∀ (s : State) (mb : Fin 32), Admitted s mb 0x0301 .ownerPort 0x20 setLayoutFields →
    let r := s.req mb
    let l := layoutApplied (bits r.img 0x80 2) (r.fld 0x14 16) (r.fld 0x16 16) (r.fld 0x18 16) (r.fld 0x1A 16)
    bits r.img 0x80 2 < 2 → s.queueOrCore = false →
    ({ l with gen := s.lay.gen } ≠ s.lay →
      (∃ t, exec (.setLayout mb true) s = .next t ∧ t.lay = { l with gen := s.lay.gen + 1 } ∧ (t.mbox mb).st = .complete
        ∧ (t.mbox mb).lastStatus < 2 ∧ (∀ col, s.lay.losesContent l (locOf col).gpc = false → SameCol s.quiesce t col)
        ∧ t.ctxs = s.ctxs ∧ t.flags = s.flags ∧ t.streams = s.streams ∧ t.power = s.quiesce.power)
      ∧ ∃ t, exec (.setLayout mb false) s = .next t ∧ t.lay = s.lay ∧ t.mem = s.quiesce.mem ∧ Completed t mb Status.internal)
    ∧ ({ l with gen := s.lay.gen } = s.lay → ∀ ok, ∃ t, exec (.setLayout mb ok) s = .next t ∧ t.lay = s.lay ∧ t.mem = s.mem
      ∧ t.pairs = s.pairs ∧ (t.mbox mb).st = .complete ∧ (t.mbox mb).lastStatus < 2)
    ∧ ((∀ su, (s.pair su).ordQ = [] ∧ (s.pair su).rerun = none ∧ (s.pair su).owed < 4) → s.underway = [] → s.quiesce = s)

/-- R198, R200: `CTX_CREATE` of a free context below 256 whose ranges and windows pass the checks makes it active with the windows,
barriers, streams and privilege of the request; every other context is as it was. -/
def Obligations.CtxCreateMakesAnActiveContext : Prop :=
  ∀ (s : State) (mb : Fin 32),
    let r := s.req mb
    let c := r.fld 0x10 16
    Admitted s mb 0x0401 .ownerPort (ctxCreateLen (r.fld 0x13 8)) (ctxCreateFields (r.fld 0x13 8)) →
    c < 256 → r.fld 0x12 8 < 2 → r.fld 0x13 8 ≤ 16 → r.fld 0x18 16 + r.fld 0x1A 16 ≤ 4096 → r.fld 0x1E 16 + r.fld 0x20 16 ≤ 8192 →
    (∀ w ∈ r.windows, w.2.2 < 2 ∧ w.1 % 65536 = 0 ∧ w.1 < 2 ^ 41 ∧ w.1 + w.2.1 * 65536 ≤ 2 ^ 41) → (s.ctx c).st = .free →
    s.ctxs.any (fun e => e.2.st != .free && (rangesMeet (r.fld 0x18 16) (r.fld 0x1A 16) e.2.barBase e.2.barCount
      || rangesMeet (r.fld 0x1E 16) (r.fld 0x20 16) e.2.strFirst e.2.strCount)) = false →
    ∃ t, exec (.ctxCreate mb) s = .next t ∧ (t.mbox mb).st = .complete ∧ (t.mbox mb).lastStatus < 2 ∧ (t.ctx c).st = .active
      ∧ (t.ctx c).windows = r.windows.map (fun w => { base := w.1, size := w.2.1 * 65536, write := w.2.2 == 1 })
      ∧ (t.ctx c).barBase = r.fld 0x18 16 ∧ (t.ctx c).barCount = r.fld 0x1A 16 ∧ (t.ctx c).strFirst = r.fld 0x1E 16
      ∧ (t.ctx c).strCount = r.fld 0x20 16 ∧ (t.ctx c).queueLimit = Nat.min 2048 (r.fld 0x1C 16) ∧ (t.ctx c).priv = (r.fld 0x12 8 == 1)
      ∧ (∀ d, d ≠ c → t.ctx d = s.ctx d) ∧ SameModule s t ∧ t.mem = s.mem ∧ t.queues = s.queues ∧ t.streams = s.streams
      ∧ t.flags = s.flags

/-- R200, R265, R254: `CTX_ADOPT` makes an orphan suspended and changes nothing else; `CTX_RESUME` makes a suspended context active and its
running host cores go on; `CTX_DESTROY` frees a context, and none of its records stays in flight. R200, R215, R274: `CTX_SUSPEND` of an active
context with no started record completes at once, with a started one it waits; at its time-out the context is suspended and the command ends
`ERR_TIMEOUT`. -/
def Obligations.ContextCommands : Prop :=
  (∀ (s : State) (mb : Fin 32),
     let r := s.req mb
     let c := r.fld 0x10 16
     c < 256 →
     (Admitted s mb 0x0405 .ownerPort 2 (bodyFields [(0x10, 16)]) → (s.ctx c).st = .orphaned →
       ∃ t, exec (.ctxAdopt mb) s = .next t ∧ Ends s (s.setCtx c { s.ctx c with st := .suspended }) t mb 0 0 0)
     ∧ (Admitted s mb 0x0404 .owner 2 (bodyFields [(0x10, 16)]) → s.foreign r.by_ c = false → (s.ctx c).st = .suspended →
       ∃ t, exec (.ctxResume mb) s = .next t ∧ (t.ctx c).st = .active ∧ (∀ d, d ≠ c → t.ctx d = s.ctx d) ∧ Completed t mb 0
         ∧ (∀ n, n < 16 → (t.hcore n).stopped = (if (s.hcore n).ctx = c ∧ (s.hcore n).run = true then false else (s.hcore n).stopped))
         ∧ SameModule s t ∧ t.mem = s.mem ∧ t.streams = s.streams ∧ t.flags = s.flags)
     ∧ (Admitted s mb 0x0402 .owner 2 (bodyFields [(0x10, 16)]) → s.foreign r.by_ c = false → (s.ctx c).st ≠ .free →
       ∃ t, exec (.ctxDestroy mb) s = .next t ∧ t.ctx c = {} ∧ (∀ x ∈ t.recs, x.ctx ≠ c) ∧ Completed t mb 0))
  ∧ (∀ (s : State) (mb : Fin 32),
     let r := s.req mb
     let c := r.fld 0x10 16
     (Admitted s mb 0x0403 .owner 8 (bodyFields [(0x10, 16), (0x14, 32)]) → c < 256 → s.foreign r.by_ c = false → (s.ctx c).st = .active →
       ((s.ctxRecs c).all (fun x => !x.started) = true →
         ∃ t, exec (.ctxSuspend mb) s = .next t ∧ (t.ctx c).st = .suspended ∧ (t.ctx c).suspending = false ∧ (t.mbox mb).st = .complete
           ∧ (t.mbox mb).lastStatus < 2)
       ∧ (∀ x ∈ s.recs, x.ctx = c → x.started = true → x.op ≠ 0x52 →
         ∃ t, exec (.ctxSuspend mb) s = .next t ∧ (t.ctx c).st = .active ∧ (t.ctx c).suspending = true ∧ (t.mbox mb).begun = true))
     ∧ ∀ at_, (s.mbox mb).cur = true → (s.mbox mb).begun = true → r.opcode = 0x0403 → (s.mbox mb).discard = false →
       (s.mbox mb).behind = [] → (s.mbox mb).deadline ≤ (s.advance at_).time.now →
       ∃ t, exec (.ctxSuspendTimeout mb at_) s = .next t ∧ Completed t mb Status.timeout
         ∧ (t.ctx c).st = (if (s.ctx c).st = .active then .suspended else (s.ctx c).st) ∧ (t.ctx c).suspending = false ∧ t.recs = s.recs)

/-- R201, R215, R216: `Q_CREATE` makes the lowest free queue with the applied fields; `Q_DESTROY` removes an empty one; `Q_DRAIN` waits
while records remain up to `TAIL`, and ends at once on an empty queue; at its time-out the records not started are cancelled. -/
def Obligations.QueueCommands : Prop :=
  ∀ (s : State) (mb : Fin 32),
    let r := s.req mb
    let x := r.fld 0x10 16
    (Admitted s mb 0x0501 .owner 24 (bodyFields [(0x10, 16), (0x12, 8), (0x13, 8), (0x14, 32), (0x18, 64), (0x20, 64)]) →
      let prio := Nat.min 3 (r.fld 0x12 8)
      let weight := clampNat 1 16 (r.fld 0x13 8)
      let n := entriesApplied (r.fld 0x14 32)
      let ring := r.fld 0x18 64
      let cq := r.fld 0x20 64
      s.foreign r.by_ x = false → x < 256 → (s.ctx x).st = .active ∨ (s.ctx x).st = .suspended → ring % 4096 = 0 → cq % 4096 = 0 →
      s.inOneWindow x ring (128 * n) = true → s.inOneWindow x cq (32 * n) = true → rangesMeet ring (128 * n) cq (32 * n) = false →
      (s.ctxQueues x).length < (s.ctx x).queueLimit → ∀ q, q < 2048 → (s.queue q).live = false → (∀ k, k < q → (s.queue k).live = true) →
      ∃ t, exec (.qCreate mb) s = .next t
        ∧ Ends s (({ s with group := { s.group with counts := s.group.counts.filter fun e => e.1 != q } } : State).setQueue q
            { live := true, ctx := x, entries := n, ring, cqRing := cq, prio, weight }) t mb
          (clampStatus 0 (clampOf 0x12 8 (r.fld 0x12 8) prio ++ clampOf 0x13 8 (r.fld 0x13 8) weight ++ clampOf 0x14 32 (r.fld 0x14 32) n))
          4 q)
    ∧ (Admitted s mb 0x0502 .owner 2 (bodyFields [(0x10, 16)]) → x < 2048 → (s.queue x).live = true → s.foreign r.by_ (s.queue x).ctx = false →
      (s.queue x).occ = 0 → s.qRecs x = [] → ∃ t, exec (.qDestroy mb) s = .next t ∧ Ends s (s.setQueue x {}) t mb 0 0 0)
    ∧ (Admitted s mb 0x0503 .owner 8 (bodyFields [(0x10, 16), (0x14, 32)]) → x < 2048 → (s.queue x).live = true →
      s.foreign r.by_ (s.queue x).ctx = false →
      ((s.queue x).tail ≠ (s.queue x).head ∨ s.qRecs x ≠ [] →
        ∃ t, exec (.qDrain mb) s = .next t ∧ (t.mbox mb).begun = true ∧ (t.queue x).drainTo = some (s.queue x).tail
          ∧ (t.mbox mb).deadline = s.time.now + timeoutNs (timeoutApplied (r.fld 0x14 32)) ∧ (t.queue x).head = (s.queue x).head)
      ∧ ((s.queue x).tail = (s.queue x).head → s.qRecs x = [] →
        ∃ t, exec (.qDrain mb) s = .next t ∧ (t.mbox mb).st = .complete ∧ (t.mbox mb).lastStatus < 2 ∧ (t.queue x).drainTo = none))
    ∧ ∀ at_ upto, (s.mbox mb).cur = true → (s.mbox mb).begun = true → r.opcode = 0x0503 → (s.mbox mb).discard = false →
      (s.mbox mb).behind = [] → (s.mbox mb).deadline ≤ (s.advance at_).time.now → (s.queue x).drainTo = some upto →
      ∃ t, exec (.qDrainTimeout mb at_) s = .next t ∧ Completed t mb Status.timeout ∧ (t.queue x).drainTo = none
        ∧ ∀ y ∈ t.recs, y.q = x → y.started = true

/-- R209, R210, R212: `STREAM_ALLOC` takes the stream asked for, or the lowest free one of the context; `STREAM_FREE` frees one that no
record in flight names; `STREAM_SET` writes the selected fields and returns the entry, and waits while a record in flight advances it. -/
def Obligations.StreamCommands : Prop :=
  ∀ (s : State) (mb : Fin 32),
    let r := s.req mb
    let x := r.fld 0x10 16
    (Admitted s mb 0x0601 .owner 4 (bodyFields [(0x10, 16), (0x12, 16)]) → s.foreign r.by_ x = false → x < 256 →
      (s.ctx x).st = .active ∨ (s.ctx x).st = .suspended → .streams ∉ s.stopped → ∀ i, (s.stream i).st = .free → (s.ctx x).strFirst ≤ i →
      i < (s.ctx x).strFirst + (s.ctx x).strCount →
      (r.fld 0x12 16 ≠ 0xFFFF ∧ r.fld 0x12 16 = i)
        ∨ (r.fld 0x12 16 = 0xFFFF ∧ ∀ k, (s.ctx x).strFirst ≤ k → k < i → (s.stream k).st ≠ .free) →
      ∃ t, exec (.streamAlloc mb) s = .next t ∧ Ends s (s.setStream i { st := .active, ctx := x }) t mb 0 4 i)
    ∧ (Admitted s mb 0x0602 .owner 2 (bodyFields [(0x10, 16)]) → x < 8192 → (s.stream x).st ≠ .free →
      s.foreign r.by_ (s.stream x).ctx = false → (∀ y ∈ s.recs, x ∉ y.streams) →
      ∃ t, exec (.streamFree mb) s = .next t ∧ Ends s (s.setStream x {}) t mb 0 0 0)
    ∧ (Admitted s mb 0x0603 .owner 0x90 (streamSetFields (r.fld 0x12 16)) → x < 8192 → (s.stream x).st ≠ .free →
      s.foreign r.by_ (s.stream x).ctx = false → streamSetBad (r.fld 0x12 16) (r.fld 0x20 1024) = false →
      streamSetOut s (s.stream x).ctx (r.fld 0x12 16) (r.fld 0x20 1024) = false →
      let v := (s.stream x).write (r.fld 0x12 16) (r.fld 0x20 1024)
      (s.advancing x = false → ∃ t, exec (.streamSet mb) s = .next t ∧ Completed t mb 0 ∧ (t.mbox mb).resp.bodyLen = 128
        ∧ (t.mbox mb).resp.body = v.entry ∧ t.stream x = v)
      ∧ (s.advancing x = true → ∃ t, exec (.streamSet mb) s = .next t ∧ (t.mbox mb).begun = true ∧ t.stream x = s.stream x))

/-- R218, R220: `FLAG_WINDOW_MAP` reads a slot (`OP` 2), binds a cleared block to it (`OP` 0), or unbinds and clears its block (`OP` 1);
other contexts and other blocks are as they were. -/
def Obligations.FlagWindowMap : Prop :=
  ∀ (s : State) (mb : Fin 32), Admitted s mb 0x0701 .owner 0x20 flagMapFields →
    let r := s.req mb
    let c := r.fld 0x10 16
    let slot := r.fld 0x12 16
    let e := r.fld 0x20 128
    let cur := Tbl.get ({} : FSlot) (s.ctx c).slots slot
    let f : FSlot := { block := bits e 0 10, mapped := true, mirror := e.testBit 11, msix := e.testBit 12
                       vector := bits e 16 11, addr := BitVec.ofNat 64 (bits e 64 64) }
    s.foreign r.by_ c = false → c < 256 → slot < 1024 → (s.ctx c).st ≠ .free →
    (r.fld 0x14 8 = 2 → ∃ t, exec (.flagWindowMap mb) s = .next t ∧ Ends s s t mb 0 16 cur.entry)
    ∧ (r.fld 0x14 8 = 0 → (s.ctx c).st ≠ .orphaned → slot ∉ s.namedSlots c → f.addr.toNat % 8 = 0 →
      (∀ b, s.binding f.block = some b → b.1 = c ∧ b.2.1 = slot) → (f.msix = true → f.vector < s.vectorsOn) →
      ∃ t, exec (.flagWindowMap mb) s = .next t ∧ Completed t mb 0 ∧ (t.mbox mb).resp.body = f.entry
        ∧ Tbl.get ({} : FSlot) (t.ctx c).slots slot = f ∧ t.flagBlock f.block = 0 ∧ Tbl.get ({} : Mirror) t.mirrors f.block = { write := f.mirror }
        ∧ (∀ d, d ≠ c → t.ctx d = s.ctx d)
        ∧ (∀ b, b ≠ f.block → (cur.mapped = true → b ≠ cur.block) → t.flagBlock b = s.flagBlock b)
        ∧ SameModule s t ∧ t.mem = s.mem ∧ t.queues = s.queues ∧ t.streams = s.streams ∧ t.recs = s.recs)
    ∧ (r.fld 0x14 8 = 1 → (s.ctx c).st ≠ .orphaned → cur.mapped = true → slot ∉ s.namedSlots c →
      ∃ t, exec (.flagWindowMap mb) s = .next t ∧ Completed t mb 0 ∧ (t.mbox mb).resp.body = 0
        ∧ Tbl.get ({} : FSlot) (t.ctx c).slots slot = {} ∧ t.flagBlock cur.block = 0 ∧ (∀ d, d ≠ c → t.ctx d = s.ctx d)
        ∧ (∀ b, b ≠ cur.block → t.flagBlock b = s.flagBlock b)
        ∧ SameModule s t ∧ t.mem = s.mem ∧ t.queues = s.queues ∧ t.streams = s.streams ∧ t.recs = s.recs)

/-! ## Power (R296 to R306) -/

/-- R296, R300, R303, R93: `SET_ENVELOPE` loads the applied envelope when held and reserved quanta fit it, else drops the liens and lowers grants
until the held ones do, and else waits for the edge at which they first fit; at that edge the request ends; `SET_SORUS_LIMIT` loads the applied
limits. -/
def Obligations.PowerCommands : Prop :=
  ∀ (s : State) (mb : Fin 32),
    let r := s.req mb
    let e := clampNat 8000 24000 (r.fld 0x10 32)
    let u := s.dropLiens.lowerGrants e
    (Admitted s mb 0x0801 .ownerPort 4 (bodyFields [(0x10, 32)]) →
      (s.heldQ + s.reservedQ ≤ e → ∃ t, exec (.setEnvelope mb) s = .next t
        ∧ Ends s { s with power := { s.power with envelope := e } } t mb (clampStatus 0 (clampOf 0x10 32 (r.fld 0x10 32) e)) 0 0)
      ∧ (e < s.heldQ + s.reservedQ → u.heldQ ≤ e → ∃ t, exec (.setEnvelope mb) s = .next t ∧ t.power.envelope = e ∧ t.heldQ ≤ e
        ∧ t.power.liens = [] ∧ (∀ g ∈ t.power.grants, g.parts = []) ∧ (t.mbox mb).st = .complete ∧ (t.mbox mb).lastStatus < 2
        ∧ (∀ c, (t.core c).level ≤ (s.core c).level) ∧ t.power.tokens = s.power.tokens ∧ SameModule s t ∧ t.mem = s.mem ∧ t.recs = s.recs)
      ∧ (e < s.heldQ + s.reservedQ → e < u.heldQ → ∃ t, exec (.setEnvelope mb) s = .next t ∧ t.power.envelope = s.power.envelope
        ∧ t.power.lowerTo = some e
        ∧ (t.mbox mb).begun = true ∧ (∀ c, (t.core c).level ≤ (s.core c).level)))
    ∧ (∀ l, s.power.lowerTo = some l → s.heldQ ≤ l →
      ∃ t, exec .envelopeLowerEdge s = .next t ∧ t.power = { s.power with envelope := l, lowerTo := none } ∧ SameModule s t ∧ t.mem = s.mem
        ∧ t.recs = s.recs ∧ t.cores = s.cores
        ∧ ((s.mbox mb).cur = true → (s.mbox mb).begun = true → r.opcode = 0x0801 → (s.mbox mb).discard = false → (s.mbox mb).behind = [] →
          Completed t mb (clampStatus 0 (s.mbox mb).clamps)))
    ∧ (Admitted s mb 0x0803 .ownerPort 8 sorusLimitFields →
      let a (i : Nat) : Nat := Nat.min 6 (bits r.img (0x80 + i) 3)
      ∃ t, exec (.setSorusLimit mb) s = .next t ∧ (t.mbox mb).st = .complete ∧ (t.mbox mb).lastStatus < 2
        ∧ t.power = { s.power with
            prio := BitVec.ofNat 32 (7 + a 4 * 2 ^ 4 + a 8 * 2 ^ 8 + a 12 * 2 ^ 12 + a 16 * 2 ^ 16)
            inbankBatch := Nat.min 8 (r.fld 0x14 8), tokenLimit := Nat.min 8192 (r.fld 0x16 16) }
        ∧ SameModule s t ∧ t.mem = s.mem ∧ t.cores = s.cores ∧ t.queues = s.queues
        ∧ (Nat.min s.bandFigure (Nat.min 8192 (r.fld 0x16 16)) ≠ 0 → t.recs = s.recs))

/-- R235, R297 to R299, R304, R305: the arbiter: a request joins its queue, limited to what the holder may still hold, tokens one by one; a holder
gives units back; the next request is granted whole, and its holder's units rise; a core idle for 2 µs lends its level under a lien and is granted
it again, as far as its lien and the free quanta cover it. R31, R32, R298, R324, R349: a ledger that disagrees with a holder stops the grants,
another count out of balance its own pool, and both raise the module error; a rhizoid port whose credits do not balance goes down, the pack
whose charge does not is marked faulted; counts that agree change nothing. That a holder's own return is a form of `QUANTA_REQUEST` is the
model's choice, log entry 22. -/
def Obligations.ArbiterCommands : Prop :=
  ∀ (s : State),
    (∀ h units, let n := Nat.min units (s.headroom h)
      (0 < n → h ≠ .tokens → exec (.quantaRequest h (.ask units)) s = .next { s with power := { s.power with
        waiting := s.power.waiting ++ [{ holder := h, quanta := n * unitQ h, since := s.time.now }] } })
      ∧ (h = .tokens → exec (.quantaRequest h (.ask units)) s = .next { s with power := { s.power with
        waiting := s.power.waiting ++ List.replicate n { holder := .tokens, quanta := 1, since := s.time.now } } })
      ∧ (n = 0 → exec (.quantaRequest h (.ask units)) s = .next s))
    ∧ (∀ (c : Fin 64) n, n ≤ (s.core c).level →
      ∃ t, exec (.quantaRequest (.core c) (.giveBack n)) s = .next t ∧ (t.core c).level = (s.core c).level - n
        ∧ (∀ d, d ≠ c.val → t.core d = s.core d)
        ∧ t.power.waiting = s.power.waiting ∧ t.power.stackEighths = s.power.stackEighths ∧ SameModule s t ∧ t.mem = s.mem ∧ t.recs = s.recs)
    ∧ (∀ (k : Fin 32) n, n < Tbl.get 1 s.power.stackEighths k →
      ∃ t, exec (.quantaRequest (.stack k) (.giveBack n)) s = .next t
        ∧ Tbl.get 1 t.power.stackEighths k = Tbl.get 1 s.power.stackEighths k - n ∧ t.cores = s.cores ∧ SameModule s t ∧ t.mem = s.mem
          ∧ t.recs = s.recs)
    ∧ (∀ at_ w, (s.advance at_).granting = true → (s.advance at_).nextGrant = some w →
      let n := w.quanta / unitQ w.holder
      (w.holder = .tokens → exec (.quantaGrant at_) s = .next (s.advance at_))
      ∧ (w.holder ≠ .tokens → ∃ t g, exec (.quantaGrant at_) s = .next t ∧ t.power.waiting = s.power.waiting.erase w
        ∧ t.power.grants = g :: s.power.grants ∧ g.holder = w.holder ∧ g.quanta = w.quanta ∧ g.since = w.since
        ∧ (match w.holder with
          | .core c => (t.core c).level = (s.core c).level + n ∧ (∀ d, d ≠ c.val → t.core d = s.core d)
              ∧ t.power.stackEighths = s.power.stackEighths ∧ t.power.rports = s.power.rports
          | .stack k => Tbl.get 1 t.power.stackEighths k = Tbl.get 1 s.power.stackEighths k + n ∧ t.cores = s.cores
          | .rport k => Tbl.get false t.power.rports k = true ∧ t.cores = s.cores ∧ t.power.stackEighths = s.power.stackEighths
          | _ => t.cores = s.cores ∧ t.power.stackEighths = s.power.stackEighths)
        ∧ (w.quanta ≤ s.freeQ - s.reservedQ → t.power.liens = s.power.liens ∧ g.parts = [])
        ∧ SameModule (s.advance at_) t ∧ t.mem = s.mem ∧ t.recs = s.recs ∧ t.power.tokens = s.power.tokens))
    ∧ (∀ c : Fin 64, (s.core c).level ≠ 0 → (s.core c).lentLevel = none → (s.core c).lastOp + 2000 ≤ s.time.now →
      ∃ t, exec (.coreLend c) s = .next t ∧ (t.core c).level = 0 ∧ (t.core c).lentLevel = some (s.core c).level
        ∧ (s.borrowedBy (.core c) = 0 → t.power.liens = s.power.liens ++ [{ core := c.val, reserved := 30 * (s.core c).level }])
        ∧ (∀ w ∈ t.power.waiting, w.holder ≠ .core c) ∧ t.power.envelope = s.power.envelope ∧ t.power.tokens = s.power.tokens
        ∧ (∀ d, d ≠ c.val → t.core d = s.core d) ∧ SameModule s t ∧ t.mem = s.mem ∧ t.recs = s.recs)
    ∧ (∀ (c : Fin 64) g, (s.core c).lentLevel = some g → (s.core c).level = 0 → s.granting = true →
      let lvl := Nat.min g (s.coreCap c)
      let own := sumNat ((s.power.liens.filter fun l => l.core == c.val).map (·.reserved))
      ∃ t, exec (.coreRegrant c) s = .next t ∧ (t.core c).level ≤ lvl ∧ (t.core c).lentLevel = none
        ∧ (s.reservedQ ≤ s.freeQ → 30 * lvl ≤ own + (s.freeQ - s.reservedQ) → (t.core c).level = lvl)
        ∧ ((t.core c).level < lvl → ∃ w ∈ t.power.waiting, w.holder = .core c ∧ w.quanta = 30 * (lvl - (t.core c).level) ∧ w.regrant = true)
        ∧ (∀ l ∈ t.power.liens, l.core ≠ c.val) ∧ SameModule s t ∧ t.mem = s.mem ∧ t.recs = s.recs)
    ∧ (∀ held, (∀ x ∈ held, s.ledger x.1 = x.2) → exec (.arbiterLedgerCheck { held, found := [] }) s = .next s)
    ∧ (∀ held found, (∀ x ∈ found, x.1 ≠ .packCharge ∧ ∀ n, x.1 ≠ .rhizoidCredits n) →
      (∀ x, x ∈ held → s.ledger x.1 ≠ x.2 →
        ∃ t, exec (.arbiterLedgerCheck { held, found }) s = .next t ∧ t.granting = false ∧ t.evlog.errStatus = Status.internal
          ∧ (∀ i, i < 20 → (t.intr i).modErr = true) ∧ SameModule s t ∧ t.mem = s.mem ∧ t.recs = s.recs ∧ t.cores = s.cores)
      ∧ ∀ q u, (q, u) ∈ found →
        ∃ t, exec (.arbiterLedgerCheck { held, found }) s = .next t ∧ q ∈ t.stopped ∧ t.evlog.errStatus = Status.internal
          ∧ (∀ i, i < 20 → (t.intr i).modErr = true) ∧ SameModule s t ∧ t.mem = s.mem ∧ t.recs = s.recs ∧ t.cores = s.cores)
    ∧ (∀ (n : Fin 8) u, ∃ t, exec (.arbiterLedgerCheck { held := [], found := [(.rhizoidCredits n, u)] }) s = .next t ∧ (t.rport n).up = false
      ∧ (t.rport n).mismatch = true ∧ t.stopped = s.stopped ∧ s.evlog.nextSeq < t.evlog.nextSeq ∧ t.mem = s.mem ∧ t.recs = s.recs)
    ∧ ∀ u, ∃ t, exec (.arbiterLedgerCheck { held := [], found := [(.packCharge, u)] }) s = .next t ∧ t.pack.faulted = true
      ∧ t.pack.ready = false ∧ t.stopped = s.stopped ∧ s.evlog.nextSeq < t.evlog.nextSeq ∧ t.mem = s.mem ∧ t.recs = s.recs

/-! ## Integrity (R280 to R295) -/

/-- R281, R288, R291, R293 to R295: `SCRUB` answers with the summary of its columns, once its reads have come through to them
(`State.reach`), and leaves every other column as it then is; `SET_BUCKET` restarts the buckets it names and keeps their counts;
`FLIP_MASK_ARM` arms a channel's mask; `REPAIR_ROW` takes the next spare of the row's subarray and leaves every other row as it is. -/
def Obligations.IntegrityCommands : Prop :=
  ∀ (s : State) (mb : Fin 32),
    let r := s.req mb
    let u := r.fld 0x10 32
    (Admitted s mb 0x0A01 .owner 16 (bodyFields [(0x10, 64), (0x18, 64)]) → r.fld 0x10 64 % 32 = 0 → r.fld 0x10 64 < 2 ^ 41 →
      r.fld 0x18 64 % 32 = 0 →
      let v := s.reach rachis 16 (s.scrubCols (r.fld 0x10 64) (scrubLen r / 32))
      let w := scrubAnswer (s.mbox mb).startAt (r.fld 0x10 64) (scrubLen r / 32) s
      ∃ t, exec (.scrub mb) s = .next t
        ∧ Ends s w.1 t mb (clampStatus 0 (clampOf 0x18 64 (r.fld 0x18 64) (scrubLen r))) 0x238 w.2
        ∧ (∀ col, (∀ i, i < scrubLen r / 32 → s.lay.colOf (r.fld 0x10 64 + 32 * i) ≠ col) → SameCol v t col)
        ∧ SameModule v t ∧ t.ctxs = s.ctxs ∧ t.queues = s.queues ∧ t.recs = s.recs ∧ t.power = v.power ∧ t.cores = s.cores)
    ∧ (Admitted s mb 0x0A03 .ownerPort 6 (bodyFields [(0x10, 8), (0x12, 16), (0x14, 16)]) → r.fld 0x10 8 < 32 ∨ r.fld 0x10 8 = 0xFF →
      let leak := clampNat 1 3600 (r.fld 0x12 16)
      let thr := clampNat 1 65535 (r.fld 0x14 16)
      ∃ t, exec (.setBucket mb) s = .next t ∧ (t.mbox mb).st = .complete ∧ (t.mbox mb).lastStatus < 2
        ∧ (∀ k, k < 32 → r.fld 0x10 8 = 0xFF ∨ r.fld 0x10 8 = k →
            t.bucket k = { count := (s.bucket k).count, leakS := leak, threshold := thr, above := decide (thr < (s.bucket k).count)
                           nextLeak := s.time.now + leak * 1000000000 })
        ∧ (r.fld 0x10 8 ≠ 0xFF → ∀ k, k ≠ r.fld 0x10 8 → t.bucket k = s.bucket k)
        ∧ SameModule s t ∧ t.mem = s.mem ∧ t.recs = s.recs ∧ t.power = s.power)
    ∧ (Admitted s mb 0x0A04 .privileged 0x38 (bodyFields [(0x10, 32), (0x20, 256), (0x40, 48)]) → bits u 28 4 = 3 → unitOk u = true →
      let f : Flip := { dataMask := BitVec.ofNat 256 (r.fld 0x20 256), checkMask := BitVec.ofNat 48 (r.fld 0x40 48) }
      ∃ t, exec (.flipMaskArm mb) s = .next t
        ∧ Ends s { s with mem := { s.mem with flips := Tbl.put none s.mem.flips (bits u 0 28) (some f) } } t mb 0 0 0)
    ∧ (Admitted s mb 0x0A05 .ownerPort 7 (bodyFields [(0x10, 32), (0x14, 16), (0x16, 8)]) → bits u 28 4 = 5 → unitOk u = true →
      let bank := bits u 0 28
      let row := r.fld 0x14 16
      let used := (s.mem.spares bank row).2
      row < 32768 → r.fld 0x16 8 < 2 → used < (s.mem.spares bank row).1 → s.pcUp (bank / 32) = true →
      ∃ t, exec (.repairRow mb) s = .next t ∧ Completed t mb 0
        ∧ Tbl.get none (Tbl.get [] t.mem.repairs bank) row = some { spare := used, fuse := r.fld 0x16 8 == 1 }
        ∧ (t.mem.spares bank row).2 = used + 1
        ∧ (∀ col, col / 32 ≠ bank * 32768 + row → SameCol (s.endBegun (colUnit ((bank * 32768 + row) * 32))) t col)
        ∧ SameModule s t ∧ t.ctxs = s.ctxs ∧ t.queues = s.queues ∧ t.recs = s.recs)

/-- R280, R283, R286, R287, R290, R292, R364: the events of memory integrity: a bucket leaks one at its leak instant; the logs are copied to
NVM; a command-parity error is counted in its channel (twice when its poisoning write failed too), and more than 16 within 1 s fence it; a
column position with errors in 8 rows takes one of the 8 column repairs of its pseudo-channel. -/
def Obligations.IntegrityEvents : Prop :=
  ∀ (s : State) (at_ : Nat),
    (∀ st : Fin 32, (s.bucket st).nextLeak ≤ (s.advance at_).time.now →
      ∃ t, exec (.bucketLeak st at_) s = .next t ∧ (t.bucket st).count = (s.bucket st).count - 1
        ∧ (t.bucket st).nextLeak = (s.bucket st).nextLeak + (s.bucket st).leakS * 1000000000
        ∧ (t.bucket st).leakS = (s.bucket st).leakS ∧ (t.bucket st).threshold = (s.bucket st).threshold
        ∧ (∀ k, k ≠ st.val → t.bucket k = s.bucket k)
        ∧ ∃ bs, t = { s.advance at_ with integ := { s.integ with buckets := bs } })
    ∧ (s.integ.nextCopy ≤ (s.advance at_).time.now →
      exec (.logNvmCopy at_) s = .next { s.advance at_ with
        integ := { s.integ with nvm := s.integ.log, nextCopy := (s.advance at_).time.now + 10000000000 }
        evlog := { s.evlog with nvm := s.evlog.log } })
    ∧ (∀ gpc cmd, wordOk cmd = true → exec (.commandParityError gpc cmd at_) s = .next (s.advance at_))
    ∧ (∀ gpc cmd, wordOk cmd = false →
      let now := (s.advance at_).time.now
      let recent := List.replicate (parityCount cmd) now ++ (s.chan (gpc / 2)).parityAt.filter fun t => decide (now < t + 1000000000)
      ∃ t, exec (.commandParityError gpc cmd at_) s = .next t ∧ t.time.now = now
        ∧ (t.chan (gpc / 2)).parityAt = recent ∧ (16 < recent.length → (t.chan (gpc / 2)).svc = .fenced)
        ∧ ((∃ su, cmd = .refresh su) → ∃ e ∈ t.integ.log, e.kind = 4 ∧ e.unit = unitId 3 (gpc / 2))
        ∧ t.lay = s.lay ∧ t.own = s.own)
    ∧ ∀ bank column, bank < 65536 → column < 32 → s.pcUp (bank / 32) = true →
      let now := (s.advance at_).time.now
      let done := Tbl.get [] s.mem.colRepairs (bank / 32)
      let key := bank % 32 * 32 + column
      let last := (done.filter fun e => e.1 == key).foldl (fun m e => Nat.max m e.2) 0
      8 ≤ ((s.advance at_).errRows bank column (Nat.max (now - 86400000000000) last)).length →
      (done.length < 8 → ∃ t, exec (.autoColumnRepair bank column at_) s = .next t
        ∧ Tbl.get [] t.mem.colRepairs (bank / 32) = done ++ [(key, now)]
        ∧ (∀ col, col % 32 ≠ column ∨ col / 1048576 ≠ bank →
            SameCol ((s.advance at_).reach rachis 16 [bank * 32768 * 32 + column]) t col)
        ∧ SameBut (s.advance at_) t ∧ t.recs = s.recs)
      ∧ (8 ≤ done.length → ∃ t, exec (.autoColumnRepair bank column at_) s = .next t ∧ t.mem = s.mem ∧ t.recs = s.recs)

/-! ## Service, pack, groups, firmware (R315 to R325, R339 to R345, R351 to R354) -/

/-- R332, R339 to R343, R393: `UNIT_DISABLE` of an idle channel, core or host core takes it out of service, and at its time-out whatever
remains is given up; `UNIT_READMIT` of a rhizoid port, core, host core, link or engine puts it back; one whose test fails, and a channel
whose training fails or finds an eye narrower than 20 steps, stays out with `ERR_OUT_OF_SERVICE`; `SECURE_ERASE` leaves every byte of every
channel in service zero. -/
def Obligations.ServiceCommands : Prop :=
  ∀ (s : State) (mb : Fin 32),
    let r := s.req mb
    let u := r.fld 0x10 32
    let i := bits u 0 28
    let k := bits u 28 4
    (Admitted s mb 0x0B01 .ownerPort 12 (bodyFields [(0x10, 32), (0x14, 8), (0x18, 32)]) → unitOk u = true → r.fld 0x14 8 < 2 →
      (k = 3 → (s.chan i).svc = .inService → s.channelIdle i = true →
        ∃ t, exec (.unitDisable mb) s = .next t ∧ (t.chan i).svc = .disabled ∧ (t.mbox mb).st = .complete ∧ (t.mbox mb).lastStatus < 2)
      ∧ (k = 7 → (s.core i).svc = .inService → s.coreIdle i = true →
        ∃ t, exec (.unitDisable mb) s = .next t ∧ (t.core i).svc = .disabled ∧ (t.core i).level = 0 ∧ (t.mbox mb).st = .complete
          ∧ (t.mbox mb).lastStatus < 2)
      ∧ (k = 9 → (s.hcore i).svc = .inService →
        ∃ t, exec (.unitDisable mb) s = .next t ∧ (t.hcore i).svc = .disabled ∧ (t.hcore i).run = false ∧ (t.mbox mb).st = .complete
          ∧ (t.mbox mb).lastStatus < 2))
    ∧ (∀ at_, (s.mbox mb).cur = true → (s.mbox mb).begun = true → r.opcode = 0x0B01 → (s.mbox mb).discard = false →
      (s.mbox mb).behind = [] → (s.mbox mb).deadline ≤ (s.advance at_).time.now → (∀ m, m ≠ mb.val → (s.mbox m).begun = false) →
      ∃ t, exec (.unitDisableTimeout mb at_) s = .next t
        ∧ Completed t mb (if s.unitIdle u = true then clampStatus 0 (s.mbox mb).clamps else Status.timeout)
        ∧ (k = 3 → (s.chan i).svc ≠ .fenced → (t.chan i).svc = .disabled) ∧ (k = 7 → (t.core i).svc = .disabled ∧ (t.core i).level = 0))
    ∧ (Admitted s mb 0x0B02 .ownerPort 4 (bodyFields [(0x10, 32)]) → unitOk u = true → s.inSvc u = false →
      s.readmitCovered u = true →
      ∀ o : Readmission,
      (k = 10 → o.passes = true →
        ∃ t, exec (.unitReadmit mb o) s = .next t ∧ t.rport i = {} ∧ Completed t mb 0 ∧ SameModule s t ∧ t.mem = s.mem)
      ∧ (k = 7 → o.passes = true →
        ∃ t, exec (.unitReadmit mb o) s = .next t ∧ t.core i = {} ∧ Completed t mb 0 ∧ SameModule s t ∧ t.mem = s.mem)
      ∧ (k = 9 → ∃ t, exec (.unitReadmit mb o) s = .next t ∧ (t.hcore i).svc = .inService ∧ (t.hcore i).run = false ∧ Completed t mb 0)
      ∧ (k = 11 → o.passes = true → (∀ f : Fin 4, (s.frond f.val).path = true) → s.fabricHeld = [] →
        ∃ t, exec (.unitReadmit mb o) s = .next t ∧ (t.flink i).svc = .inService ∧ t.oldLinks = s.oldLinks ++ [s.linkMask] ∧ Completed t mb 0
          ∧ t.mem = s.mem)
      ∧ (k = 12 → o.passes = true →
        ∃ t, exec (.unitReadmit mb o) s = .next t ∧ t.engine i = {} ∧ Completed t mb 0 ∧ SameModule s t ∧ t.mem = s.mem)
      ∧ (k = 7 ∨ k = 11 ∨ k = 12 → o.passes = false → ∃ t, exec (.unitReadmit mb o) s = .next t ∧ Completed t mb Status.outOfService
          ∧ t.cores = s.cores ∧ t.flinks = s.flinks ∧ t.engines = s.engines ∧ SameModule s t ∧ t.mem = s.mem)
      ∧ (k = 3 → o.passes = false ∨ (lanesOf o [i]).any eyeNarrow = true → ∃ t, exec (.unitReadmit mb o) s = .next t
          ∧ Completed t mb Status.outOfService ∧ (t.chan i).svc = (s.chan i).svc ∧ t.delays = s.delays ∧ SameModule s t))
    ∧ (∀ bad, Admitted s mb 0x0B03 .ownerPort 4 (bodyFields [(0x10, 32)]) → u = 0x45524153 → s.queueOrCore = false →
      s.dropLevels.granting = true → 4096 ≤ Nat.min s.dropLevels.bandFigure s.dropLevels.freeQ →
      ∃ t, exec (.secureErase mb bad) s = .next t
        ∧ Completed t mb (if bad ≠ [] then Status.internal else if s.outChannels ≠ [] then Status.outOfService else 0)
        ∧ (∀ a, (s.chan ((locOf (a / 32)).gpc / 2)).svc = .inService → t.mem.byteAt a = 0)
        ∧ t.mem.flips = [] ∧ (∀ c, t.core c = { svc := (s.core c).svc : Core }) ∧ (∀ p, (t.pair p).unit = {}) ∧ t.lay = s.lay)

/-- R320 to R324: the retention pack: `RETAIN_ARM` and `PACK_AUTH` with what they answer, the poll, the third missed one, detection,
removal outside retention, the charge ledger and its NVM copy. -/
def Obligations.PackCommands : Prop :=
  ∀ (s : State) (mb : Fin 32) (at_ : Nat),
    (Admitted s mb 0x0C03 .ownerPort 1 (bodyFields [(0x10, 8)]) → (s.req mb).fld 0x10 8 < 2 →
      ∃ t, exec (.retainArm mb) s = .next t ∧ Completed t mb 0 ∧ t.pack.armed = ((s.req mb).fld 0x10 8 == 1)
        ∧ t.pack = { s.pack with armed := t.pack.armed, charging := t.pack.charging } ∧ t.mem = s.mem ∧ t.recs = s.recs ∧ t.power = s.power)
    ∧ (∀ c n g, Admitted s mb 0x0C02 .ownerPort 0 [] → s.pack.present = true →
      ∃ t, exec (.packAuth mb (.answer c n g)) s = .next t ∧ t.pack.authentic = (c && n && g)
        ∧ Completed t mb (if c && n && g then 0 else Status.unsupported) ∧ ((c && n && g) = true → t.pack.faulted = false)
        ∧ t.mem = s.mem ∧ t.recs = s.recs ∧ t.power = s.power)
    ∧ (∀ rd, s.pack.present = true → PackReading.inRange rd = true →
      ∃ t, exec (.packPoll at_ (some rd)) s = .next t ∧ t.pack.soc = rd.soc ∧ t.pack.storedMwh = rd.storedMwh
        ∧ t.pack.inMc = Nat.min (2 ^ 64 - 1) (s.pack.inMc + rd.inMc) ∧ t.pack.outMc = Nat.min (2 ^ 64 - 1) (s.pack.outMc + rd.outMc)
        ∧ t.pack.cycles = Nat.min 65535 (s.pack.cycles + (s.pack.cycleMc + rd.outMc) / 11250000)
        ∧ (10000 ≤ t.pack.cycles → t.pack.eol = true)
        ∧ t.pack.cellTemp = rd.cellTemp ∧ t.pack.missed = 0 ∧ t.pack.present = true ∧ t.mem = s.mem ∧ t.recs = s.recs)
    ∧ (∀ rd, s.pack.present = true → s.pack.missed < 2 → PackReading.inRange rd = false →
      ∃ t, exec (.packPoll at_ (some rd)) s = .next t ∧ t.pack = { s.pack with missed := s.pack.missed + 1, charging := t.pack.charging }
        ∧ t.mem = s.mem)
    ∧ (s.pack.present = true → 2 ≤ s.pack.missed →
      ∃ t, exec (.packPoll at_ none) s = .next t ∧ t.pack.present = false ∧ t.pack.authentic = false ∧ t.pack.ready = false
        ∧ t.mem = s.mem ∧ t.recs = s.recs)
    ∧ (∀ rd, s.pack.present = false → PackReading.inRange rd = true →
      ∃ t, exec (.packDetect rd (.answer true true true)) s = .next t ∧ t.pack.present = true ∧ t.pack.authentic = true
        ∧ t.pack.serial = rd.serial ∧ t.mem = s.mem ∧ t.recs = s.recs
        ∧ if s.pack.missed = 3 then t.pack.faulted = s.pack.faulted ∧ t.pack.lastIn = s.pack.lastIn ∧ t.pack.lastOut = s.pack.lastOut
            ∧ t.pack.lastStored = s.pack.lastStored
          else t.pack.faulted = false ∧ t.pack.lastIn = t.pack.inMc ∧ t.pack.lastOut = t.pack.outMc ∧ t.pack.lastStored = rd.storedMc
            ∧ t.pack.cycles = Nat.min 65535 (rd.outMc / 11250000) ∧ t.pack.retMw = 30000)
    ∧ (∀ rd reply, s.pack.present = false → s.pack.missed = 3 → replyPasses reply = false → exec (.packDetect rd reply) s = .next s)
    ∧ (s.pack.present = true → s.phase ≠ .retention →
      ∃ t, exec .packRemoved s = .next t ∧ t.pack.present = false ∧ t.pack.ready = false ∧ t.phase = s.phase ∧ t.mem = s.mem ∧ t.recs = s.recs)
    ∧ (∀ stored, s.pack.present = true →
      ∃ t, exec (.packLedgerCheck stored) s = .next t
        ∧ t.pack.faulted = (s.pack.faulted || decide (225000 < (s.pack.imbalance stored).natAbs))
        ∧ t.pack.lastIn = s.pack.inMc ∧ t.pack.lastOut = s.pack.outMc ∧ t.pack.lastStored = stored ∧ t.mem = s.mem ∧ t.recs = s.recs)
    ∧ (s.pack.nextCopy ≤ (s.advance at_).time.now →
      exec (.ledgerNvmCopy at_) s = .next { s.advance at_ with
        pack := { s.pack with nvmIn := s.pack.inMc, nvmOut := s.pack.outMc, nextCopy := (s.advance at_).time.now + 10000000000 } })

/-- R346, R351, R352, R354: a group of one joins at once, a larger one when every other member's agreeing message has come, if the serial
numbers agree with the positions and every member has a route, else `ERR_UNSUPPORTED`; a differing message fails the join; a leave, an
unreachable member and a broken group end the membership; a cancel for a count without a record is kept. -/
def Obligations.GroupCommands : Prop :=
  ∀ (s : State) (mb : Fin 32),
    let r := s.req mb
    let m := r.fld 0x18 8
    let ms := BitVec.ofNat 16 (r.fld 0x1A 16)
    (Admitted s mb 0x0D01 .ownerPort 12 (bodyFields [(0x10, 64), (0x18, 8), (0x1A, 16)]) → m < 16 → s.group.inGroup = false →
      (memberList ms = [m] → ∃ t, exec (.groupJoin mb) s = .next t ∧ Completed t mb 0 ∧ t.group.inGroup = true ∧ t.group.member = m
        ∧ t.group.members = ms ∧ t.group.counts = [] ∧ SameModule s t ∧ t.mem = s.mem ∧ t.recs = s.recs)
      ∧ (ms.getLsbD m = true → memberList ms ≠ [m] → s.group.msgs = [] →
        ∃ t, exec (.groupJoin mb) s = .next t ∧ t.group.joinMb = some mb ∧ (t.mbox mb).begun = true ∧ t.group.inGroup = false
          ∧ t.group.members = ms ∧ SameModule s t ∧ t.mem = s.mem ∧ t.recs = s.recs))
    ∧ (∀ msg, s.group.inGroup = false → s.group.joinMb = some mb → (s.mbox mb).discard = false → (s.mbox mb).behind = [] →
      s.group.members.getLsbD msg.member.val = true → msg.member.val ≠ s.group.member →
      (msg.token ≠ s.group.token ∨ msg.members ≠ s.group.members →
        ∃ t, exec (.groupJoinMessage msg) s = .next t ∧ t.group.joinMb = none ∧ t.group.inGroup = false ∧ (t.mbox mb).st = .complete)
      ∧ (msg.token = s.group.token → msg.members = s.group.members → s.group.msgs = [] →
        (memberList s.group.members).filter (· != s.group.member) = [msg.member.val] →
        let fits := msg.routesOk = true ∧ (s.portTo msg.member.val).isSome = true
          ∧ ∀ n : Fin 8, (s.rport n.val).up = true → (msg.member.val = neighbourOf s.group.member n.val ↔ msg.serial = (s.rport n.val).serial)
        (fits → ∃ t, exec (.groupJoinMessage msg) s = .next t ∧ t.group.joinMb = none ∧ t.group.inGroup = true ∧ t.group.counts = []
          ∧ Completed t mb 0 ∧ SameModule s t ∧ t.mem = s.mem ∧ t.recs = s.recs)
        ∧ (¬ fits → ∃ t, exec (.groupJoinMessage msg) s = .next t ∧ t.group.joinMb = none ∧ t.group.inGroup = false
          ∧ Completed t mb Status.unsupported ∧ SameModule s t ∧ t.mem = s.mem ∧ t.recs = s.recs)))
    ∧ (Admitted s mb 0x0D02 .ownerPort 0 [] → s.group.inGroup = true →
      ∃ t, exec (.groupLeave mb) s = .next t ∧ t.group.inGroup = false ∧ t.group.counts = [] ∧ Completed t mb 0 ∧ (∀ x ∈ t.recs, x.op ≠ 0x40))
    ∧ (∀ (n : Fin 16) at_, s.group.inGroup = true → s.group.members.getLsbD n.val = true → n.val ≠ s.group.member →
      ∃ t, exec (.memberUnreachable n at_) s = .next t ∧ t.group.inGroup = false ∧ t.group.counts = [] ∧ (∀ x ∈ t.recs, x.op ≠ 0x40))
    ∧ (s.group.inGroup = true →
      ∃ t, exec .groupBreak s = .next t ∧ t.group.inGroup = false ∧ t.group.counts = [] ∧ (∀ x ∈ t.recs, x.op ≠ 0x40))
    ∧ ∀ q (set : BitVec 16) k,
      ((∀ x ∈ s.recs, x.op = 0x40 → x.q = q → x.fld 0x42 16 = set.toNat → x.collK ≠ k) →
        exec (.collectiveCancel q set k) s = .next { s with group := { s.group with cancels := (q, set.toNat, k) :: s.group.cancels } })
      ∧ (∀ x, s.recs.find? (fun r => r.op == 0x40 && r.q == q && r.fld 0x42 16 == set.toNat && r.collK == k) = some x →
        ∃ t, exec (.collectiveCancel q set k) s = .next t ∧ ∀ y ∈ t.recs, ¬ (y.q = x.q ∧ y.seq = x.seq))

/-- R273, R318, R344, R345: `CLEAR_SHUTDOWN` releases a latch whose record has been read, once all is cooled; `FW_STAGE` writes into the slot
that does not run and makes it invalid; `FW_ACTIVATE` names a slot that verifies active, and no other; a slot on trial that fails falls
back; a request past its maximum time ends with `ERR_TIMEOUT`. -/
def Obligations.ShutdownAndFirmware : Prop :=
  ∀ (s : State) (mb : Fin 32),
    let r := s.req mb
    (Admitted s mb 0x0E03 .port 0 [] → s.shut.latched = true → s.shut.read = true → s.cooled = true →
      ∃ t, exec (.clearShutdown mb) s = .next t ∧ Completed t mb 0 ∧ t.shut = { s.shut with latched := false } ∧ t.phase = .starting
        ∧ t.valid = (s.phase == .logicShut && s.shut.cause != 5) ∧ t.lay = s.lay ∧ t.fw = s.fw ∧ t.pack = s.pack
        ∧ (s.phase ≠ .logicShut → t.mem = s.mem))
    ∧ (Admitted s mb 0x0F01 .ownerPort (16 + r.fld 0x14 16) (fwStageFields (r.fld 0x14 16)) →
      let off := r.fld 0x10 32
      let n := r.fld 0x14 16
      off % 64 = 0 → n % 64 = 0 → 64 ≤ n → n ≤ 3968 → off + n ≤ 380 * 2 ^ 20 + 4096 → s.fw.running < 2 →
      ∃ t, exec (.fwStage mb) s = .next t ∧ Completed t mb 0
        ∧ t.fw.slot (1 - s.fw.running) = { s.fw.slot (1 - s.fw.running) with
            valid := false, staged := (off, bytesOf n (r.fld 0x20 (8 * n))) :: (s.fw.slot (1 - s.fw.running)).staged }
        ∧ t.fw.slot s.fw.running = s.fw.slot s.fw.running ∧ t.fw.active = s.fw.active ∧ t.fw.running = s.fw.running ∧ t.mem = s.mem
        ∧ t.recs = s.recs ∧ t.lay = s.lay)
    ∧ (∀ h, Admitted s mb 0x0F02 .ownerPort 1 (bodyFields [(0x10, 8)]) → r.fld 0x10 8 < 2 →
      (s.fw.minSecurity.toNat ≤ h.security.toNat →
        ∃ t, exec (.fwActivate mb (some h)) s = .next t ∧ Completed t mb 0 ∧ t.fw.active = r.fld 0x10 8
          ∧ (t.fw.slot (r.fld 0x10 8)).valid = true ∧ (t.fw.slot (r.fld 0x10 8)).version = h.version
          ∧ ((s.fw.slot (r.fld 0x10 8)).trial = true ∨ r.fld 0x10 8 ≠ s.fw.running → (t.fw.slot (r.fld 0x10 8)).trial = true)
          ∧ t.fw.running = s.fw.running ∧ t.mem = s.mem ∧ t.recs = s.recs ∧ t.lay = s.lay)
      ∧ (h.security.toNat < s.fw.minSecurity.toNat →
        ∃ t, exec (.fwActivate mb (some h)) s = .next t ∧ Ends s s t mb Status.unsupported 0 0)
      ∧ ∃ t, exec (.fwActivate mb none) s = .next t ∧ Ends s s t mb Status.unsupported 0 0)
    ∧ (∀ at_ w, s.phase = .starting → s.booted = true → (s.fw.slot s.fw.running).trial = true → s.fw.running < 2 →
      w = true ∨ s.fw.bootAt + 60000000000 ≤ (s.advance at_).time.now →
      ∃ t, exec (.fwTrialFallback at_ w) s = .next t ∧ t.fw.running = 1 - s.fw.running ∧ t.fw.active = 1 - s.fw.running
        ∧ (t.fw.slot s.fw.running).rejected = true ∧ (t.fw.slot s.fw.running).trial = false ∧ t.fw.bootAt = (s.advance at_).time.now
        ∧ t.mem = s.mem ∧ t.phase = s.phase ∧ t.lay = s.lay)
    ∧ ∀ at_ n, (s.mbox mb).cur = true → (s.mbox mb).begun = false → r.opcode ≠ 0x0A01 → s.excluded r = false → (s.mbox mb).discard = false →
      (s.mbox mb).behind = [] → (s.mbox mb).startAt + maxTime r (s.mbox mb).slow (s.own.st == .window) ≤ (s.advance at_).time.now →
      ∃ t, exec (.mailboxWatchdogTimeout mb at_ n) s = .next t ∧ Completed t mb Status.timeout ∧ SameModule (s.advance at_) t ∧ t.mem = s.mem
        ∧ t.ctxs = s.ctxs ∧ t.queues = s.queues ∧ t.recs = s.recs

/-! ## Records (R138 to R159, R181, R194, R196, R202 to R226) -/

/-- R21, R118 to R131, R139, R152, R169 to R172: the records whose tickets write tiles of a destination do their work wherever every frond that they
work on has its path: their reads come through to the banks (`State.reachRec`), their outputs are formed, each waiting for the commit of its
ticket; memory is as it then is, but where a read corrects an error, and so is the rest of the module. -/
def Obligations.TileRecordsDoTheirWork : Prop :=
  ∀ (s : State) (q : Nat) (seq : Word32) (r : Rec) (d x w : Desc), r.desc 0 = some d →
    let u := s.reachRec r (s.sourceCols r)
    let completes (op : Nat) (i : Instr) : Prop := Runs s q seq op r → s.pathsUp r = true →
      ∃ t, exec i s = .next t ∧ WorkDone t r ∧ WorkFrame u t r ∧ OnlyCols u t (s.sourceCols r)
    (r.actDesc = some x → r.desc 2 = some w → completes 0x01 (.matmul q seq) ∧ completes 0x02 (.matmulQ q seq))
    ∧ (r.desc 1 = some x → completes 0x20 (.ewChain q seq) ∧ completes 0x21 (.reduce q seq) ∧ completes 0x22 (.norm q seq)
        ∧ completes 0x30 (.copy q seq) ∧ completes 0x31 (.permute q seq) ∧ completes 0x32 (.gather q seq) ∧ completes 0x33 (.scatterAdd q seq))

/-- R71, R72, R84 to R91, R102 to R109, R141: the records that run in the banks do their work once their units are free: a row operation or a norm
runs at its units and leaves every column of every other unit as it was; a pass of `GEMV_MEM` sweeps its output rows at its units; its epilogue
writes its rows one by one. On frond cores `GEMV_MEM` forms its outputs as the tile records do. Accesses that wait at the units meanwhile are served
at their boundaries, and with none the rest of the module is as it was. -/
def Obligations.BankRecordsDoTheirWork : Prop :=
  ∀ (s : State) (q : Nat) (seq : Word32) (r : Rec), s.pathsUp r = true →
    let works (op : Nat) (i : Instr) (rows : List MRow) (cols : List Nat) : Prop :=
      let u := s.reachRec r cols
      Runs s q seq op r → s.rowsReady rows = true →
        ∃ t, exec i s = .next t ∧ WorkDone t r ∧ ModFrame u t r
          ∧ (NoneWait u → BankFrame u t r (rowUnits rows) ∧ ∀ col, colUnit col ∉ rowUnits rows → col ∉ cols → SameCol u t col)
    works 0x11 (.memRowop q seq) (s.rowopRows r) (s.patternCols r)
    ∧ works 0x12 (.memEw q seq) (s.ewRows r) (s.tableCols r)
    ∧ (∀ d, r.desc 1 = some d → works 0x13 (.memNorm q seq) (s.normRows r) (s.descCols d (r.normExt d)))
    ∧ (∀ o x, Runs s q seq 0x10 r → r.desc 0 = some o → r.actDesc = some x →
      (r.engine = 1 → r.swept = false → s.passReady r = true →
        let u := s.reachRec r (s.sourceCols r)
        let hi := r.passEnd s.lay (ceilDiv (r.gemvN - r.sweptTo) r.rowsPer) r.sweptTo []
        ∃ t r', exec (.gemvMem q seq) s = .next t ∧ t.findRec q seq = some r' ∧ r'.sweptTo = hi ∧ r'.swept = decide (r.gemvN ≤ hi)
          ∧ r'.doneRows = r.doneRows ∧ r'.raw = r.raw ∧ ModFrame u t r
          ∧ (NoneWait u → BankFrame u t r (r.unitsOf s.lay) ∧ OnlyCols u t (s.sourceCols r ++ r.weightCols s.lay)))
      ∧ (r.engine ≠ 1 →
        let u := s.reachRec r (s.sourceCols r ++ r.weightCols s.lay)
        ∃ t, exec (.gemvMem q seq) s = .next t ∧ WorkDone t r ∧ WorkFrame u t r ∧ OnlyCols u t (s.sourceCols r ++ r.weightCols s.lay)))
    ∧ ∀ d n, Runs s q seq 0x10 r → r.desc 0 = some d → r.engine = 1 → n < r.sweptTo → n ∈ r.rowsLeft s.lay →
      let u := s.reachRec r (s.sourceCols r ++ s.outCols d (s.epilogueRow r d n))
      ∃ t r', exec (.epilogue q seq n) s = .next t ∧ t.findRec q seq = some r' ∧ r'.doneRows = n :: r.doneRows ∧ r'.raw = r.raw
        ∧ WorkFrame u t r
        ∧ ∀ col, (∀ ix ∈ (List.range r.vcount).map (fun v => [n, v]), ∀ i, i < Nat.max 1 (fmtBits d.fmt / 8) →
            col ≠ s.lay.colOf (d.elemDpa (d.off ix) + i)) → SameCol u t col

/-- R21, R142, R178 to R181, R226, R230, R232, R256, R257, R353 to R356: a host transfer begins, its bytes leaving or asked for ticket by
ticket, or halts without a link; a spore waits for the commit of its ticket; `FLAG_SET` gives every flag of its list one value; a
`COLLECTIVE` does its work, or fails when the members disagree; a `BARRIER` starts as its arrival leaves for its frond's node. -/
def Obligations.OutwardRecordsDoTheirWork : Prop :=
  ∀ (s : State) (q : Nat) (seq : Word32) (r : Rec),
    let u := s.reachRec r (s.sourceCols r)
    (Runs s q seq 0x34 r → s.pathsUp r = true →
      (s.hostUp r = true → ∃ t, exec (.hostWrite q seq) s = .next t ∧ WorkDone t r ∧ WorkFrame u t r ∧ OnlyCols u t (s.sourceCols r))
      ∧ (s.hostUp r = false → ∃ t, exec (.hostWrite q seq) s = .next t ∧ Halted t r Status.hostLinkLost ∧ WorkFrame u t r ∧ t.mem = u.mem))
    ∧ (Runs s q seq 0x35 r → s.pathsUp r = true →
      (s.hostUp r = true → ∃ t, exec (.hostRead q seq) s = .next t ∧ WorkDone t r ∧ WorkFrame s t r ∧ t.mem = s.mem
        ∧ (r.halted = false → (s.port r.variant).linkUp = true → (s.port r.variant).retraining = false →
          ∀ k who e, (r.ticket k).st = .claimed who e → (r.ticket k).asked = false →
            ∀ x ∈ readPieces (s.port r.variant).maxRead ((r.ticketBytes k).map (r.fld 0x38 64 + ·)),
            Out.hostReq (Fin.ofNat 4 r.variant) x.1 x.2 ∈ t.out))
      ∧ (s.hostUp r = false → ∃ t, exec (.hostRead q seq) s = .next t ∧ Halted t r Status.hostLinkLost ∧ WorkFrame s t r ∧ t.mem = s.mem))
    ∧ (Runs s q seq 0x36 r → s.pathsUp r = true → exec (.sporeWrite q seq) s = .next (s.setRec { r with workDone := true }))
    ∧ (Runs s q seq 0x50 r → s.pathsUp r = true → r.codes = [] → s.downCode (s.sporeCols r) = [] →
      ∃ t, exec (.flagSet q seq) s = .next t ∧ WorkDone t r
      ∧ (∀ n ∈ r.signals, ∀ b i, (s.ctx r.ctx).flag n = some (b, i) → (t.flagBlock b).getLsbD i = (r.variant == 0))
      ∧ (∀ b i, (∀ n ∈ r.signals, (s.ctx r.ctx).flag n ≠ some (b, i)) → (t.flagBlock b).getLsbD i = (s.flagBlock b).getLsbD i)
      ∧ OnlyCols s t (s.sporeCols r) ∧ SameModule s t ∧ t.ctxs = s.ctxs ∧ t.queues = s.queues ∧ t.streams = s.streams)
    ∧ (∀ d x others, Runs s q seq 0x40 r → r.desc 0 = some d → r.desc 1 = some x → s.pathsUp r = true →
      (∃ t, exec (.collective q seq others true) s = .next t ∧ WorkDone t r ∧ WorkFrame u t r ∧ KeepsOthers u t r d)
      ∧ ∃ t r', exec (.collective q seq others false) s = .next t ∧ t.findRec q seq = some r' ∧ r'.workDone = true
          ∧ (Status.fieldRange, 0) ∈ r'.codes ∧ t.mem = u.mem ∧ WorkFrame u t r)
    ∧ (s.findRec q seq = some r → r.op = 0x52 → r.arrived = false → s.startOk r = true →
      let b := s.barOf r
      let f := (r.fronds s.lay).headD 0
      ∃ t r', exec (.barrier q seq) s = .next t ∧ t.findRec q seq = some r' ∧ r'.started = true ∧ r'.arrived = true ∧ r'.workDone = r.workDone
        ∧ Tbl.get [] (t.bar b).inF f = Tbl.get [] (s.bar b).inF f
            ++ [{ q, seq, scope := r.scope, count := r.fld 0x42 16, frond := f, wait := r.variant == 0 }]
        ∧ (t.bar b).gen = (s.bar b).gen ∧ (t.bar b).rootCount = (s.bar b).rootCount ∧ (∀ c, c ≠ b → t.bar c = s.bar c)
        ∧ SameModule s t ∧ t.mem = s.mem ∧ t.ctxs = s.ctxs ∧ t.queues = s.queues)

/-- R138, R205 to R207, R223 to R225: the record at the `HEAD` of the queue whose turn it is leaves the ring; so does a wait that is
satisfied; one that is not, at its time-out, completes. -/
def Obligations.RecordsLeaveTheRing : Prop :=
  ∀ (s : State) (q : Nat),
    (s.nextQueue = some q → ∃ t, exec (.recordIssue q) s = .next t ∧ LeftRing s t q)
    ∧ ((s.headRec q).op = 0x51 → s.nextQueue = some q → ∃ t, exec (.flagWait q) s = .next t ∧ LeftRing s t q)
    ∧ ∀ at_, (s.headRec q).op = 0x51 → (s.headRec q).fld 0x40 32 ≠ 0 →
      1000 * (s.headRec q).fld 0x40 32 ≤ (s.advance at_).waitedNs q → (s.advance at_).issueRoom q = true → (s.advance at_).headClear q = true →
      (s.advance at_).headBad q = none → (s.advance at_).unmapped (s.headRec q) = false → (s.advance at_).recWaitSat (s.headRec q) = false →
      ∃ t, exec (.flagWaitTimeout q at_) s = .next t ∧ (t.queue q).head = (s.queue q).head + 1
        ∧ (t.queue q).cqTail = (s.queue q).cqTail + 1

/-- R157, R159, R194, R196, R212, R21: a record, a `BARRIER` apart, starts when no earlier one conflicts; at the end of its first pass it
runs again when it widens; when all is done it leaves the scoreboards, its completion record is written and its stream advances; a frond
without a path holds the completion. -/
def Obligations.RecordsStartAndComplete : Prop :=
  ∀ (s : State) (q : Nat) (seq : Word32) (r : Rec), s.findRec q seq = some r →
    (r.started = false → r.op ≠ 0x52 → s.startOk r = true →
      exec (.recordStart q seq) s = .next (s.setRec { r with started := true, workDone := r.workDone || r.op == 0x51 }))
    ∧ (r.started = true → r.finished s.lay = true → r.ticketsHeld = false → r.widens = true →
      ∃ t r', exec (.wideningRerun q seq) s = .next t ∧ t.findRec q seq = some r' ∧ r'.pass = 2 ∧ r'.workDone = false ∧ r'.swept = false
        ∧ (r.inBank = true ∧ s.pool = 0 → (Status.powerDenied, 0) ∈ r'.codes ∧ ∀ su ∈ r.unitsOf s.lay, su ∈ r'.lostUnits)
        ∧ r'.doneRows = [] ∧ r'.outs = [] ∧ r'.satFirst = r.sat ∧ r'.sat = 0 ∧ r'.raw = r.raw ∧ t.mem = s.mem ∧ WorkFrame s t r)
    ∧ (r.started = true → r.finished s.lay = true → r.ticketsHeld = false → r.widens = false → s.heldAtFrond r = false →
      ((∀ f ∈ r.fronds s.lay, (s.frond f).path = true) →
        ∃ t, exec (.recordComplete q seq) s = .next t ∧ t.findRec q seq = none ∧ (t.queue q).cqTail = (s.queue q).cqTail + 1
          ∧ (t.queue q).head = (s.queue q).head ∧ t.lay = s.lay
          ∧ ((∀ k, (s.mbox k).begun = false) → ∀ i n, r.batch = [(i, n)] → n ≠ 0 → r.final.1 < 0x10 →
              t.stream i = { s.stream i with pos := (s.stream i).pos + BitVec.ofNat 32 n, lastSeq := seq, lastQueue := BitVec.ofNat 16 q }))
      ∧ (∀ f, (r.fronds s.lay).find? (fun f => !(s.frond f).path) = some f →
        ∃ t, exec (.recordComplete q seq) s = .next t ∧ t.findRec q seq ≠ none ∧ (t.queue q).cqTail = (s.queue q).cqTail
          ∧ (q, seq) ∈ (t.frond f).heldDone))

/-- R149 to R152, R176: the ticket protocol: a claim is granted the next ticket, a repeated one answered again, and none is left for a
claimant that finds none; a commit request of the claimant in its epoch goes once its outputs are formed, any other is stale; at its commit
a ticket's outputs reach memory, and no other byte changes, and it is the claimant's no longer; a claimant that has held a ticket for more
than 100 ms is fenced and holds none. -/
def Obligations.TicketProtocol : Prop :=
  ∀ (s : State) (q : Nat) (seq : Word32) (r : Rec) (who : Claimant), s.findRec q seq = some r →
    let cl := r.claimant (claimantIdx who)
    (∀ serial, r.started = true → r.servedBy who = true →
      (cl.lastSerial = some serial → exec (.claimTicket q seq who serial) s = .next (s.emit (.already who cl.lastTicket)))
      ∧ (cl.lastSerial ≠ some serial → s.claims who = false → exec (.claimTicket q seq who serial) s = .next s)
      ∧ (cl.lastSerial ≠ some serial → s.claims who = true → cl.held = 2 →
        exec (.claimTicket q seq who serial) s = .next (s.emit (.already who none)))
      ∧ (cl.lastSerial ≠ some serial → s.claims who = true → cl.held ≠ 2 → cl.barred = true ∨ r.halted = true ∨ r.paused = true →
        exec (.claimTicket q seq who serial) s = .next (s.emit (.exhausted who)))
      ∧ (cl.lastSerial ≠ some serial → s.claims who = true → cl.held ≠ 2 → cl.barred = false → r.halted = false → r.paused = false →
        (s.nextTicket r who = none → exec (.claimTicket q seq who serial) s = .next (s.emit (.exhausted who)))
        ∧ ∀ k, s.nextTicket r who = some k →
          ∃ t r', exec (.claimTicket q seq who serial) s = .next t ∧ t.findRec q seq = some r'
            ∧ (r'.ticket k).st = .claimed who (r.ticket k).epoch ∧ (r'.claimant (claimantIdx who)).held = cl.held + 1
            ∧ k ∉ r'.tickets.reissue ∧ (∀ j, j ≠ k → r'.ticket j = r.ticket j) ∧ .grant who k (r.ticket k).epoch ∈ t.out
            ∧ SameModule s t ∧ t.mem = s.mem ∧ t.queues = s.queues))
    ∧ (∀ k e, (r.ticket k).st = .claimed who e → s.formed r k = false ∨ s.mayRun who = false →
      exec (.commitRequest q seq who k e) s = .next s)
    ∧ (∀ k e, (r.ticket k).st = .claimed who e → s.formed r k = true → s.mayRun who = true →
      ∃ t r', exec (.commitRequest q seq who k e) s = .next t ∧ t.findRec q seq = some r' ∧ (r'.ticket k).st = .committing who e
        ∧ (∀ j, j ≠ k → r'.ticket j = r.ticket j) ∧ .go who k ∈ t.out ∧ SameModule s t ∧ t.mem = s.mem ∧ t.queues = s.queues
        ∧ (r.adds = true → (s.frond (claimantFrond who)).preImages = [] →
            (t.frond (claimantFrond who)).preImages = [{ q := r.q, seq := r.seq, ticket := k, bytes := s.preImage r k }]))
    ∧ (∀ k e, (r.ticket k).st ≠ .claimed who e → exec (.commitRequest q seq who k e) s = .next (s.emit (.stale who k)))
    ∧ (∀ k e, (r.ticket k).st = .committing who e → (r.op = 0x34 → (r.ticket k).acked = (r.ticketBytes k).length) →
      let w := s.commitWrites r who k
      let u := s.reachRec r (s.commitCols w)
      NoDisableWaits s →
      ∃ t r', exec (.commitDone q seq who k) s = .next t ∧ t.findRec q seq = some r' ∧ (r'.ticket k).st = .committed
        ∧ r'.tickets.done = r.tickets.done + 1 ∧ (r'.claimant (claimantIdx who)).held = cl.held - 1
        ∧ t.mem = (u.writeAll .frond w.writes).mem ∧ OnlyCols u t (s.commitCols w)
        ∧ (∀ e ∈ (t.frond (claimantFrond who)).preImages, ¬ (e.q = r.q ∧ e.seq = r.seq ∧ e.ticket = k))
        ∧ (match who with
          | .core c => r'.sat = r.sat + sumNat (w.elems.map (·.sat)) + (s.core c.val).satCount ∧ (t.core c.val).satCount = 0
              ∧ ((s.core c.val).empty = true → r'.empty = true)
          | .engine _ => r'.sat = r.sat + sumNat (w.elems.map (·.sat)))
        ∧ SameBut s t ∧ t.ctxs = s.ctxs ∧ t.streams = s.streams ∧ t.flags = s.flags)
    ∧ ∀ at_, (s.advance at_).heldTooLong r who = true →
      ∃ t, exec (.ticketHoldTimeout q seq who at_) s = .next t ∧ (∀ x ∈ t.recs, x.heldTickets who false = []) ∧ t.mem = s.mem
        ∧ (match who with
          | .core c => ((t.core c).svc = .fenced ∨ (t.core c).svc = .disabled) ∧ (t.core c).level = 0
          | .engine e => (t.engine e).svc = .fenced)

/-! ## Doorbells, flags, barriers (R204, R217 to R239) -/

/-- R203, R204: the owner's write of `TAIL` or `CQ_HEAD` of an existing queue moves it, and nothing of another queue; a `TAIL` beyond the
ring, a `CQ_HEAD` beyond `CQ_TAIL`, or a write from a port that does not own the module, changes no queue. -/
def Obligations.Doorbells : Prop :=
  ∀ (s : State) (p : Fin 4) (q : Nat) (v : Word32),
    (s.isOwner p = true → (s.queue q).live = true →
      ((s.ctx (s.queue q).ctx).st = .active ∨ (s.ctx (s.queue q).ctx).st = .suspended → v ≠ (s.queue q).tail →
        precedes v (s.queue q).tail = false →
        ((v - (s.queue q).head).toNat ≤ (s.queue q).entries →
          ∃ t, exec (.doorbellTail (.port p) q v) s = .next t ∧ (t.queue q).tail = v ∧ (t.queue q).head = (s.queue q).head
            ∧ (∀ k, k ≠ q → t.queue k = s.queue k) ∧ SameModule s t ∧ t.mem = s.mem ∧ t.recs = s.recs ∧ t.flags = s.flags)
        ∧ ((s.queue q).entries < (v - (s.queue q).head).toNat →
          ∃ t, exec (.doorbellTail (.port p) q v) s = .next t ∧ t.queues = s.queues ∧ t.ctxs = s.ctxs
            ∧ t.evlog.nextSeq = s.evlog.nextSeq + 1))
      ∧ ((v - (s.queue q).cqHead).toNat ≤ ((s.queue q).cqTail - (s.queue q).cqHead).toNat →
        ∃ t, exec (.cqHeadWrite (.port p) q v) s = .next t ∧ (t.queue q).cqHead = v ∧ (t.queue q).tail = (s.queue q).tail
          ∧ (∀ k, k ≠ q → t.queue k = s.queue k) ∧ SameModule s t ∧ t.recs = s.recs)
      ∧ (((s.queue q).cqTail - (s.queue q).cqHead).toNat < (v - (s.queue q).cqHead).toNat →
        ∃ t, exec (.cqHeadWrite (.port p) q v) s = .next t ∧ t.queues = s.queues ∧ t.ctxs = s.ctxs
          ∧ t.evlog.nextSeq = s.evlog.nextSeq + 1))
    ∧ (s.isOwner p = false → ∃ t, exec (.doorbellTail (.port p) q v) s = .next t ∧ t.queues = s.queues
        ∧ (t.port p).discarded = (s.port p).discarded + 1 ∧ t.mem = s.mem)

/-- R218, R219, R228, R367: the owner's write of a flag page sets or clears the flag that it names, or those of a mask, in one mapped block,
and no other; a number that is not mapped changes no flag. R229, R255: what a mirrored block owes is sent to the owner's host when it can be
reached, once, and not while its link retrains; nothing else changes. -/
def Obligations.FlagPages : Prop :=
  (∀ (s : State) (p : Fin 4) (c : Nat), s.isOwner p = true →
     (∀ (n : BitVec 16) (v : Bool),
       let write := if v then Instr.flagPageSet (.port p) c n else Instr.flagPageClear (.port p) c n
       (∀ b i, (s.ctx c).flag n.toNat = some (b, i) →
         ∃ t, exec write s = .next t ∧ (t.flagBlock b).getLsbD i = v
           ∧ (∀ j, j ≠ i → (t.flagBlock b).getLsbD j = (s.flagBlock b).getLsbD j) ∧ (∀ k, k ≠ b → t.flagBlock k = s.flagBlock k)
           ∧ SameModule s t ∧ t.mem = s.mem ∧ t.queues = s.queues ∧ t.recs = s.recs)
       ∧ ((s.ctx c).flag n.toNat = none → ∃ t, exec write s = .next t ∧ t.flags = s.flags ∧ t.evlog.nextSeq = s.evlog.nextSeq + 1
           ∧ SameModule s t ∧ t.mem = s.mem ∧ t.queues = s.queues ∧ t.recs = s.recs))
     ∧ ∀ slot (mask : Word64) b i, (s.ctx c).flag (64 * slot) = some (b, i) →
       (∃ t, exec (.setMask (.port p) c slot mask) s = .next t ∧ t.flagBlock b = s.flagBlock b ||| mask
         ∧ (∀ k, k ≠ b → t.flagBlock k = s.flagBlock k) ∧ SameModule s t ∧ t.mem = s.mem ∧ t.queues = s.queues ∧ t.recs = s.recs)
       ∧ ∃ t, exec (.clearMask (.port p) c slot mask) s = .next t ∧ t.flagBlock b = s.flagBlock b &&& ~~~mask
         ∧ (∀ k, k ≠ b → t.flagBlock k = s.flagBlock k) ∧ SameModule s t ∧ t.mem = s.mem ∧ t.queues = s.queues ∧ t.recs = s.recs)
  ∧ (∀ (s : State) (p : Fin 4) (b c i : Nat) (f : FSlot), s.ownerPort = some p → s.binding b = some (c, i, f) → (s.port p).reach = true →
     ((s.port p).retraining = true → exec (.flagMirrorWrite b) s = .next s)
     ∧ ((s.port p).retraining = false → ∃ t, exec (.flagMirrorWrite b) s = .next t ∧ Tbl.get ({} : Mirror) t.mirrors b = {}
       ∧ ((Tbl.get ({} : Mirror) s.mirrors b).write = true → f.mirror = true → Out.mirror p f.addr (s.flagBlock b) ∈ t.out)
       ∧ ((Tbl.get ({} : Mirror) s.mirrors b).write = false → (Tbl.get ({} : Mirror) s.mirrors b).msg = false → t.out = s.out)
       ∧ t.flags = s.flags ∧ t.ctxs = s.ctxs ∧ t.mem = s.mem ∧ t.queues = s.queues ∧ t.recs = s.recs ∧ SameModule s t))

/-- R230 to R233, R236, R237: an agreeing arrival of frond scope is numbered by its frond's node, one of module scope is held there, forwarded
when the frond has its path, and numbered by the rachis; the last arrival of a generation opens the next; a group's member sends its arrivals to
the group root and keeps them until the root accepts or refuses them; a released generation's waiters are done; a deadlocked scope is reported.
That the root's answers come by `BARRIER_ARRIVAL` is the model's choice, log entry 131. -/
def Obligations.Barriers : Prop :=
  ∀ (s : State) (b : Nat), s.counting = true →
    let x := s.bar b
    (∀ (f : Fin 4) a rest, Tbl.get [] x.inF f = a :: rest →
      let y := ({ x with inF := Tbl.put [] x.inF f rest } : Barrier).fix a
      (y.agrees a = true → a.scope = 0 →
        ∃ t, exec (.barrierArrival b (.frond f) none) s = .next t ∧ Tbl.get [] (t.bar b).inF f = rest ∧ (t.bar b).touched = true
          ∧ (t.bar b).gen = (if y.count ≤ y.rootCount + 1 then x.gen + 1 else x.gen)
          ∧ (t.bar b).rootCount = (if y.count ≤ y.rootCount + 1 then 0 else y.rootCount + 1)
          ∧ (∀ k, k ≠ b → t.bar k = s.bar k) ∧ SameModule s t ∧ t.mem = s.mem ∧ t.ctxs = s.ctxs)
      ∧ (y.agrees a = true → a.scope ≠ 0 → y.pendAt f < 0xFFFF →
        ∃ t, exec (.barrierArrival b (.frond f) none) s = .next t ∧ Tbl.get [] (t.bar b).inF f = rest
          ∧ Tbl.get [] (t.bar b).pendF f = Tbl.get [] x.pendF f ++ [a] ∧ (t.bar b).gen = x.gen
          ∧ (∀ k, k ≠ b → t.bar k = s.bar k) ∧ SameModule s t ∧ t.mem = s.mem ∧ t.ctxs = s.ctxs ∧ t.recs = s.recs))
    ∧ (∀ a rest, x.inR = a :: rest → a.scope = 1 →
      ∃ t, exec (.barrierArrival b .rachis none) s = .next t ∧ (t.bar b).inR = rest
        ∧ (t.bar b).gen = (if x.count ≤ x.rootCount + 1 then x.gen + 1 else x.gen)
        ∧ (t.bar b).rootCount = (if x.count ≤ x.rootCount + 1 then 0 else x.rootCount + 1)
        ∧ (∀ k, k ≠ b → t.bar k = s.bar k) ∧ SameModule s t ∧ t.mem = s.mem ∧ t.ctxs = s.ctxs)
    ∧ (∀ a rest, x.inR = a :: rest → a.scope ≠ 1 → s.group.isRoot = false → pendCount (x.sent ++ x.pendR) < 0xFFFF →
      exec (.barrierArrival b .rachis none) s = .next (s.setBar b { x with inR := rest, pendR := x.pendR ++ [a], touched := true }))
    ∧ (∀ (m : Fin 16) num count, s.group.inGroup = true → s.group.isRoot = true →
      let y := x.fix { q := 0, seq := 0, scope := 2, count, frond := 0, wait := false, num, member := some m.val }
      (y.scope = 2 → y.count = count →
        ∃ t, exec (.barrierArrival b .rachis (some (.arrivals m num count))) s = .next t ∧ t.bar b = { numberMany num y with touched := true }
          ∧ Out.barAnswer m.val b num (some (y.gen, y.rootCount)) ∈ t.out ∧ (∀ k, k ≠ b → t.bar k = s.bar k) ∧ t.mem = s.mem ∧ t.recs = s.recs)
      ∧ (y.scope ≠ 2 ∨ y.count ≠ count →
        ∃ t, exec (.barrierArrival b .rachis (some (.arrivals m num count))) s = .next t ∧ Out.barAnswer m.val b num none ∈ t.out
          ∧ t.bars = s.bars ∧ t.mem = s.mem ∧ t.recs = s.recs))
    ∧ (∀ a rest gen place r, x.sent = a :: rest → s.findRec a.q a.seq = some r →
      (∃ t, exec (.barrierArrival b .rachis (some (.accepted 1 gen place))) s = .next t ∧ (t.bar b).sent = rest
        ∧ (a.wait = true → (a.q, a.seq, gen + BitVec.ofNat 32 (place / Nat.max 1 x.count)) ∈ (t.bar b).waiters ∧ t.recs = s.recs)
        ∧ (a.wait = false → ∃ r', t.findRec a.q a.seq = some r' ∧ r'.workDone = true) ∧ SameModule s t ∧ t.mem = s.mem)
      ∧ ∃ t r', exec (.barrierArrival b .rachis (some (.refused 1))) s = .next t ∧ (t.bar b).sent = rest ∧ t.findRec a.q a.seq = some r'
          ∧ r'.workDone = true ∧ (Status.fieldRange, 0) ∈ r'.codes ∧ SameModule s t ∧ t.mem = s.mem)
    ∧ (∀ f : Fin 4, (s.frond f).path = true →
      ∃ t, exec (.barrierForward b (.frond f)) s = .next t ∧ Tbl.get [] (t.bar b).pendF f = []
        ∧ (t.bar b).inR = x.inR ++ Tbl.get [] x.pendF f ∧ (∀ k, k ≠ b → t.bar k = s.bar k) ∧ SameModule s t ∧ t.mem = s.mem
        ∧ t.ctxs = s.ctxs ∧ t.recs = s.recs)
    ∧ (∀ root n, s.group.inGroup = true → (memberList s.group.members).head? = some root → s.portTo root = some n → x.pendR ≠ [] →
      ∃ t, exec (.barrierForward b .rachis) s = .next t ∧ (t.bar b).pendR = [] ∧ (t.bar b).sent = x.sent ++ x.pendR
        ∧ Out.barArrivals b (pendCount x.pendR) x.count ∈ t.out ∧ (∀ k, k ≠ b → t.bar k = s.bar k) ∧ t.mem = s.mem ∧ t.recs = s.recs)
    ∧ (∀ gen, gen ∈ x.released →
      ∃ t, exec (.barrierRelease b gen) s = .next t ∧ gen ∉ (t.bar b).released ∧ (∀ w ∈ (t.bar b).waiters, w.2.2 ≠ gen)
        ∧ (∀ q seq r, (q, seq, gen) ∈ x.waiters → s.findRec q seq = some r → ∃ r', t.findRec q seq = some r' ∧ r'.workDone = true)
        ∧ SameModule s t ∧ t.mem = s.mem ∧ t.ctxs = s.ctxs ∧ t.queues = s.queues)
    ∧ ∀ sc at_, (s.advance at_).stuck sc = true → (s.advance at_).windowPassed sc = true →
      ∃ t, exec (.deadlockDetected sc at_) s = .next t ∧ t.evlog.errStatus = Status.deadlock
        ∧ (∀ i, i < 20 → (t.intr i).modErr = true)
        ∧ t.evlog.nextSeq = s.evlog.nextSeq + 1 + (((s.advance at_).scopeQueues sc).take 64).length
        ∧ (∀ c, sc = .context c → (t.ctx c).dlReported = true) ∧ (sc = .module → t.dlReported = true)
        ∧ t.recs = s.recs ∧ t.mem = s.mem ∧ t.flags = s.flags ∧ t.queues = s.queues

/-! ## Sorus units (R53 to R101) -/

/-- R54, R55, R59, R77, R81: `SCFG`, `SLD` and `SLUT` load a unit's registers at once; during a step a unit that computes holds the command,
and applies it at the end of the step. No memory and no other unit changes. R57, R58, R78: `SFET` returns the oldest entries in turn, an
empty one where there is none; or the configuration and status words, whose result poison and saturation count then clear. -/
def Obligations.SorusLoadsAndFetches : Prop :=
  (∀ (s : State) (su ctx : Nat),
     let u := ((s.pair su).ready ctx).unit
     let rest (t : State) : Prop := (∀ k, k ≠ su → t.pair k = s.pair k) ∧ SameModule s t ∧ t.mem = s.mem ∧ t.power = s.power
       ∧ t.recs = s.recs ∧ t.out = s.out
     (∀ c, s.canLoad su ctx false (.cfg c) = true →
       ∃ t, exec (.scfg su ctx false c) s = .next t ∧ rest t ∧ (t.pair su).lastCtx = some ctx
         ∧ (t.pair su).unit.cfg = (if c.loadCfg then c.config &&& 0xFFFF#32 else u.cfg)
         ∧ (t.pair su).unit.scale = (if c.loadScale then c.scale.data else u.scale)
         ∧ (t.pair su).unit.pat = (if c.loadPat then c.pat1.data ++ c.pat0.data else u.pat)
         ∧ (t.pair su).unit.fifo = u.fifo ∧ (t.pair su).unit.lut = u.lut
         ∧ ((c.loadCfg = false ∨ partsOf (bits c.config.toNat 1 3 + 1) = partsOf u.vecs) → (t.pair su).unit.act = u.act)
         ∧ (c.loadCfg = true → partsOf (bits c.config.toNat 1 3 + 1) ≠ partsOf u.vecs → (t.pair su).unit.act = []))
     ∧ (∀ p, s.canLoad su ctx false (.lut p) = true →
       ∃ t, exec (.slut su ctx false p) s = .next t ∧ rest t
         ∧ (∀ i, i < 256 → (t.pair su).unit.table i = colByte (p.getD (i / 32) noBurst).data (i % 32))
         ∧ (t.pair su).unit.cfg = u.cfg ∧ (t.pair su).unit.act = u.act ∧ (t.pair su).unit.fifo = u.fifo)
     ∧ (∀ gpc umask c, (∀ k ∈ maskUnits gpc umask, s.canLoad k ctx false (.vec c) = true) →
       ∃ t, exec (.sld gpc ctx false umask c) s = .next t ∧ SameModule s t ∧ t.mem = s.mem ∧ t.recs = s.recs
         ∧ (∀ k, k ∉ maskUnits gpc umask → t.pair k = s.pair k)
         ∧ ∀ k ∈ maskUnits gpc umask, ∀ j i, i < 32 → j < c.payload.length →
             Tbl.get 0 (t.pair k).unit.act (c.vec.val * partLen ((s.pair k).ready ctx).unit.vecs + 32 * c.colOff + 32 * j + i)
               = colByte (c.payload.getD j noBurst).data i)
     ∧ (∀ c, s.canLoad su ctx true (.cfg c) = true → (s.pair su).token = true →
       ∃ t, exec (.scfg su ctx true c) s = .next t ∧ t.pair su = { s.pair su with held := some (.cfg c) } ∧ rest t)
     ∧ (∀ p, s.canLoad su ctx true (.lut p) = true → (s.pair su).token = true →
       ∃ t, exec (.slut su ctx true p) s = .next t ∧ t.pair su = { s.pair su with held := some (.lut p) } ∧ rest t)
     ∧ (∀ gpc umask c, (∀ k ∈ maskUnits gpc umask, s.canLoad k ctx true (.vec c) = true) →
       ∃ t, exec (.sld gpc ctx true umask c) s = .next t ∧ SameModule s t ∧ t.mem = s.mem ∧ t.recs = s.recs
         ∧ ∀ k ∈ maskUnits gpc umask,
             t.pair k = if (s.pair k).token = true then { s.pair k with held := some (.vec c) }
               else { (s.pair k).ready ctx with unit := ((s.pair k).ready ctx).unit.load (.vec c) })
     ∧ ((s.pair su).rerun ≠ none → exec (.heldCommandApply su) s = .next s)
     ∧ ((s.pair su).rerun = none → ∃ t, exec (.heldCommandApply su) s = .next t ∧ rest t ∧ (t.pair su).held = none
         ∧ (t.pair su).token = (s.pair su).token
         ∧ (t.pair su).unit = (match (s.pair su).held with
           | some c => (s.pair su).unit.load c
           | none => (s.pair su).unit)))
  ∧ (∀ (s : State) (su ctx n : Nat), s.canIssue su = true →
     let u := ((s.pair su).ready ctx).unit
     (∃ t, exec (.sfet su ctx false n) s = .next t ∧ (t.pair su).unit = { u with fifo := u.fifo.drop n }
         ∧ t.out = ((List.range n).map fun i => Out.entry su (entryBurst (match u.fifo[i]? with
             | some e => e.bits
             | none => emptyEntry))).reverse ++ s.out ∧ (∀ k, k ≠ su → t.pair k = s.pair k)
         ∧ SameModule s t ∧ t.mem = s.mem ∧ t.recs = s.recs)
     ∧ ∃ t, exec (.sfet su ctx true n) s = .next t ∧ t.out = .status su u.statusBurst :: s.out
         ∧ (t.pair su).unit = { u with resultPoison := false, satCount := 0 } ∧ (∀ k, k ≠ su → t.pair k = s.pair k)
         ∧ SameModule s t ∧ t.mem = s.mem ∧ t.recs = s.recs)

/-- R71, R284: `SCPY` writes D = X, data and poison bit column by column, and a poisoned column that it reads is logged; `SINI` writes the pattern
register's half into every column; `SLOG` writes the logic function of whole rows. None changes `SAT_COUNT` or any other column, and the token
returns. -/
def Obligations.SorusRowOperations : Prop :=
  ∀ (s : State) (su ctx : Nat) (u : Sorus), u.satCount ≤ 0xFFFF →
    let at_ (r : BitVec 16) (c : Nat) : BitVec 256 := s.mem.data (rowCol su r c)
    let bad (r : BitVec 16) (c : Nat) : Bool := colBad (s.mem.data (rowCol su r c)) (s.mem.chk (rowCol su r c))
    (∀ d x, Issues s su ctx (.copy d x) u →
      ∃ t, exec (.scpy su ctx d x) s = .next t ∧ UnitDone s t su ∧ RowWritten s t su d (at_ x) (bad x)
        ∧ (t.pair su).unit.satCount = u.satCount
        ∧ ∀ c, c < 32 → (s.mem.chk (rowCol su x c)).getLsbD 41 = true → Tbl.get none s.integ.poisonSeen (rowCol su x c) = none →
            ∃ e ∈ t.integ.log, e.kind = 8 ∧ e.dpa = s.lay.dpaOf (rowCol su x c) ∧ e.unit = unitId 5 (colBank (rowCol su x c)))
    ∧ (∀ d, Issues s su ctx (.init d) u →
      ∃ t, exec (.sini su ctx d) s = .next t ∧ UnitDone s t su
        ∧ RowWritten s t su d (fun c => u.pat.extractLsb' (256 * (c % 2)) 256) (fun _ => u.patPoison)
        ∧ (t.pair su).unit.satCount = u.satCount)
    ∧ ∀ fn d x y, Issues s su ctx (.log fn d x y) u →
      ∃ t, exec (.slog su ctx fn d x y) s = .next t ∧ UnitDone s t su
        ∧ RowWritten s t su d
            (fun c => match fn with
              | .and => at_ x c &&& at_ y c
              | .or => at_ x c ||| at_ y c
              | .xor => at_ x c ^^^ at_ y c
              | .andn => at_ x c &&& ~~~at_ y c
              | .not => ~~~at_ x c)
            (fun c => bad x c || (fn != .not && bad y c))
        ∧ (t.pair su).unit.satCount = u.satCount

/-- R62 to R70, R72, R74: `SMAC` pushes, row by row and segment by segment, the sums of each loaded vector, and clears the accumulators;
`SNRM` pushes the sum and the sum of squares of the lanes of its columns; they write no memory. `SELT` writes its operation lane by lane. -/
def Obligations.SorusArithmetic : Prop :=
  ∀ (s : State) (su ctx : Nat) (u : Sorus),
    (∀ n w a, Issues s su ctx (.mac n w a) u → u.accs = List.replicate 8 0 →
      (∀ k, k < n → ∀ c, c < 32 → colMasked (s.mem.data (rowCol su (sweepRow w k) c)) (s.mem.chk (rowCol su (sweepRow w k) c)) = false) →
      (u.scaled = true → ∀ k, k < n → let sc := rowCol su (scaleRowOf (sweepRow w k)).1 (scaleRowOf (sweepRow w k)).2
        colMasked (s.mem.data sc) (s.mem.chk sc) = false) →
      ∃ t, exec (.smac su ctx n w a) s = .next t ∧ UnitDone s t su ∧ t.mem = s.mem ∧ (t.pair su).unit.accs = List.replicate 8 0
        ∧ (t.pair su).unit.fifo = u.fifo
            ++ ((List.range n).map fun k => (List.range (segCount u.w8 u.vecs)).map (sweptEntry s u su (sweepRow w k) a)).flatten)
    ∧ (∀ x cf cl, Issues s su ctx (.nrm x cf cl) u →
      let zs : List Int := ((List.range (cl + 1 - cf)).map fun i => colLanes (laneBits u.lane) (s.mem.data (rowCol su x (cf + i)))).flatten
      ∃ t e, exec (.snrm su ctx x cf cl) s = .next t ∧ UnitDone s t su ∧ t.mem = s.mem ∧ (t.pair su).unit.fifo = u.fifo ++ [e]
        ∧ e.snrm = true ∧ e.count = 4 ∧ e.words.length = 8
        ∧ (e.words.getD 1 0 ++ e.words.getD 0 0 : BitVec 64) = BitVec.ofInt 64 zs.sum
        ∧ (e.words.getD 3 0 ++ e.words.getD 2 0 : BitVec 64) = BitVec.ofInt 64 (zs.map fun z => z * z).sum)
    ∧ ∀ op d x y, Issues s su ctx (.elt op d x y) u →
      let w := laneBits u.lane
      let at_ (r : BitVec 16) (c : Nat) : BitVec 256 := s.mem.data (rowCol su r c)
      let bad (r : BitVec 16) (c : Nat) : Bool := colBad (s.mem.data (rowCol su r c)) (s.mem.chk (rowCol su r c))
      ∃ t f p, exec (.selt su ctx op d x y) s = .next t ∧ UnitDone s t su ∧ RowWritten s t su d f p
        ∧ (∀ c, c < 32 → p c = (bad x c || (!eltUnary op && bad y c) || (eltScaled op && u.scalePoison) || (op == .lut && u.lutPoison)))
        ∧ ∀ c i, c < 32 → i < 256 / w →
            let xi := toSigned w (bits (at_ x c).toNat (w * i) w)
            let yi := if eltUnary op then 0 else toSigned w (bits (at_ y c).toNat (w * i) w)
            toSigned w (bits (f c).toNat (w * i) w) = (eltLane op u.eltEnv xi yi).1

/-- R84 to R86: a broadcast reaches every selected unit of the channel whose pseudo-channel is in service: it loads registers, or, when a token
is free for the unit, writes the row of each repetition; else the repetitions wait for a token. It is not issued for a context without the
privilege, or without an owner. -/
def Obligations.SorusBroadcast : Prop :=
  ∀ (s : State) (ch ctx : Nat) (pcsel : BitVec 2) (umask : BitVec 16) (reps : Nat), pcsel ≠ 0 → reps ≠ 0 →
    (∀ f, ctx ≠ 256 → (s.ctx ctx).priv = false ∨ (s.ctx ctx).st = .free ∨ (s.ctx ctx).st = .orphaned →
      exec (.sbrd ch ctx pcsel umask reps f) s = .next s)
    ∧ (ctx = 256 ∨ ((s.ctx ctx).priv = true ∧ ((s.ctx ctx).st = .active ∨ (s.ctx ctx).st = .suspended)) →
      let us := (bcastUnits ch pcsel umask).filter fun su => s.pcUp (su / 16)
      (∀ c, reps = 1 → s.idleUnits us = true → (∀ k ∈ us, s.canLoad k ctx false (.cfg c) = true) →
        ∃ t, exec (.sbrd ch ctx pcsel umask reps (.cfg c)) s = .next t ∧ t.mem = s.mem ∧ SameModule s t
          ∧ (∀ k ∈ us, c.loadCfg = true → (t.pair k).unit.cfg = c.config &&& 0xFFFF#32) ∧ ∀ k, k ∉ us → t.pair k = s.pair k)
      ∧ (s.idleUnits (bcastUnits ch 3#2 0xFFFF#16) = true → (∀ k ∈ us, (s.pair k).rerun = none ∧ (s.pair k).token = false) →
        (∀ k ∈ us, s.tokenFree k = false) → ∀ d, followerOk (.init d) reps = true →
          ∃ t, exec (.sbrd ch ctx pcsel umask reps (.init d)) s = .next t ∧ t.mem = s.mem ∧ SameModule s t
            ∧ ∀ k ∈ us, (t.pair k).todo = (List.range reps).map fun i => { cmd := .init (advanceRow d i), part := 0, op := i })
      ∧ (s.idleUnits (bcastUnits ch 3#2 0xFFFF#16) = true →
        (∀ k ∈ us, s.tokenFree k = true ∧ s.unitPath k = true ∧ (s.pair k).rerun = none ∧ (s.pair k).ordQ = []) → NoDisableWaits s →
        (∀ x, Tbl.get none s.mem.flips x = none) →
        (∀ d, followerOk (.init d) reps = true →
          ∃ t, exec (.sbrd ch ctx pcsel umask reps (.init d)) s = .next t ∧ SameModule s t
            ∧ (∀ k ∈ us, ∀ i c, i < reps → c < 32 →
                t.mem.data (rowCol k (advanceRow d i) c) = ((s.pair k).ready ctx).unit.pat.extractLsb' (256 * (c % 2)) 256)
            ∧ ∀ col, (∀ k ∈ us, ∀ i c, i < reps → c < 32 → col ≠ rowCol k (advanceRow d i) c) → SameCol s t col)
        ∧ ∀ d x, followerOk (.copy d x) 1 = true → reps = 1 →
          (∀ k ∈ us, ∀ c, c < 32 → colMasked (s.mem.data (rowCol k x c)) (s.mem.chk (rowCol k x c)) = false) →
          ∃ t, exec (.sbrd ch ctx pcsel umask reps (.copy d x)) s = .next t ∧ SameModule s t
            ∧ ∀ k ∈ us, ∀ c, c < 32 → t.mem.data (rowCol k d c) = s.mem.data (rowCol k x c)))

/-- R88 to R101: a unit takes a token only while one may be granted; a refresh falls due once per tREFI or is issued, within its bounds; a queued
read returns its column and a queued write stores it, unless the unit computes and has not run a step since, or is to run a step again; the
re-run of a copy writes the corrected column, and the command ends. R21 to R23, R178: accesses that come through to their bank pairs
(`State.reach`) leave everything but memory, pairs, links and what reports errors as it was; where nothing stands before them, they change
nothing. -/
def Obligations.SorusControl : Prop :=
  (∀ (s : State) (src k : Nat) (cols : List Nat), Behind s (s.reach src k cols) ∧ (AtRest s src cols → s.reach src k cols = s))
  ∧ ∀ (s : State) (su : Nat),
    (s.canIssue su = true → s.tokenFree su = true → (s.pair su).token = false →
      ∃ t, exec (.sorusTokenGrant su) s = .next t ∧ t.pair su = { s.pair su with token := true }
        ∧ t.power = { s.power with tokens := s.power.tokens + 1 } ∧ (∀ k, k ≠ su → t.pair k = s.pair k) ∧ t.mem = s.mem)
    ∧ (s.pool ≤ s.power.tokens → (s.pair su).todo = [] → exec (.sorusTokenGrant su) s = .next s)
    ∧ ((s.pair su).nextRef ≤ s.time.now → (s.pair su).owed < 4 → exec (.pairRefresh su .due) s
        = .next (s.setPair su { s.pair su with owed := (s.pair su).owed + 1, nextRef := (s.pair su).nextRef + s.tRefi su }))
    ∧ (s.time.now < (s.pair su).nextRef → exec (.pairRefresh su .due) s = .next s)
    ∧ (-4 < (s.pair su).owed → (s.pair su).rerun = none →
      exec (.pairRefresh su .issue) s = .next (s.setPair su { s.pair su with owed := (s.pair su).owed - 1, rows := [] }))
    ∧ ((s.pair su).rerun = none → (s.pair su).token = false → (s.pair su).ordQ = [] → NoDisableWaits s →
      (∀ req col, colUnit col = su → s.colUp col = true → (s.readCol col).1.good = true →
        ∃ t o, exec (.ordinaryAccessServe su [.read req col]) s = .next t ∧ t.out = .ordData req col (s.readCol col).2 false :: o
          ∧ (t.pair su).ordQ = [] ∧ (t.readCol col).2 = (s.readCol col).2 ∧ ∀ k, k ≠ col → SameCol s t k)
      ∧ ∀ req col data poison, colUnit col = su → s.colUp col = true → (∀ x, Tbl.get none s.mem.flips x = none) →
        ∃ t, exec (.ordinaryAccessServe su [.write req col data poison]) s = .next t ∧ t.mem.data col = data
          ∧ t.mem.chk col = freshCheck data poison
          ∧ (t.pair su).ordQ = [] ∧ t.out = s.out ∧ ∀ k, k ≠ col → SameCol s t k)
    ∧ (((s.pair su).token = true ∧ (s.pair su).mustStep = true) ∨ (s.pair su).rerun ≠ none → NoDisableWaits s →
      ∀ as, (∀ a ∈ as, ∀ c ∈ ordCols a, colUnit c = su) →
      ∃ t, exec (.ordinaryAccessServe su as) s = .next t ∧ (t.pair su).ordQ = (s.pair su).ordQ ++ as ∧ t.mem = s.mem ∧ t.out = s.out)
    ∧ ∀ x st d y, (s.pair su).rerun = some x → x.steps = [st] → st.cmd = .copy d y → (s.pair su).token = true →
      (s.pair su).ordQ = [] → NoDisableWaits s → (∀ k, k / 16 = su / 16 → (s.pair k).todo = []) → (∀ ch, Tbl.get none s.mem.flips ch = none) →
      ∃ t, exec (.sorusParityRerun su) s = .next t ∧ (t.pair su).rerun = none ∧ (t.pair su).token = false
        ∧ ∀ c raw, c < 32 → rowCol su y c ∈ x.bad → x.rows.find? (·.1 == rowCol su y c) = some (rowCol su y c, raw) →
            (decodeCol raw.1 raw.2).1.good = true → t.mem.data (rowCol su d c) = (decodeCol raw.1 raw.2).2

/-- R79 to R83: every sorus command word is read back as the command, pseudo-channel and unit that it was written for. -/
def Obligations.SorusWordsReadBack : Prop :=
  ∀ (c : SWord) (pc : BitVec 1) (unit : BitVec 4), c.ok unit = true → SWord.decode (c.word pc unit) = some (c, pc, unit)

/-- R79 to R84: a few words written out bit by bit from the table of R81, and a few that are reserved. -/
def Obligations.SorusWordsOfTheTable : Prop :=
  SWord.decode 0x8005_0000_0000_0027#64 = some (.scfg true false true 0x27#32, 0#1, 0#4)
    ∧ SWord.decode 0x880F_FFFF_041F_0000#64 = some (.sld true true 3#3 0xFFFF#16 4#8 31#8, 0#1, 0#4)
    ∧ SWord.decode 0x9D4F_8001_0200_0000#64 = some (.smac 15#4 0x8001#16 2#8, 1#1, 5#4)
    ∧ SWord.decode 0xA0C6_0000_0000_0000#64 = some (.sfet false 3#4, 0#1, 3#4)
    ∧ SWord.decode 0xA800_0001_0002_0000#64 = some (.scpy 1#16 2#16, 0#1, 0#4)
    ∧ SWord.decode 0xB803_0001_8002_0003#64 = some (.slog .andn 1#16 0x8002#16 3#16, 0#1, 0#4)
    ∧ SWord.decode 0xC007_0001_0002_0000#64 = some (.selt .lut 1#16 2#16 0#16, 0#1, 0#4)
    ∧ SWord.decode 0xC800_0000_0010_003E#64 = some (.snrm 0x10#16 1#5 30#5, 0#1, 0#4)
    ∧ SWord.decode 0xF803_00FF_000F_0000#64 = some (.sbrd 3#2 0xFF#16 15#16, 0#1, 0#4)
    ∧ SWord.decode 0xD000_0000_0000_0000#64 = none ∧ SWord.decode 0xB805_0001_8002_0003#64 = none
    ∧ SWord.decode 0xF800_00FF_000F_0000#64 = none ∧ SWord.decode 0xC800_8000_0010_003E#64 = none
    ∧ SWord.decode 0x1D4F_8001_0200_0000#64 = none

/-! ## Frond cores (R114 to R135) -/

/-- R118 to R122, R133: `MMA` adds to every element of the m × n corner the exact sum of its products, saturated, or one at a time in fp32, or
scaled into the 64-bit segment sum; `ACC_CLOSE` adds every saturated segment sum into its total and clears it. Nothing but that core changes; at
level 0 it holds the operation. A product that fp32 does not hold exactly is rounded before it is added: the model's choice, log entry 120. -/
def Obligations.CoreProducts : Prop :=
  ∀ (s : State) (c : Fin 64),
    ((s.core c).runs = false → ∀ o a,
      let hold (i : Instr) : State :=
        if (s.core c).works = true then s.setCore c { s.core c with waiting := (s.core c).waiting ++ [i] } else s
      exec (.mma c o) s = .next (hold (.mma c o)) ∧ exec (.accClose c a) s = .next (hold (.accClose c a)))
    ∧ ((s.core c).runs = true →
      (∀ o, mmaSeg o = false →
        ∃ k, exec (.mma c o) s = .next (s.setCore c k)
          ∧ (∀ i j, i < Nat.min 64 o.m → j < Nat.min 64 o.n →
              let old := Tbl.get 0 (s.core c).accs (tileIdx 32 o.acc i j)
              let new := Tbl.get 0 k.accs (tileIdx 32 o.acc i j)
              (mmaFlt o = false → new.toInt = (satS 32 (old.toInt + ((List.range (Nat.min 256 o.k)).map fun e =>
                  ((s.core c).actVal o i e).toInt * ((s.core c).wgtVal o e j).toInt).sum)).1)
              ∧ (mmaFlt o = true → new = (List.range (Nat.min 256 o.k)).foldl
                  (fun acc e => fadd acc (fmul ((s.core c).actVal o i e).toFlt ((s.core c).wgtFlt o e j))) old))
          ∧ (∀ n, (∀ i j, i < Nat.min 64 o.m → j < Nat.min 64 o.n → n ≠ tileIdx 32 o.acc i j) →
              Tbl.get 0 k.accs n = Tbl.get 0 (s.core c).accs n)
          ∧ k.tiles = (s.core c).tiles ∧ k.cmem = (s.core c).cmem ∧ k.vregs = (s.core c).vregs)
      ∧ (∀ o, mmaSeg o = true →
        ∃ k, exec (.mma c o) s = .next (s.setCore c k)
          ∧ (∀ i j, i < Nat.min 64 o.m → j < Nat.min 64 o.n →
              k.acc64 o.acc i j = (BitVec.ofInt 64 ((s.core c).acc64 o.acc i j + ((List.range (Nat.min 256 o.k)).map fun e =>
                (s.core c).wgtScale o e j * ((s.core c).actVal o i e).toInt * ((s.core c).wgtVal o e j).toInt).sum)).toInt)
          ∧ k.satCount = Nat.min 0xFFFFFFFF (s.core c).satCount ∧ k.tiles = (s.core c).tiles ∧ k.cmem = (s.core c).cmem)
      ∧ ∀ a, ∃ k, exec (.accClose c a) s = .next (s.setCore c k)
          ∧ (∀ i j, i < 64 → j < 64 →
              k.acc64 (a + 2) i j = (BitVec.ofInt 64 ((s.core c).acc64 (a + 2) i j + (satS 32 ((s.core c).acc64 a i j)).1)).toInt
                ∧ k.acc64 a i j = 0)
          ∧ k.tiles = (s.core c).tiles ∧ k.cmem = (s.core c).cmem ∧ k.vregs = (s.core c).vregs)

/-- R117, R124 to R126: a chain with 32-bit results writes the result of every active element; `DRAIN` then clears the accumulator tile that it
read, or the four of a segment-mode tile. -/
def Obligations.CoreChains : Prop :=
  ∀ (s : State) (c : Fin 64) (o : ChainOp), (s.core c).runs = true →
    let k := (s.core c).buildMask o.mask
    (∃ k', exec (.vchain c o) s = .next (s.setCore c k') ∧ (o.outLane = .int32 ∨ o.outLane = .fp32 → ChainWrites k k' o)
      ∧ k'.svc = (s.core c).svc ∧ k'.level = (s.core c).level ∧ k'.empty = (s.core c).empty)
    ∧ ∀ a, o.src = .acc a →
      ∃ k', exec (.drain c o) s = .next (s.setCore c k')
        ∧ ((∀ b, o.dst ≠ .acc b) → o.outLane = .int32 ∨ o.outLane = .fp32 → ChainWrites k k' o)
        ∧ (∀ n e, n < (if o.segment then 4 else 1) → e < 4096 → Tbl.get 0 k'.accs (4096 * ((a + n) % 32) + e) = 0)

/-- R128, R130: a reduction writes one result per row, per column, or one, into a vector register; a maximum over int32 rows is the greatest of
the active elements, and the identity where there is none. -/
def Obligations.CoreReductions : Prop :=
  ∀ (s : State) (c : Fin 64) (o : ReduceOp), (s.core c).runs = true →
    let k := (s.core c).buildMask o.mask
    ∃ k', exec (.coreReduce c o) s = .next (s.setCore c k') ∧ k'.tiles = (s.core c).tiles ∧ k'.accs = (s.core c).accs
      ∧ k'.cmem = (s.core c).cmem ∧ ((s.core c).empty = true → k'.empty = true)
      ∧ ∀ t, o.form = .axis1 t → o.lane = .int32 → ∀ i, i < 64 →
          let active (j : Nat) : Bool := maskBit (k.maskOf o.mask) true (64 * i + j)
          let x (j : Nat) : Int := (Tbl.get 0 (s.core c).tiles (4096 * (t % 8) + 64 * i + j)).toInt
          let result : Int := toSigned 32 (k'.refElem (.vreg o.dst) .int32 i)
          (o.fn = .max →
            (∀ j, j < 64 → active j = true → x j ≤ result) ∧ ((∃ j, j < 64 ∧ active j = true) → ∃ j, j < 64 ∧ active j = true ∧ result = x j)
              ∧ ((∀ j, j < 64 → active j = false) → result = -2147483648 ∧ (o.stored.getLsbD i = true → k'.empty = true)))
          ∧ (o.fn = .argmin → ∀ j, result = (j : Nat) →
              j < 64 ∧ active j = true ∧ (∀ m, m < 64 → active m = true → x j ≤ x m) ∧ ∀ m, m < j → active m = true → x j < x m)

/-- R117, R134: the loads and stores of a core move a tile or a vector register, with its poison. R135: a corrected error of a core is counted
and logged, and changes nothing else of it; another one fences the core, at level 0, and is logged `ERR_UNCORRECTABLE`. -/
def Obligations.CoreMovesAndFaults : Prop :=
  (∀ (s : State) (c : Fin 64) (n a : Nat), (s.core c).runs = true →
     (∃ k, exec (.tload c n a) s = .next (s.setCore c k) ∧ k.cmem = (s.core c).cmem ∧ k.accs = (s.core c).accs ∧ k.vregs = (s.core c).vregs
       ∧ ∀ e, e < 4096 → k.refElem (.tile n) .int32 e = (s.core c).refElem (.mem a) .int32 e
           ∧ (k.refBad (.tile n) .int32 e = true ↔ ∃ j, j < 64 ∧ (s.core c).refBad (.mem a) .int32 (64 * (e / 64) + j) = true))
     ∧ (∃ k, exec (.tstore c n a) s = .next (s.setCore c k) ∧ k.tiles = (s.core c).tiles ∧ k.accs = (s.core c).accs
       ∧ k.vregs = (s.core c).vregs ∧ (∀ e, e < 4096 → k.refElem (.mem a) .int32 e = (s.core c).refElem (.tile n) .int32 e)
       ∧ ∀ b, (∀ i, i < 16384 → cmAddr b ≠ cmAddr (a + i)) → k.byteAt b = (s.core c).byteAt b)
     ∧ (∃ k, exec (.vload c n a) s = .next (s.setCore c k) ∧ k.cmem = (s.core c).cmem ∧ k.accs = (s.core c).accs ∧ k.tiles = (s.core c).tiles
       ∧ (∀ e, e < 1024 → k.refElem (.vreg n) .uint8 e = ((s.core c).byteAt (a + e)).toNat)
       ∧ (Tbl.get false k.vregPoison (n % 32) = true ↔ ∃ e, e < 1024 ∧ (s.core c).lineBad (a + e) = true))
     ∧ ∃ k, exec (.vstore c n a) s = .next (s.setCore c k) ∧ k.tiles = (s.core c).tiles ∧ k.accs = (s.core c).accs
       ∧ k.vregs = (s.core c).vregs ∧ (∀ e, e < 1024 → k.byteAt (a + e) = Tbl.get 0 (s.core c).vregs (1024 * (n % 32) + e))
       ∧ ∀ b, (∀ i, i < 1024 → cmAddr b ≠ cmAddr (a + i)) → k.byteAt b = (s.core c).byteAt b)
  ∧ (∀ (s : State) (c : Fin 64) (k : CoreFaultKind),
     (k = .corrected →
       ∃ t, exec (.coreFault c k) s = .next t ∧ t.core c = { s.core c with corrected := Nat.min 0xFFFF ((s.core c).corrected + 1) }
         ∧ t.integ.log.length ≤ Nat.max 16384 (s.integ.log.length) ∧ (∃ e, t.integ.log.head? = some e ∧ e.kind = 0 ∧ e.unit = unitId 7 c)
         ∧ (∀ d, d ≠ c.val → t.core d = s.core d) ∧ SameModule s t ∧ t.mem = s.mem ∧ t.recs = s.recs ∧ t.evlog = s.evlog)
     ∧ (k ≠ .corrected → (s.core c).svc ≠ .fenced →
       ∃ t, exec (.coreFault c k) s = .next t ∧ ((t.core c).svc = .fenced ∨ (t.core c).svc = .disabled) ∧ (t.core c).level = 0
         ∧ ((∀ m, (s.mbox m).begun = false) →
             ∃ e ∈ t.evlog.log, e.kind = 0x0A ∧ e.status = Status.uncorrectable ∧ e.unit = unitId 7 c)))

/-! ## Host ports (R178 to R180, R229, R240 to R248, R255 to R258, R370, R394) -/

/-- R243, R244, R246, R255, R370, R394: a read on an open port whose earlier writes have arrived returns its line, with poison when a column of it is
bad or out of service, and corrects what can be corrected; one that reaches no memory returns poison and changes nothing else; while the link
retrains its answer waits. R243, R244, R276, R336, R370, R394: every write on a port whose link is up completes. The owner's write of a full line
stores its 64 bytes with fresh check bits and its poison; one with byte enables stores the bytes that they name and leaves the other bytes of the
line; another port's, one to no DPA, and any before the module is ready are counted and discarded. -/
def Obligations.CxlReadsAndWrites : Prop :=
  (∀ (s : State) (p : Fin 4) (hpa : Nat), (s.port p).linkUp = true → (∀ h ∈ s.underway, OrdAccess.writeOf p h.2 = false) →
     (s.memOpen p = true → (s.port p).retraining = false → ∀ dpa, (s.port p).dpaOf hpa = some dpa → dpa % 64 = 0 → s.clearLine dpa = true →
       let a := s.lay.colOf dpa
       let b := s.lay.colOf (dpa + 32)
       ∃ t o line poison, exec (.memrd p hpa) s = .next t ∧ t.out = .cxlData p line poison :: o
         ∧ line.extractLsb' 0 256 = (s.readCol a).2 ∧ line.extractLsb' 256 256 = (s.readCol b).2
         ∧ poison = (!(s.readCol a).1.good || !(s.readCol b).1.good || !s.colUp a || !s.colUp b)
         ∧ (t.readCol a).2 = (s.readCol a).2 ∧ (t.readCol b).2 = (s.readCol b).2 ∧ (∀ col, col ≠ a → col ≠ b → SameCol s t col)
         ∧ SameModule s t ∧ t.queues = s.queues ∧ t.recs = s.recs ∧ t.flags = s.flags)
     ∧ (s.memOpen p = false ∨ (s.port p).dpaOf hpa = none →
       ((s.port p).retraining = false →
         ∃ t line, exec (.memrd p hpa) s = .next t ∧ t = { s with free := s.free + 1, out := .cxlData p line true :: s.out })
       ∧ ((s.port p).retraining = true →
         ∃ t line, exec (.memrd p hpa) s = .next t ∧ (t.port p).heldOut = (s.port p).heldOut ++ [.cxlData p line true] ∧ t.out = s.out
           ∧ t.mem = s.mem)))
  ∧ (∀ (s : State) (p : Fin 4) (hpa : Nat) (line : BitVec 512) (be : Word64) (poison : Bool), (s.port p).linkUp = true →
     (s.port p).retraining = false →
     (s.memOpen p = true → ∀ dpa, (s.port p).dpaOf hpa = some dpa → dpa % 64 = 0 → s.clearLine dpa = true →
       let a := s.lay.colOf dpa
       let b := s.lay.colOf (dpa + 32)
       (s.isOwner p = true → (∀ ch, Tbl.get none s.mem.flips ch = none) → s.colUp a = true → s.colUp b = true →
         (∃ t, exec (.memwr p hpa line poison) s = .next t ∧ t.out = .cxlDone p :: s.out
           ∧ t.mem.data a = line.extractLsb' 0 256 ∧ t.mem.chk a = freshCheck (line.extractLsb' 0 256) poison
           ∧ t.mem.data b = line.extractLsb' 256 256 ∧ t.mem.chk b = freshCheck (line.extractLsb' 256 256) poison
           ∧ (∀ col, col ≠ a → col ≠ b → SameCol s t col) ∧ SameModule s t ∧ t.queues = s.queues ∧ t.recs = s.recs ∧ t.ports = s.ports)
         ∧ (∃ t, exec (.meminv p hpa line) s = .next t ∧ t.out = .cxlDone p :: s.out
           ∧ t.mem.data a = line.extractLsb' 0 256 ∧ t.mem.data b = line.extractLsb' 256 256
           ∧ (∀ col, col ≠ a → col ≠ b → SameCol s t col) ∧ SameModule s t ∧ t.queues = s.queues ∧ t.recs = s.recs)
         ∧ ∃ t o, exec (.memwrptl p hpa line be poison) s = .next t ∧ t.out = .cxlDone p :: o
           ∧ (∀ i, i < 32 → colByte (t.mem.data a) i = (if be.getLsbD i then colByte (line.extractLsb' 0 256) i else colByte (s.mem.data a) i)
               ∧ colByte (t.mem.data b) i = (if be.getLsbD (32 + i) then colByte (line.extractLsb' 256 256) i else colByte (s.mem.data b) i))
           ∧ (∀ col, col ≠ a → col ≠ b → SameCol s t col) ∧ SameModule s t ∧ t.queues = s.queues ∧ t.recs = s.recs))
     ∧ (s.phase ≠ .ready ∨ s.isOwner p = false ∨ (s.port p).dpaOf hpa = none →
       let discards (i : Instr) : Prop := ∃ t o, exec i s = .next t ∧ t.out = .cxlDone p :: o ∧ t.mem = s.mem ∧ t.pairs = s.pairs
         ∧ (t.port p).discarded = (s.port p).discarded + 1 ∧ SameModule s t ∧ t.queues = s.queues
         ∧ t.evlog.nextSeq = s.evlog.nextSeq + (if (s.port p).discarded % 1024 = 0 then 1 else 0)
       discards (.memwr p hpa line poison) ∧ discards (.memwrptl p hpa line be poison) ∧ discards (.meminv p hpa line))
     ∧ (s.phase = .ready → s.isOwner p = true → (s.port p).dpaOf hpa ≠ none → (s.port p).fence = true →
       exec (.memwr p hpa line poison) s = .next (s.emit (.cxlDone p))
         ∧ exec (.memwrptl p hpa line be poison) s = .next (s.emit (.cxlDone p)) ∧ exec (.meminv p hpa line) s = .next (s.emit (.cxlDone p))))

/-- R229, R241, R255 to R258, R370: a link comes up with its width and rate, and what waited for it is sent; it retrains, or is lost with its host
transfers halted, as a retrain of 100 ms is; a reset of the port clears its configuration and leaves its mailboxes idle; a fence halts transfers
too, and its end restores the port. None of them touches memory, contexts or queues. -/
def Obligations.HostLinks : Prop :=
  ∀ (s : State) (p : Fin 4),
    let transfers (r : Rec) : Prop := r ∈ s.recs ∧ (r.op = 0x34 ∨ r.op = 0x35) ∧ r.variant = p.val ∧ r.halted = false
      ∧ r.tickets.done < r.tickets.total
      ∧ ∀ x ∈ s.recs, x.q = r.q → x.seq = r.seq → x = r
    (∀ width rate64, widthCode width ≠ 0 → s.linksLive = true →
      ∃ t, exec (.hostLinkUp p width rate64) s = .next t ∧ (t.port p).linkUp = true ∧ (t.port p).retraining = false
        ∧ (t.port p).width = widthCode width ∧ (t.port p).heldOut = []
        ∧ (t.port p).rate64 = rate64 ∧ (t.port p).fence = (s.port p).fence ∧ SameBehindPort s t ∧ t.mboxes = s.mboxes
        ∧ ((s.port p).retraining = false ∨ s.time.now < (s.port p).retrainAt + 100000000 →
            (∀ o ∈ (s.port p).heldOut, o ∈ t.out) ∧ ((∀ r ∈ s.recs, r.op ≠ 0x35) → t.recs = s.recs)
              ∧ t.evlog.nextSeq = s.evlog.nextSeq + (if width = 16 ∧ rate64 = true then 0 else 1))
        ∧ ((s.port p).linkUp = true → (s.port p).retraining = true → (s.port p).retrainAt + 100000000 ≤ s.time.now →
            ∀ r, r.op = 0x34 → transfers r → Halted t r Status.hostLinkLost))
    ∧ ((s.port p).linkUp = true →
      ((s.port p).retraining = false →
        exec (.hostLinkRetrain p) s = .next (s.setPort p { s.port p with retraining := true, retrainAt := s.time.now }))
      ∧ ((s.port p).retraining = true → exec (.hostLinkRetrain p) s = .next s)
      ∧ ∃ t, exec (.hostLinkLost p) s = .next t ∧ (t.port p).linkUp = false ∧ (t.port p).width = 0 ∧ (t.port p).heldOut = [] ∧ SameBehindPort s t
          ∧ t.mboxes = s.mboxes ∧ (∀ r, transfers r → Halted t r Status.hostLinkLost))
    ∧ (∃ t, exec (.portReset p) s = .next t ∧ (t.port p).linkUp = false ∧ (t.port p).busMaster = false ∧ (t.port p).msixOn = false
        ∧ (t.port p).hdm = [] ∧ (t.port p).fence = false ∧ (t.port p).bar0 = 0 ∧ (t.port p).bar2 = 0 ∧ (t.port p).maxPayload = 128
        ∧ (t.port p).maxRead = 512 ∧ SameBehindPort s t
        ∧ (∀ m, m < 4 → (t.mbox (4 * p.val + m)).st = .idle ∧ (t.mbox (4 * p.val + m)).discard = (s.mbox (4 * p.val + m)).cur)
        ∧ ∀ k, (∀ m, m < 4 → k ≠ 4 * p.val + m) → t.mbox k = s.mbox k)
    ∧ ((s.port p).fence = false → ∃ t, exec (.portFenceSet p) s = .next t ∧ (t.port p).fence = true
        ∧ (t.port p).linkUp = (s.port p).linkUp ∧ SameBehindPort s t ∧ t.mboxes = s.mboxes ∧ ∀ r, transfers r → Halted t r Status.hostLinkLost)
    ∧ ((s.port p).fence = true → ∃ t, exec (.portFenceClear p) s = .next t ∧ (t.port p).fence = false
        ∧ (t.port p).linkUp = (s.port p).linkUp ∧ SameBehindPort s t ∧ t.recs = s.recs)
    ∧ ∀ on, ∃ t, exec (.busMasteringChange p on) s = .next t ∧ (t.port p).busMaster = on ∧ (t.port p).linkUp = (s.port p).linkUp
        ∧ SameBehindPort s t ∧ t.recs = s.recs

/-- R178 to R180, R255: of a host transfer that has begun, is not all committed and whose link does not retrain, an acknowledging read that
completes counts the ticket's bytes before it as acknowledged; data for a held ticket of a host read join what has come for it; a completion with
an error, or none in time, halts the transfer, what it has acknowledged standing. -/
def Obligations.HostTransfers : Prop :=
  ∀ (s : State) (q : Nat) (seq : Word32) (r : Rec), s.findRec q seq = some r → r.op = 0x34 ∨ r.op = 0x35 → r.workDone = true →
    r.halted = false → r.tickets.done < r.tickets.total → (s.port r.variant).retraining = false →
    (∀ k who e n, r.op = 0x34 → (r.ticket k).st = .committing who e → n ∈ ackPoints (r.ticketBytes k).length → (r.ticket k).acked < n →
      exec (.hostAckReadComplete q seq { ticket := k, bytes := n }) s = .next (s.setRec { r with tickets := { r.tickets with
        tab := Tbl.put {} r.tickets.tab k { r.ticket k with acked := n, got := [] } } }))
    ∧ (∀ k who e bs, r.op = 0x35 → (r.ticket k).st = .claimed who e →
      exec (.hostReadCompletion q seq (.data k bs)) s = .next (s.setRec { r with tickets := { r.tickets with
        tab := Tbl.put {} r.tickets.tab k { r.ticket k with got := ((r.ticket k).got ++ bs).take (r.ticketBytes k).length } } }))
    ∧ (∃ t, exec (.hostReadCompletion q seq .ur) s = .next t ∧ Halted t r Status.outOfBounds ∧ WorkFrame s t r ∧ t.mem = s.mem)
    ∧ (∃ t, exec (.hostReadCompletion q seq .ca) s = .next t ∧ Halted t r Status.outOfBounds ∧ WorkFrame s t r ∧ t.mem = s.mem)
    ∧ ∃ t, exec (.hostCompletionTimeout q seq) s = .next t ∧ Halted t r Status.timeout ∧ WorkFrame s t r ∧ t.mem = s.mem

/-! ## Register pages and decoders (R242, R365 to R370) -/

/-- R204, R228, R242, R267, R365 to R368, R370: a write of BAR0 acts by the page that it lies in: a doorbell, a flag page, the fence, the
interrupt causes, the request area of a mailbox. A write of another size, or misaligned, does nothing. `EVLOG_ACK` is taken up to the newest
entry. An HDM decoder commits when its rules hold, and stays as it was otherwise; the host may clear its commit. -/
def Obligations.RegisterWrites : Prop :=
  ∀ (s : State) (a : Agent) (v : Word64),
    (∀ off size, [1, 2, 4, 8].contains size = false ∨ off % size ≠ 0 → exec (.registerWrite a off size v) s = .next s)
    ∧ (∀ q, q < 2048 → exec (.registerWrite a (doorbellOff q) 4 v) s = exec (.doorbellTail a q (v.setWidth 32)) s
        ∧ exec (.registerWrite a (doorbellOff q + 8) 4 v) s = exec (.cqHeadWrite a q (v.setWidth 32)) s)
    ∧ (∀ c slot, c < 256 → slot < 1024 →
        exec (.registerWrite a (flagOff c) 2 v) s = exec (.flagPageSet a c (v.setWidth 16)) s
        ∧ exec (.registerWrite a (flagOff c + 8) 2 v) s = exec (.flagPageClear a c (v.setWidth 16)) s
        ∧ exec (.registerWrite a (flagOff c + 0x2000 + 8 * slot) 8 v) s = exec (.setMask a c slot v) s
        ∧ exec (.registerWrite a (flagOff c + 0x4000 + 8 * slot) 8 v) s = exec (.clearMask a c slot v) s)
    ∧ (∀ p, exec (.registerWrite (.port p) 0x3000018 1 v) s
        = if v.getLsbD 0 then exec (.portFenceSet p) s else exec (.portFenceClear p) s)
    ∧ (let i := s.intr (agentIdx a)
       ∃ t, exec (.registerWrite a 0x2000008 1 v) s = .next t ∧ (t.intr (agentIdx a)).modErr = (i.modErr && !v.getLsbD 0)
        ∧ (t.intr (agentIdx a)).bucket = (i.bucket && !v.getLsbD 2) ∧ (t.intr (agentIdx a)).ownership = (i.ownership && !v.getLsbD 3)
        ∧ (t.intr (agentIdx a)).mbDone = i.mbDone &&& ~~~(v.extractLsb' 4 4) ∧ (t.intr (agentIdx a)).ovf = i.ovf
        ∧ (t.intr (agentIdx a)).ack = i.ack ∧ (∀ k, k ≠ agentIdx a → t.intr k = s.intr k) ∧ ∃ is, t = { s with intrs := is })
    ∧ (∃ t, exec (.evlogAckWrite a v) s = .next t ∧ (t.intr (agentIdx a)).ack = Nat.min v.toNat (s.evlog.nextSeq - 1)
        ∧ (∀ k, k ≠ agentIdx a → t.intr k = s.intr k) ∧ SameModule s t ∧ t.mem = s.mem ∧ t.evlog = s.evlog ∧ t.queues = s.queues
        ∧ t.mboxes = s.mboxes ∧ (∀ p, a = .port p → v.toNat < s.evlog.nextSeq - 1 → (s.port p).canSend 2 = true →
            (s.port p).retraining = false → t.out = (s.port p).message p 2 :: s.out))
    ∧ (∀ (p : Fin 4) m x size, m < 4 → x < 0x1000 → [1, 2, 4, 8].contains size = true → x % size = 0 →
        let k := 4 * p.val + m
        ((s.mbox k).st ≠ .busy →
          ∃ t, exec (.registerWrite (.port p) (0x1000 + 0x3000 * m + x) size v) s = .next t
            ∧ (∀ i, i < 32768 → (t.mbox k).req.getLsbD i
                = if 8 * x ≤ i ∧ i < 8 * x + 8 * size then v.getLsbD (i - 8 * x) else (s.mbox k).req.getLsbD i)
            ∧ (t.mbox k).st = (s.mbox k).st ∧ (t.mbox k).sram = (s.mbox k).sram ∧ (∀ n, n ≠ k → t.mbox n = s.mbox n)
            ∧ ∃ mbs, t = { s with mboxes := mbs })
        ∧ ((s.mbox k).st = .busy →
          exec (.registerWrite (.port p) (0x1000 + 0x3000 * m + x) size v) s = .next (s.setMbox k { s.mbox k with ringErr := true })))
    ∧ ∀ (p : Fin 4) (c : HdmCommit),
        (c.on = false → ∃ t, exec (.hdmDecoderCommit p c) s = .next t ∧ (t.port p).dec c.dec.val = {}
          ∧ (∀ k, k ≠ c.dec.val → (t.port p).dec k = (s.port p).dec k) ∧ (∀ n, n ≠ p.val → t.port n = s.port n) ∧ SameBehindPort s t
            ∧ t.recs = s.recs)
        ∧ (c.on = true → (s.port p).commitError c = none →
          ∃ t, exec (.hdmDecoderCommit p c) s = .next t ∧ ((t.port p).dec c.dec.val).on = true ∧ ((t.port p).dec c.dec.val).base = c.base
            ∧ ((t.port p).dec c.dec.val).size = c.size
            ∧ ((t.port p).dec c.dec.val).dpaStart = (s.port p).dpaBefore c.dec.val + c.skip
            ∧ (∀ k, k ≠ c.dec.val → (t.port p).dec k = (s.port p).dec k) ∧ (∀ n, n ≠ p.val → t.port n = s.port n)
            ∧ t.out = .hdmCommit p c.dec true :: s.out ∧ SameBehindPort s t ∧ t.recs = s.recs)
        ∧ (∀ e, c.on = true → (s.port p).commitError c = some e →
          ∃ t o, exec (.hdmDecoderCommit p c) s = .next t ∧ (t.port p).hdm = (s.port p).hdm ∧ t.out = .hdmCommit p c.dec false :: o
            ∧ t.evlog.nextSeq = s.evlog.nextSeq + 1 ∧ SameBehindPort s t ∧ t.recs = s.recs)

/-! ## Resets (R334 to R338) -/

/-- R261, R334 to R338: only the owner's port resets, only with `KEY` 0xA5, and not while a reset that it has ordered is in progress. A warm
module reset keeps device memory, layout and ownership generation and starts the module again without a record in flight; a frond reset
clears its units and cores; a context reset empties the context's queues, cancels its records and leaves it suspended. -/
def Obligations.ResetsOfTheOwner : Prop :=
  ∀ (s : State) (p : Fin 4),
    (s.isOwner p = false → s.resetting p = false → ∀ key f ok c, exec (.warmModuleReset p key) s = .next s
      ∧ exec (.frondReset (.port p) f key ok) s = .next s
      ∧ exec (.contextReset p c key) s = .next s)
    ∧ ((s.isOwner p = true ∧ s.resetting p = false ∨ s.resetting p = true) → ∀ (key : Byte) f ok c, s.resetting p = true ∨ key ≠ 0xA5#8 →
      let refused (t : State) : Prop := (t.port p).resetRefused = true ∧ t.evlog.nextSeq = s.evlog.nextSeq + 1 ∧ SameBehindPort s t ∧ t.recs = s.recs
      (∃ t, exec (.warmModuleReset p key) s = .next t ∧ refused t) ∧ (∃ t, exec (.frondReset (.port p) f key ok) s = .next t ∧ refused t)
        ∧ ∃ t, exec (.contextReset p c key) s = .next t ∧ refused t)
    ∧ (s.isOwner p = true → s.resetting p = false →
      ∃ t, exec (.warmModuleReset p 0xA5#8) s = .next t ∧ t.phase = .starting ∧ t.valid = true ∧ t.booted = false ∧ t.resetBusy = true
        ∧ t.recs = [] ∧ t.pairs = [] ∧ t.lines = [] ∧ t.mboxes = [] ∧ t.lay = s.lay ∧ t.own.gen = s.own.gen ∧ t.own.nvmPrio = s.own.nvmPrio
        ∧ t.own.st = .window ∧ t.own.claims = [] ∧ t.time.now = s.time.now ∧ t.time.root = 0
        ∧ (∀ c, (t.core c).svc = (s.core c).svc ∧ (t.core c).accs = [] ∧ (t.core c).cmem = [] ∧ (t.core c).level = 0)
        ∧ (∀ c, (s.ctx c).st = .active ∨ (s.ctx c).st = .suspended →
            (t.ctx c).st = .orphaned ∧ (t.ctx c).windows = (s.ctx c).windows ∧ (t.ctx c).slots = (s.ctx c).slots)
        ∧ t.resetBy = some p ∧ t.stopped = [] ∧ t.granting = true
        ∧ t.mem.flips = [] ∧ (s.recs = [] → t.mem = { s.quiesce.mem with flips := [] }))
    ∧ (∀ (f : Fin 4) ok by_ key, by_ = .firmware ∨ (by_ = .port p ∧ s.isOwner p = true ∧ s.resetting p = false ∧ key = 0xA5#8) →
      ∃ t, exec (.frondReset by_ f key ok) s = .next t
        ∧ (∀ su, su / 8192 = f.val → (t.pair su).unit = {} ∧ (t.pair su).token = false ∧ (t.pair su).rerun = none)
        ∧ (∀ su, su / 8192 ≠ f.val → (t.pair su).unit = (s.pair su).unit)
        ∧ (∀ c, c / 16 = f.val → (t.core c).accs = [] ∧ (t.core c).tiles = [] ∧ (t.core c).cmem = [] ∧ (t.core c).vregs = [])
        ∧ (∀ c : Fin 64, c.val / 16 = f.val → c ∉ ok → (t.core c).svc ≠ .inService))
    ∧ (s.isOwner p = true → s.resetting p = false → (∀ k, (s.mbox k).begun = false) → ∀ c,
      ((s.ctx c).st = .active ∨ (s.ctx c).st = .suspended →
        ∃ t, exec (.contextReset p c 0xA5#8) s = .next t ∧ (t.ctx c).st = .suspended ∧ (t.ctx c).suspending = false
          ∧ (t.ctx c).windows = (s.ctx c).windows ∧ (t.ctx c).slots = (s.ctx c).slots ∧ (∀ d, d ≠ c → t.ctx d = s.ctx d)
          ∧ (∀ x ∈ t.recs, x.ctx ≠ c)
          ∧ (∀ q, (s.queue q).live = true → (s.queue q).ctx = c → (t.queue q).live = true ∧ (t.queue q).tail = (s.queue q).tail
              ∧ (t.queue q).head = (s.queue q).tail ∧ (t.queue q).cqTail = (s.queue q).tail ∧ (t.queue q).cqHead = (s.queue q).tail)
          ∧ (∀ e ∈ (s.ctx c).slots, e.2.mapped = true → t.flagBlock e.2.block = 0))
      ∧ ((s.ctx c).st = .free ∨ (s.ctx c).st = .orphaned →
        ∃ t, exec (.contextReset p c 0xA5#8) s = .next t ∧ (t.port p).resetRefused = true ∧ t.evlog.nextSeq = s.evlog.nextSeq + 1
          ∧ SameBehindPort s t ∧ t.recs = s.recs))

/-! ## Host cores (R249 to R254, R284, R285) -/

/-- R34, R249 to R254, R284, R285: the owner runs, stops and resets a host core by its control block; a core that executes loads and stores
through its caches inside its context's windows, and takes an access fault outside them; it fetches what its instruction cache holds until its
`fence.i`; its `fence` has nothing to wait for when none of its writes is on its way; the cache-block operations write a line back, discard it, or
both, and fault outside device memory and device registers. -/
def Obligations.HostCores : Prop :=
  ∀ (s : State) (p : Fin 4) (n : Fin 16),
    let h := s.hcore n
    (s.isOwner p = false → ∀ w, exec (.hostCoreRun p n w) s = .next s ∧ exec (.hostCoreStop p n w) s = .next s
      ∧ exec (.hostCoreReset p n w) s = .next s)
    ∧ (s.isOwner p = true → ∀ w : Word32, w.getLsbD 1 = false →
      let c := bits w.toNat 8 8
      (h.run = false → s.mayStart { h with ctx := c } = true → h.svc ≠ .inService →
        ∃ t, exec (.hostCoreRun p n w) s = .next t ∧ (t.hcore n).run = false ∧ (t.hcore n).ctx = c ∧ (t.hcore n).regs = h.regs
          ∧ (∀ k, k ≠ n.val → t.hcore k = s.hcore k) ∧ t.mem = s.mem ∧ SameModule s t)
      ∧ (h.run = false → s.mayStart { h with ctx := c } = true → h.svc = .inService →
        ∃ t, exec (.hostCoreRun p n w) s = .next t ∧ (t.hcore n).run = true ∧ (t.hcore n).stopped = false ∧ (t.hcore n).ctx = c
          ∧ (t.hcore n).entry = h.entry ∧ (t.hcore n).lastCtx = some c ∧ (t.hcore n).regs.pc = h.entry
          ∧ (h.lastCtx = some c → (t.hcore n).regs = { h.regs with pc := h.entry } ∧ (t.hcore n).il1 = h.il1 ∧ t.lines = s.lines)
          ∧ (h.lastCtx ≠ some c → (t.hcore n).regs = { pc := h.entry } ∧ (t.hcore n).il1 = [])
          ∧ (∀ k, k ≠ n.val → t.hcore k = s.hcore k) ∧ SameBut s t ∧ t.ctxs = s.ctxs ∧ t.queues = s.queues)
      ∧ (h.run = false → s.mayStart { h with ctx := c } = false →
        ∃ t, exec (.hostCoreRun p n w) s = .next t ∧ (t.hcore n).run = false ∧ (t.hcore n).ctrlErr = true ∧ t.mem = s.mem ∧ SameModule s t)
      ∧ (h.run = true → c = h.ctx →
        ∃ t, exec (.hostCoreStop p n w) s = .next t ∧ (t.hcore n).run = false ∧ (t.hcore n).stopped = true ∧ (t.hcore n).ctx = h.ctx
          ∧ (t.hcore n).lastCtx = h.lastCtx ∧ (t.hcore n).regs = h.regs ∧ (∀ k, k ≠ n.val → t.hcore k = s.hcore k) ∧ t.mem = s.mem
          ∧ t.lines = s.lines))
    ∧ (s.isOwner p = true → ∀ w : Word32,
      (w.getLsbD 0 = false → ∃ t, exec (.hostCoreReset p n w) s = .next t ∧ (t.hcore n).run = false ∧ (t.hcore n).regs = {} ∧ (t.hcore n).il1 = []
        ∧ (∀ i l, Tbl.get none t.lines i = some l → l.by_ = n.val → l.dirty = false) ∧ (∀ k, k ≠ n.val → t.hcore k = s.hcore k)
        ∧ SameBut s t ∧ t.ctxs = s.ctxs)
      ∧ (w.getLsbD 0 = true → h.run = true →
        ∃ t, exec (.hostCoreReset p n w) s = .next t ∧ (t.hcore n).run = true ∧ (t.hcore n).ctrlErr = true ∧ (t.hcore n).regs = h.regs
          ∧ t.mem = s.mem))
    ∧ (s.executes n = false → ∀ addr size kind, exec (.hostCoreAccess n addr size kind) s = .next s ∧ exec (.cboClean n addr) s = .next s
      ∧ exec (.cboFlush n addr) s = .next s ∧ exec (.cboInval n addr) s = .next s)
    ∧ (s.executes n = true → ∀ addr size, [1, 2, 4, 8].contains size = true → addr + size ≤ 2 ^ 41 →
      (∀ kind, kind ≠ .fenceI → kind ≠ .fence → s.inWindows h.ctx addr (addr + size - 1) (AccKind.writes kind) = false →
        ∃ t o, exec (.hostCoreAccess n addr size kind) s = .next t ∧ t.out = .coreFault n (AccKind.trap kind) addr :: o
          ∧ t.evlog.nextSeq = s.evlog.nextSeq + 1
          ∧ t.mem = s.mem ∧ t.lines = s.lines ∧ SameModule s t)
      ∧ (∀ l, addr % 64 + size ≤ 64 → Tbl.get none s.lines (addr / 64) = some l →
        (s.inWindows h.ctx addr (addr + size - 1) false = true →
          exec (.hostCoreAccess n addr size .load) s = .next (s.emit (if l.bad then .coreFault n .load addr
            else .coreData n (BitVec.ofNat 64 (natOf ((List.range size).map fun k => l.data.extractLsb' (8 * (addr % 64 + k)) 8))))))
        ∧ (∀ x bad, s.inWindows h.ctx addr (addr + size - 1) false = true → Tbl.get none h.il1 (addr / 64) = some (x, bad) →
          exec (.hostCoreAccess n addr size .fetch) s = .next (s.emit (if bad = true then .coreFault n .fetch addr
            else .coreData n (BitVec.ofNat 64 (natOf ((List.range size).map fun k => x.extractLsb' (8 * (addr % 64 + k)) 8))))))
        ∧ (∀ d, s.inWindows h.ctx addr (addr + size - 1) true = true →
          ∃ t l', exec (.hostCoreAccess n addr size (.store d)) s = .next t ∧ Tbl.get none t.lines (addr / 64) = some l' ∧ l'.dirty = true
            ∧ (∀ i, i < 64 → l'.data.extractLsb' (8 * i) 8
                = if addr % 64 ≤ i ∧ i < addr % 64 + size then d.extractLsb' (8 * (i - addr % 64)) 8 else l.data.extractLsb' (8 * i) 8)
            ∧ (∀ i, i ≠ addr / 64 → Tbl.get none t.lines i = Tbl.get none s.lines i) ∧ ∃ ls, t = { s with lines := ls })))
    ∧ (s.executes n = true → ∀ addr size, exec (.hostCoreAccess n addr size .fenceI) s = .next (s.setHCore n { h with il1 := [] })
      ∧ ((∀ w ∈ s.underway, ordReq w.2 ≠ .hostCore) → exec (.hostCoreAccess n addr size .fence) s = .next s))
    ∧ (s.executes n = true → ∀ addr, 2 ^ 41 ≤ addr →
      (addr < 2 ^ 44 ∨ 2 ^ 44 + 2 ^ 26 ≤ addr →
        ∀ c ∈ [Instr.cboClean n addr, .cboFlush n addr, .cboInval n addr],
          ∃ t o, exec c s = .next t ∧ t.out = .coreFault n .store addr :: o ∧ t.evlog.nextSeq = s.evlog.nextSeq + 1
            ∧ t.mem = s.mem ∧ t.lines = s.lines ∧ SameModule s t)
      ∧ (∀ o, addr = 2 ^ 44 + o → o < 0x4000 →
        exec (.cboClean n addr) s = .next s ∧ exec (.cboFlush n addr) s = .next s ∧ exec (.cboInval n addr) s = .next s))
    ∧ (s.executes n = true → ∀ addr, addr < 2 ^ 41 →
      (∃ t, exec (.cboInval n addr) s = .next t ∧ Tbl.get none t.lines (addr / 64) = none ∧ t.mem = s.mem ∧ ∃ ls, t = { s with lines := ls })
      ∧ ∀ l, Tbl.get none s.lines (addr / 64) = some l →
        (l.dirty = true → s.clearLine (64 * (addr / 64)) = true → (∀ ch, Tbl.get none s.mem.flips ch = none) →
          let a := s.lay.colOf (64 * (addr / 64))
          let b := s.lay.colOf (64 * (addr / 64) + 32)
          s.colUp a = true → s.colUp b = true → (s.pair (colUnit a)).token = false → (s.pair (colUnit b)).token = false →
          (∃ t, exec (.cboClean n addr) s = .next t ∧ t.mem.data a = l.data.extractLsb' 0 256 ∧ t.mem.data b = l.data.extractLsb' 256 256
            ∧ Tbl.get none t.lines (addr / 64) = some { l with dirty := false } ∧ ∀ col, col ≠ a → col ≠ b → SameCol s t col)
          ∧ ∃ t, exec (.cboFlush n addr) s = .next t ∧ t.mem.data a = l.data.extractLsb' 0 256 ∧ t.mem.data b = l.data.extractLsb' 256 256
            ∧ Tbl.get none t.lines (addr / 64) = none ∧ ∀ col, col ≠ a → col ≠ b → SameCol s t col)
        ∧ (l.dirty = false →
          exec (.cboFlush n addr) s = .next { s with lines := Tbl.put none s.lines (addr / 64) none }))

/-! ## Clocks, sensors, input, start-up (R24, R25, R307 to R333, R373) -/

/-- R24, R25, R307 to R315, R319: a sample of a domain outside the DRAM whose sensors all give readings within range gives it the greatest
of them, a second one in a row at or above the throttle point puts it at throttle, and a frond at throttle has no core above level 2; the
root steps down for a cause and up after 100 ms without one, one step at a time, and the clocks move together at the retarget, with the
delays stored for the step; loss of the reference clock shuts the logic down with memory preserved. -/
def Obligations.ThermalAndClocks : Prop :=
  ∀ (s : State) (at_ : Nat),
    (∀ d (vs : List Int) input, d < 72 → domClass d ≠ .dram → domClass d ≠ .pack → s.phase ≠ .off → s.phase ≠ .retention →
      vs.length = sensorCount d → (∀ v ∈ vs, -640 ≤ v ∧ v ≤ 2400) → (∀ i, (Tbl.get {} (s.dom d).sensors i).out = false) →
      ∃ t, exec (.thermalSample at_ [{ dom := d, reads := vs.map some, lanes := [] }] input) s = .next t
        ∧ (∀ v ∈ vs, v ≤ (t.dom d).reading) ∧ (t.dom d).reading ∈ vs ∧ (t.dom d).subst = false
        ∧ (∀ k, k ≠ d → (t.dom k).reading = (s.dom k).reading ∧ (t.dom k).level = (s.dom k).level)
        ∧ t.power.inputMv = input.mv ∧ t.power.inputMa = input.ma ∧ t.power.inputMw = input.mw
        ∧ (domClass d ≠ .inlet → 1 ≤ (s.dom d).thrUp → (∀ v ∈ vs, (thresholds (domClass d)).2.2.1 ≤ v) → 2 ≤ (t.dom d).level)
        ∧ (d < 4 → 2 ≤ (t.dom d).level → ∀ c, c / 16 = d → (t.core c).level ≤ 2) ∧ t.lay = s.lay)
    ∧ (s.phase = .ready ∨ s.phase = .starting →
      (s.time.wantRoot ≠ none → ∀ cause, exec (.throttleStepDown at_ cause) s = .next (s.advance at_)
        ∧ exec (.throttleStepUp at_) s = .next (s.advance at_))
      ∧ (∀ cause, ((s.advance at_).stepCause cause).1 = true → s.time.wantRoot = none → s.time.root < 2 →
        ∃ t, exec (.throttleStepDown at_ cause) s = .next t ∧ t.time.wantRoot = some (s.time.root + 1) ∧ t.time.root = s.time.root
          ∧ t.evlog.nextSeq = s.evlog.nextSeq + 1 ∧ t.mem = s.mem ∧ t.recs = s.recs)
      ∧ (∀ cleared, s.therm.clearedAt = some cleared → cleared + 100000000 ≤ (s.advance at_).time.now →
        s.therm.lastUp + 100000000 ≤ (s.advance at_).time.now → s.time.wantRoot = none → 0 < s.time.root →
        ∃ t, exec (.throttleStepUp at_) s = .next t ∧ t.time.wantRoot = some (s.time.root - 1) ∧ t.therm.lastUp = (s.advance at_).time.now
          ∧ t.time.root = s.time.root ∧ t.mem = s.mem ∧ t.recs = s.recs))
    ∧ (∀ r, s.time.wantRoot = some r → s.phase ≠ .starting ∨ s.booted = true →
      ∃ t ps ms, exec .rootRetarget s = .next t
        ∧ t = { s with time := { s.time with root := r, wantRoot := none, frac := 0 }, pairs := ps, free := s.free + 1, mboxes := ms
                       delays := { sets := s.delays.sets, inForce := Tbl.get [] s.delays.sets r } }
        ∧ (∀ mb : Fin 32, ((s.mbox mb).cur = true ∧ r = 2 ∧ s.time.now < (s.mbox mb).startAt + 50000000 →
              t.mbox mb = { s.mbox mb with slow := true })
            ∧ (¬ ((s.mbox mb).cur = true ∧ r = 2 ∧ s.time.now < (s.mbox mb).startAt + 50000000) → t.mbox mb = s.mbox mb))
        ∧ ∀ su, (s.pair su).owed - 4 ≤ (t.pair su).owed ∧ (t.pair su).owed ≤ (s.pair su).owed
            ∧ t.pair su = { s.pair su with owed := (t.pair su).owed, rows := (t.pair su).rows })
    ∧ (s.phase = .starting → s.booted = false → exec .rootRetarget s = .next s)
    ∧ (s.phase = .ready ∨ s.phase = .starting ∨ s.phase = .held →
      ∃ t, exec (.refclkLost at_) s = .next t ∧ t.phase = .logicShut ∧ t.time.holdover = true ∧ t.shut.kind = 1 ∧ t.shut.cause = 4
        ∧ t.shut.read = false ∧ t.shut.latched = true ∧ t.shut.time = (s.advance at_).time.now ∧ t.recs = [] ∧ t.lay = s.lay
        ∧ (NoAccess s → t.mem = s.mem))
    ∧ ∀ ppm : Int, 300 < ppm.natAbs → ppm.natAbs ≤ 1000 →
      ∃ t, exec (.refclkWarning ppm) s = .next t ∧ t.evlog.nextSeq = s.evlog.nextSeq + 1 ∧ SameBehindPort s t ∧ t.recs = s.recs

/-- R326 to R333, R373, R375, R382: the loss of the input leads into retention with memory kept when the pack is ready, else memory is lost, and
with a full shut-down latched the record stands; the
end of the pack's charge loses it too; the return of the input starts the module again with memory kept. A start from no power with a slot that
verifies leaves the memory of every channel in service zero; without one the module is held; with `DBG_EN` boundary scan is entered. -/
def Obligations.InputAndStartUp : Prop :=
  ∀ (s : State) (at_ : Nat),
    let kept (t : State) : Prop := t.phase = .retention ∧ t.recs = [] ∧ t.lay = s.lay ∧ (NoAccess s → t.mem = { s.mem with flips := [] })
    let gone (t : State) : Prop := t.phase = .off ∧ t.mem.bytes = [] ∧ t.shut = s.shut ∧ t.recs = [] ∧ t.lay = s.lay ∧ t.fw = s.fw
    let shutFull : Prop := s.shut.latched = true ∧ s.shut.kind = 2 ∧ s.shut.cause ≠ 5
    let lost (t : State) : Prop := t.phase = .off ∧ t.mem.bytes = [] ∧ t.mem.check = [] ∧ (∀ col, (locOf col).gpc < 2048 → t.mem.tag col ≠ 0)
      ∧ t.shut.kind = 2 ∧ t.shut.cause = 5 ∧ t.recs = [] ∧ t.lay = s.lay ∧ t.fw = s.fw
    (s.phase ≠ .off → s.phase ≠ .retention → shutFull → ∃ t, exec (.inputPowerLost at_) s = .next t ∧ gone t)
    ∧ (s.phase ≠ .off → s.phase ≠ .retention → ¬ shutFull →
      (s.pack.ready = true → ∃ t, exec (.inputPowerLost at_) s = .next t ∧ kept t)
      ∧ (s.pack.ready = false → ∃ t, exec (.inputPowerLost at_) s = .next t ∧ lost t)
      ∧ ∀ ma, 60000 < ma →
        (s.pack.ready = true → ∃ t, exec (.inputOvercurrent at_ ma) s = .next t ∧ kept t)
        ∧ (s.pack.ready = false → ∃ t, exec (.inputOvercurrent at_ ma) s = .next t ∧ lost t))
    ∧ (∀ mv, 63000 < mv → exec (.inputOvervoltage at_ mv) s = exec (.inputPowerLost at_) s)
    ∧ (∀ mv, mv ≤ 63000 → exec (.inputOvervoltage at_ mv) s = .next (s.advance at_))
    ∧ (∀ mv, (40000 ≤ mv ∧ mv < 44000) ∨ (60000 < mv ∧ mv ≤ 63000) → s.phase ≠ .off → s.phase ≠ .retention →
      ∃ t, exec (.inputVoltageWarning at_ mv) s = .next t ∧ t.power.inputMv = mv ∧ t.mem = s.mem ∧ t.recs = s.recs ∧ t.phase = s.phase
        ∧ (s.voltLogAt = none → t.voltLogAt = some ((s.advance at_).time.now) ∧ t.evlog.nextSeq = s.evlog.nextSeq + 1)
        ∧ (∀ x, s.voltLogAt = some x → (s.advance at_).time.now < x + 60000000000 → t.voltLogAt = some x ∧ t.evlog = s.evlog))
    ∧ (s.phase = .retention →
      (∀ e, (∃ t, exec (.packReserveReached e) s = .next t ∧ lost t ∧ t.pack.ready = false ∧ t.pack.storedMwh = packReserve
            ∧ t.pack.retMw = Nat.max 1 e.powerMw)
        ∧ ∃ t, exec (.packSelfDisconnect e) s = .next t ∧ lost t ∧ t.pack.ready = false ∧ t.pack.retMw = Nat.max 1 e.powerMw)
      ∧ ∀ ns used mw, ∃ t, exec (.retentionExit ns used mw) s = .next t ∧ t.phase = .starting ∧ t.valid = true ∧ t.mem = s.mem
          ∧ t.pack.retMw = Nat.max 1 mw ∧ t.pack.outMc = Nat.min (2 ^ 64 - 1) (s.pack.outMc + used) ∧ t.evlog.nextSeq = s.evlog.nextSeq + 1
            ∧ t.ctxs = s.ctxs)
    ∧ (∀ r, s.phase = .off → r.dbgEn = true →
      ∃ t, exec (.startUp r) s = .next t ∧ t.phase = .starting ∧ t.jtag.enabled = true ∧ t.booted = s.booted ∧ t.mem = s.mem)
    ∧ (∀ r, s.phase = .off → r.dbgEn = false →
      (∀ h, s.fw.active = 0 → r.slotA = some h → s.fw.minSecurity.toNat ≤ h.security.toNat → s.fw.slotA.rejected = false →
        s.shut.latched = false → s.valid = false →
        ∃ t, exec (.startUp r) s = .next t ∧ t.phase = .starting ∧ t.booted = true ∧ t.fw.running = 0 ∧ t.time.root = 0
          ∧ t.fw.slotA.version = h.version ∧ t.lay = s.lay
          ∧ ∀ a, (t.chan ((locOf (a / 32)).gpc / 2)).svc = .inService → t.mem.byteAt a = 0)
      ∧ (r.slotA = none → r.slotB = none → s.fw.active < 2 →
        ∃ t, exec (.startUp r) s = .next t ∧ t.phase = .held ∧ t.mem = s.mem ∧ t.booted = s.booted))

/-! ## Fabric and rhizoid links (R21 to R23, R346 to R349, R358) -/

/-- R21 to R23, R346 to R349, R358: a frond loses its path and regains it when a route exists; a fenced fabric link leaves every frond with
a path exactly where a route exists; a rhizoid port trains with full credits, retrains keeping them, and goes down when they disagree or the
retrain takes too long; a flit is delivered once, in its order, and one that fails its CRC is answered with `NAK`. -/
def Obligations.Links : Prop :=
  ∀ (s : State),
    (∀ f : Fin 4, (s.frond f).path = true → exec (.frontPathLost f) s = .next (s.setFrond f { s.frond f with path := false }))
    ∧ (∀ f : Fin 4, (s.frond f).path = false → s.hasRoute f = true →
      ∃ t, exec (.frondPathReturn f) s = .next t ∧ (t.frond f).path = true ∧ (t.frond f).heldDone = []
        ∧ ∀ g, g ≠ f.val → (t.frond g).path = (s.frond g).path)
    ∧ (∀ l : Fin 8, s.linkUp l = true →
      exec (.fabricLinkRetrain (.begins l)) s = .next (s.setFLink l { s.flink l with retraining := true })
      ∧ ((s.flink l).retraining = false → exec (.fabricLinkRetrain (.done l)) s = .next s)
      ∧ ((s.flink l).retraining = true → (s.flink l).replay = [] → s.fabricHeld = [] →
        exec (.fabricLinkRetrain (.done l)) s = .next (s.setFLink l { svc := (s.flink l).svc })))
    ∧ (∀ l : Fin 8, s.linkUp l = true →
      ∃ t, exec (.fabricLinkFence l) s = .next t ∧ (t.flink l).svc = .fenced ∧ (t.flink l).replay = [] ∧ s.evlog.nextSeq < t.evlog.nextSeq
        ∧ (∀ k, k ≠ l.val → (t.flink k).svc = (s.flink k).svc ∧ (t.flink k).retraining = (s.flink k).retraining)
        ∧ (s.underway = [] → ∀ k, k ≠ l.val → t.flink k = s.flink k)
        ∧ ∀ f, f < 4 → (t.frond f).path = t.hasRoute f)
    ∧ (∀ source granule, s.undelivered source granule = false → s.fabricHeld = [] →
      ∃ t, exec (.fabricRouteRelease source granule) s = .next t ∧ t.releasedAt source granule = s.oldLinks.length
        ∧ (∀ dst, t.moving source dst granule = false)
        ∧ (∀ x g, ¬ (x = source ∧ g = granule) → t.releasedAt x g = s.releasedAt x g) ∧ ∃ l, t = { s with routeNew := l })
    ∧ (∀ source granule, s.undelivered source granule = true → exec (.fabricRouteRelease source granule) s = .next s)
    ∧ ∀ (n : Fin 8) (at_ : Nat),
      let x := s.rport n
      (∀ serial, s.mayTrain n = true →
        ∃ t, exec (.rhizoidPortTrained n serial) s = .next t ∧ (t.rport n).up = true ∧ (t.rport n).serial = serial
          ∧ (t.rport n).credD = 480 ∧ (t.rport n).credC = 32 ∧ (t.rport n).unacked = [] ∧ (t.rport n).rx = x.rx
          ∧ ∀ k, k ≠ n.val → t.rport k = s.rport k)
      ∧ (x.up = true → x.retraining = false →
        exec (.rhizoidLinkRetrain n) s = .next (s.setRPort n { x with retraining := true, retrainAt := s.time.now, naks := 0 }))
      ∧ (x.up = true → x.retraining = true →
        exec (.rhizoidRetrainDone n x.credD x.credC) s = .next (s.setRPort n { x with retraining := false, naks := 0 })
        ∧ (∀ d c, (d ≠ x.credD ∨ c ≠ x.credC) →
          ∃ t, exec (.rhizoidRetrainDone n d c) s = .next t ∧ (t.rport n).up = false ∧ (t.rport n).mismatch = true
            ∧ Tbl.get false t.power.rports n = false ∧ s.evlog.nextSeq < t.evlog.nextSeq ∧ t.recs = s.recs ∧ t.mem = s.mem)
        ∧ (x.retrainAt + 2000000 ≤ (s.advance at_).time.now →
          ∃ t, exec (.rhizoidRetrainTimeout n at_) s = .next t ∧ (t.rport n).up = false
            ∧ (t.rport n).retryAt = (s.advance at_).time.now + 1000000000 ∧ s.evlog.nextSeq < t.evlog.nextSeq ∧ t.mem = s.mem))
      ∧ (0 < x.retryAt → x.retryAt ≤ (s.advance at_).time.now → s.mayTrain n = true →
        (∀ serial, ∃ t, exec (.rhizoidTrainRetry n at_ (some serial)) s = .next t ∧ (t.rport n).up = true ∧ (t.rport n).serial = serial
          ∧ (t.rport n).credD = 480)
        ∧ ∃ t, exec (.rhizoidTrainRetry n at_ none) s = .next t ∧ (t.rport n).up = false ∧ (t.rport n).retryAt = x.retryAt + 1000000000)
      ∧ ∀ f, x.up = true → x.retraining = false →
        (f.crcOk = false → exec (.rhizoidFlitReceive n f) s = .next (s.emit (.flitAck n x.rxSeq true)))
        ∧ (f.crcOk = true → f.nak = false → f.payload ≠ [] → NoDisableWaits s →
          (f.seq = x.rxSeq + 1 →
            ∃ t, exec (.rhizoidFlitReceive n f) s = .next t ∧ (t.rport n).rxSeq = f.seq ∧ (t.rport n).rx = x.rx ++ [f.payload]
              ∧ (t.rport n).credD = Nat.min 480 (x.credD + f.credD) ∧ (t.rport n).credC = Nat.min 32 (x.credC + f.credC) - x.heldC
              ∧ t.out = .flitAck n f.seq false :: s.out ∧ ∀ k, k ≠ n.val → t.rport k = s.rport k)
          ∧ (f.seq = x.rxSeq →
            ∃ t, exec (.rhizoidFlitReceive n f) s = .next t ∧ (t.rport n).rxSeq = x.rxSeq ∧ (t.rport n).rx = x.rx
              ∧ t.out = .flitAck n x.rxSeq false :: s.out))

/-! ## Sideband and debug port (R379 to R382) -/

/-- R317, R318, R331, R379 to R382: the sideband reads answer `OK` with bytes of fixed length and leave the module as it was, but for
`SD_READ`; what is not answered in retention and full shut-down reads `ERR_OUT_OF_SERVICE`; claim priorities and recovery images are taken
in; the debug port answers only when boundary scan is entered. -/
def Obligations.SidebandAndDebugPort : Prop :=
  ∀ (s : State),
    let answers (i : Instr) (n : Nat) : Prop := ∃ d, exec i s = .next (s.emit (.sideband Status.ok d)) ∧ d.length = n
    let dark (i : Instr) : Prop := exec i s = .next (s.emit (.sideband Status.outOfService []))
    (s.phase ≠ .off → answers .sbIdent 20 ∧ answers .sbPack 32
      ∧ (∃ d, exec .sbState s = .next (s.emit (.sideband Status.ok d)) ∧ d.length = 4 ∧ bits (natOf d) 0 3 = phaseCode s.phase
          ∧ (natOf d).testBit 7 = s.pack.ready)
      ∧ exec .sbAlertResponse s = .next { s with side := { s.side with alert := false } })
    ∧ (s.phase = .ready ∨ s.phase = .starting ∨ s.phase = .held ∨ s.phase = .logicShut →
      answers .sbThermal 14 ∧ answers .sbPower 12
      ∧ (∃ t d, exec .sbShutdown s = .next t ∧ d.length = 32 ∧ t = { s with
            shut := { s.shut with read := s.shut.read || decide (s.shut.kind ≠ 0) }, out := .sideband Status.ok d :: s.out })
      ∧ (s.mayClear = true → ∃ t o, exec .sbClear s = .next t ∧ t.phase = .starting ∧ t.shut.latched = false ∧ t.lay = s.lay
          ∧ t.out = .sideband Status.ok [] :: o)
      ∧ (s.mayClear = false → exec .sbClear s = .next (s.emit (.sideband Status.contextState [])))
      ∧ exec (.sbClaimPrio none) s = .next (s.emit (.sideband Status.ok (s.own.nvmPrio.map fun x => BitVec.ofNat 8 x)))
      ∧ (∀ v : Word32, ∃ t, exec (.sbClaimPrio (some v)) s = .next t ∧ t.own.nvmPrio.length = 4
          ∧ (∀ i, i < 4 → t.own.nvmPrio.getD i 0 = (v.extractLsb' (8 * i) 8).toNat) ∧ t.own.st = s.own.st ∧ t.own.prioAtOpen = s.own.prioAtOpen
          ∧ t.mem = s.mem ∧ t.out = .sideband Status.ok [] :: s.out)
      ∧ ∀ slot off data, slot < 2 → data.length ≤ 64 →
          (s.phase = .held → ∃ t, exec (.sbFwRecover slot off data) s = .next t ∧ (t.fw.slot slot).rejected = false
            ∧ (t.fw.slot slot).staged = (off, data) :: (s.fw.slot slot).staged ∧ t.fw.slot (1 - slot) = s.fw.slot (1 - slot) ∧ t.mem = s.mem)
          ∧ (s.phase ≠ .held → exec (.sbFwRecover slot off data) s = .next (s.emit (.sideband Status.contextState []))))
    ∧ (s.phase = .retention → dark .sbThermal ∧ dark .sbPower ∧ dark .sbShutdown ∧ dark .sbClear)
    ∧ (s.phase = .retention ∨ s.phase = .fullShut → ∀ v slot off data, dark (.sbClaimPrio v) ∧ dark (.sbFwRecover slot off data))
    ∧ (s.phase = .off → exec .sbIdent s = .next s ∧ exec .sbState s = .next s ∧ exec .sbThermal s = .next s ∧ exec .sbPower s = .next s
      ∧ exec .sbShutdown s = .next s ∧ exec .sbClear s = .next s ∧ exec .sbPack s = .next s)
    ∧ ∀ (die : Fin 37) (ins : List Bool),
      (s.jtag.enabled = false → exec (.bypass die ins) s = .next s ∧ exec (.idcode die) s = .next s ∧ exec (.samplePreload die ins) s = .next s
        ∧ exec (.extest die) s = .next s)
      ∧ (s.jtag.enabled = true →
        (∃ t, exec (.bypass die ins) s = .next t ∧ t.out = .tdo die ((false :: ins).take ins.length) :: s.out ∧ (t.tap die).driving = false
          ∧ (t.tap die).boundary = (s.tap die).boundary)
        ∧ (∃ t d, exec (.idcode die) s = .next t ∧ t.out = .tdo die d :: s.out ∧ d.length = 32 ∧ d.head? = some true
          ∧ (t.tap die).driving = false)
        ∧ (∃ t d, exec (.samplePreload die ins) s = .next t ∧ t.out = .tdo die d :: s.out ∧ d.length = ins.length
          ∧ (t.tap die).boundary = ins ∧ (t.tap die).driving = false)
        ∧ ∃ t, exec (.extest die) s = .next t ∧ (t.tap die).driving = true ∧ (t.tap die).boundary = (s.tap die).boundary
          ∧ ∀ k, k ≠ die.val → t.tap k = s.tap k)

/-! ## Requests that are refused; places of rows and addresses -/

/-- R272: a request whose shape is wrong ends `ERR_FIELD_RANGE`, one without the authority `ERR_NOT_OWNER`, and neither changes anything but its
response. -/
def Obligations.RefusedRequestsChangeNothing : Prop :=
  let table : List ((Fin 32 → Instr) × Nat × Auth × Nat × List (Nat × Nat)) :=
    [(.getCaps, 0x0101, .any, 0, []), (.getLayout, 0x0302, .any, 0, []), (.ctxAdopt, 0x0405, .ownerPort, 2, [(0x10, 16)]),
      (.setEnvelope, 0x0801, .ownerPort, 4, [(0x10, 32)]), (.scrub, 0x0A01, .owner, 16, [(0x10, 64), (0x18, 64)]),
      (.setBucket, 0x0A03, .ownerPort, 6, [(0x10, 8), (0x12, 16), (0x14, 16)]),
      (.repairRow, 0x0A05, .ownerPort, 7, [(0x10, 32), (0x14, 16), (0x16, 8)]),
      (.retainArm, 0x0C03, .ownerPort, 1, [(0x10, 8)]), (.clearShutdown, 0x0E03, .port, 0, [])]
  ∀ e ∈ table, ∀ (s : State) (mb : Fin 32), (s.mbox mb).cur = true → (s.mbox mb).begun = false → (s.mbox mb).discard = false →
    (s.mbox mb).behind = [] → (s.req mb).opcode = e.2.1 → s.excluded (s.req mb) = false →
    ((s.req mb).shapeOk e.2.2.2.1 (bodyFields e.2.2.2.2) = false →
      ∃ t, exec (e.1 mb) s = .next t ∧ Ends s s t mb Status.fieldRange 0 0)
    ∧ ((s.req mb).shapeOk e.2.2.2.1 (bodyFields e.2.2.2.2) = true → s.allowed e.2.2.1 (s.req mb).by_ = false →
      ∃ t, exec (e.1 mb) s = .next t ∧ Ends s s t mb Status.notOwner 0 0)

/-- R62, R80: where the rows of a unit and the weights of a row lie: a row operand names row `ROW` of bank 2p + `BSEL` of the unit's
pseudo-channel; an int8 row holds weight q in byte q, an int4 row in half of byte q div 2. -/
def Obligations.RowsAndWeightsLieWhereTheSpecSays : Prop :=
  (∀ su r c, c < 32 → locOf (rowCol su r c)
      = { gpc := su / 16, bank := 2 * (su % 16) + (if r.getLsbD 15 then 1 else 0), row := (r.extractLsb' 0 15).toNat, col := c })
  ∧ ∀ (row : Nat → BitVec 256) (q : Nat),
      (q < 1024 → rowWeight true row q = (colByte (row (q / 32)) (q % 32)).toInt)
      ∧ (q < 2048 → rowWeight false row q
          = (((colByte (row (q / 2 / 32)) (q / 2 % 32)).extractLsb' (if q % 2 = 0 then 0 else 4) 4).toInt)
        ∧ -8 ≤ rowWeight false row q ∧ rowWeight false row q ≤ 7 ∧ q / 64 = q / 2 / 32)
      ∧ ∀ c, c < 32 → (∀ k, k < 32 → (32 * c + k) / colWeights true = c) ∧ ∀ k, k < 64 → (64 * c + k) / colWeights false = c

/-- R36 to R40: under every layout that `SET_LAYOUT` can apply, the DPA of the column that a DPA below 2,048 GiB decodes to is that DPA's
first byte of 32: no two addresses of different columns share a column. -/
def Obligations.AddressDecodeIsOneToOne : Prop :=
  ∀ (mode a b c d dpa : Nat), mode < 2 → dpa < 2 ^ 41 →
    let l := layoutApplied mode a b c d
    l.dpaOf (l.colOf dpa) = dpa / 32 * 32
end

