-- ==== Sys2Proof/Laws/Tables.lean ====
section
/-! SUPPORT. Sparse tables: what a put leaves at each index, and that it keeps the canonical form. -/

namespace Sys2Proof.Machine

open Sys2Proof

theorem Tbl.get_erase_same {α : Type} (d : α) (m : Tbl α) (i : Nat) : Tbl.get d (Tbl.erase m i) i = d := by
  induction m with
  | nil => rfl
  | cons e r ih =>
    obtain ⟨k, v⟩ := e
    by_cases h : i = k
    · simpa [Tbl.erase, h] using h ▸ ih
    · simpa [Tbl.erase, Tbl.get, h] using ih

theorem Tbl.get_erase_ne {α : Type} (d : α) (m : Tbl α) {i j : Nat} (hj : j ≠ i) :
    Tbl.get d (Tbl.erase m i) j = Tbl.get d m j := by
  induction m with
  | nil => rfl
  | cons e r ih =>
    obtain ⟨k, v⟩ := e
    by_cases h : i = k
    · subst h; simpa [Tbl.erase, Tbl.get, hj] using ih
    · by_cases hk : j = k <;> simp [Tbl.erase, Tbl.get, h, hk, ih]

theorem Tbl.get_insert_same {α : Type} (d : α) (m : Tbl α) (i : Nat) (x : α) (h : Tbl.erase m i = m) :
    Tbl.get d (Tbl.insert m i x) i = x := by
  induction m with
  | nil => simp [Tbl.insert, Tbl.get]
  | cons e r ih =>
    obtain ⟨k, v⟩ := e
    by_cases hk : i = k
    · exfalso
      have : (Tbl.erase ((k, v) :: r) i).length ≤ r.length := by
        simp only [Tbl.erase, hk, if_true]
        clear ih h
        induction r with
        | nil => simp [Tbl.erase]
        | cons a r ih => obtain ⟨a, b⟩ := a; simp only [Tbl.erase]; split <;> simp <;> omega
      rw [h, List.length_cons] at this; omega
    · by_cases hl : i < k
      · simp [Tbl.insert, Tbl.get, hl]
      · have hr : Tbl.erase r i = r := by simpa [Tbl.erase, hk] using h
        simp [Tbl.insert, Tbl.get, hl, hk, ih hr]

theorem Tbl.get_insert_ne {α : Type} (d : α) (m : Tbl α) {i j : Nat} (x : α) (hj : j ≠ i) :
    Tbl.get d (Tbl.insert m i x) j = Tbl.get d m j := by
  induction m with
  | nil => simp [Tbl.insert, Tbl.get, hj]
  | cons e r ih =>
    obtain ⟨k, v⟩ := e
    by_cases hl : i < k
    · simp [Tbl.insert, Tbl.get, hl, hj]
    · simp [Tbl.insert, Tbl.get, hl, ih]

theorem Tbl.erase_erase {α : Type} (m : Tbl α) (i : Nat) : Tbl.erase (Tbl.erase m i) i = Tbl.erase m i := by
  induction m with
  | nil => rfl
  | cons e r ih =>
    obtain ⟨k, v⟩ := e
    by_cases h : i = k <;> simp [Tbl.erase, h]
    · simpa [h] using ih
    · exact ih

theorem Tbl.get_putKeep_same {α : Type} [DecidableEq α] (keep : Bool) (d : α) (m : Tbl α) (i : Nat) (x : α) :
    Tbl.get d (Tbl.putKeep keep d m i x) i = x := by
  unfold Tbl.putKeep
  split
  · next h => rw [Tbl.get_erase_same]; exact h.1.symm
  · exact Tbl.get_insert_same d _ i x (Tbl.erase_erase m i)

theorem Tbl.get_putKeep_ne {α : Type} [DecidableEq α] (keep : Bool) (d d' : α) (m : Tbl α) {i j : Nat} (x : α) (h : j ≠ i) :
    Tbl.get d' (Tbl.putKeep keep d m i x) j = Tbl.get d' m j := by
  unfold Tbl.putKeep
  split
  · exact Tbl.get_erase_ne d' m h
  · rw [Tbl.get_insert_ne d' _ x h, Tbl.get_erase_ne d' m h]

/-- Reading the index just put gives the value put. -/
@[simp] theorem Tbl.get_put_same {α : Type} [DecidableEq α] (d : α) (m : Tbl α) (i : Nat) (x : α) :
    Tbl.get d (Tbl.put d m i x) i = x := Tbl.get_putKeep_same false d m i x

/-- Reading another index gives what it held. -/
theorem Tbl.get_put_ne {α : Type} [DecidableEq α] (d d' : α) (m : Tbl α) {i j : Nat} (x : α) (h : j ≠ i) :
    Tbl.get d' (Tbl.put d m i x) j = Tbl.get d' m j := Tbl.get_putKeep_ne false d d' m x h

/-- The indices of a table are strictly rising. -/
def Tbl.Rising {α : Type} (m : Tbl α) : Prop := List.Pairwise (fun a b : Nat × α => a.1 < b.1) m

theorem Tbl.mem_erase {α : Type} {m : Tbl α} {i : Nat} {e : Nat × α} (h : e ∈ Tbl.erase m i) : e ∈ m ∧ e.1 ≠ i := by
  induction m with
  | nil => simp [Tbl.erase] at h
  | cons a r ih =>
    obtain ⟨k, v⟩ := a
    by_cases hk : i = k
    · simp only [Tbl.erase, hk, if_true] at h
      have := ih (hk ▸ h)
      exact ⟨List.mem_cons_of_mem _ this.1, this.2⟩
    · simp only [Tbl.erase, hk, if_false, List.mem_cons] at h
      rcases h with rfl | h
      · exact ⟨List.mem_cons_self, fun h => hk h.symm⟩
      · exact ⟨List.mem_cons_of_mem _ (ih h).1, (ih h).2⟩

theorem Tbl.mem_insert {α : Type} {m : Tbl α} {i : Nat} {x : α} {e : Nat × α} (h : e ∈ Tbl.insert m i x) : e = (i, x) ∨ e ∈ m := by
  induction m with
  | nil => simpa [Tbl.insert] using h
  | cons a r ih =>
    obtain ⟨k, v⟩ := a
    by_cases hk : i < k
    · simpa [Tbl.insert, hk] using h
    · simp only [Tbl.insert, hk, if_false, List.mem_cons] at h
      rcases h with rfl | h
      · exact .inr List.mem_cons_self
      · exact (ih h).imp id (List.mem_cons_of_mem _)

theorem Tbl.rising_erase {α : Type} {m : Tbl α} (i : Nat) (h : Tbl.Rising m) : Tbl.Rising (Tbl.erase m i) := by
  induction m with
  | nil => exact h
  | cons a r ih =>
    obtain ⟨k, v⟩ := a
    have hr := List.pairwise_cons.1 h
    by_cases hk : i = k
    · simpa [Tbl.erase, hk] using hk ▸ ih hr.2
    · simp only [Tbl.erase, hk, if_false]
      exact List.pairwise_cons.2 ⟨fun e he => hr.1 e (Tbl.mem_erase he).1, ih hr.2⟩

theorem Tbl.rising_insert {α : Type} {m : Tbl α} {i : Nat} (x : α) (h : Tbl.Rising m) (hi : ∀ e ∈ m, e.1 ≠ i) :
    Tbl.Rising (Tbl.insert m i x) := by
  induction m with
  | nil => simp [Tbl.insert, Tbl.Rising]
  | cons a r ih =>
    obtain ⟨k, v⟩ := a
    have hr := List.pairwise_cons.1 h
    have hk := hi (k, v) List.mem_cons_self
    by_cases hl : i < k
    · simp only [Tbl.insert, hl, if_true]
      refine List.pairwise_cons.2 ⟨fun e he => ?_, h⟩
      rcases List.mem_cons.1 he with rfl | he
      · exact hl
      · exact Nat.lt_trans hl (hr.1 e he)
    · simp only [Tbl.insert, hl, if_false]
      refine List.pairwise_cons.2 ⟨fun e he => ?_, ih hr.2 fun e he => hi e (List.mem_cons_of_mem _ he)⟩
      rcases Tbl.mem_insert he with rfl | he
      · simp only at hk ⊢; omega
      · exact hr.1 e he

/-- A put keeps the indices strictly rising. -/
theorem Tbl.rising_putKeep {α : Type} [DecidableEq α] (keep : Bool) (d : α) {m : Tbl α} (i : Nat) (x : α) (h : Tbl.Rising m) :
    Tbl.Rising (Tbl.putKeep keep d m i x) := by
  unfold Tbl.putKeep
  split
  · exact Tbl.rising_erase i h
  · exact Tbl.rising_insert x (Tbl.rising_erase i h) fun e he => (Tbl.mem_erase he).2

/-- What a put lists: the new entry, unless it is the default and need not be listed, and old entries of other indices. -/
theorem Tbl.mem_putKeep {α : Type} [DecidableEq α] {keep : Bool} {d : α} {m : Tbl α} {i : Nat} {x : α} {e : Nat × α}
    (h : e ∈ Tbl.putKeep keep d m i x) : (e = (i, x) ∧ (x ≠ d ∨ keep = true)) ∨ (e ∈ m ∧ e.1 ≠ i) := by
  unfold Tbl.putKeep at h
  split at h
  · exact .inr (Tbl.mem_erase h)
  · next hx =>
    rcases Tbl.mem_insert h with rfl | h
    · exact .inl ⟨rfl, by by_cases hd : x = d <;> cases keep <;> simp_all⟩
    · exact .inr (Tbl.mem_erase h)

end Sys2Proof.Machine
end

