-- ==== Sys2Proof/Laws/State.lean ====
section
/-! SUPPORT. The fields of a state after each plain update: one lemma per field per update, and the value that an update leaves. -/

namespace Sys2Proof.Machine

open Sys2Proof

section setPort
variable (s : State) (p : Nat) (v : Port)
@[simp] theorem State.setPort_time : (s.setPort p v).time = s.time := rfl
@[simp] theorem State.setPort_phase : (s.setPort p v).phase = s.phase := rfl
@[simp] theorem State.setPort_valid : (s.setPort p v).valid = s.valid := rfl
@[simp] theorem State.setPort_fw : (s.setPort p v).fw = s.fw := rfl
@[simp] theorem State.setPort_lay : (s.setPort p v).lay = s.lay := rfl
@[simp] theorem State.setPort_mem : (s.setPort p v).mem = s.mem := rfl
@[simp] theorem State.setPort_integ : (s.setPort p v).integ = s.integ := rfl
@[simp] theorem State.setPort_chans : (s.setPort p v).chans = s.chans := rfl
@[simp] theorem State.setPort_pairs : (s.setPort p v).pairs = s.pairs := rfl
@[simp] theorem State.setPort_fronds : (s.setPort p v).fronds = s.fronds := rfl
@[simp] theorem State.setPort_flinks : (s.setPort p v).flinks = s.flinks := rfl
@[simp] theorem State.setPort_oldLinks : (s.setPort p v).oldLinks = s.oldLinks := rfl
@[simp] theorem State.setPort_routeNew : (s.setPort p v).routeNew = s.routeNew := rfl
@[simp] theorem State.setPort_fabricHeld : (s.setPort p v).fabricHeld = s.fabricHeld := rfl
@[simp] theorem State.setPort_stopped : (s.setPort p v).stopped = s.stopped := rfl
@[simp] theorem State.setPort_cores : (s.setPort p v).cores = s.cores := rfl
@[simp] theorem State.setPort_engines : (s.setPort p v).engines = s.engines := rfl
@[simp] theorem State.setPort_ctxs : (s.setPort p v).ctxs = s.ctxs := rfl
@[simp] theorem State.setPort_queues : (s.setPort p v).queues = s.queues := rfl
@[simp] theorem State.setPort_sched : (s.setPort p v).sched = s.sched := rfl
@[simp] theorem State.setPort_recs : (s.setPort p v).recs = s.recs := rfl
@[simp] theorem State.setPort_streams : (s.setPort p v).streams = s.streams := rfl
@[simp] theorem State.setPort_flags : (s.setPort p v).flags = s.flags := rfl
@[simp] theorem State.setPort_mirrors : (s.setPort p v).mirrors = s.mirrors := rfl
@[simp] theorem State.setPort_bars : (s.setPort p v).bars = s.bars := rfl
@[simp] theorem State.setPort_own : (s.setPort p v).own = s.own := rfl
@[simp] theorem State.setPort_mboxes : (s.setPort p v).mboxes = s.mboxes := rfl
@[simp] theorem State.setPort_intrs : (s.setPort p v).intrs = s.intrs := rfl
@[simp] theorem State.setPort_evlog : (s.setPort p v).evlog = s.evlog := rfl
@[simp] theorem State.setPort_hcores : (s.setPort p v).hcores = s.hcores := rfl
@[simp] theorem State.setPort_lines : (s.setPort p v).lines = s.lines := rfl
@[simp] theorem State.setPort_power : (s.setPort p v).power = s.power := rfl
@[simp] theorem State.setPort_therm : (s.setPort p v).therm = s.therm := rfl
@[simp] theorem State.setPort_delays : (s.setPort p v).delays = s.delays := rfl
@[simp] theorem State.setPort_shut : (s.setPort p v).shut = s.shut := rfl
@[simp] theorem State.setPort_pack : (s.setPort p v).pack = s.pack := rfl
@[simp] theorem State.setPort_rports : (s.setPort p v).rports = s.rports := rfl
@[simp] theorem State.setPort_group : (s.setPort p v).group = s.group := rfl
@[simp] theorem State.setPort_side : (s.setPort p v).side = s.side := rfl
@[simp] theorem State.setPort_jtag : (s.setPort p v).jtag = s.jtag := rfl
@[simp] theorem State.setPort_booted : (s.setPort p v).booted = s.booted := rfl
@[simp] theorem State.setPort_resetBusy : (s.setPort p v).resetBusy = s.resetBusy := rfl
@[simp] theorem State.setPort_resetBy : (s.setPort p v).resetBy = s.resetBy := rfl
@[simp] theorem State.setPort_voltLogAt : (s.setPort p v).voltLogAt = s.voltLogAt := rfl
@[simp] theorem State.setPort_lastAct : (s.setPort p v).lastAct = s.lastAct := rfl
@[simp] theorem State.setPort_dlReported : (s.setPort p v).dlReported = s.dlReported := rfl
@[simp] theorem State.setPort_out : (s.setPort p v).out = s.out := rfl
@[simp] theorem State.setPort_free : (s.setPort p v).free = s.free := rfl
@[simp] theorem State.setPort_pending : (s.setPort p v).pending = s.pending := rfl
@[simp] theorem State.setPort_get_ctx (k : Nat) : (s.setPort p v).ctx k = s.ctx k := rfl
@[simp] theorem State.setPort_get_queue (k : Nat) : (s.setPort p v).queue k = s.queue k := rfl
@[simp] theorem State.setPort_get_stream (k : Nat) : (s.setPort p v).stream k = s.stream k := rfl
@[simp] theorem State.setPort_get_mbox (k : Nat) : (s.setPort p v).mbox k = s.mbox k := rfl
@[simp] theorem State.setPort_get_pair (k : Nat) : (s.setPort p v).pair k = s.pair k := rfl
@[simp] theorem State.setPort_get_chan (k : Nat) : (s.setPort p v).chan k = s.chan k := rfl
@[simp] theorem State.setPort_get_frond (k : Nat) : (s.setPort p v).frond k = s.frond k := rfl
@[simp] theorem State.setPort_get_core (k : Nat) : (s.setPort p v).core k = s.core k := rfl
@[simp] theorem State.setPort_get_engine (k : Nat) : (s.setPort p v).engine k = s.engine k := rfl
@[simp] theorem State.setPort_get_bar (k : Nat) : (s.setPort p v).bar k = s.bar k := rfl
@[simp] theorem State.setPort_get_hcore (k : Nat) : (s.setPort p v).hcore k = s.hcore k := rfl
@[simp] theorem State.setPort_get_rport (k : Nat) : (s.setPort p v).rport k = s.rport k := rfl
@[simp] theorem State.setPort_get_flink (k : Nat) : (s.setPort p v).flink k = s.flink k := rfl
@[simp] theorem State.setPort_get_dom (k : Nat) : (s.setPort p v).dom k = s.dom k := rfl
@[simp] theorem State.setPort_get_bucket (k : Nat) : (s.setPort p v).bucket k = s.bucket k := rfl
@[simp] theorem State.setPort_get_intr (k : Nat) : (s.setPort p v).intr k = s.intr k := rfl
@[simp] theorem State.setPort_get_flagBlock (k : Nat) : (s.setPort p v).flagBlock k = s.flagBlock k := rfl
end setPort
@[simp] theorem State.port_setPort (s : State) (p : Nat) (v : Port) : (s.setPort p v).port p = v := Tbl.get_put_same _ _ _ _
theorem State.port_setPort_ne (s : State) (p : Nat) (v : Port) {j : Nat} (h : j ≠ p) : (s.setPort p v).port j = s.port j := Tbl.get_put_ne _ _ _ _ h

section setCtx
variable (s : State) (c : Nat) (v : Ctx)
@[simp] theorem State.setCtx_time : (s.setCtx c v).time = s.time := rfl
@[simp] theorem State.setCtx_phase : (s.setCtx c v).phase = s.phase := rfl
@[simp] theorem State.setCtx_valid : (s.setCtx c v).valid = s.valid := rfl
@[simp] theorem State.setCtx_fw : (s.setCtx c v).fw = s.fw := rfl
@[simp] theorem State.setCtx_lay : (s.setCtx c v).lay = s.lay := rfl
@[simp] theorem State.setCtx_mem : (s.setCtx c v).mem = s.mem := rfl
@[simp] theorem State.setCtx_integ : (s.setCtx c v).integ = s.integ := rfl
@[simp] theorem State.setCtx_chans : (s.setCtx c v).chans = s.chans := rfl
@[simp] theorem State.setCtx_pairs : (s.setCtx c v).pairs = s.pairs := rfl
@[simp] theorem State.setCtx_fronds : (s.setCtx c v).fronds = s.fronds := rfl
@[simp] theorem State.setCtx_flinks : (s.setCtx c v).flinks = s.flinks := rfl
@[simp] theorem State.setCtx_oldLinks : (s.setCtx c v).oldLinks = s.oldLinks := rfl
@[simp] theorem State.setCtx_routeNew : (s.setCtx c v).routeNew = s.routeNew := rfl
@[simp] theorem State.setCtx_fabricHeld : (s.setCtx c v).fabricHeld = s.fabricHeld := rfl
@[simp] theorem State.setCtx_stopped : (s.setCtx c v).stopped = s.stopped := rfl
@[simp] theorem State.setCtx_cores : (s.setCtx c v).cores = s.cores := rfl
@[simp] theorem State.setCtx_engines : (s.setCtx c v).engines = s.engines := rfl
@[simp] theorem State.setCtx_queues : (s.setCtx c v).queues = s.queues := rfl
@[simp] theorem State.setCtx_sched : (s.setCtx c v).sched = s.sched := rfl
@[simp] theorem State.setCtx_recs : (s.setCtx c v).recs = s.recs := rfl
@[simp] theorem State.setCtx_streams : (s.setCtx c v).streams = s.streams := rfl
@[simp] theorem State.setCtx_flags : (s.setCtx c v).flags = s.flags := rfl
@[simp] theorem State.setCtx_mirrors : (s.setCtx c v).mirrors = s.mirrors := rfl
@[simp] theorem State.setCtx_bars : (s.setCtx c v).bars = s.bars := rfl
@[simp] theorem State.setCtx_own : (s.setCtx c v).own = s.own := rfl
@[simp] theorem State.setCtx_mboxes : (s.setCtx c v).mboxes = s.mboxes := rfl
@[simp] theorem State.setCtx_ports : (s.setCtx c v).ports = s.ports := rfl
@[simp] theorem State.setCtx_intrs : (s.setCtx c v).intrs = s.intrs := rfl
@[simp] theorem State.setCtx_evlog : (s.setCtx c v).evlog = s.evlog := rfl
@[simp] theorem State.setCtx_hcores : (s.setCtx c v).hcores = s.hcores := rfl
@[simp] theorem State.setCtx_lines : (s.setCtx c v).lines = s.lines := rfl
@[simp] theorem State.setCtx_power : (s.setCtx c v).power = s.power := rfl
@[simp] theorem State.setCtx_therm : (s.setCtx c v).therm = s.therm := rfl
@[simp] theorem State.setCtx_delays : (s.setCtx c v).delays = s.delays := rfl
@[simp] theorem State.setCtx_shut : (s.setCtx c v).shut = s.shut := rfl
@[simp] theorem State.setCtx_pack : (s.setCtx c v).pack = s.pack := rfl
@[simp] theorem State.setCtx_rports : (s.setCtx c v).rports = s.rports := rfl
@[simp] theorem State.setCtx_group : (s.setCtx c v).group = s.group := rfl
@[simp] theorem State.setCtx_side : (s.setCtx c v).side = s.side := rfl
@[simp] theorem State.setCtx_jtag : (s.setCtx c v).jtag = s.jtag := rfl
@[simp] theorem State.setCtx_booted : (s.setCtx c v).booted = s.booted := rfl
@[simp] theorem State.setCtx_resetBusy : (s.setCtx c v).resetBusy = s.resetBusy := rfl
@[simp] theorem State.setCtx_resetBy : (s.setCtx c v).resetBy = s.resetBy := rfl
@[simp] theorem State.setCtx_voltLogAt : (s.setCtx c v).voltLogAt = s.voltLogAt := rfl
@[simp] theorem State.setCtx_lastAct : (s.setCtx c v).lastAct = s.lastAct := rfl
@[simp] theorem State.setCtx_dlReported : (s.setCtx c v).dlReported = s.dlReported := rfl
@[simp] theorem State.setCtx_out : (s.setCtx c v).out = s.out := rfl
@[simp] theorem State.setCtx_free : (s.setCtx c v).free = s.free := rfl
@[simp] theorem State.setCtx_pending : (s.setCtx c v).pending = s.pending := rfl
@[simp] theorem State.setCtx_get_port (k : Nat) : (s.setCtx c v).port k = s.port k := rfl
@[simp] theorem State.setCtx_get_queue (k : Nat) : (s.setCtx c v).queue k = s.queue k := rfl
@[simp] theorem State.setCtx_get_stream (k : Nat) : (s.setCtx c v).stream k = s.stream k := rfl
@[simp] theorem State.setCtx_get_mbox (k : Nat) : (s.setCtx c v).mbox k = s.mbox k := rfl
@[simp] theorem State.setCtx_get_pair (k : Nat) : (s.setCtx c v).pair k = s.pair k := rfl
@[simp] theorem State.setCtx_get_chan (k : Nat) : (s.setCtx c v).chan k = s.chan k := rfl
@[simp] theorem State.setCtx_get_frond (k : Nat) : (s.setCtx c v).frond k = s.frond k := rfl
@[simp] theorem State.setCtx_get_core (k : Nat) : (s.setCtx c v).core k = s.core k := rfl
@[simp] theorem State.setCtx_get_engine (k : Nat) : (s.setCtx c v).engine k = s.engine k := rfl
@[simp] theorem State.setCtx_get_bar (k : Nat) : (s.setCtx c v).bar k = s.bar k := rfl
@[simp] theorem State.setCtx_get_hcore (k : Nat) : (s.setCtx c v).hcore k = s.hcore k := rfl
@[simp] theorem State.setCtx_get_rport (k : Nat) : (s.setCtx c v).rport k = s.rport k := rfl
@[simp] theorem State.setCtx_get_flink (k : Nat) : (s.setCtx c v).flink k = s.flink k := rfl
@[simp] theorem State.setCtx_get_dom (k : Nat) : (s.setCtx c v).dom k = s.dom k := rfl
@[simp] theorem State.setCtx_get_bucket (k : Nat) : (s.setCtx c v).bucket k = s.bucket k := rfl
@[simp] theorem State.setCtx_get_intr (k : Nat) : (s.setCtx c v).intr k = s.intr k := rfl
@[simp] theorem State.setCtx_get_flagBlock (k : Nat) : (s.setCtx c v).flagBlock k = s.flagBlock k := rfl
end setCtx
@[simp] theorem State.ctx_setCtx (s : State) (c : Nat) (v : Ctx) : (s.setCtx c v).ctx c = v := Tbl.get_put_same _ _ _ _
theorem State.ctx_setCtx_ne (s : State) (c : Nat) (v : Ctx) {j : Nat} (h : j ≠ c) : (s.setCtx c v).ctx j = s.ctx j := Tbl.get_put_ne _ _ _ _ h

section setQueue
variable (s : State) (q : Nat) (v : Queue)
@[simp] theorem State.setQueue_time : (s.setQueue q v).time = s.time := rfl
@[simp] theorem State.setQueue_phase : (s.setQueue q v).phase = s.phase := rfl
@[simp] theorem State.setQueue_valid : (s.setQueue q v).valid = s.valid := rfl
@[simp] theorem State.setQueue_fw : (s.setQueue q v).fw = s.fw := rfl
@[simp] theorem State.setQueue_lay : (s.setQueue q v).lay = s.lay := rfl
@[simp] theorem State.setQueue_mem : (s.setQueue q v).mem = s.mem := rfl
@[simp] theorem State.setQueue_integ : (s.setQueue q v).integ = s.integ := rfl
@[simp] theorem State.setQueue_chans : (s.setQueue q v).chans = s.chans := rfl
@[simp] theorem State.setQueue_pairs : (s.setQueue q v).pairs = s.pairs := rfl
@[simp] theorem State.setQueue_fronds : (s.setQueue q v).fronds = s.fronds := rfl
@[simp] theorem State.setQueue_flinks : (s.setQueue q v).flinks = s.flinks := rfl
@[simp] theorem State.setQueue_oldLinks : (s.setQueue q v).oldLinks = s.oldLinks := rfl
@[simp] theorem State.setQueue_routeNew : (s.setQueue q v).routeNew = s.routeNew := rfl
@[simp] theorem State.setQueue_fabricHeld : (s.setQueue q v).fabricHeld = s.fabricHeld := rfl
@[simp] theorem State.setQueue_stopped : (s.setQueue q v).stopped = s.stopped := rfl
@[simp] theorem State.setQueue_cores : (s.setQueue q v).cores = s.cores := rfl
@[simp] theorem State.setQueue_engines : (s.setQueue q v).engines = s.engines := rfl
@[simp] theorem State.setQueue_ctxs : (s.setQueue q v).ctxs = s.ctxs := rfl
@[simp] theorem State.setQueue_sched : (s.setQueue q v).sched = s.sched := rfl
@[simp] theorem State.setQueue_recs : (s.setQueue q v).recs = s.recs := rfl
@[simp] theorem State.setQueue_streams : (s.setQueue q v).streams = s.streams := rfl
@[simp] theorem State.setQueue_flags : (s.setQueue q v).flags = s.flags := rfl
@[simp] theorem State.setQueue_mirrors : (s.setQueue q v).mirrors = s.mirrors := rfl
@[simp] theorem State.setQueue_bars : (s.setQueue q v).bars = s.bars := rfl
@[simp] theorem State.setQueue_own : (s.setQueue q v).own = s.own := rfl
@[simp] theorem State.setQueue_mboxes : (s.setQueue q v).mboxes = s.mboxes := rfl
@[simp] theorem State.setQueue_ports : (s.setQueue q v).ports = s.ports := rfl
@[simp] theorem State.setQueue_intrs : (s.setQueue q v).intrs = s.intrs := rfl
@[simp] theorem State.setQueue_evlog : (s.setQueue q v).evlog = s.evlog := rfl
@[simp] theorem State.setQueue_hcores : (s.setQueue q v).hcores = s.hcores := rfl
@[simp] theorem State.setQueue_lines : (s.setQueue q v).lines = s.lines := rfl
@[simp] theorem State.setQueue_power : (s.setQueue q v).power = s.power := rfl
@[simp] theorem State.setQueue_therm : (s.setQueue q v).therm = s.therm := rfl
@[simp] theorem State.setQueue_delays : (s.setQueue q v).delays = s.delays := rfl
@[simp] theorem State.setQueue_shut : (s.setQueue q v).shut = s.shut := rfl
@[simp] theorem State.setQueue_pack : (s.setQueue q v).pack = s.pack := rfl
@[simp] theorem State.setQueue_rports : (s.setQueue q v).rports = s.rports := rfl
@[simp] theorem State.setQueue_group : (s.setQueue q v).group = s.group := rfl
@[simp] theorem State.setQueue_side : (s.setQueue q v).side = s.side := rfl
@[simp] theorem State.setQueue_jtag : (s.setQueue q v).jtag = s.jtag := rfl
@[simp] theorem State.setQueue_booted : (s.setQueue q v).booted = s.booted := rfl
@[simp] theorem State.setQueue_resetBusy : (s.setQueue q v).resetBusy = s.resetBusy := rfl
@[simp] theorem State.setQueue_resetBy : (s.setQueue q v).resetBy = s.resetBy := rfl
@[simp] theorem State.setQueue_voltLogAt : (s.setQueue q v).voltLogAt = s.voltLogAt := rfl
@[simp] theorem State.setQueue_lastAct : (s.setQueue q v).lastAct = s.lastAct := rfl
@[simp] theorem State.setQueue_dlReported : (s.setQueue q v).dlReported = s.dlReported := rfl
@[simp] theorem State.setQueue_out : (s.setQueue q v).out = s.out := rfl
@[simp] theorem State.setQueue_free : (s.setQueue q v).free = s.free := rfl
@[simp] theorem State.setQueue_pending : (s.setQueue q v).pending = s.pending := rfl
@[simp] theorem State.setQueue_get_port (k : Nat) : (s.setQueue q v).port k = s.port k := rfl
@[simp] theorem State.setQueue_get_ctx (k : Nat) : (s.setQueue q v).ctx k = s.ctx k := rfl
@[simp] theorem State.setQueue_get_stream (k : Nat) : (s.setQueue q v).stream k = s.stream k := rfl
@[simp] theorem State.setQueue_get_mbox (k : Nat) : (s.setQueue q v).mbox k = s.mbox k := rfl
@[simp] theorem State.setQueue_get_pair (k : Nat) : (s.setQueue q v).pair k = s.pair k := rfl
@[simp] theorem State.setQueue_get_chan (k : Nat) : (s.setQueue q v).chan k = s.chan k := rfl
@[simp] theorem State.setQueue_get_frond (k : Nat) : (s.setQueue q v).frond k = s.frond k := rfl
@[simp] theorem State.setQueue_get_core (k : Nat) : (s.setQueue q v).core k = s.core k := rfl
@[simp] theorem State.setQueue_get_engine (k : Nat) : (s.setQueue q v).engine k = s.engine k := rfl
@[simp] theorem State.setQueue_get_bar (k : Nat) : (s.setQueue q v).bar k = s.bar k := rfl
@[simp] theorem State.setQueue_get_hcore (k : Nat) : (s.setQueue q v).hcore k = s.hcore k := rfl
@[simp] theorem State.setQueue_get_rport (k : Nat) : (s.setQueue q v).rport k = s.rport k := rfl
@[simp] theorem State.setQueue_get_flink (k : Nat) : (s.setQueue q v).flink k = s.flink k := rfl
@[simp] theorem State.setQueue_get_dom (k : Nat) : (s.setQueue q v).dom k = s.dom k := rfl
@[simp] theorem State.setQueue_get_bucket (k : Nat) : (s.setQueue q v).bucket k = s.bucket k := rfl
@[simp] theorem State.setQueue_get_intr (k : Nat) : (s.setQueue q v).intr k = s.intr k := rfl
@[simp] theorem State.setQueue_get_flagBlock (k : Nat) : (s.setQueue q v).flagBlock k = s.flagBlock k := rfl
end setQueue
@[simp] theorem State.queue_setQueue (s : State) (q : Nat) (v : Queue) : (s.setQueue q v).queue q = v := Tbl.get_put_same _ _ _ _
theorem State.queue_setQueue_ne (s : State) (q : Nat) (v : Queue) {j : Nat} (h : j ≠ q) : (s.setQueue q v).queue j = s.queue j := Tbl.get_put_ne _ _ _ _ h

section setStream
variable (s : State) (i : Nat) (v : Stream)
@[simp] theorem State.setStream_time : (s.setStream i v).time = s.time := rfl
@[simp] theorem State.setStream_phase : (s.setStream i v).phase = s.phase := rfl
@[simp] theorem State.setStream_valid : (s.setStream i v).valid = s.valid := rfl
@[simp] theorem State.setStream_fw : (s.setStream i v).fw = s.fw := rfl
@[simp] theorem State.setStream_lay : (s.setStream i v).lay = s.lay := rfl
@[simp] theorem State.setStream_mem : (s.setStream i v).mem = s.mem := rfl
@[simp] theorem State.setStream_integ : (s.setStream i v).integ = s.integ := rfl
@[simp] theorem State.setStream_chans : (s.setStream i v).chans = s.chans := rfl
@[simp] theorem State.setStream_pairs : (s.setStream i v).pairs = s.pairs := rfl
@[simp] theorem State.setStream_fronds : (s.setStream i v).fronds = s.fronds := rfl
@[simp] theorem State.setStream_flinks : (s.setStream i v).flinks = s.flinks := rfl
@[simp] theorem State.setStream_oldLinks : (s.setStream i v).oldLinks = s.oldLinks := rfl
@[simp] theorem State.setStream_routeNew : (s.setStream i v).routeNew = s.routeNew := rfl
@[simp] theorem State.setStream_fabricHeld : (s.setStream i v).fabricHeld = s.fabricHeld := rfl
@[simp] theorem State.setStream_stopped : (s.setStream i v).stopped = s.stopped := rfl
@[simp] theorem State.setStream_cores : (s.setStream i v).cores = s.cores := rfl
@[simp] theorem State.setStream_engines : (s.setStream i v).engines = s.engines := rfl
@[simp] theorem State.setStream_ctxs : (s.setStream i v).ctxs = s.ctxs := rfl
@[simp] theorem State.setStream_queues : (s.setStream i v).queues = s.queues := rfl
@[simp] theorem State.setStream_sched : (s.setStream i v).sched = s.sched := rfl
@[simp] theorem State.setStream_recs : (s.setStream i v).recs = s.recs := rfl
@[simp] theorem State.setStream_flags : (s.setStream i v).flags = s.flags := rfl
@[simp] theorem State.setStream_mirrors : (s.setStream i v).mirrors = s.mirrors := rfl
@[simp] theorem State.setStream_bars : (s.setStream i v).bars = s.bars := rfl
@[simp] theorem State.setStream_own : (s.setStream i v).own = s.own := rfl
@[simp] theorem State.setStream_mboxes : (s.setStream i v).mboxes = s.mboxes := rfl
@[simp] theorem State.setStream_ports : (s.setStream i v).ports = s.ports := rfl
@[simp] theorem State.setStream_intrs : (s.setStream i v).intrs = s.intrs := rfl
@[simp] theorem State.setStream_evlog : (s.setStream i v).evlog = s.evlog := rfl
@[simp] theorem State.setStream_hcores : (s.setStream i v).hcores = s.hcores := rfl
@[simp] theorem State.setStream_lines : (s.setStream i v).lines = s.lines := rfl
@[simp] theorem State.setStream_power : (s.setStream i v).power = s.power := rfl
@[simp] theorem State.setStream_therm : (s.setStream i v).therm = s.therm := rfl
@[simp] theorem State.setStream_delays : (s.setStream i v).delays = s.delays := rfl
@[simp] theorem State.setStream_shut : (s.setStream i v).shut = s.shut := rfl
@[simp] theorem State.setStream_pack : (s.setStream i v).pack = s.pack := rfl
@[simp] theorem State.setStream_rports : (s.setStream i v).rports = s.rports := rfl
@[simp] theorem State.setStream_group : (s.setStream i v).group = s.group := rfl
@[simp] theorem State.setStream_side : (s.setStream i v).side = s.side := rfl
@[simp] theorem State.setStream_jtag : (s.setStream i v).jtag = s.jtag := rfl
@[simp] theorem State.setStream_booted : (s.setStream i v).booted = s.booted := rfl
@[simp] theorem State.setStream_resetBusy : (s.setStream i v).resetBusy = s.resetBusy := rfl
@[simp] theorem State.setStream_resetBy : (s.setStream i v).resetBy = s.resetBy := rfl
@[simp] theorem State.setStream_voltLogAt : (s.setStream i v).voltLogAt = s.voltLogAt := rfl
@[simp] theorem State.setStream_lastAct : (s.setStream i v).lastAct = s.lastAct := rfl
@[simp] theorem State.setStream_dlReported : (s.setStream i v).dlReported = s.dlReported := rfl
@[simp] theorem State.setStream_out : (s.setStream i v).out = s.out := rfl
@[simp] theorem State.setStream_free : (s.setStream i v).free = s.free := rfl
@[simp] theorem State.setStream_pending : (s.setStream i v).pending = s.pending := rfl
@[simp] theorem State.setStream_get_port (k : Nat) : (s.setStream i v).port k = s.port k := rfl
@[simp] theorem State.setStream_get_ctx (k : Nat) : (s.setStream i v).ctx k = s.ctx k := rfl
@[simp] theorem State.setStream_get_queue (k : Nat) : (s.setStream i v).queue k = s.queue k := rfl
@[simp] theorem State.setStream_get_mbox (k : Nat) : (s.setStream i v).mbox k = s.mbox k := rfl
@[simp] theorem State.setStream_get_pair (k : Nat) : (s.setStream i v).pair k = s.pair k := rfl
@[simp] theorem State.setStream_get_chan (k : Nat) : (s.setStream i v).chan k = s.chan k := rfl
@[simp] theorem State.setStream_get_frond (k : Nat) : (s.setStream i v).frond k = s.frond k := rfl
@[simp] theorem State.setStream_get_core (k : Nat) : (s.setStream i v).core k = s.core k := rfl
@[simp] theorem State.setStream_get_engine (k : Nat) : (s.setStream i v).engine k = s.engine k := rfl
@[simp] theorem State.setStream_get_bar (k : Nat) : (s.setStream i v).bar k = s.bar k := rfl
@[simp] theorem State.setStream_get_hcore (k : Nat) : (s.setStream i v).hcore k = s.hcore k := rfl
@[simp] theorem State.setStream_get_rport (k : Nat) : (s.setStream i v).rport k = s.rport k := rfl
@[simp] theorem State.setStream_get_flink (k : Nat) : (s.setStream i v).flink k = s.flink k := rfl
@[simp] theorem State.setStream_get_dom (k : Nat) : (s.setStream i v).dom k = s.dom k := rfl
@[simp] theorem State.setStream_get_bucket (k : Nat) : (s.setStream i v).bucket k = s.bucket k := rfl
@[simp] theorem State.setStream_get_intr (k : Nat) : (s.setStream i v).intr k = s.intr k := rfl
@[simp] theorem State.setStream_get_flagBlock (k : Nat) : (s.setStream i v).flagBlock k = s.flagBlock k := rfl
end setStream
@[simp] theorem State.stream_setStream (s : State) (i : Nat) (v : Stream) : (s.setStream i v).stream i = v := Tbl.get_put_same _ _ _ _
theorem State.stream_setStream_ne (s : State) (i : Nat) (v : Stream) {j : Nat} (h : j ≠ i) : (s.setStream i v).stream j = s.stream j := Tbl.get_put_ne _ _ _ _ h

section setMbox
variable (s : State) (mb : Nat) (v : Mbox)
@[simp] theorem State.setMbox_time : (s.setMbox mb v).time = s.time := rfl
@[simp] theorem State.setMbox_phase : (s.setMbox mb v).phase = s.phase := rfl
@[simp] theorem State.setMbox_valid : (s.setMbox mb v).valid = s.valid := rfl
@[simp] theorem State.setMbox_fw : (s.setMbox mb v).fw = s.fw := rfl
@[simp] theorem State.setMbox_lay : (s.setMbox mb v).lay = s.lay := rfl
@[simp] theorem State.setMbox_mem : (s.setMbox mb v).mem = s.mem := rfl
@[simp] theorem State.setMbox_integ : (s.setMbox mb v).integ = s.integ := rfl
@[simp] theorem State.setMbox_chans : (s.setMbox mb v).chans = s.chans := rfl
@[simp] theorem State.setMbox_pairs : (s.setMbox mb v).pairs = s.pairs := rfl
@[simp] theorem State.setMbox_fronds : (s.setMbox mb v).fronds = s.fronds := rfl
@[simp] theorem State.setMbox_flinks : (s.setMbox mb v).flinks = s.flinks := rfl
@[simp] theorem State.setMbox_oldLinks : (s.setMbox mb v).oldLinks = s.oldLinks := rfl
@[simp] theorem State.setMbox_routeNew : (s.setMbox mb v).routeNew = s.routeNew := rfl
@[simp] theorem State.setMbox_fabricHeld : (s.setMbox mb v).fabricHeld = s.fabricHeld := rfl
@[simp] theorem State.setMbox_stopped : (s.setMbox mb v).stopped = s.stopped := rfl
@[simp] theorem State.setMbox_cores : (s.setMbox mb v).cores = s.cores := rfl
@[simp] theorem State.setMbox_engines : (s.setMbox mb v).engines = s.engines := rfl
@[simp] theorem State.setMbox_ctxs : (s.setMbox mb v).ctxs = s.ctxs := rfl
@[simp] theorem State.setMbox_queues : (s.setMbox mb v).queues = s.queues := rfl
@[simp] theorem State.setMbox_sched : (s.setMbox mb v).sched = s.sched := rfl
@[simp] theorem State.setMbox_recs : (s.setMbox mb v).recs = s.recs := rfl
@[simp] theorem State.setMbox_streams : (s.setMbox mb v).streams = s.streams := rfl
@[simp] theorem State.setMbox_flags : (s.setMbox mb v).flags = s.flags := rfl
@[simp] theorem State.setMbox_mirrors : (s.setMbox mb v).mirrors = s.mirrors := rfl
@[simp] theorem State.setMbox_bars : (s.setMbox mb v).bars = s.bars := rfl
@[simp] theorem State.setMbox_own : (s.setMbox mb v).own = s.own := rfl
@[simp] theorem State.setMbox_ports : (s.setMbox mb v).ports = s.ports := rfl
@[simp] theorem State.setMbox_intrs : (s.setMbox mb v).intrs = s.intrs := rfl
@[simp] theorem State.setMbox_evlog : (s.setMbox mb v).evlog = s.evlog := rfl
@[simp] theorem State.setMbox_hcores : (s.setMbox mb v).hcores = s.hcores := rfl
@[simp] theorem State.setMbox_lines : (s.setMbox mb v).lines = s.lines := rfl
@[simp] theorem State.setMbox_power : (s.setMbox mb v).power = s.power := rfl
@[simp] theorem State.setMbox_therm : (s.setMbox mb v).therm = s.therm := rfl
@[simp] theorem State.setMbox_delays : (s.setMbox mb v).delays = s.delays := rfl
@[simp] theorem State.setMbox_shut : (s.setMbox mb v).shut = s.shut := rfl
@[simp] theorem State.setMbox_pack : (s.setMbox mb v).pack = s.pack := rfl
@[simp] theorem State.setMbox_rports : (s.setMbox mb v).rports = s.rports := rfl
@[simp] theorem State.setMbox_group : (s.setMbox mb v).group = s.group := rfl
@[simp] theorem State.setMbox_side : (s.setMbox mb v).side = s.side := rfl
@[simp] theorem State.setMbox_jtag : (s.setMbox mb v).jtag = s.jtag := rfl
@[simp] theorem State.setMbox_booted : (s.setMbox mb v).booted = s.booted := rfl
@[simp] theorem State.setMbox_resetBusy : (s.setMbox mb v).resetBusy = s.resetBusy := rfl
@[simp] theorem State.setMbox_resetBy : (s.setMbox mb v).resetBy = s.resetBy := rfl
@[simp] theorem State.setMbox_voltLogAt : (s.setMbox mb v).voltLogAt = s.voltLogAt := rfl
@[simp] theorem State.setMbox_lastAct : (s.setMbox mb v).lastAct = s.lastAct := rfl
@[simp] theorem State.setMbox_dlReported : (s.setMbox mb v).dlReported = s.dlReported := rfl
@[simp] theorem State.setMbox_out : (s.setMbox mb v).out = s.out := rfl
@[simp] theorem State.setMbox_free : (s.setMbox mb v).free = s.free := rfl
@[simp] theorem State.setMbox_pending : (s.setMbox mb v).pending = s.pending := rfl
@[simp] theorem State.setMbox_get_port (k : Nat) : (s.setMbox mb v).port k = s.port k := rfl
@[simp] theorem State.setMbox_get_ctx (k : Nat) : (s.setMbox mb v).ctx k = s.ctx k := rfl
@[simp] theorem State.setMbox_get_queue (k : Nat) : (s.setMbox mb v).queue k = s.queue k := rfl
@[simp] theorem State.setMbox_get_stream (k : Nat) : (s.setMbox mb v).stream k = s.stream k := rfl
@[simp] theorem State.setMbox_get_pair (k : Nat) : (s.setMbox mb v).pair k = s.pair k := rfl
@[simp] theorem State.setMbox_get_chan (k : Nat) : (s.setMbox mb v).chan k = s.chan k := rfl
@[simp] theorem State.setMbox_get_frond (k : Nat) : (s.setMbox mb v).frond k = s.frond k := rfl
@[simp] theorem State.setMbox_get_core (k : Nat) : (s.setMbox mb v).core k = s.core k := rfl
@[simp] theorem State.setMbox_get_engine (k : Nat) : (s.setMbox mb v).engine k = s.engine k := rfl
@[simp] theorem State.setMbox_get_bar (k : Nat) : (s.setMbox mb v).bar k = s.bar k := rfl
@[simp] theorem State.setMbox_get_hcore (k : Nat) : (s.setMbox mb v).hcore k = s.hcore k := rfl
@[simp] theorem State.setMbox_get_rport (k : Nat) : (s.setMbox mb v).rport k = s.rport k := rfl
@[simp] theorem State.setMbox_get_flink (k : Nat) : (s.setMbox mb v).flink k = s.flink k := rfl
@[simp] theorem State.setMbox_get_dom (k : Nat) : (s.setMbox mb v).dom k = s.dom k := rfl
@[simp] theorem State.setMbox_get_bucket (k : Nat) : (s.setMbox mb v).bucket k = s.bucket k := rfl
@[simp] theorem State.setMbox_get_intr (k : Nat) : (s.setMbox mb v).intr k = s.intr k := rfl
@[simp] theorem State.setMbox_get_flagBlock (k : Nat) : (s.setMbox mb v).flagBlock k = s.flagBlock k := rfl
end setMbox
@[simp] theorem State.mbox_setMbox (s : State) (mb : Nat) (v : Mbox) : (s.setMbox mb v).mbox mb = v := Tbl.get_put_same _ _ _ _
theorem State.mbox_setMbox_ne (s : State) (mb : Nat) (v : Mbox) {j : Nat} (h : j ≠ mb) : (s.setMbox mb v).mbox j = s.mbox j := Tbl.get_put_ne _ _ _ _ h

section setPair
variable (s : State) (su : Nat) (v : Pair)
@[simp] theorem State.setPair_time : (s.setPair su v).time = s.time := rfl
@[simp] theorem State.setPair_phase : (s.setPair su v).phase = s.phase := rfl
@[simp] theorem State.setPair_valid : (s.setPair su v).valid = s.valid := rfl
@[simp] theorem State.setPair_fw : (s.setPair su v).fw = s.fw := rfl
@[simp] theorem State.setPair_lay : (s.setPair su v).lay = s.lay := rfl
@[simp] theorem State.setPair_mem : (s.setPair su v).mem = s.mem := rfl
@[simp] theorem State.setPair_integ : (s.setPair su v).integ = s.integ := rfl
@[simp] theorem State.setPair_chans : (s.setPair su v).chans = s.chans := rfl
@[simp] theorem State.setPair_fronds : (s.setPair su v).fronds = s.fronds := rfl
@[simp] theorem State.setPair_flinks : (s.setPair su v).flinks = s.flinks := rfl
@[simp] theorem State.setPair_oldLinks : (s.setPair su v).oldLinks = s.oldLinks := rfl
@[simp] theorem State.setPair_routeNew : (s.setPair su v).routeNew = s.routeNew := rfl
@[simp] theorem State.setPair_fabricHeld : (s.setPair su v).fabricHeld = s.fabricHeld := rfl
@[simp] theorem State.setPair_stopped : (s.setPair su v).stopped = s.stopped := rfl
@[simp] theorem State.setPair_cores : (s.setPair su v).cores = s.cores := rfl
@[simp] theorem State.setPair_engines : (s.setPair su v).engines = s.engines := rfl
@[simp] theorem State.setPair_ctxs : (s.setPair su v).ctxs = s.ctxs := rfl
@[simp] theorem State.setPair_queues : (s.setPair su v).queues = s.queues := rfl
@[simp] theorem State.setPair_sched : (s.setPair su v).sched = s.sched := rfl
@[simp] theorem State.setPair_recs : (s.setPair su v).recs = s.recs := rfl
@[simp] theorem State.setPair_streams : (s.setPair su v).streams = s.streams := rfl
@[simp] theorem State.setPair_flags : (s.setPair su v).flags = s.flags := rfl
@[simp] theorem State.setPair_mirrors : (s.setPair su v).mirrors = s.mirrors := rfl
@[simp] theorem State.setPair_bars : (s.setPair su v).bars = s.bars := rfl
@[simp] theorem State.setPair_own : (s.setPair su v).own = s.own := rfl
@[simp] theorem State.setPair_mboxes : (s.setPair su v).mboxes = s.mboxes := rfl
@[simp] theorem State.setPair_ports : (s.setPair su v).ports = s.ports := rfl
@[simp] theorem State.setPair_intrs : (s.setPair su v).intrs = s.intrs := rfl
@[simp] theorem State.setPair_evlog : (s.setPair su v).evlog = s.evlog := rfl
@[simp] theorem State.setPair_hcores : (s.setPair su v).hcores = s.hcores := rfl
@[simp] theorem State.setPair_lines : (s.setPair su v).lines = s.lines := rfl
@[simp] theorem State.setPair_power : (s.setPair su v).power = s.power := rfl
@[simp] theorem State.setPair_therm : (s.setPair su v).therm = s.therm := rfl
@[simp] theorem State.setPair_delays : (s.setPair su v).delays = s.delays := rfl
@[simp] theorem State.setPair_shut : (s.setPair su v).shut = s.shut := rfl
@[simp] theorem State.setPair_pack : (s.setPair su v).pack = s.pack := rfl
@[simp] theorem State.setPair_rports : (s.setPair su v).rports = s.rports := rfl
@[simp] theorem State.setPair_group : (s.setPair su v).group = s.group := rfl
@[simp] theorem State.setPair_side : (s.setPair su v).side = s.side := rfl
@[simp] theorem State.setPair_jtag : (s.setPair su v).jtag = s.jtag := rfl
@[simp] theorem State.setPair_booted : (s.setPair su v).booted = s.booted := rfl
@[simp] theorem State.setPair_resetBusy : (s.setPair su v).resetBusy = s.resetBusy := rfl
@[simp] theorem State.setPair_resetBy : (s.setPair su v).resetBy = s.resetBy := rfl
@[simp] theorem State.setPair_voltLogAt : (s.setPair su v).voltLogAt = s.voltLogAt := rfl
@[simp] theorem State.setPair_lastAct : (s.setPair su v).lastAct = s.lastAct := rfl
@[simp] theorem State.setPair_dlReported : (s.setPair su v).dlReported = s.dlReported := rfl
@[simp] theorem State.setPair_out : (s.setPair su v).out = s.out := rfl
@[simp] theorem State.setPair_free : (s.setPair su v).free = s.free := rfl
@[simp] theorem State.setPair_pending : (s.setPair su v).pending = s.pending := rfl
@[simp] theorem State.setPair_get_port (k : Nat) : (s.setPair su v).port k = s.port k := rfl
@[simp] theorem State.setPair_get_ctx (k : Nat) : (s.setPair su v).ctx k = s.ctx k := rfl
@[simp] theorem State.setPair_get_queue (k : Nat) : (s.setPair su v).queue k = s.queue k := rfl
@[simp] theorem State.setPair_get_stream (k : Nat) : (s.setPair su v).stream k = s.stream k := rfl
@[simp] theorem State.setPair_get_mbox (k : Nat) : (s.setPair su v).mbox k = s.mbox k := rfl
@[simp] theorem State.setPair_get_chan (k : Nat) : (s.setPair su v).chan k = s.chan k := rfl
@[simp] theorem State.setPair_get_frond (k : Nat) : (s.setPair su v).frond k = s.frond k := rfl
@[simp] theorem State.setPair_get_core (k : Nat) : (s.setPair su v).core k = s.core k := rfl
@[simp] theorem State.setPair_get_engine (k : Nat) : (s.setPair su v).engine k = s.engine k := rfl
@[simp] theorem State.setPair_get_bar (k : Nat) : (s.setPair su v).bar k = s.bar k := rfl
@[simp] theorem State.setPair_get_hcore (k : Nat) : (s.setPair su v).hcore k = s.hcore k := rfl
@[simp] theorem State.setPair_get_rport (k : Nat) : (s.setPair su v).rport k = s.rport k := rfl
@[simp] theorem State.setPair_get_flink (k : Nat) : (s.setPair su v).flink k = s.flink k := rfl
@[simp] theorem State.setPair_get_dom (k : Nat) : (s.setPair su v).dom k = s.dom k := rfl
@[simp] theorem State.setPair_get_bucket (k : Nat) : (s.setPair su v).bucket k = s.bucket k := rfl
@[simp] theorem State.setPair_get_intr (k : Nat) : (s.setPair su v).intr k = s.intr k := rfl
@[simp] theorem State.setPair_get_flagBlock (k : Nat) : (s.setPair su v).flagBlock k = s.flagBlock k := rfl
end setPair
@[simp] theorem State.pair_setPair (s : State) (su : Nat) (v : Pair) : (s.setPair su v).pair su = v := Tbl.get_put_same _ _ _ _
theorem State.pair_setPair_ne (s : State) (su : Nat) (v : Pair) {j : Nat} (h : j ≠ su) : (s.setPair su v).pair j = s.pair j := Tbl.get_put_ne _ _ _ _ h

section setChan
variable (s : State) (c : Nat) (v : Chan)
@[simp] theorem State.setChan_time : (s.setChan c v).time = s.time := rfl
@[simp] theorem State.setChan_phase : (s.setChan c v).phase = s.phase := rfl
@[simp] theorem State.setChan_valid : (s.setChan c v).valid = s.valid := rfl
@[simp] theorem State.setChan_fw : (s.setChan c v).fw = s.fw := rfl
@[simp] theorem State.setChan_lay : (s.setChan c v).lay = s.lay := rfl
@[simp] theorem State.setChan_mem : (s.setChan c v).mem = s.mem := rfl
@[simp] theorem State.setChan_integ : (s.setChan c v).integ = s.integ := rfl
@[simp] theorem State.setChan_pairs : (s.setChan c v).pairs = s.pairs := rfl
@[simp] theorem State.setChan_fronds : (s.setChan c v).fronds = s.fronds := rfl
@[simp] theorem State.setChan_flinks : (s.setChan c v).flinks = s.flinks := rfl
@[simp] theorem State.setChan_oldLinks : (s.setChan c v).oldLinks = s.oldLinks := rfl
@[simp] theorem State.setChan_routeNew : (s.setChan c v).routeNew = s.routeNew := rfl
@[simp] theorem State.setChan_fabricHeld : (s.setChan c v).fabricHeld = s.fabricHeld := rfl
@[simp] theorem State.setChan_stopped : (s.setChan c v).stopped = s.stopped := rfl
@[simp] theorem State.setChan_cores : (s.setChan c v).cores = s.cores := rfl
@[simp] theorem State.setChan_engines : (s.setChan c v).engines = s.engines := rfl
@[simp] theorem State.setChan_ctxs : (s.setChan c v).ctxs = s.ctxs := rfl
@[simp] theorem State.setChan_queues : (s.setChan c v).queues = s.queues := rfl
@[simp] theorem State.setChan_sched : (s.setChan c v).sched = s.sched := rfl
@[simp] theorem State.setChan_recs : (s.setChan c v).recs = s.recs := rfl
@[simp] theorem State.setChan_streams : (s.setChan c v).streams = s.streams := rfl
@[simp] theorem State.setChan_flags : (s.setChan c v).flags = s.flags := rfl
@[simp] theorem State.setChan_mirrors : (s.setChan c v).mirrors = s.mirrors := rfl
@[simp] theorem State.setChan_bars : (s.setChan c v).bars = s.bars := rfl
@[simp] theorem State.setChan_own : (s.setChan c v).own = s.own := rfl
@[simp] theorem State.setChan_mboxes : (s.setChan c v).mboxes = s.mboxes := rfl
@[simp] theorem State.setChan_ports : (s.setChan c v).ports = s.ports := rfl
@[simp] theorem State.setChan_intrs : (s.setChan c v).intrs = s.intrs := rfl
@[simp] theorem State.setChan_evlog : (s.setChan c v).evlog = s.evlog := rfl
@[simp] theorem State.setChan_hcores : (s.setChan c v).hcores = s.hcores := rfl
@[simp] theorem State.setChan_lines : (s.setChan c v).lines = s.lines := rfl
@[simp] theorem State.setChan_power : (s.setChan c v).power = s.power := rfl
@[simp] theorem State.setChan_therm : (s.setChan c v).therm = s.therm := rfl
@[simp] theorem State.setChan_delays : (s.setChan c v).delays = s.delays := rfl
@[simp] theorem State.setChan_shut : (s.setChan c v).shut = s.shut := rfl
@[simp] theorem State.setChan_pack : (s.setChan c v).pack = s.pack := rfl
@[simp] theorem State.setChan_rports : (s.setChan c v).rports = s.rports := rfl
@[simp] theorem State.setChan_group : (s.setChan c v).group = s.group := rfl
@[simp] theorem State.setChan_side : (s.setChan c v).side = s.side := rfl
@[simp] theorem State.setChan_jtag : (s.setChan c v).jtag = s.jtag := rfl
@[simp] theorem State.setChan_booted : (s.setChan c v).booted = s.booted := rfl
@[simp] theorem State.setChan_resetBusy : (s.setChan c v).resetBusy = s.resetBusy := rfl
@[simp] theorem State.setChan_resetBy : (s.setChan c v).resetBy = s.resetBy := rfl
@[simp] theorem State.setChan_voltLogAt : (s.setChan c v).voltLogAt = s.voltLogAt := rfl
@[simp] theorem State.setChan_lastAct : (s.setChan c v).lastAct = s.lastAct := rfl
@[simp] theorem State.setChan_dlReported : (s.setChan c v).dlReported = s.dlReported := rfl
@[simp] theorem State.setChan_out : (s.setChan c v).out = s.out := rfl
@[simp] theorem State.setChan_free : (s.setChan c v).free = s.free := rfl
@[simp] theorem State.setChan_pending : (s.setChan c v).pending = s.pending := rfl
@[simp] theorem State.setChan_get_port (k : Nat) : (s.setChan c v).port k = s.port k := rfl
@[simp] theorem State.setChan_get_ctx (k : Nat) : (s.setChan c v).ctx k = s.ctx k := rfl
@[simp] theorem State.setChan_get_queue (k : Nat) : (s.setChan c v).queue k = s.queue k := rfl
@[simp] theorem State.setChan_get_stream (k : Nat) : (s.setChan c v).stream k = s.stream k := rfl
@[simp] theorem State.setChan_get_mbox (k : Nat) : (s.setChan c v).mbox k = s.mbox k := rfl
@[simp] theorem State.setChan_get_pair (k : Nat) : (s.setChan c v).pair k = s.pair k := rfl
@[simp] theorem State.setChan_get_frond (k : Nat) : (s.setChan c v).frond k = s.frond k := rfl
@[simp] theorem State.setChan_get_core (k : Nat) : (s.setChan c v).core k = s.core k := rfl
@[simp] theorem State.setChan_get_engine (k : Nat) : (s.setChan c v).engine k = s.engine k := rfl
@[simp] theorem State.setChan_get_bar (k : Nat) : (s.setChan c v).bar k = s.bar k := rfl
@[simp] theorem State.setChan_get_hcore (k : Nat) : (s.setChan c v).hcore k = s.hcore k := rfl
@[simp] theorem State.setChan_get_rport (k : Nat) : (s.setChan c v).rport k = s.rport k := rfl
@[simp] theorem State.setChan_get_flink (k : Nat) : (s.setChan c v).flink k = s.flink k := rfl
@[simp] theorem State.setChan_get_dom (k : Nat) : (s.setChan c v).dom k = s.dom k := rfl
@[simp] theorem State.setChan_get_bucket (k : Nat) : (s.setChan c v).bucket k = s.bucket k := rfl
@[simp] theorem State.setChan_get_intr (k : Nat) : (s.setChan c v).intr k = s.intr k := rfl
@[simp] theorem State.setChan_get_flagBlock (k : Nat) : (s.setChan c v).flagBlock k = s.flagBlock k := rfl
end setChan
@[simp] theorem State.chan_setChan (s : State) (c : Nat) (v : Chan) : (s.setChan c v).chan c = v := Tbl.get_put_same _ _ _ _
theorem State.chan_setChan_ne (s : State) (c : Nat) (v : Chan) {j : Nat} (h : j ≠ c) : (s.setChan c v).chan j = s.chan j := Tbl.get_put_ne _ _ _ _ h

section setFrond
variable (s : State) (f : Nat) (v : Frond)
@[simp] theorem State.setFrond_time : (s.setFrond f v).time = s.time := rfl
@[simp] theorem State.setFrond_phase : (s.setFrond f v).phase = s.phase := rfl
@[simp] theorem State.setFrond_valid : (s.setFrond f v).valid = s.valid := rfl
@[simp] theorem State.setFrond_fw : (s.setFrond f v).fw = s.fw := rfl
@[simp] theorem State.setFrond_lay : (s.setFrond f v).lay = s.lay := rfl
@[simp] theorem State.setFrond_mem : (s.setFrond f v).mem = s.mem := rfl
@[simp] theorem State.setFrond_integ : (s.setFrond f v).integ = s.integ := rfl
@[simp] theorem State.setFrond_chans : (s.setFrond f v).chans = s.chans := rfl
@[simp] theorem State.setFrond_pairs : (s.setFrond f v).pairs = s.pairs := rfl
@[simp] theorem State.setFrond_flinks : (s.setFrond f v).flinks = s.flinks := rfl
@[simp] theorem State.setFrond_oldLinks : (s.setFrond f v).oldLinks = s.oldLinks := rfl
@[simp] theorem State.setFrond_routeNew : (s.setFrond f v).routeNew = s.routeNew := rfl
@[simp] theorem State.setFrond_fabricHeld : (s.setFrond f v).fabricHeld = s.fabricHeld := rfl
@[simp] theorem State.setFrond_stopped : (s.setFrond f v).stopped = s.stopped := rfl
@[simp] theorem State.setFrond_cores : (s.setFrond f v).cores = s.cores := rfl
@[simp] theorem State.setFrond_engines : (s.setFrond f v).engines = s.engines := rfl
@[simp] theorem State.setFrond_ctxs : (s.setFrond f v).ctxs = s.ctxs := rfl
@[simp] theorem State.setFrond_queues : (s.setFrond f v).queues = s.queues := rfl
@[simp] theorem State.setFrond_sched : (s.setFrond f v).sched = s.sched := rfl
@[simp] theorem State.setFrond_recs : (s.setFrond f v).recs = s.recs := rfl
@[simp] theorem State.setFrond_streams : (s.setFrond f v).streams = s.streams := rfl
@[simp] theorem State.setFrond_flags : (s.setFrond f v).flags = s.flags := rfl
@[simp] theorem State.setFrond_mirrors : (s.setFrond f v).mirrors = s.mirrors := rfl
@[simp] theorem State.setFrond_bars : (s.setFrond f v).bars = s.bars := rfl
@[simp] theorem State.setFrond_own : (s.setFrond f v).own = s.own := rfl
@[simp] theorem State.setFrond_mboxes : (s.setFrond f v).mboxes = s.mboxes := rfl
@[simp] theorem State.setFrond_ports : (s.setFrond f v).ports = s.ports := rfl
@[simp] theorem State.setFrond_intrs : (s.setFrond f v).intrs = s.intrs := rfl
@[simp] theorem State.setFrond_evlog : (s.setFrond f v).evlog = s.evlog := rfl
@[simp] theorem State.setFrond_hcores : (s.setFrond f v).hcores = s.hcores := rfl
@[simp] theorem State.setFrond_lines : (s.setFrond f v).lines = s.lines := rfl
@[simp] theorem State.setFrond_power : (s.setFrond f v).power = s.power := rfl
@[simp] theorem State.setFrond_therm : (s.setFrond f v).therm = s.therm := rfl
@[simp] theorem State.setFrond_delays : (s.setFrond f v).delays = s.delays := rfl
@[simp] theorem State.setFrond_shut : (s.setFrond f v).shut = s.shut := rfl
@[simp] theorem State.setFrond_pack : (s.setFrond f v).pack = s.pack := rfl
@[simp] theorem State.setFrond_rports : (s.setFrond f v).rports = s.rports := rfl
@[simp] theorem State.setFrond_group : (s.setFrond f v).group = s.group := rfl
@[simp] theorem State.setFrond_side : (s.setFrond f v).side = s.side := rfl
@[simp] theorem State.setFrond_jtag : (s.setFrond f v).jtag = s.jtag := rfl
@[simp] theorem State.setFrond_booted : (s.setFrond f v).booted = s.booted := rfl
@[simp] theorem State.setFrond_resetBusy : (s.setFrond f v).resetBusy = s.resetBusy := rfl
@[simp] theorem State.setFrond_resetBy : (s.setFrond f v).resetBy = s.resetBy := rfl
@[simp] theorem State.setFrond_voltLogAt : (s.setFrond f v).voltLogAt = s.voltLogAt := rfl
@[simp] theorem State.setFrond_lastAct : (s.setFrond f v).lastAct = s.lastAct := rfl
@[simp] theorem State.setFrond_dlReported : (s.setFrond f v).dlReported = s.dlReported := rfl
@[simp] theorem State.setFrond_out : (s.setFrond f v).out = s.out := rfl
@[simp] theorem State.setFrond_free : (s.setFrond f v).free = s.free := rfl
@[simp] theorem State.setFrond_pending : (s.setFrond f v).pending = s.pending := rfl
@[simp] theorem State.setFrond_get_port (k : Nat) : (s.setFrond f v).port k = s.port k := rfl
@[simp] theorem State.setFrond_get_ctx (k : Nat) : (s.setFrond f v).ctx k = s.ctx k := rfl
@[simp] theorem State.setFrond_get_queue (k : Nat) : (s.setFrond f v).queue k = s.queue k := rfl
@[simp] theorem State.setFrond_get_stream (k : Nat) : (s.setFrond f v).stream k = s.stream k := rfl
@[simp] theorem State.setFrond_get_mbox (k : Nat) : (s.setFrond f v).mbox k = s.mbox k := rfl
@[simp] theorem State.setFrond_get_pair (k : Nat) : (s.setFrond f v).pair k = s.pair k := rfl
@[simp] theorem State.setFrond_get_chan (k : Nat) : (s.setFrond f v).chan k = s.chan k := rfl
@[simp] theorem State.setFrond_get_core (k : Nat) : (s.setFrond f v).core k = s.core k := rfl
@[simp] theorem State.setFrond_get_engine (k : Nat) : (s.setFrond f v).engine k = s.engine k := rfl
@[simp] theorem State.setFrond_get_bar (k : Nat) : (s.setFrond f v).bar k = s.bar k := rfl
@[simp] theorem State.setFrond_get_hcore (k : Nat) : (s.setFrond f v).hcore k = s.hcore k := rfl
@[simp] theorem State.setFrond_get_rport (k : Nat) : (s.setFrond f v).rport k = s.rport k := rfl
@[simp] theorem State.setFrond_get_flink (k : Nat) : (s.setFrond f v).flink k = s.flink k := rfl
@[simp] theorem State.setFrond_get_dom (k : Nat) : (s.setFrond f v).dom k = s.dom k := rfl
@[simp] theorem State.setFrond_get_bucket (k : Nat) : (s.setFrond f v).bucket k = s.bucket k := rfl
@[simp] theorem State.setFrond_get_intr (k : Nat) : (s.setFrond f v).intr k = s.intr k := rfl
@[simp] theorem State.setFrond_get_flagBlock (k : Nat) : (s.setFrond f v).flagBlock k = s.flagBlock k := rfl
end setFrond
@[simp] theorem State.frond_setFrond (s : State) (f : Nat) (v : Frond) : (s.setFrond f v).frond f = v := Tbl.get_put_same _ _ _ _
theorem State.frond_setFrond_ne (s : State) (f : Nat) (v : Frond) {j : Nat} (h : j ≠ f) : (s.setFrond f v).frond j = s.frond j := Tbl.get_put_ne _ _ _ _ h

section setCore
variable (s : State) (c : Nat) (v : Core)
@[simp] theorem State.setCore_time : (s.setCore c v).time = s.time := rfl
@[simp] theorem State.setCore_phase : (s.setCore c v).phase = s.phase := rfl
@[simp] theorem State.setCore_valid : (s.setCore c v).valid = s.valid := rfl
@[simp] theorem State.setCore_fw : (s.setCore c v).fw = s.fw := rfl
@[simp] theorem State.setCore_lay : (s.setCore c v).lay = s.lay := rfl
@[simp] theorem State.setCore_mem : (s.setCore c v).mem = s.mem := rfl
@[simp] theorem State.setCore_integ : (s.setCore c v).integ = s.integ := rfl
@[simp] theorem State.setCore_chans : (s.setCore c v).chans = s.chans := rfl
@[simp] theorem State.setCore_pairs : (s.setCore c v).pairs = s.pairs := rfl
@[simp] theorem State.setCore_fronds : (s.setCore c v).fronds = s.fronds := rfl
@[simp] theorem State.setCore_flinks : (s.setCore c v).flinks = s.flinks := rfl
@[simp] theorem State.setCore_oldLinks : (s.setCore c v).oldLinks = s.oldLinks := rfl
@[simp] theorem State.setCore_routeNew : (s.setCore c v).routeNew = s.routeNew := rfl
@[simp] theorem State.setCore_fabricHeld : (s.setCore c v).fabricHeld = s.fabricHeld := rfl
@[simp] theorem State.setCore_stopped : (s.setCore c v).stopped = s.stopped := rfl
@[simp] theorem State.setCore_engines : (s.setCore c v).engines = s.engines := rfl
@[simp] theorem State.setCore_ctxs : (s.setCore c v).ctxs = s.ctxs := rfl
@[simp] theorem State.setCore_queues : (s.setCore c v).queues = s.queues := rfl
@[simp] theorem State.setCore_sched : (s.setCore c v).sched = s.sched := rfl
@[simp] theorem State.setCore_recs : (s.setCore c v).recs = s.recs := rfl
@[simp] theorem State.setCore_streams : (s.setCore c v).streams = s.streams := rfl
@[simp] theorem State.setCore_flags : (s.setCore c v).flags = s.flags := rfl
@[simp] theorem State.setCore_mirrors : (s.setCore c v).mirrors = s.mirrors := rfl
@[simp] theorem State.setCore_bars : (s.setCore c v).bars = s.bars := rfl
@[simp] theorem State.setCore_own : (s.setCore c v).own = s.own := rfl
@[simp] theorem State.setCore_mboxes : (s.setCore c v).mboxes = s.mboxes := rfl
@[simp] theorem State.setCore_ports : (s.setCore c v).ports = s.ports := rfl
@[simp] theorem State.setCore_intrs : (s.setCore c v).intrs = s.intrs := rfl
@[simp] theorem State.setCore_evlog : (s.setCore c v).evlog = s.evlog := rfl
@[simp] theorem State.setCore_hcores : (s.setCore c v).hcores = s.hcores := rfl
@[simp] theorem State.setCore_lines : (s.setCore c v).lines = s.lines := rfl
@[simp] theorem State.setCore_power : (s.setCore c v).power = s.power := rfl
@[simp] theorem State.setCore_therm : (s.setCore c v).therm = s.therm := rfl
@[simp] theorem State.setCore_delays : (s.setCore c v).delays = s.delays := rfl
@[simp] theorem State.setCore_shut : (s.setCore c v).shut = s.shut := rfl
@[simp] theorem State.setCore_pack : (s.setCore c v).pack = s.pack := rfl
@[simp] theorem State.setCore_rports : (s.setCore c v).rports = s.rports := rfl
@[simp] theorem State.setCore_group : (s.setCore c v).group = s.group := rfl
@[simp] theorem State.setCore_side : (s.setCore c v).side = s.side := rfl
@[simp] theorem State.setCore_jtag : (s.setCore c v).jtag = s.jtag := rfl
@[simp] theorem State.setCore_booted : (s.setCore c v).booted = s.booted := rfl
@[simp] theorem State.setCore_resetBusy : (s.setCore c v).resetBusy = s.resetBusy := rfl
@[simp] theorem State.setCore_resetBy : (s.setCore c v).resetBy = s.resetBy := rfl
@[simp] theorem State.setCore_voltLogAt : (s.setCore c v).voltLogAt = s.voltLogAt := rfl
@[simp] theorem State.setCore_lastAct : (s.setCore c v).lastAct = s.lastAct := rfl
@[simp] theorem State.setCore_dlReported : (s.setCore c v).dlReported = s.dlReported := rfl
@[simp] theorem State.setCore_out : (s.setCore c v).out = s.out := rfl
@[simp] theorem State.setCore_free : (s.setCore c v).free = s.free := rfl
@[simp] theorem State.setCore_pending : (s.setCore c v).pending = s.pending := rfl
@[simp] theorem State.setCore_get_port (k : Nat) : (s.setCore c v).port k = s.port k := rfl
@[simp] theorem State.setCore_get_ctx (k : Nat) : (s.setCore c v).ctx k = s.ctx k := rfl
@[simp] theorem State.setCore_get_queue (k : Nat) : (s.setCore c v).queue k = s.queue k := rfl
@[simp] theorem State.setCore_get_stream (k : Nat) : (s.setCore c v).stream k = s.stream k := rfl
@[simp] theorem State.setCore_get_mbox (k : Nat) : (s.setCore c v).mbox k = s.mbox k := rfl
@[simp] theorem State.setCore_get_pair (k : Nat) : (s.setCore c v).pair k = s.pair k := rfl
@[simp] theorem State.setCore_get_chan (k : Nat) : (s.setCore c v).chan k = s.chan k := rfl
@[simp] theorem State.setCore_get_frond (k : Nat) : (s.setCore c v).frond k = s.frond k := rfl
@[simp] theorem State.setCore_get_engine (k : Nat) : (s.setCore c v).engine k = s.engine k := rfl
@[simp] theorem State.setCore_get_bar (k : Nat) : (s.setCore c v).bar k = s.bar k := rfl
@[simp] theorem State.setCore_get_hcore (k : Nat) : (s.setCore c v).hcore k = s.hcore k := rfl
@[simp] theorem State.setCore_get_rport (k : Nat) : (s.setCore c v).rport k = s.rport k := rfl
@[simp] theorem State.setCore_get_flink (k : Nat) : (s.setCore c v).flink k = s.flink k := rfl
@[simp] theorem State.setCore_get_dom (k : Nat) : (s.setCore c v).dom k = s.dom k := rfl
@[simp] theorem State.setCore_get_bucket (k : Nat) : (s.setCore c v).bucket k = s.bucket k := rfl
@[simp] theorem State.setCore_get_intr (k : Nat) : (s.setCore c v).intr k = s.intr k := rfl
@[simp] theorem State.setCore_get_flagBlock (k : Nat) : (s.setCore c v).flagBlock k = s.flagBlock k := rfl
end setCore
@[simp] theorem State.core_setCore (s : State) (c : Nat) (v : Core) : (s.setCore c v).core c = v := Tbl.get_put_same _ _ _ _
theorem State.core_setCore_ne (s : State) (c : Nat) (v : Core) {j : Nat} (h : j ≠ c) : (s.setCore c v).core j = s.core j := Tbl.get_put_ne _ _ _ _ h

section setEngine
variable (s : State) (e : Nat) (v : Engine)
@[simp] theorem State.setEngine_time : (s.setEngine e v).time = s.time := rfl
@[simp] theorem State.setEngine_phase : (s.setEngine e v).phase = s.phase := rfl
@[simp] theorem State.setEngine_valid : (s.setEngine e v).valid = s.valid := rfl
@[simp] theorem State.setEngine_fw : (s.setEngine e v).fw = s.fw := rfl
@[simp] theorem State.setEngine_lay : (s.setEngine e v).lay = s.lay := rfl
@[simp] theorem State.setEngine_mem : (s.setEngine e v).mem = s.mem := rfl
@[simp] theorem State.setEngine_integ : (s.setEngine e v).integ = s.integ := rfl
@[simp] theorem State.setEngine_chans : (s.setEngine e v).chans = s.chans := rfl
@[simp] theorem State.setEngine_pairs : (s.setEngine e v).pairs = s.pairs := rfl
@[simp] theorem State.setEngine_fronds : (s.setEngine e v).fronds = s.fronds := rfl
@[simp] theorem State.setEngine_flinks : (s.setEngine e v).flinks = s.flinks := rfl
@[simp] theorem State.setEngine_oldLinks : (s.setEngine e v).oldLinks = s.oldLinks := rfl
@[simp] theorem State.setEngine_routeNew : (s.setEngine e v).routeNew = s.routeNew := rfl
@[simp] theorem State.setEngine_fabricHeld : (s.setEngine e v).fabricHeld = s.fabricHeld := rfl
@[simp] theorem State.setEngine_stopped : (s.setEngine e v).stopped = s.stopped := rfl
@[simp] theorem State.setEngine_cores : (s.setEngine e v).cores = s.cores := rfl
@[simp] theorem State.setEngine_ctxs : (s.setEngine e v).ctxs = s.ctxs := rfl
@[simp] theorem State.setEngine_queues : (s.setEngine e v).queues = s.queues := rfl
@[simp] theorem State.setEngine_sched : (s.setEngine e v).sched = s.sched := rfl
@[simp] theorem State.setEngine_recs : (s.setEngine e v).recs = s.recs := rfl
@[simp] theorem State.setEngine_streams : (s.setEngine e v).streams = s.streams := rfl
@[simp] theorem State.setEngine_flags : (s.setEngine e v).flags = s.flags := rfl
@[simp] theorem State.setEngine_mirrors : (s.setEngine e v).mirrors = s.mirrors := rfl
@[simp] theorem State.setEngine_bars : (s.setEngine e v).bars = s.bars := rfl
@[simp] theorem State.setEngine_own : (s.setEngine e v).own = s.own := rfl
@[simp] theorem State.setEngine_mboxes : (s.setEngine e v).mboxes = s.mboxes := rfl
@[simp] theorem State.setEngine_ports : (s.setEngine e v).ports = s.ports := rfl
@[simp] theorem State.setEngine_intrs : (s.setEngine e v).intrs = s.intrs := rfl
@[simp] theorem State.setEngine_evlog : (s.setEngine e v).evlog = s.evlog := rfl
@[simp] theorem State.setEngine_hcores : (s.setEngine e v).hcores = s.hcores := rfl
@[simp] theorem State.setEngine_lines : (s.setEngine e v).lines = s.lines := rfl
@[simp] theorem State.setEngine_power : (s.setEngine e v).power = s.power := rfl
@[simp] theorem State.setEngine_therm : (s.setEngine e v).therm = s.therm := rfl
@[simp] theorem State.setEngine_delays : (s.setEngine e v).delays = s.delays := rfl
@[simp] theorem State.setEngine_shut : (s.setEngine e v).shut = s.shut := rfl
@[simp] theorem State.setEngine_pack : (s.setEngine e v).pack = s.pack := rfl
@[simp] theorem State.setEngine_rports : (s.setEngine e v).rports = s.rports := rfl
@[simp] theorem State.setEngine_group : (s.setEngine e v).group = s.group := rfl
@[simp] theorem State.setEngine_side : (s.setEngine e v).side = s.side := rfl
@[simp] theorem State.setEngine_jtag : (s.setEngine e v).jtag = s.jtag := rfl
@[simp] theorem State.setEngine_booted : (s.setEngine e v).booted = s.booted := rfl
@[simp] theorem State.setEngine_resetBusy : (s.setEngine e v).resetBusy = s.resetBusy := rfl
@[simp] theorem State.setEngine_resetBy : (s.setEngine e v).resetBy = s.resetBy := rfl
@[simp] theorem State.setEngine_voltLogAt : (s.setEngine e v).voltLogAt = s.voltLogAt := rfl
@[simp] theorem State.setEngine_lastAct : (s.setEngine e v).lastAct = s.lastAct := rfl
@[simp] theorem State.setEngine_dlReported : (s.setEngine e v).dlReported = s.dlReported := rfl
@[simp] theorem State.setEngine_out : (s.setEngine e v).out = s.out := rfl
@[simp] theorem State.setEngine_free : (s.setEngine e v).free = s.free := rfl
@[simp] theorem State.setEngine_pending : (s.setEngine e v).pending = s.pending := rfl
@[simp] theorem State.setEngine_get_port (k : Nat) : (s.setEngine e v).port k = s.port k := rfl
@[simp] theorem State.setEngine_get_ctx (k : Nat) : (s.setEngine e v).ctx k = s.ctx k := rfl
@[simp] theorem State.setEngine_get_queue (k : Nat) : (s.setEngine e v).queue k = s.queue k := rfl
@[simp] theorem State.setEngine_get_stream (k : Nat) : (s.setEngine e v).stream k = s.stream k := rfl
@[simp] theorem State.setEngine_get_mbox (k : Nat) : (s.setEngine e v).mbox k = s.mbox k := rfl
@[simp] theorem State.setEngine_get_pair (k : Nat) : (s.setEngine e v).pair k = s.pair k := rfl
@[simp] theorem State.setEngine_get_chan (k : Nat) : (s.setEngine e v).chan k = s.chan k := rfl
@[simp] theorem State.setEngine_get_frond (k : Nat) : (s.setEngine e v).frond k = s.frond k := rfl
@[simp] theorem State.setEngine_get_core (k : Nat) : (s.setEngine e v).core k = s.core k := rfl
@[simp] theorem State.setEngine_get_bar (k : Nat) : (s.setEngine e v).bar k = s.bar k := rfl
@[simp] theorem State.setEngine_get_hcore (k : Nat) : (s.setEngine e v).hcore k = s.hcore k := rfl
@[simp] theorem State.setEngine_get_rport (k : Nat) : (s.setEngine e v).rport k = s.rport k := rfl
@[simp] theorem State.setEngine_get_flink (k : Nat) : (s.setEngine e v).flink k = s.flink k := rfl
@[simp] theorem State.setEngine_get_dom (k : Nat) : (s.setEngine e v).dom k = s.dom k := rfl
@[simp] theorem State.setEngine_get_bucket (k : Nat) : (s.setEngine e v).bucket k = s.bucket k := rfl
@[simp] theorem State.setEngine_get_intr (k : Nat) : (s.setEngine e v).intr k = s.intr k := rfl
@[simp] theorem State.setEngine_get_flagBlock (k : Nat) : (s.setEngine e v).flagBlock k = s.flagBlock k := rfl
end setEngine
@[simp] theorem State.engine_setEngine (s : State) (e : Nat) (v : Engine) : (s.setEngine e v).engine e = v := Tbl.get_put_same _ _ _ _
theorem State.engine_setEngine_ne (s : State) (e : Nat) (v : Engine) {j : Nat} (h : j ≠ e) : (s.setEngine e v).engine j = s.engine j := Tbl.get_put_ne _ _ _ _ h

section setBar
variable (s : State) (b : Nat) (v : Barrier)
@[simp] theorem State.setBar_time : (s.setBar b v).time = s.time := rfl
@[simp] theorem State.setBar_phase : (s.setBar b v).phase = s.phase := rfl
@[simp] theorem State.setBar_valid : (s.setBar b v).valid = s.valid := rfl
@[simp] theorem State.setBar_fw : (s.setBar b v).fw = s.fw := rfl
@[simp] theorem State.setBar_lay : (s.setBar b v).lay = s.lay := rfl
@[simp] theorem State.setBar_mem : (s.setBar b v).mem = s.mem := rfl
@[simp] theorem State.setBar_integ : (s.setBar b v).integ = s.integ := rfl
@[simp] theorem State.setBar_chans : (s.setBar b v).chans = s.chans := rfl
@[simp] theorem State.setBar_pairs : (s.setBar b v).pairs = s.pairs := rfl
@[simp] theorem State.setBar_fronds : (s.setBar b v).fronds = s.fronds := rfl
@[simp] theorem State.setBar_flinks : (s.setBar b v).flinks = s.flinks := rfl
@[simp] theorem State.setBar_oldLinks : (s.setBar b v).oldLinks = s.oldLinks := rfl
@[simp] theorem State.setBar_routeNew : (s.setBar b v).routeNew = s.routeNew := rfl
@[simp] theorem State.setBar_fabricHeld : (s.setBar b v).fabricHeld = s.fabricHeld := rfl
@[simp] theorem State.setBar_stopped : (s.setBar b v).stopped = s.stopped := rfl
@[simp] theorem State.setBar_cores : (s.setBar b v).cores = s.cores := rfl
@[simp] theorem State.setBar_engines : (s.setBar b v).engines = s.engines := rfl
@[simp] theorem State.setBar_ctxs : (s.setBar b v).ctxs = s.ctxs := rfl
@[simp] theorem State.setBar_queues : (s.setBar b v).queues = s.queues := rfl
@[simp] theorem State.setBar_sched : (s.setBar b v).sched = s.sched := rfl
@[simp] theorem State.setBar_recs : (s.setBar b v).recs = s.recs := rfl
@[simp] theorem State.setBar_streams : (s.setBar b v).streams = s.streams := rfl
@[simp] theorem State.setBar_flags : (s.setBar b v).flags = s.flags := rfl
@[simp] theorem State.setBar_mirrors : (s.setBar b v).mirrors = s.mirrors := rfl
@[simp] theorem State.setBar_own : (s.setBar b v).own = s.own := rfl
@[simp] theorem State.setBar_mboxes : (s.setBar b v).mboxes = s.mboxes := rfl
@[simp] theorem State.setBar_ports : (s.setBar b v).ports = s.ports := rfl
@[simp] theorem State.setBar_intrs : (s.setBar b v).intrs = s.intrs := rfl
@[simp] theorem State.setBar_evlog : (s.setBar b v).evlog = s.evlog := rfl
@[simp] theorem State.setBar_hcores : (s.setBar b v).hcores = s.hcores := rfl
@[simp] theorem State.setBar_lines : (s.setBar b v).lines = s.lines := rfl
@[simp] theorem State.setBar_power : (s.setBar b v).power = s.power := rfl
@[simp] theorem State.setBar_therm : (s.setBar b v).therm = s.therm := rfl
@[simp] theorem State.setBar_delays : (s.setBar b v).delays = s.delays := rfl
@[simp] theorem State.setBar_shut : (s.setBar b v).shut = s.shut := rfl
@[simp] theorem State.setBar_pack : (s.setBar b v).pack = s.pack := rfl
@[simp] theorem State.setBar_rports : (s.setBar b v).rports = s.rports := rfl
@[simp] theorem State.setBar_group : (s.setBar b v).group = s.group := rfl
@[simp] theorem State.setBar_side : (s.setBar b v).side = s.side := rfl
@[simp] theorem State.setBar_jtag : (s.setBar b v).jtag = s.jtag := rfl
@[simp] theorem State.setBar_booted : (s.setBar b v).booted = s.booted := rfl
@[simp] theorem State.setBar_resetBusy : (s.setBar b v).resetBusy = s.resetBusy := rfl
@[simp] theorem State.setBar_resetBy : (s.setBar b v).resetBy = s.resetBy := rfl
@[simp] theorem State.setBar_voltLogAt : (s.setBar b v).voltLogAt = s.voltLogAt := rfl
@[simp] theorem State.setBar_lastAct : (s.setBar b v).lastAct = s.lastAct := rfl
@[simp] theorem State.setBar_dlReported : (s.setBar b v).dlReported = s.dlReported := rfl
@[simp] theorem State.setBar_out : (s.setBar b v).out = s.out := rfl
@[simp] theorem State.setBar_free : (s.setBar b v).free = s.free := rfl
@[simp] theorem State.setBar_pending : (s.setBar b v).pending = s.pending := rfl
@[simp] theorem State.setBar_get_port (k : Nat) : (s.setBar b v).port k = s.port k := rfl
@[simp] theorem State.setBar_get_ctx (k : Nat) : (s.setBar b v).ctx k = s.ctx k := rfl
@[simp] theorem State.setBar_get_queue (k : Nat) : (s.setBar b v).queue k = s.queue k := rfl
@[simp] theorem State.setBar_get_stream (k : Nat) : (s.setBar b v).stream k = s.stream k := rfl
@[simp] theorem State.setBar_get_mbox (k : Nat) : (s.setBar b v).mbox k = s.mbox k := rfl
@[simp] theorem State.setBar_get_pair (k : Nat) : (s.setBar b v).pair k = s.pair k := rfl
@[simp] theorem State.setBar_get_chan (k : Nat) : (s.setBar b v).chan k = s.chan k := rfl
@[simp] theorem State.setBar_get_frond (k : Nat) : (s.setBar b v).frond k = s.frond k := rfl
@[simp] theorem State.setBar_get_core (k : Nat) : (s.setBar b v).core k = s.core k := rfl
@[simp] theorem State.setBar_get_engine (k : Nat) : (s.setBar b v).engine k = s.engine k := rfl
@[simp] theorem State.setBar_get_hcore (k : Nat) : (s.setBar b v).hcore k = s.hcore k := rfl
@[simp] theorem State.setBar_get_rport (k : Nat) : (s.setBar b v).rport k = s.rport k := rfl
@[simp] theorem State.setBar_get_flink (k : Nat) : (s.setBar b v).flink k = s.flink k := rfl
@[simp] theorem State.setBar_get_dom (k : Nat) : (s.setBar b v).dom k = s.dom k := rfl
@[simp] theorem State.setBar_get_bucket (k : Nat) : (s.setBar b v).bucket k = s.bucket k := rfl
@[simp] theorem State.setBar_get_intr (k : Nat) : (s.setBar b v).intr k = s.intr k := rfl
@[simp] theorem State.setBar_get_flagBlock (k : Nat) : (s.setBar b v).flagBlock k = s.flagBlock k := rfl
end setBar
@[simp] theorem State.bar_setBar (s : State) (b : Nat) (v : Barrier) : (s.setBar b v).bar b = v := Tbl.get_put_same _ _ _ _
theorem State.bar_setBar_ne (s : State) (b : Nat) (v : Barrier) {j : Nat} (h : j ≠ b) : (s.setBar b v).bar j = s.bar j := Tbl.get_put_ne _ _ _ _ h

section setHCore
variable (s : State) (n : Nat) (v : HCore)
@[simp] theorem State.setHCore_time : (s.setHCore n v).time = s.time := rfl
@[simp] theorem State.setHCore_phase : (s.setHCore n v).phase = s.phase := rfl
@[simp] theorem State.setHCore_valid : (s.setHCore n v).valid = s.valid := rfl
@[simp] theorem State.setHCore_fw : (s.setHCore n v).fw = s.fw := rfl
@[simp] theorem State.setHCore_lay : (s.setHCore n v).lay = s.lay := rfl
@[simp] theorem State.setHCore_mem : (s.setHCore n v).mem = s.mem := rfl
@[simp] theorem State.setHCore_integ : (s.setHCore n v).integ = s.integ := rfl
@[simp] theorem State.setHCore_chans : (s.setHCore n v).chans = s.chans := rfl
@[simp] theorem State.setHCore_pairs : (s.setHCore n v).pairs = s.pairs := rfl
@[simp] theorem State.setHCore_fronds : (s.setHCore n v).fronds = s.fronds := rfl
@[simp] theorem State.setHCore_flinks : (s.setHCore n v).flinks = s.flinks := rfl
@[simp] theorem State.setHCore_oldLinks : (s.setHCore n v).oldLinks = s.oldLinks := rfl
@[simp] theorem State.setHCore_routeNew : (s.setHCore n v).routeNew = s.routeNew := rfl
@[simp] theorem State.setHCore_fabricHeld : (s.setHCore n v).fabricHeld = s.fabricHeld := rfl
@[simp] theorem State.setHCore_stopped : (s.setHCore n v).stopped = s.stopped := rfl
@[simp] theorem State.setHCore_cores : (s.setHCore n v).cores = s.cores := rfl
@[simp] theorem State.setHCore_engines : (s.setHCore n v).engines = s.engines := rfl
@[simp] theorem State.setHCore_ctxs : (s.setHCore n v).ctxs = s.ctxs := rfl
@[simp] theorem State.setHCore_queues : (s.setHCore n v).queues = s.queues := rfl
@[simp] theorem State.setHCore_sched : (s.setHCore n v).sched = s.sched := rfl
@[simp] theorem State.setHCore_recs : (s.setHCore n v).recs = s.recs := rfl
@[simp] theorem State.setHCore_streams : (s.setHCore n v).streams = s.streams := rfl
@[simp] theorem State.setHCore_flags : (s.setHCore n v).flags = s.flags := rfl
@[simp] theorem State.setHCore_mirrors : (s.setHCore n v).mirrors = s.mirrors := rfl
@[simp] theorem State.setHCore_bars : (s.setHCore n v).bars = s.bars := rfl
@[simp] theorem State.setHCore_own : (s.setHCore n v).own = s.own := rfl
@[simp] theorem State.setHCore_mboxes : (s.setHCore n v).mboxes = s.mboxes := rfl
@[simp] theorem State.setHCore_ports : (s.setHCore n v).ports = s.ports := rfl
@[simp] theorem State.setHCore_intrs : (s.setHCore n v).intrs = s.intrs := rfl
@[simp] theorem State.setHCore_evlog : (s.setHCore n v).evlog = s.evlog := rfl
@[simp] theorem State.setHCore_lines : (s.setHCore n v).lines = s.lines := rfl
@[simp] theorem State.setHCore_power : (s.setHCore n v).power = s.power := rfl
@[simp] theorem State.setHCore_therm : (s.setHCore n v).therm = s.therm := rfl
@[simp] theorem State.setHCore_delays : (s.setHCore n v).delays = s.delays := rfl
@[simp] theorem State.setHCore_shut : (s.setHCore n v).shut = s.shut := rfl
@[simp] theorem State.setHCore_pack : (s.setHCore n v).pack = s.pack := rfl
@[simp] theorem State.setHCore_rports : (s.setHCore n v).rports = s.rports := rfl
@[simp] theorem State.setHCore_group : (s.setHCore n v).group = s.group := rfl
@[simp] theorem State.setHCore_side : (s.setHCore n v).side = s.side := rfl
@[simp] theorem State.setHCore_jtag : (s.setHCore n v).jtag = s.jtag := rfl
@[simp] theorem State.setHCore_booted : (s.setHCore n v).booted = s.booted := rfl
@[simp] theorem State.setHCore_resetBusy : (s.setHCore n v).resetBusy = s.resetBusy := rfl
@[simp] theorem State.setHCore_resetBy : (s.setHCore n v).resetBy = s.resetBy := rfl
@[simp] theorem State.setHCore_voltLogAt : (s.setHCore n v).voltLogAt = s.voltLogAt := rfl
@[simp] theorem State.setHCore_lastAct : (s.setHCore n v).lastAct = s.lastAct := rfl
@[simp] theorem State.setHCore_dlReported : (s.setHCore n v).dlReported = s.dlReported := rfl
@[simp] theorem State.setHCore_out : (s.setHCore n v).out = s.out := rfl
@[simp] theorem State.setHCore_free : (s.setHCore n v).free = s.free := rfl
@[simp] theorem State.setHCore_pending : (s.setHCore n v).pending = s.pending := rfl
@[simp] theorem State.setHCore_get_port (k : Nat) : (s.setHCore n v).port k = s.port k := rfl
@[simp] theorem State.setHCore_get_ctx (k : Nat) : (s.setHCore n v).ctx k = s.ctx k := rfl
@[simp] theorem State.setHCore_get_queue (k : Nat) : (s.setHCore n v).queue k = s.queue k := rfl
@[simp] theorem State.setHCore_get_stream (k : Nat) : (s.setHCore n v).stream k = s.stream k := rfl
@[simp] theorem State.setHCore_get_mbox (k : Nat) : (s.setHCore n v).mbox k = s.mbox k := rfl
@[simp] theorem State.setHCore_get_pair (k : Nat) : (s.setHCore n v).pair k = s.pair k := rfl
@[simp] theorem State.setHCore_get_chan (k : Nat) : (s.setHCore n v).chan k = s.chan k := rfl
@[simp] theorem State.setHCore_get_frond (k : Nat) : (s.setHCore n v).frond k = s.frond k := rfl
@[simp] theorem State.setHCore_get_core (k : Nat) : (s.setHCore n v).core k = s.core k := rfl
@[simp] theorem State.setHCore_get_engine (k : Nat) : (s.setHCore n v).engine k = s.engine k := rfl
@[simp] theorem State.setHCore_get_bar (k : Nat) : (s.setHCore n v).bar k = s.bar k := rfl
@[simp] theorem State.setHCore_get_rport (k : Nat) : (s.setHCore n v).rport k = s.rport k := rfl
@[simp] theorem State.setHCore_get_flink (k : Nat) : (s.setHCore n v).flink k = s.flink k := rfl
@[simp] theorem State.setHCore_get_dom (k : Nat) : (s.setHCore n v).dom k = s.dom k := rfl
@[simp] theorem State.setHCore_get_bucket (k : Nat) : (s.setHCore n v).bucket k = s.bucket k := rfl
@[simp] theorem State.setHCore_get_intr (k : Nat) : (s.setHCore n v).intr k = s.intr k := rfl
@[simp] theorem State.setHCore_get_flagBlock (k : Nat) : (s.setHCore n v).flagBlock k = s.flagBlock k := rfl
end setHCore
@[simp] theorem State.hcore_setHCore (s : State) (n : Nat) (v : HCore) : (s.setHCore n v).hcore n = v := Tbl.get_put_same _ _ _ _
theorem State.hcore_setHCore_ne (s : State) (n : Nat) (v : HCore) {j : Nat} (h : j ≠ n) : (s.setHCore n v).hcore j = s.hcore j := Tbl.get_put_ne _ _ _ _ h

section setRPort
variable (s : State) (n : Nat) (v : RPort)
@[simp] theorem State.setRPort_time : (s.setRPort n v).time = s.time := rfl
@[simp] theorem State.setRPort_phase : (s.setRPort n v).phase = s.phase := rfl
@[simp] theorem State.setRPort_valid : (s.setRPort n v).valid = s.valid := rfl
@[simp] theorem State.setRPort_fw : (s.setRPort n v).fw = s.fw := rfl
@[simp] theorem State.setRPort_lay : (s.setRPort n v).lay = s.lay := rfl
@[simp] theorem State.setRPort_mem : (s.setRPort n v).mem = s.mem := rfl
@[simp] theorem State.setRPort_integ : (s.setRPort n v).integ = s.integ := rfl
@[simp] theorem State.setRPort_chans : (s.setRPort n v).chans = s.chans := rfl
@[simp] theorem State.setRPort_pairs : (s.setRPort n v).pairs = s.pairs := rfl
@[simp] theorem State.setRPort_fronds : (s.setRPort n v).fronds = s.fronds := rfl
@[simp] theorem State.setRPort_flinks : (s.setRPort n v).flinks = s.flinks := rfl
@[simp] theorem State.setRPort_oldLinks : (s.setRPort n v).oldLinks = s.oldLinks := rfl
@[simp] theorem State.setRPort_routeNew : (s.setRPort n v).routeNew = s.routeNew := rfl
@[simp] theorem State.setRPort_fabricHeld : (s.setRPort n v).fabricHeld = s.fabricHeld := rfl
@[simp] theorem State.setRPort_stopped : (s.setRPort n v).stopped = s.stopped := rfl
@[simp] theorem State.setRPort_cores : (s.setRPort n v).cores = s.cores := rfl
@[simp] theorem State.setRPort_engines : (s.setRPort n v).engines = s.engines := rfl
@[simp] theorem State.setRPort_ctxs : (s.setRPort n v).ctxs = s.ctxs := rfl
@[simp] theorem State.setRPort_queues : (s.setRPort n v).queues = s.queues := rfl
@[simp] theorem State.setRPort_sched : (s.setRPort n v).sched = s.sched := rfl
@[simp] theorem State.setRPort_recs : (s.setRPort n v).recs = s.recs := rfl
@[simp] theorem State.setRPort_streams : (s.setRPort n v).streams = s.streams := rfl
@[simp] theorem State.setRPort_flags : (s.setRPort n v).flags = s.flags := rfl
@[simp] theorem State.setRPort_mirrors : (s.setRPort n v).mirrors = s.mirrors := rfl
@[simp] theorem State.setRPort_bars : (s.setRPort n v).bars = s.bars := rfl
@[simp] theorem State.setRPort_own : (s.setRPort n v).own = s.own := rfl
@[simp] theorem State.setRPort_mboxes : (s.setRPort n v).mboxes = s.mboxes := rfl
@[simp] theorem State.setRPort_ports : (s.setRPort n v).ports = s.ports := rfl
@[simp] theorem State.setRPort_intrs : (s.setRPort n v).intrs = s.intrs := rfl
@[simp] theorem State.setRPort_evlog : (s.setRPort n v).evlog = s.evlog := rfl
@[simp] theorem State.setRPort_hcores : (s.setRPort n v).hcores = s.hcores := rfl
@[simp] theorem State.setRPort_lines : (s.setRPort n v).lines = s.lines := rfl
@[simp] theorem State.setRPort_power : (s.setRPort n v).power = s.power := rfl
@[simp] theorem State.setRPort_therm : (s.setRPort n v).therm = s.therm := rfl
@[simp] theorem State.setRPort_delays : (s.setRPort n v).delays = s.delays := rfl
@[simp] theorem State.setRPort_shut : (s.setRPort n v).shut = s.shut := rfl
@[simp] theorem State.setRPort_pack : (s.setRPort n v).pack = s.pack := rfl
@[simp] theorem State.setRPort_group : (s.setRPort n v).group = s.group := rfl
@[simp] theorem State.setRPort_side : (s.setRPort n v).side = s.side := rfl
@[simp] theorem State.setRPort_jtag : (s.setRPort n v).jtag = s.jtag := rfl
@[simp] theorem State.setRPort_booted : (s.setRPort n v).booted = s.booted := rfl
@[simp] theorem State.setRPort_resetBusy : (s.setRPort n v).resetBusy = s.resetBusy := rfl
@[simp] theorem State.setRPort_resetBy : (s.setRPort n v).resetBy = s.resetBy := rfl
@[simp] theorem State.setRPort_voltLogAt : (s.setRPort n v).voltLogAt = s.voltLogAt := rfl
@[simp] theorem State.setRPort_lastAct : (s.setRPort n v).lastAct = s.lastAct := rfl
@[simp] theorem State.setRPort_dlReported : (s.setRPort n v).dlReported = s.dlReported := rfl
@[simp] theorem State.setRPort_out : (s.setRPort n v).out = s.out := rfl
@[simp] theorem State.setRPort_free : (s.setRPort n v).free = s.free := rfl
@[simp] theorem State.setRPort_pending : (s.setRPort n v).pending = s.pending := rfl
@[simp] theorem State.setRPort_get_port (k : Nat) : (s.setRPort n v).port k = s.port k := rfl
@[simp] theorem State.setRPort_get_ctx (k : Nat) : (s.setRPort n v).ctx k = s.ctx k := rfl
@[simp] theorem State.setRPort_get_queue (k : Nat) : (s.setRPort n v).queue k = s.queue k := rfl
@[simp] theorem State.setRPort_get_stream (k : Nat) : (s.setRPort n v).stream k = s.stream k := rfl
@[simp] theorem State.setRPort_get_mbox (k : Nat) : (s.setRPort n v).mbox k = s.mbox k := rfl
@[simp] theorem State.setRPort_get_pair (k : Nat) : (s.setRPort n v).pair k = s.pair k := rfl
@[simp] theorem State.setRPort_get_chan (k : Nat) : (s.setRPort n v).chan k = s.chan k := rfl
@[simp] theorem State.setRPort_get_frond (k : Nat) : (s.setRPort n v).frond k = s.frond k := rfl
@[simp] theorem State.setRPort_get_core (k : Nat) : (s.setRPort n v).core k = s.core k := rfl
@[simp] theorem State.setRPort_get_engine (k : Nat) : (s.setRPort n v).engine k = s.engine k := rfl
@[simp] theorem State.setRPort_get_bar (k : Nat) : (s.setRPort n v).bar k = s.bar k := rfl
@[simp] theorem State.setRPort_get_hcore (k : Nat) : (s.setRPort n v).hcore k = s.hcore k := rfl
@[simp] theorem State.setRPort_get_flink (k : Nat) : (s.setRPort n v).flink k = s.flink k := rfl
@[simp] theorem State.setRPort_get_dom (k : Nat) : (s.setRPort n v).dom k = s.dom k := rfl
@[simp] theorem State.setRPort_get_bucket (k : Nat) : (s.setRPort n v).bucket k = s.bucket k := rfl
@[simp] theorem State.setRPort_get_intr (k : Nat) : (s.setRPort n v).intr k = s.intr k := rfl
@[simp] theorem State.setRPort_get_flagBlock (k : Nat) : (s.setRPort n v).flagBlock k = s.flagBlock k := rfl
end setRPort
@[simp] theorem State.rport_setRPort (s : State) (n : Nat) (v : RPort) : (s.setRPort n v).rport n = v := Tbl.get_put_same _ _ _ _
theorem State.rport_setRPort_ne (s : State) (n : Nat) (v : RPort) {j : Nat} (h : j ≠ n) : (s.setRPort n v).rport j = s.rport j := Tbl.get_put_ne _ _ _ _ h

section setFLink
variable (s : State) (l : Nat) (v : FLink)
@[simp] theorem State.setFLink_time : (s.setFLink l v).time = s.time := rfl
@[simp] theorem State.setFLink_phase : (s.setFLink l v).phase = s.phase := rfl
@[simp] theorem State.setFLink_valid : (s.setFLink l v).valid = s.valid := rfl
@[simp] theorem State.setFLink_fw : (s.setFLink l v).fw = s.fw := rfl
@[simp] theorem State.setFLink_lay : (s.setFLink l v).lay = s.lay := rfl
@[simp] theorem State.setFLink_mem : (s.setFLink l v).mem = s.mem := rfl
@[simp] theorem State.setFLink_integ : (s.setFLink l v).integ = s.integ := rfl
@[simp] theorem State.setFLink_chans : (s.setFLink l v).chans = s.chans := rfl
@[simp] theorem State.setFLink_pairs : (s.setFLink l v).pairs = s.pairs := rfl
@[simp] theorem State.setFLink_fronds : (s.setFLink l v).fronds = s.fronds := rfl
@[simp] theorem State.setFLink_oldLinks : (s.setFLink l v).oldLinks = s.oldLinks := rfl
@[simp] theorem State.setFLink_routeNew : (s.setFLink l v).routeNew = s.routeNew := rfl
@[simp] theorem State.setFLink_fabricHeld : (s.setFLink l v).fabricHeld = s.fabricHeld := rfl
@[simp] theorem State.setFLink_stopped : (s.setFLink l v).stopped = s.stopped := rfl
@[simp] theorem State.setFLink_cores : (s.setFLink l v).cores = s.cores := rfl
@[simp] theorem State.setFLink_engines : (s.setFLink l v).engines = s.engines := rfl
@[simp] theorem State.setFLink_ctxs : (s.setFLink l v).ctxs = s.ctxs := rfl
@[simp] theorem State.setFLink_queues : (s.setFLink l v).queues = s.queues := rfl
@[simp] theorem State.setFLink_sched : (s.setFLink l v).sched = s.sched := rfl
@[simp] theorem State.setFLink_recs : (s.setFLink l v).recs = s.recs := rfl
@[simp] theorem State.setFLink_streams : (s.setFLink l v).streams = s.streams := rfl
@[simp] theorem State.setFLink_flags : (s.setFLink l v).flags = s.flags := rfl
@[simp] theorem State.setFLink_mirrors : (s.setFLink l v).mirrors = s.mirrors := rfl
@[simp] theorem State.setFLink_bars : (s.setFLink l v).bars = s.bars := rfl
@[simp] theorem State.setFLink_own : (s.setFLink l v).own = s.own := rfl
@[simp] theorem State.setFLink_mboxes : (s.setFLink l v).mboxes = s.mboxes := rfl
@[simp] theorem State.setFLink_ports : (s.setFLink l v).ports = s.ports := rfl
@[simp] theorem State.setFLink_intrs : (s.setFLink l v).intrs = s.intrs := rfl
@[simp] theorem State.setFLink_evlog : (s.setFLink l v).evlog = s.evlog := rfl
@[simp] theorem State.setFLink_hcores : (s.setFLink l v).hcores = s.hcores := rfl
@[simp] theorem State.setFLink_lines : (s.setFLink l v).lines = s.lines := rfl
@[simp] theorem State.setFLink_power : (s.setFLink l v).power = s.power := rfl
@[simp] theorem State.setFLink_therm : (s.setFLink l v).therm = s.therm := rfl
@[simp] theorem State.setFLink_delays : (s.setFLink l v).delays = s.delays := rfl
@[simp] theorem State.setFLink_shut : (s.setFLink l v).shut = s.shut := rfl
@[simp] theorem State.setFLink_pack : (s.setFLink l v).pack = s.pack := rfl
@[simp] theorem State.setFLink_rports : (s.setFLink l v).rports = s.rports := rfl
@[simp] theorem State.setFLink_group : (s.setFLink l v).group = s.group := rfl
@[simp] theorem State.setFLink_side : (s.setFLink l v).side = s.side := rfl
@[simp] theorem State.setFLink_jtag : (s.setFLink l v).jtag = s.jtag := rfl
@[simp] theorem State.setFLink_booted : (s.setFLink l v).booted = s.booted := rfl
@[simp] theorem State.setFLink_resetBusy : (s.setFLink l v).resetBusy = s.resetBusy := rfl
@[simp] theorem State.setFLink_resetBy : (s.setFLink l v).resetBy = s.resetBy := rfl
@[simp] theorem State.setFLink_voltLogAt : (s.setFLink l v).voltLogAt = s.voltLogAt := rfl
@[simp] theorem State.setFLink_lastAct : (s.setFLink l v).lastAct = s.lastAct := rfl
@[simp] theorem State.setFLink_dlReported : (s.setFLink l v).dlReported = s.dlReported := rfl
@[simp] theorem State.setFLink_out : (s.setFLink l v).out = s.out := rfl
@[simp] theorem State.setFLink_free : (s.setFLink l v).free = s.free := rfl
@[simp] theorem State.setFLink_pending : (s.setFLink l v).pending = s.pending := rfl
@[simp] theorem State.setFLink_get_port (k : Nat) : (s.setFLink l v).port k = s.port k := rfl
@[simp] theorem State.setFLink_get_ctx (k : Nat) : (s.setFLink l v).ctx k = s.ctx k := rfl
@[simp] theorem State.setFLink_get_queue (k : Nat) : (s.setFLink l v).queue k = s.queue k := rfl
@[simp] theorem State.setFLink_get_stream (k : Nat) : (s.setFLink l v).stream k = s.stream k := rfl
@[simp] theorem State.setFLink_get_mbox (k : Nat) : (s.setFLink l v).mbox k = s.mbox k := rfl
@[simp] theorem State.setFLink_get_pair (k : Nat) : (s.setFLink l v).pair k = s.pair k := rfl
@[simp] theorem State.setFLink_get_chan (k : Nat) : (s.setFLink l v).chan k = s.chan k := rfl
@[simp] theorem State.setFLink_get_frond (k : Nat) : (s.setFLink l v).frond k = s.frond k := rfl
@[simp] theorem State.setFLink_get_core (k : Nat) : (s.setFLink l v).core k = s.core k := rfl
@[simp] theorem State.setFLink_get_engine (k : Nat) : (s.setFLink l v).engine k = s.engine k := rfl
@[simp] theorem State.setFLink_get_bar (k : Nat) : (s.setFLink l v).bar k = s.bar k := rfl
@[simp] theorem State.setFLink_get_hcore (k : Nat) : (s.setFLink l v).hcore k = s.hcore k := rfl
@[simp] theorem State.setFLink_get_rport (k : Nat) : (s.setFLink l v).rport k = s.rport k := rfl
@[simp] theorem State.setFLink_get_dom (k : Nat) : (s.setFLink l v).dom k = s.dom k := rfl
@[simp] theorem State.setFLink_get_bucket (k : Nat) : (s.setFLink l v).bucket k = s.bucket k := rfl
@[simp] theorem State.setFLink_get_intr (k : Nat) : (s.setFLink l v).intr k = s.intr k := rfl
@[simp] theorem State.setFLink_get_flagBlock (k : Nat) : (s.setFLink l v).flagBlock k = s.flagBlock k := rfl
end setFLink
@[simp] theorem State.flink_setFLink (s : State) (l : Nat) (v : FLink) : (s.setFLink l v).flink l = v := Tbl.get_put_same _ _ _ _
theorem State.flink_setFLink_ne (s : State) (l : Nat) (v : FLink) {j : Nat} (h : j ≠ l) : (s.setFLink l v).flink j = s.flink j := Tbl.get_put_ne _ _ _ _ h

section setDom
variable (s : State) (d : Nat) (v : Domain)
@[simp] theorem State.setDom_time : (s.setDom d v).time = s.time := rfl
@[simp] theorem State.setDom_phase : (s.setDom d v).phase = s.phase := rfl
@[simp] theorem State.setDom_valid : (s.setDom d v).valid = s.valid := rfl
@[simp] theorem State.setDom_fw : (s.setDom d v).fw = s.fw := rfl
@[simp] theorem State.setDom_lay : (s.setDom d v).lay = s.lay := rfl
@[simp] theorem State.setDom_mem : (s.setDom d v).mem = s.mem := rfl
@[simp] theorem State.setDom_integ : (s.setDom d v).integ = s.integ := rfl
@[simp] theorem State.setDom_chans : (s.setDom d v).chans = s.chans := rfl
@[simp] theorem State.setDom_pairs : (s.setDom d v).pairs = s.pairs := rfl
@[simp] theorem State.setDom_fronds : (s.setDom d v).fronds = s.fronds := rfl
@[simp] theorem State.setDom_flinks : (s.setDom d v).flinks = s.flinks := rfl
@[simp] theorem State.setDom_oldLinks : (s.setDom d v).oldLinks = s.oldLinks := rfl
@[simp] theorem State.setDom_routeNew : (s.setDom d v).routeNew = s.routeNew := rfl
@[simp] theorem State.setDom_fabricHeld : (s.setDom d v).fabricHeld = s.fabricHeld := rfl
@[simp] theorem State.setDom_stopped : (s.setDom d v).stopped = s.stopped := rfl
@[simp] theorem State.setDom_cores : (s.setDom d v).cores = s.cores := rfl
@[simp] theorem State.setDom_engines : (s.setDom d v).engines = s.engines := rfl
@[simp] theorem State.setDom_ctxs : (s.setDom d v).ctxs = s.ctxs := rfl
@[simp] theorem State.setDom_queues : (s.setDom d v).queues = s.queues := rfl
@[simp] theorem State.setDom_sched : (s.setDom d v).sched = s.sched := rfl
@[simp] theorem State.setDom_recs : (s.setDom d v).recs = s.recs := rfl
@[simp] theorem State.setDom_streams : (s.setDom d v).streams = s.streams := rfl
@[simp] theorem State.setDom_flags : (s.setDom d v).flags = s.flags := rfl
@[simp] theorem State.setDom_mirrors : (s.setDom d v).mirrors = s.mirrors := rfl
@[simp] theorem State.setDom_bars : (s.setDom d v).bars = s.bars := rfl
@[simp] theorem State.setDom_own : (s.setDom d v).own = s.own := rfl
@[simp] theorem State.setDom_mboxes : (s.setDom d v).mboxes = s.mboxes := rfl
@[simp] theorem State.setDom_ports : (s.setDom d v).ports = s.ports := rfl
@[simp] theorem State.setDom_intrs : (s.setDom d v).intrs = s.intrs := rfl
@[simp] theorem State.setDom_evlog : (s.setDom d v).evlog = s.evlog := rfl
@[simp] theorem State.setDom_hcores : (s.setDom d v).hcores = s.hcores := rfl
@[simp] theorem State.setDom_lines : (s.setDom d v).lines = s.lines := rfl
@[simp] theorem State.setDom_power : (s.setDom d v).power = s.power := rfl
@[simp] theorem State.setDom_delays : (s.setDom d v).delays = s.delays := rfl
@[simp] theorem State.setDom_shut : (s.setDom d v).shut = s.shut := rfl
@[simp] theorem State.setDom_pack : (s.setDom d v).pack = s.pack := rfl
@[simp] theorem State.setDom_rports : (s.setDom d v).rports = s.rports := rfl
@[simp] theorem State.setDom_group : (s.setDom d v).group = s.group := rfl
@[simp] theorem State.setDom_side : (s.setDom d v).side = s.side := rfl
@[simp] theorem State.setDom_jtag : (s.setDom d v).jtag = s.jtag := rfl
@[simp] theorem State.setDom_booted : (s.setDom d v).booted = s.booted := rfl
@[simp] theorem State.setDom_resetBusy : (s.setDom d v).resetBusy = s.resetBusy := rfl
@[simp] theorem State.setDom_resetBy : (s.setDom d v).resetBy = s.resetBy := rfl
@[simp] theorem State.setDom_voltLogAt : (s.setDom d v).voltLogAt = s.voltLogAt := rfl
@[simp] theorem State.setDom_lastAct : (s.setDom d v).lastAct = s.lastAct := rfl
@[simp] theorem State.setDom_dlReported : (s.setDom d v).dlReported = s.dlReported := rfl
@[simp] theorem State.setDom_out : (s.setDom d v).out = s.out := rfl
@[simp] theorem State.setDom_free : (s.setDom d v).free = s.free := rfl
@[simp] theorem State.setDom_pending : (s.setDom d v).pending = s.pending := rfl
@[simp] theorem State.setDom_get_port (k : Nat) : (s.setDom d v).port k = s.port k := rfl
@[simp] theorem State.setDom_get_ctx (k : Nat) : (s.setDom d v).ctx k = s.ctx k := rfl
@[simp] theorem State.setDom_get_queue (k : Nat) : (s.setDom d v).queue k = s.queue k := rfl
@[simp] theorem State.setDom_get_stream (k : Nat) : (s.setDom d v).stream k = s.stream k := rfl
@[simp] theorem State.setDom_get_mbox (k : Nat) : (s.setDom d v).mbox k = s.mbox k := rfl
@[simp] theorem State.setDom_get_pair (k : Nat) : (s.setDom d v).pair k = s.pair k := rfl
@[simp] theorem State.setDom_get_chan (k : Nat) : (s.setDom d v).chan k = s.chan k := rfl
@[simp] theorem State.setDom_get_frond (k : Nat) : (s.setDom d v).frond k = s.frond k := rfl
@[simp] theorem State.setDom_get_core (k : Nat) : (s.setDom d v).core k = s.core k := rfl
@[simp] theorem State.setDom_get_engine (k : Nat) : (s.setDom d v).engine k = s.engine k := rfl
@[simp] theorem State.setDom_get_bar (k : Nat) : (s.setDom d v).bar k = s.bar k := rfl
@[simp] theorem State.setDom_get_hcore (k : Nat) : (s.setDom d v).hcore k = s.hcore k := rfl
@[simp] theorem State.setDom_get_rport (k : Nat) : (s.setDom d v).rport k = s.rport k := rfl
@[simp] theorem State.setDom_get_flink (k : Nat) : (s.setDom d v).flink k = s.flink k := rfl
@[simp] theorem State.setDom_get_bucket (k : Nat) : (s.setDom d v).bucket k = s.bucket k := rfl
@[simp] theorem State.setDom_get_intr (k : Nat) : (s.setDom d v).intr k = s.intr k := rfl
@[simp] theorem State.setDom_get_flagBlock (k : Nat) : (s.setDom d v).flagBlock k = s.flagBlock k := rfl
end setDom
@[simp] theorem State.dom_setDom (s : State) (d : Nat) (v : Domain) : (s.setDom d v).dom d = v := Tbl.get_put_same _ _ _ _
theorem State.dom_setDom_ne (s : State) (d : Nat) (v : Domain) {j : Nat} (h : j ≠ d) : (s.setDom d v).dom j = s.dom j := Tbl.get_put_ne _ _ _ _ h

section setBucket
variable (s : State) (st : Nat) (v : Bucket)
@[simp] theorem State.setBucket_time : (s.setBucket st v).time = s.time := rfl
@[simp] theorem State.setBucket_phase : (s.setBucket st v).phase = s.phase := rfl
@[simp] theorem State.setBucket_valid : (s.setBucket st v).valid = s.valid := rfl
@[simp] theorem State.setBucket_fw : (s.setBucket st v).fw = s.fw := rfl
@[simp] theorem State.setBucket_lay : (s.setBucket st v).lay = s.lay := rfl
@[simp] theorem State.setBucket_mem : (s.setBucket st v).mem = s.mem := rfl
@[simp] theorem State.setBucket_chans : (s.setBucket st v).chans = s.chans := rfl
@[simp] theorem State.setBucket_pairs : (s.setBucket st v).pairs = s.pairs := rfl
@[simp] theorem State.setBucket_fronds : (s.setBucket st v).fronds = s.fronds := rfl
@[simp] theorem State.setBucket_flinks : (s.setBucket st v).flinks = s.flinks := rfl
@[simp] theorem State.setBucket_oldLinks : (s.setBucket st v).oldLinks = s.oldLinks := rfl
@[simp] theorem State.setBucket_routeNew : (s.setBucket st v).routeNew = s.routeNew := rfl
@[simp] theorem State.setBucket_fabricHeld : (s.setBucket st v).fabricHeld = s.fabricHeld := rfl
@[simp] theorem State.setBucket_stopped : (s.setBucket st v).stopped = s.stopped := rfl
@[simp] theorem State.setBucket_cores : (s.setBucket st v).cores = s.cores := rfl
@[simp] theorem State.setBucket_engines : (s.setBucket st v).engines = s.engines := rfl
@[simp] theorem State.setBucket_ctxs : (s.setBucket st v).ctxs = s.ctxs := rfl
@[simp] theorem State.setBucket_queues : (s.setBucket st v).queues = s.queues := rfl
@[simp] theorem State.setBucket_sched : (s.setBucket st v).sched = s.sched := rfl
@[simp] theorem State.setBucket_recs : (s.setBucket st v).recs = s.recs := rfl
@[simp] theorem State.setBucket_streams : (s.setBucket st v).streams = s.streams := rfl
@[simp] theorem State.setBucket_flags : (s.setBucket st v).flags = s.flags := rfl
@[simp] theorem State.setBucket_mirrors : (s.setBucket st v).mirrors = s.mirrors := rfl
@[simp] theorem State.setBucket_bars : (s.setBucket st v).bars = s.bars := rfl
@[simp] theorem State.setBucket_own : (s.setBucket st v).own = s.own := rfl
@[simp] theorem State.setBucket_mboxes : (s.setBucket st v).mboxes = s.mboxes := rfl
@[simp] theorem State.setBucket_ports : (s.setBucket st v).ports = s.ports := rfl
@[simp] theorem State.setBucket_intrs : (s.setBucket st v).intrs = s.intrs := rfl
@[simp] theorem State.setBucket_evlog : (s.setBucket st v).evlog = s.evlog := rfl
@[simp] theorem State.setBucket_hcores : (s.setBucket st v).hcores = s.hcores := rfl
@[simp] theorem State.setBucket_lines : (s.setBucket st v).lines = s.lines := rfl
@[simp] theorem State.setBucket_power : (s.setBucket st v).power = s.power := rfl
@[simp] theorem State.setBucket_therm : (s.setBucket st v).therm = s.therm := rfl
@[simp] theorem State.setBucket_delays : (s.setBucket st v).delays = s.delays := rfl
@[simp] theorem State.setBucket_shut : (s.setBucket st v).shut = s.shut := rfl
@[simp] theorem State.setBucket_pack : (s.setBucket st v).pack = s.pack := rfl
@[simp] theorem State.setBucket_rports : (s.setBucket st v).rports = s.rports := rfl
@[simp] theorem State.setBucket_group : (s.setBucket st v).group = s.group := rfl
@[simp] theorem State.setBucket_side : (s.setBucket st v).side = s.side := rfl
@[simp] theorem State.setBucket_jtag : (s.setBucket st v).jtag = s.jtag := rfl
@[simp] theorem State.setBucket_booted : (s.setBucket st v).booted = s.booted := rfl
@[simp] theorem State.setBucket_resetBusy : (s.setBucket st v).resetBusy = s.resetBusy := rfl
@[simp] theorem State.setBucket_resetBy : (s.setBucket st v).resetBy = s.resetBy := rfl
@[simp] theorem State.setBucket_voltLogAt : (s.setBucket st v).voltLogAt = s.voltLogAt := rfl
@[simp] theorem State.setBucket_lastAct : (s.setBucket st v).lastAct = s.lastAct := rfl
@[simp] theorem State.setBucket_dlReported : (s.setBucket st v).dlReported = s.dlReported := rfl
@[simp] theorem State.setBucket_out : (s.setBucket st v).out = s.out := rfl
@[simp] theorem State.setBucket_free : (s.setBucket st v).free = s.free := rfl
@[simp] theorem State.setBucket_pending : (s.setBucket st v).pending = s.pending := rfl
@[simp] theorem State.setBucket_get_port (k : Nat) : (s.setBucket st v).port k = s.port k := rfl
@[simp] theorem State.setBucket_get_ctx (k : Nat) : (s.setBucket st v).ctx k = s.ctx k := rfl
@[simp] theorem State.setBucket_get_queue (k : Nat) : (s.setBucket st v).queue k = s.queue k := rfl
@[simp] theorem State.setBucket_get_stream (k : Nat) : (s.setBucket st v).stream k = s.stream k := rfl
@[simp] theorem State.setBucket_get_mbox (k : Nat) : (s.setBucket st v).mbox k = s.mbox k := rfl
@[simp] theorem State.setBucket_get_pair (k : Nat) : (s.setBucket st v).pair k = s.pair k := rfl
@[simp] theorem State.setBucket_get_chan (k : Nat) : (s.setBucket st v).chan k = s.chan k := rfl
@[simp] theorem State.setBucket_get_frond (k : Nat) : (s.setBucket st v).frond k = s.frond k := rfl
@[simp] theorem State.setBucket_get_core (k : Nat) : (s.setBucket st v).core k = s.core k := rfl
@[simp] theorem State.setBucket_get_engine (k : Nat) : (s.setBucket st v).engine k = s.engine k := rfl
@[simp] theorem State.setBucket_get_bar (k : Nat) : (s.setBucket st v).bar k = s.bar k := rfl
@[simp] theorem State.setBucket_get_hcore (k : Nat) : (s.setBucket st v).hcore k = s.hcore k := rfl
@[simp] theorem State.setBucket_get_rport (k : Nat) : (s.setBucket st v).rport k = s.rport k := rfl
@[simp] theorem State.setBucket_get_flink (k : Nat) : (s.setBucket st v).flink k = s.flink k := rfl
@[simp] theorem State.setBucket_get_dom (k : Nat) : (s.setBucket st v).dom k = s.dom k := rfl
@[simp] theorem State.setBucket_get_intr (k : Nat) : (s.setBucket st v).intr k = s.intr k := rfl
@[simp] theorem State.setBucket_get_flagBlock (k : Nat) : (s.setBucket st v).flagBlock k = s.flagBlock k := rfl
end setBucket
@[simp] theorem State.bucket_setBucket (s : State) (st : Nat) (v : Bucket) : (s.setBucket st v).bucket st = v := Tbl.get_put_same _ _ _ _
theorem State.bucket_setBucket_ne (s : State) (st : Nat) (v : Bucket) {j : Nat} (h : j ≠ st) : (s.setBucket st v).bucket j = s.bucket j := Tbl.get_put_ne _ _ _ _ h

section setIntr
variable (s : State) (i : Nat) (v : Intr)
@[simp] theorem State.setIntr_time : (s.setIntr i v).time = s.time := rfl
@[simp] theorem State.setIntr_phase : (s.setIntr i v).phase = s.phase := rfl
@[simp] theorem State.setIntr_valid : (s.setIntr i v).valid = s.valid := rfl
@[simp] theorem State.setIntr_fw : (s.setIntr i v).fw = s.fw := rfl
@[simp] theorem State.setIntr_lay : (s.setIntr i v).lay = s.lay := rfl
@[simp] theorem State.setIntr_mem : (s.setIntr i v).mem = s.mem := rfl
@[simp] theorem State.setIntr_integ : (s.setIntr i v).integ = s.integ := rfl
@[simp] theorem State.setIntr_chans : (s.setIntr i v).chans = s.chans := rfl
@[simp] theorem State.setIntr_pairs : (s.setIntr i v).pairs = s.pairs := rfl
@[simp] theorem State.setIntr_fronds : (s.setIntr i v).fronds = s.fronds := rfl
@[simp] theorem State.setIntr_flinks : (s.setIntr i v).flinks = s.flinks := rfl
@[simp] theorem State.setIntr_oldLinks : (s.setIntr i v).oldLinks = s.oldLinks := rfl
@[simp] theorem State.setIntr_routeNew : (s.setIntr i v).routeNew = s.routeNew := rfl
@[simp] theorem State.setIntr_fabricHeld : (s.setIntr i v).fabricHeld = s.fabricHeld := rfl
@[simp] theorem State.setIntr_stopped : (s.setIntr i v).stopped = s.stopped := rfl
@[simp] theorem State.setIntr_cores : (s.setIntr i v).cores = s.cores := rfl
@[simp] theorem State.setIntr_engines : (s.setIntr i v).engines = s.engines := rfl
@[simp] theorem State.setIntr_ctxs : (s.setIntr i v).ctxs = s.ctxs := rfl
@[simp] theorem State.setIntr_queues : (s.setIntr i v).queues = s.queues := rfl
@[simp] theorem State.setIntr_sched : (s.setIntr i v).sched = s.sched := rfl
@[simp] theorem State.setIntr_recs : (s.setIntr i v).recs = s.recs := rfl
@[simp] theorem State.setIntr_streams : (s.setIntr i v).streams = s.streams := rfl
@[simp] theorem State.setIntr_flags : (s.setIntr i v).flags = s.flags := rfl
@[simp] theorem State.setIntr_mirrors : (s.setIntr i v).mirrors = s.mirrors := rfl
@[simp] theorem State.setIntr_bars : (s.setIntr i v).bars = s.bars := rfl
@[simp] theorem State.setIntr_own : (s.setIntr i v).own = s.own := rfl
@[simp] theorem State.setIntr_mboxes : (s.setIntr i v).mboxes = s.mboxes := rfl
@[simp] theorem State.setIntr_ports : (s.setIntr i v).ports = s.ports := rfl
@[simp] theorem State.setIntr_evlog : (s.setIntr i v).evlog = s.evlog := rfl
@[simp] theorem State.setIntr_hcores : (s.setIntr i v).hcores = s.hcores := rfl
@[simp] theorem State.setIntr_lines : (s.setIntr i v).lines = s.lines := rfl
@[simp] theorem State.setIntr_power : (s.setIntr i v).power = s.power := rfl
@[simp] theorem State.setIntr_therm : (s.setIntr i v).therm = s.therm := rfl
@[simp] theorem State.setIntr_delays : (s.setIntr i v).delays = s.delays := rfl
@[simp] theorem State.setIntr_shut : (s.setIntr i v).shut = s.shut := rfl
@[simp] theorem State.setIntr_pack : (s.setIntr i v).pack = s.pack := rfl
@[simp] theorem State.setIntr_rports : (s.setIntr i v).rports = s.rports := rfl
@[simp] theorem State.setIntr_group : (s.setIntr i v).group = s.group := rfl
@[simp] theorem State.setIntr_side : (s.setIntr i v).side = s.side := rfl
@[simp] theorem State.setIntr_jtag : (s.setIntr i v).jtag = s.jtag := rfl
@[simp] theorem State.setIntr_booted : (s.setIntr i v).booted = s.booted := rfl
@[simp] theorem State.setIntr_resetBusy : (s.setIntr i v).resetBusy = s.resetBusy := rfl
@[simp] theorem State.setIntr_resetBy : (s.setIntr i v).resetBy = s.resetBy := rfl
@[simp] theorem State.setIntr_voltLogAt : (s.setIntr i v).voltLogAt = s.voltLogAt := rfl
@[simp] theorem State.setIntr_lastAct : (s.setIntr i v).lastAct = s.lastAct := rfl
@[simp] theorem State.setIntr_dlReported : (s.setIntr i v).dlReported = s.dlReported := rfl
@[simp] theorem State.setIntr_out : (s.setIntr i v).out = s.out := rfl
@[simp] theorem State.setIntr_free : (s.setIntr i v).free = s.free := rfl
@[simp] theorem State.setIntr_pending : (s.setIntr i v).pending = s.pending := rfl
@[simp] theorem State.setIntr_get_port (k : Nat) : (s.setIntr i v).port k = s.port k := rfl
@[simp] theorem State.setIntr_get_ctx (k : Nat) : (s.setIntr i v).ctx k = s.ctx k := rfl
@[simp] theorem State.setIntr_get_queue (k : Nat) : (s.setIntr i v).queue k = s.queue k := rfl
@[simp] theorem State.setIntr_get_stream (k : Nat) : (s.setIntr i v).stream k = s.stream k := rfl
@[simp] theorem State.setIntr_get_mbox (k : Nat) : (s.setIntr i v).mbox k = s.mbox k := rfl
@[simp] theorem State.setIntr_get_pair (k : Nat) : (s.setIntr i v).pair k = s.pair k := rfl
@[simp] theorem State.setIntr_get_chan (k : Nat) : (s.setIntr i v).chan k = s.chan k := rfl
@[simp] theorem State.setIntr_get_frond (k : Nat) : (s.setIntr i v).frond k = s.frond k := rfl
@[simp] theorem State.setIntr_get_core (k : Nat) : (s.setIntr i v).core k = s.core k := rfl
@[simp] theorem State.setIntr_get_engine (k : Nat) : (s.setIntr i v).engine k = s.engine k := rfl
@[simp] theorem State.setIntr_get_bar (k : Nat) : (s.setIntr i v).bar k = s.bar k := rfl
@[simp] theorem State.setIntr_get_hcore (k : Nat) : (s.setIntr i v).hcore k = s.hcore k := rfl
@[simp] theorem State.setIntr_get_rport (k : Nat) : (s.setIntr i v).rport k = s.rport k := rfl
@[simp] theorem State.setIntr_get_flink (k : Nat) : (s.setIntr i v).flink k = s.flink k := rfl
@[simp] theorem State.setIntr_get_dom (k : Nat) : (s.setIntr i v).dom k = s.dom k := rfl
@[simp] theorem State.setIntr_get_bucket (k : Nat) : (s.setIntr i v).bucket k = s.bucket k := rfl
@[simp] theorem State.setIntr_get_flagBlock (k : Nat) : (s.setIntr i v).flagBlock k = s.flagBlock k := rfl
end setIntr
@[simp] theorem State.intr_setIntr (s : State) (i : Nat) (v : Intr) : (s.setIntr i v).intr i = v := Tbl.get_put_same _ _ _ _
theorem State.intr_setIntr_ne (s : State) (i : Nat) (v : Intr) {j : Nat} (h : j ≠ i) : (s.setIntr i v).intr j = s.intr j := Tbl.get_put_ne _ _ _ _ h

section advance
variable (s : State) (n : Nat)
@[simp] theorem State.advance_phase : (s.advance n).phase = s.phase := rfl
@[simp] theorem State.advance_valid : (s.advance n).valid = s.valid := rfl
@[simp] theorem State.advance_fw : (s.advance n).fw = s.fw := rfl
@[simp] theorem State.advance_lay : (s.advance n).lay = s.lay := rfl
@[simp] theorem State.advance_mem : (s.advance n).mem = s.mem := rfl
@[simp] theorem State.advance_integ : (s.advance n).integ = s.integ := rfl
@[simp] theorem State.advance_chans : (s.advance n).chans = s.chans := rfl
@[simp] theorem State.advance_pairs : (s.advance n).pairs = s.pairs := rfl
@[simp] theorem State.advance_fronds : (s.advance n).fronds = s.fronds := rfl
@[simp] theorem State.advance_flinks : (s.advance n).flinks = s.flinks := rfl
@[simp] theorem State.advance_oldLinks : (s.advance n).oldLinks = s.oldLinks := rfl
@[simp] theorem State.advance_routeNew : (s.advance n).routeNew = s.routeNew := rfl
@[simp] theorem State.advance_fabricHeld : (s.advance n).fabricHeld = s.fabricHeld := rfl
@[simp] theorem State.advance_stopped : (s.advance n).stopped = s.stopped := rfl
@[simp] theorem State.advance_cores : (s.advance n).cores = s.cores := rfl
@[simp] theorem State.advance_engines : (s.advance n).engines = s.engines := rfl
@[simp] theorem State.advance_ctxs : (s.advance n).ctxs = s.ctxs := rfl
@[simp] theorem State.advance_queues : (s.advance n).queues = s.queues := rfl
@[simp] theorem State.advance_sched : (s.advance n).sched = s.sched := rfl
@[simp] theorem State.advance_recs : (s.advance n).recs = s.recs := rfl
@[simp] theorem State.advance_streams : (s.advance n).streams = s.streams := rfl
@[simp] theorem State.advance_flags : (s.advance n).flags = s.flags := rfl
@[simp] theorem State.advance_mirrors : (s.advance n).mirrors = s.mirrors := rfl
@[simp] theorem State.advance_bars : (s.advance n).bars = s.bars := rfl
@[simp] theorem State.advance_own : (s.advance n).own = s.own := rfl
@[simp] theorem State.advance_mboxes : (s.advance n).mboxes = s.mboxes := rfl
@[simp] theorem State.advance_ports : (s.advance n).ports = s.ports := rfl
@[simp] theorem State.advance_intrs : (s.advance n).intrs = s.intrs := rfl
@[simp] theorem State.advance_evlog : (s.advance n).evlog = s.evlog := rfl
@[simp] theorem State.advance_hcores : (s.advance n).hcores = s.hcores := rfl
@[simp] theorem State.advance_lines : (s.advance n).lines = s.lines := rfl
@[simp] theorem State.advance_power : (s.advance n).power = s.power := rfl
@[simp] theorem State.advance_therm : (s.advance n).therm = s.therm := rfl
@[simp] theorem State.advance_delays : (s.advance n).delays = s.delays := rfl
@[simp] theorem State.advance_shut : (s.advance n).shut = s.shut := rfl
@[simp] theorem State.advance_pack : (s.advance n).pack = s.pack := rfl
@[simp] theorem State.advance_rports : (s.advance n).rports = s.rports := rfl
@[simp] theorem State.advance_group : (s.advance n).group = s.group := rfl
@[simp] theorem State.advance_side : (s.advance n).side = s.side := rfl
@[simp] theorem State.advance_jtag : (s.advance n).jtag = s.jtag := rfl
@[simp] theorem State.advance_booted : (s.advance n).booted = s.booted := rfl
@[simp] theorem State.advance_resetBusy : (s.advance n).resetBusy = s.resetBusy := rfl
@[simp] theorem State.advance_resetBy : (s.advance n).resetBy = s.resetBy := rfl
@[simp] theorem State.advance_voltLogAt : (s.advance n).voltLogAt = s.voltLogAt := rfl
@[simp] theorem State.advance_lastAct : (s.advance n).lastAct = s.lastAct := rfl
@[simp] theorem State.advance_dlReported : (s.advance n).dlReported = s.dlReported := rfl
@[simp] theorem State.advance_out : (s.advance n).out = s.out := rfl
@[simp] theorem State.advance_free : (s.advance n).free = s.free := rfl
@[simp] theorem State.advance_pending : (s.advance n).pending = s.pending := rfl
@[simp] theorem State.advance_get_port (k : Nat) : (s.advance n).port k = s.port k := rfl
@[simp] theorem State.advance_get_ctx (k : Nat) : (s.advance n).ctx k = s.ctx k := rfl
@[simp] theorem State.advance_get_queue (k : Nat) : (s.advance n).queue k = s.queue k := rfl
@[simp] theorem State.advance_get_stream (k : Nat) : (s.advance n).stream k = s.stream k := rfl
@[simp] theorem State.advance_get_mbox (k : Nat) : (s.advance n).mbox k = s.mbox k := rfl
@[simp] theorem State.advance_get_pair (k : Nat) : (s.advance n).pair k = s.pair k := rfl
@[simp] theorem State.advance_get_chan (k : Nat) : (s.advance n).chan k = s.chan k := rfl
@[simp] theorem State.advance_get_frond (k : Nat) : (s.advance n).frond k = s.frond k := rfl
@[simp] theorem State.advance_get_core (k : Nat) : (s.advance n).core k = s.core k := rfl
@[simp] theorem State.advance_get_engine (k : Nat) : (s.advance n).engine k = s.engine k := rfl
@[simp] theorem State.advance_get_bar (k : Nat) : (s.advance n).bar k = s.bar k := rfl
@[simp] theorem State.advance_get_hcore (k : Nat) : (s.advance n).hcore k = s.hcore k := rfl
@[simp] theorem State.advance_get_rport (k : Nat) : (s.advance n).rport k = s.rport k := rfl
@[simp] theorem State.advance_get_flink (k : Nat) : (s.advance n).flink k = s.flink k := rfl
@[simp] theorem State.advance_get_dom (k : Nat) : (s.advance n).dom k = s.dom k := rfl
@[simp] theorem State.advance_get_bucket (k : Nat) : (s.advance n).bucket k = s.bucket k := rfl
@[simp] theorem State.advance_get_intr (k : Nat) : (s.advance n).intr k = s.intr k := rfl
@[simp] theorem State.advance_get_flagBlock (k : Nat) : (s.advance n).flagBlock k = s.flagBlock k := rfl
end advance

section tick
variable (s : State)
@[simp] theorem State.tick_phase : (s.tick).phase = s.phase := rfl
@[simp] theorem State.tick_valid : (s.tick).valid = s.valid := rfl
@[simp] theorem State.tick_fw : (s.tick).fw = s.fw := rfl
@[simp] theorem State.tick_lay : (s.tick).lay = s.lay := rfl
@[simp] theorem State.tick_mem : (s.tick).mem = s.mem := rfl
@[simp] theorem State.tick_integ : (s.tick).integ = s.integ := rfl
@[simp] theorem State.tick_chans : (s.tick).chans = s.chans := rfl
@[simp] theorem State.tick_pairs : (s.tick).pairs = s.pairs := rfl
@[simp] theorem State.tick_fronds : (s.tick).fronds = s.fronds := rfl
@[simp] theorem State.tick_flinks : (s.tick).flinks = s.flinks := rfl
@[simp] theorem State.tick_oldLinks : (s.tick).oldLinks = s.oldLinks := rfl
@[simp] theorem State.tick_routeNew : (s.tick).routeNew = s.routeNew := rfl
@[simp] theorem State.tick_fabricHeld : (s.tick).fabricHeld = s.fabricHeld := rfl
@[simp] theorem State.tick_stopped : (s.tick).stopped = s.stopped := rfl
@[simp] theorem State.tick_cores : (s.tick).cores = s.cores := rfl
@[simp] theorem State.tick_engines : (s.tick).engines = s.engines := rfl
@[simp] theorem State.tick_ctxs : (s.tick).ctxs = s.ctxs := rfl
@[simp] theorem State.tick_queues : (s.tick).queues = s.queues := rfl
@[simp] theorem State.tick_sched : (s.tick).sched = s.sched := rfl
@[simp] theorem State.tick_recs : (s.tick).recs = s.recs := rfl
@[simp] theorem State.tick_streams : (s.tick).streams = s.streams := rfl
@[simp] theorem State.tick_flags : (s.tick).flags = s.flags := rfl
@[simp] theorem State.tick_mirrors : (s.tick).mirrors = s.mirrors := rfl
@[simp] theorem State.tick_bars : (s.tick).bars = s.bars := rfl
@[simp] theorem State.tick_own : (s.tick).own = s.own := rfl
@[simp] theorem State.tick_mboxes : (s.tick).mboxes = s.mboxes := rfl
@[simp] theorem State.tick_ports : (s.tick).ports = s.ports := rfl
@[simp] theorem State.tick_intrs : (s.tick).intrs = s.intrs := rfl
@[simp] theorem State.tick_evlog : (s.tick).evlog = s.evlog := rfl
@[simp] theorem State.tick_hcores : (s.tick).hcores = s.hcores := rfl
@[simp] theorem State.tick_lines : (s.tick).lines = s.lines := rfl
@[simp] theorem State.tick_power : (s.tick).power = s.power := rfl
@[simp] theorem State.tick_therm : (s.tick).therm = s.therm := rfl
@[simp] theorem State.tick_delays : (s.tick).delays = s.delays := rfl
@[simp] theorem State.tick_shut : (s.tick).shut = s.shut := rfl
@[simp] theorem State.tick_pack : (s.tick).pack = s.pack := rfl
@[simp] theorem State.tick_rports : (s.tick).rports = s.rports := rfl
@[simp] theorem State.tick_group : (s.tick).group = s.group := rfl
@[simp] theorem State.tick_side : (s.tick).side = s.side := rfl
@[simp] theorem State.tick_jtag : (s.tick).jtag = s.jtag := rfl
@[simp] theorem State.tick_booted : (s.tick).booted = s.booted := rfl
@[simp] theorem State.tick_resetBusy : (s.tick).resetBusy = s.resetBusy := rfl
@[simp] theorem State.tick_resetBy : (s.tick).resetBy = s.resetBy := rfl
@[simp] theorem State.tick_voltLogAt : (s.tick).voltLogAt = s.voltLogAt := rfl
@[simp] theorem State.tick_lastAct : (s.tick).lastAct = s.lastAct := rfl
@[simp] theorem State.tick_dlReported : (s.tick).dlReported = s.dlReported := rfl
@[simp] theorem State.tick_out : (s.tick).out = s.out := rfl
@[simp] theorem State.tick_free : (s.tick).free = s.free := rfl
@[simp] theorem State.tick_pending : (s.tick).pending = s.pending := rfl
@[simp] theorem State.tick_get_port (k : Nat) : (s.tick).port k = s.port k := rfl
@[simp] theorem State.tick_get_ctx (k : Nat) : (s.tick).ctx k = s.ctx k := rfl
@[simp] theorem State.tick_get_queue (k : Nat) : (s.tick).queue k = s.queue k := rfl
@[simp] theorem State.tick_get_stream (k : Nat) : (s.tick).stream k = s.stream k := rfl
@[simp] theorem State.tick_get_mbox (k : Nat) : (s.tick).mbox k = s.mbox k := rfl
@[simp] theorem State.tick_get_pair (k : Nat) : (s.tick).pair k = s.pair k := rfl
@[simp] theorem State.tick_get_chan (k : Nat) : (s.tick).chan k = s.chan k := rfl
@[simp] theorem State.tick_get_frond (k : Nat) : (s.tick).frond k = s.frond k := rfl
@[simp] theorem State.tick_get_core (k : Nat) : (s.tick).core k = s.core k := rfl
@[simp] theorem State.tick_get_engine (k : Nat) : (s.tick).engine k = s.engine k := rfl
@[simp] theorem State.tick_get_bar (k : Nat) : (s.tick).bar k = s.bar k := rfl
@[simp] theorem State.tick_get_hcore (k : Nat) : (s.tick).hcore k = s.hcore k := rfl
@[simp] theorem State.tick_get_rport (k : Nat) : (s.tick).rport k = s.rport k := rfl
@[simp] theorem State.tick_get_flink (k : Nat) : (s.tick).flink k = s.flink k := rfl
@[simp] theorem State.tick_get_dom (k : Nat) : (s.tick).dom k = s.dom k := rfl
@[simp] theorem State.tick_get_bucket (k : Nat) : (s.tick).bucket k = s.bucket k := rfl
@[simp] theorem State.tick_get_intr (k : Nat) : (s.tick).intr k = s.intr k := rfl
@[simp] theorem State.tick_get_flagBlock (k : Nat) : (s.tick).flagBlock k = s.flagBlock k := rfl
end tick

section fresh
variable (s : State)
@[simp] theorem State.fresh_time : (s.fresh).time = s.time := rfl
@[simp] theorem State.fresh_phase : (s.fresh).phase = s.phase := rfl
@[simp] theorem State.fresh_valid : (s.fresh).valid = s.valid := rfl
@[simp] theorem State.fresh_fw : (s.fresh).fw = s.fw := rfl
@[simp] theorem State.fresh_lay : (s.fresh).lay = s.lay := rfl
@[simp] theorem State.fresh_mem : (s.fresh).mem = s.mem := rfl
@[simp] theorem State.fresh_integ : (s.fresh).integ = s.integ := rfl
@[simp] theorem State.fresh_chans : (s.fresh).chans = s.chans := rfl
@[simp] theorem State.fresh_pairs : (s.fresh).pairs = s.pairs := rfl
@[simp] theorem State.fresh_fronds : (s.fresh).fronds = s.fronds := rfl
@[simp] theorem State.fresh_flinks : (s.fresh).flinks = s.flinks := rfl
@[simp] theorem State.fresh_oldLinks : (s.fresh).oldLinks = s.oldLinks := rfl
@[simp] theorem State.fresh_routeNew : (s.fresh).routeNew = s.routeNew := rfl
@[simp] theorem State.fresh_fabricHeld : (s.fresh).fabricHeld = s.fabricHeld := rfl
@[simp] theorem State.fresh_stopped : (s.fresh).stopped = s.stopped := rfl
@[simp] theorem State.fresh_cores : (s.fresh).cores = s.cores := rfl
@[simp] theorem State.fresh_engines : (s.fresh).engines = s.engines := rfl
@[simp] theorem State.fresh_ctxs : (s.fresh).ctxs = s.ctxs := rfl
@[simp] theorem State.fresh_queues : (s.fresh).queues = s.queues := rfl
@[simp] theorem State.fresh_sched : (s.fresh).sched = s.sched := rfl
@[simp] theorem State.fresh_recs : (s.fresh).recs = s.recs := rfl
@[simp] theorem State.fresh_streams : (s.fresh).streams = s.streams := rfl
@[simp] theorem State.fresh_flags : (s.fresh).flags = s.flags := rfl
@[simp] theorem State.fresh_mirrors : (s.fresh).mirrors = s.mirrors := rfl
@[simp] theorem State.fresh_bars : (s.fresh).bars = s.bars := rfl
@[simp] theorem State.fresh_own : (s.fresh).own = s.own := rfl
@[simp] theorem State.fresh_mboxes : (s.fresh).mboxes = s.mboxes := rfl
@[simp] theorem State.fresh_ports : (s.fresh).ports = s.ports := rfl
@[simp] theorem State.fresh_intrs : (s.fresh).intrs = s.intrs := rfl
@[simp] theorem State.fresh_evlog : (s.fresh).evlog = s.evlog := rfl
@[simp] theorem State.fresh_hcores : (s.fresh).hcores = s.hcores := rfl
@[simp] theorem State.fresh_lines : (s.fresh).lines = s.lines := rfl
@[simp] theorem State.fresh_power : (s.fresh).power = s.power := rfl
@[simp] theorem State.fresh_therm : (s.fresh).therm = s.therm := rfl
@[simp] theorem State.fresh_delays : (s.fresh).delays = s.delays := rfl
@[simp] theorem State.fresh_shut : (s.fresh).shut = s.shut := rfl
@[simp] theorem State.fresh_pack : (s.fresh).pack = s.pack := rfl
@[simp] theorem State.fresh_rports : (s.fresh).rports = s.rports := rfl
@[simp] theorem State.fresh_group : (s.fresh).group = s.group := rfl
@[simp] theorem State.fresh_side : (s.fresh).side = s.side := rfl
@[simp] theorem State.fresh_jtag : (s.fresh).jtag = s.jtag := rfl
@[simp] theorem State.fresh_booted : (s.fresh).booted = s.booted := rfl
@[simp] theorem State.fresh_resetBusy : (s.fresh).resetBusy = s.resetBusy := rfl
@[simp] theorem State.fresh_resetBy : (s.fresh).resetBy = s.resetBy := rfl
@[simp] theorem State.fresh_voltLogAt : (s.fresh).voltLogAt = s.voltLogAt := rfl
@[simp] theorem State.fresh_lastAct : (s.fresh).lastAct = s.lastAct := rfl
@[simp] theorem State.fresh_dlReported : (s.fresh).dlReported = s.dlReported := rfl
@[simp] theorem State.fresh_out : (s.fresh).out = s.out := rfl
@[simp] theorem State.fresh_pending : (s.fresh).pending = s.pending := rfl
@[simp] theorem State.fresh_get_port (k : Nat) : (s.fresh).port k = s.port k := rfl
@[simp] theorem State.fresh_get_ctx (k : Nat) : (s.fresh).ctx k = s.ctx k := rfl
@[simp] theorem State.fresh_get_queue (k : Nat) : (s.fresh).queue k = s.queue k := rfl
@[simp] theorem State.fresh_get_stream (k : Nat) : (s.fresh).stream k = s.stream k := rfl
@[simp] theorem State.fresh_get_mbox (k : Nat) : (s.fresh).mbox k = s.mbox k := rfl
@[simp] theorem State.fresh_get_pair (k : Nat) : (s.fresh).pair k = s.pair k := rfl
@[simp] theorem State.fresh_get_chan (k : Nat) : (s.fresh).chan k = s.chan k := rfl
@[simp] theorem State.fresh_get_frond (k : Nat) : (s.fresh).frond k = s.frond k := rfl
@[simp] theorem State.fresh_get_core (k : Nat) : (s.fresh).core k = s.core k := rfl
@[simp] theorem State.fresh_get_engine (k : Nat) : (s.fresh).engine k = s.engine k := rfl
@[simp] theorem State.fresh_get_bar (k : Nat) : (s.fresh).bar k = s.bar k := rfl
@[simp] theorem State.fresh_get_hcore (k : Nat) : (s.fresh).hcore k = s.hcore k := rfl
@[simp] theorem State.fresh_get_rport (k : Nat) : (s.fresh).rport k = s.rport k := rfl
@[simp] theorem State.fresh_get_flink (k : Nat) : (s.fresh).flink k = s.flink k := rfl
@[simp] theorem State.fresh_get_dom (k : Nat) : (s.fresh).dom k = s.dom k := rfl
@[simp] theorem State.fresh_get_bucket (k : Nat) : (s.fresh).bucket k = s.bucket k := rfl
@[simp] theorem State.fresh_get_intr (k : Nat) : (s.fresh).intr k = s.intr k := rfl
@[simp] theorem State.fresh_get_flagBlock (k : Nat) : (s.fresh).flagBlock k = s.flagBlock k := rfl
end fresh

section emit
variable (s : State) (o : Out)
@[simp] theorem State.emit_time : (s.emit o).time = s.time := rfl
@[simp] theorem State.emit_phase : (s.emit o).phase = s.phase := rfl
@[simp] theorem State.emit_valid : (s.emit o).valid = s.valid := rfl
@[simp] theorem State.emit_fw : (s.emit o).fw = s.fw := rfl
@[simp] theorem State.emit_lay : (s.emit o).lay = s.lay := rfl
@[simp] theorem State.emit_mem : (s.emit o).mem = s.mem := rfl
@[simp] theorem State.emit_integ : (s.emit o).integ = s.integ := rfl
@[simp] theorem State.emit_chans : (s.emit o).chans = s.chans := rfl
@[simp] theorem State.emit_pairs : (s.emit o).pairs = s.pairs := rfl
@[simp] theorem State.emit_fronds : (s.emit o).fronds = s.fronds := rfl
@[simp] theorem State.emit_flinks : (s.emit o).flinks = s.flinks := rfl
@[simp] theorem State.emit_oldLinks : (s.emit o).oldLinks = s.oldLinks := rfl
@[simp] theorem State.emit_routeNew : (s.emit o).routeNew = s.routeNew := rfl
@[simp] theorem State.emit_fabricHeld : (s.emit o).fabricHeld = s.fabricHeld := rfl
@[simp] theorem State.emit_stopped : (s.emit o).stopped = s.stopped := rfl
@[simp] theorem State.emit_cores : (s.emit o).cores = s.cores := rfl
@[simp] theorem State.emit_engines : (s.emit o).engines = s.engines := rfl
@[simp] theorem State.emit_ctxs : (s.emit o).ctxs = s.ctxs := rfl
@[simp] theorem State.emit_queues : (s.emit o).queues = s.queues := rfl
@[simp] theorem State.emit_sched : (s.emit o).sched = s.sched := rfl
@[simp] theorem State.emit_recs : (s.emit o).recs = s.recs := rfl
@[simp] theorem State.emit_streams : (s.emit o).streams = s.streams := rfl
@[simp] theorem State.emit_flags : (s.emit o).flags = s.flags := rfl
@[simp] theorem State.emit_mirrors : (s.emit o).mirrors = s.mirrors := rfl
@[simp] theorem State.emit_bars : (s.emit o).bars = s.bars := rfl
@[simp] theorem State.emit_own : (s.emit o).own = s.own := rfl
@[simp] theorem State.emit_mboxes : (s.emit o).mboxes = s.mboxes := rfl
@[simp] theorem State.emit_ports : (s.emit o).ports = s.ports := rfl
@[simp] theorem State.emit_intrs : (s.emit o).intrs = s.intrs := rfl
@[simp] theorem State.emit_evlog : (s.emit o).evlog = s.evlog := rfl
@[simp] theorem State.emit_hcores : (s.emit o).hcores = s.hcores := rfl
@[simp] theorem State.emit_lines : (s.emit o).lines = s.lines := rfl
@[simp] theorem State.emit_power : (s.emit o).power = s.power := rfl
@[simp] theorem State.emit_therm : (s.emit o).therm = s.therm := rfl
@[simp] theorem State.emit_delays : (s.emit o).delays = s.delays := rfl
@[simp] theorem State.emit_shut : (s.emit o).shut = s.shut := rfl
@[simp] theorem State.emit_pack : (s.emit o).pack = s.pack := rfl
@[simp] theorem State.emit_rports : (s.emit o).rports = s.rports := rfl
@[simp] theorem State.emit_group : (s.emit o).group = s.group := rfl
@[simp] theorem State.emit_side : (s.emit o).side = s.side := rfl
@[simp] theorem State.emit_jtag : (s.emit o).jtag = s.jtag := rfl
@[simp] theorem State.emit_booted : (s.emit o).booted = s.booted := rfl
@[simp] theorem State.emit_resetBusy : (s.emit o).resetBusy = s.resetBusy := rfl
@[simp] theorem State.emit_resetBy : (s.emit o).resetBy = s.resetBy := rfl
@[simp] theorem State.emit_voltLogAt : (s.emit o).voltLogAt = s.voltLogAt := rfl
@[simp] theorem State.emit_lastAct : (s.emit o).lastAct = s.lastAct := rfl
@[simp] theorem State.emit_dlReported : (s.emit o).dlReported = s.dlReported := rfl
@[simp] theorem State.emit_free : (s.emit o).free = s.free := rfl
@[simp] theorem State.emit_pending : (s.emit o).pending = s.pending := rfl
@[simp] theorem State.emit_get_port (k : Nat) : (s.emit o).port k = s.port k := rfl
@[simp] theorem State.emit_get_ctx (k : Nat) : (s.emit o).ctx k = s.ctx k := rfl
@[simp] theorem State.emit_get_queue (k : Nat) : (s.emit o).queue k = s.queue k := rfl
@[simp] theorem State.emit_get_stream (k : Nat) : (s.emit o).stream k = s.stream k := rfl
@[simp] theorem State.emit_get_mbox (k : Nat) : (s.emit o).mbox k = s.mbox k := rfl
@[simp] theorem State.emit_get_pair (k : Nat) : (s.emit o).pair k = s.pair k := rfl
@[simp] theorem State.emit_get_chan (k : Nat) : (s.emit o).chan k = s.chan k := rfl
@[simp] theorem State.emit_get_frond (k : Nat) : (s.emit o).frond k = s.frond k := rfl
@[simp] theorem State.emit_get_core (k : Nat) : (s.emit o).core k = s.core k := rfl
@[simp] theorem State.emit_get_engine (k : Nat) : (s.emit o).engine k = s.engine k := rfl
@[simp] theorem State.emit_get_bar (k : Nat) : (s.emit o).bar k = s.bar k := rfl
@[simp] theorem State.emit_get_hcore (k : Nat) : (s.emit o).hcore k = s.hcore k := rfl
@[simp] theorem State.emit_get_rport (k : Nat) : (s.emit o).rport k = s.rport k := rfl
@[simp] theorem State.emit_get_flink (k : Nat) : (s.emit o).flink k = s.flink k := rfl
@[simp] theorem State.emit_get_dom (k : Nat) : (s.emit o).dom k = s.dom k := rfl
@[simp] theorem State.emit_get_bucket (k : Nat) : (s.emit o).bucket k = s.bucket k := rfl
@[simp] theorem State.emit_get_intr (k : Nat) : (s.emit o).intr k = s.intr k := rfl
@[simp] theorem State.emit_get_flagBlock (k : Nat) : (s.emit o).flagBlock k = s.flagBlock k := rfl
end emit

@[simp] theorem State.advance_time_now (s : State) (n : Nat) : (s.advance n).time.now = if s.phase.powered then Nat.max s.time.now n else s.time.now := rfl
@[simp] theorem State.fresh_free (s : State) : s.fresh.free = s.free + 1 := rfl
@[simp] theorem State.emit_out (s : State) (o : Out) : (s.emit o).out = o :: s.out := rfl

end Sys2Proof.Machine
end

