-- ==== Sys2Proof/Laws/Notices.lean ====
section
/-! SUPPORT. What interrupts and log entries can change: the interrupt pages, the pending bits of ports, the two logs, the outputs. -/

namespace Sys2Proof.Machine

open Sys2Proof

/-- `t` is `s` but for interrupt pages, ports, the logs and what leaves the module. -/
def Notice (s t : State) : Prop :=
  ∃ ps is ev ig o, t = { s with ports := ps, intrs := is, evlog := ev, integ := ig, out := o }

namespace Notice
variable {s t : State}

theorem refl (s : State) : Notice s s := ⟨_, _, _, _, _, rfl⟩

theorem trans {u : State} (h : Notice s t) (k : Notice t u) : Notice s u := by
  obtain ⟨_, _, _, _, _, rfl⟩ := h
  obtain ⟨_, _, _, _, _, rfl⟩ := k
  exact ⟨_, _, _, _, _, rfl⟩

theorem ite {c : Prop} [Decidable c] {a b : State} (ha : Notice s a) (hb : Notice s b) : Notice s (if c then a else b) := by
  split <;> assumption

/-- A fold of notices is a notice. -/
theorem foldl {α : Type} {f : State → α → State} (hf : ∀ t x, Notice s t → Notice s (f t x)) (l : List α) (h : Notice s t) :
    Notice s (l.foldl f t) := by
  induction l generalizing t with
  | nil => exact h
  | cons a l ih => exact ih (hf t a h)

theorem setPort (h : Notice s t) (p : Nat) (v : Port) : Notice s (t.setPort p v) := h.trans ⟨_, _, _, _, _, rfl⟩
theorem setIntr (h : Notice s t) (i : Nat) (v : Intr) : Notice s (t.setIntr i v) := h.trans ⟨_, _, _, _, _, rfl⟩
theorem setBucket (h : Notice s t) (st : Nat) (v : Bucket) : Notice s (t.setBucket st v) := h.trans ⟨_, _, _, _, _, rfl⟩
theorem emit (h : Notice s t) (o : Out) : Notice s (t.emit o) := h.trans ⟨_, _, _, _, _, rfl⟩
theorem setEvlog (h : Notice s t) (l : EvLog) : Notice s { t with evlog := l } := h.trans ⟨_, _, _, _, _, rfl⟩
theorem setInteg (h : Notice s t) (l : Integrity) : Notice s { t with integ := l } := h.trans ⟨_, _, _, _, _, rfl⟩

/-- R255: what a port sends its host leaves the module, or waits at the port. -/
theorem toHost (h : Notice s t) (p : Fin 4) (o : Out) : Notice s (t.toHost p o) := by
  unfold State.toHost
  exact ite h (ite (h.setPort _ _) (h.emit _))

/-- R248: a message changes a port's pending bits, waits at the port or leaves the module. -/
theorem msix (h : Notice s t) (p : Fin 4) (v : Nat) : Notice s (t.msix p v) := by
  unfold State.msix
  exact ite h (ite (h.toHost _ _) (h.setPort _ _))

theorem msixAll (h : Notice s t) (v : Nat) : Notice s (t.msixAll v) := (((h.msix 0 v).msix 1 v).msix 2 v).msix 3 v

theorem eachIntr (h : Notice s t) (f : Intr → Intr) : Notice s (t.eachIntr f) := foldl (fun _ i h => h.setIntr i _) _ h

theorem ownershipIrq (h : Notice s t) : Notice s t.ownershipIrq := (h.eachIntr _).msixAll 3

theorem evAdd (h : Notice s t) (e : EvEntry) : Notice s (t.evAdd e) := by
  refine foldl (fun u p hu => ?_) _ (h.setEvlog _)
  split
  · exact hu
  · exact hu.msix p 2

theorem ev (h : Notice s t) (kind status unit d0 d1 d2 d3 d4 : Nat) : Notice s (t.ev kind status unit d0 d1 d2 d3 d4) :=
  h.evAdd _

theorem moduleError (h : Notice s t) (st : Nat) : Notice s (t.moduleError st) := ((h.setEvlog _).eachIntr _).msixAll 0

theorem conservation (h : Notice s t) (u r : Nat) : Notice s (t.conservation u r) := (h.ev _ _ _ _ _ _ _ _).moduleError _

theorem err (h : Notice s t) (kind dpa byte requester unit : Nat) : Notice s (t.err kind dpa byte requester unit) := by
  unfold State.err
  dsimp only
  split
  · split <;> exact h.setInteg _
  · exact h.setInteg _

theorem bucketOver (h : Notice s t) (st : Nat) : Notice s (t.bucketOver st) := ((h.err _ _ _ _ _).eachIntr _).msixAll 2

theorem corrected (h : Notice s t) (st : Nat) : Notice s (t.corrected st) := by
  unfold State.corrected
  dsimp only
  split
  · exact (h.setBucket _ _).bucketOver _
  · exact h.setBucket _ _

theorem logBad (h : Notice s t) (req : Requester) (col : Nat) (poisoned : Bool) : Notice s (t.logBad req col poisoned) := by
  unfold State.logBad
  exact ite (ite ((h.setInteg _).err _ _ _ _ _) h) (h.err _ _ _ _ _)

theorem logDiscard (h : Notice s t) (a : Agent) (st addr v : Nat) : Notice s (t.logDiscard a st addr v) :=
  h.ev _ _ _ _ _ _ _ _

/-- R243: a discarded write is counted, logged and reported: nothing else. -/
theorem discard (h : Notice s t) (p : Fin 4) (addr v : Nat) : Notice s (t.discard p addr v) := by
  unfold State.discard
  refine ite (toHost (ite ?_ ?_) _ _) (ite ?_ ?_)
  · exact (h.setPort _ _).ev _ _ _ _ _ _ _ _
  · exact h.setPort _ _
  · exact (h.setPort _ _).ev _ _ _ _ _ _ _ _
  · exact h.setPort _ _

end Notice

end Sys2Proof.Machine
end

