-- ==== Sys2Proof/Laws/Memory.lean ====
section
/-! SUPPORT. Device memory: the canonical form, and that every memory operation keeps it. -/

namespace Sys2Proof.Machine

open Sys2Proof

/-- The four parts of the canonical form. -/
theorem DMem.wf_iff (m : DMem) : m.wf = true ↔
    m.bytes.Pairwise (fun a b : Host.Cell => a.1 < b.1) ∧ (∀ c ∈ m.bytes, c.2 ≠ 0 ∨ m.tag (c.1 / 32) ≠ 0)
      ∧ m.check.Pairwise (fun a b : Nat × BitVec 48 => a.1 < b.1) ∧ (∀ c ∈ m.check, c.2 ≠ zeroCheck ∨ m.tag c.1 ≠ 0) := by
  simp [DMem.wf, and_assoc]

/-- The cells that a column's store lists lie in the column, in order, and are canonical. -/
theorem colCells_rising (keep : Bool) (col : Nat) (d : BitVec 256) :
    (colCells keep col d).Pairwise (fun a b : Host.Cell => a.1 < b.1) := by
  unfold colCells
  refine List.Pairwise.filter _ ?_
  rw [List.pairwise_map]
  exact List.pairwise_lt_range.imp fun h => by simpa using h

theorem colCells_mem {keep : Bool} {col : Nat} {d : BitVec 256} {c : Host.Cell} (h : c ∈ colCells keep col d) :
    32 * col ≤ c.1 ∧ c.1 < 32 * col + 32 ∧ (c.2 ≠ 0 ∨ keep = true) := by
  simp only [colCells, List.mem_filter, List.mem_map, List.mem_range, Bool.or_eq_true, bne_iff_ne] at h
  obtain ⟨⟨i, hi, rfl⟩, hk⟩ := h
  exact ⟨Nat.le_add_right _ _, by simpa using hi, hk.symm⟩

/-- A store keeps the canonical form of device memory. -/
theorem DMem.wf_store {m : DMem} (h : m.wf = true) (col : Nat) (d : BitVec 256) (k : BitVec 48) : (m.store col d k).wf = true := by
  obtain ⟨hb, hz, hc, hk⟩ := m.wf_iff.1 h
  have ht : ∀ c, (m.store col d k).tag c = m.tag c := fun _ => rfl
  rw [DMem.wf_iff]
  refine ⟨?_, fun c hm => ?_, Tbl.rising_putKeep _ _ _ _ hc, fun c hm => ?_⟩
  · simp only [DMem.store, storeBytes]
    rw [List.pairwise_append, List.pairwise_append]
    refine ⟨⟨hb.filter _, colCells_rising _ _ _, fun a ha b hb => ?_⟩, hb.filter _, fun a ha b hb => ?_⟩
    · have h1 := List.mem_filter.1 ha
      have h2 := colCells_mem hb
      simp only [decide_eq_true_eq] at h1; omega
    · have h2 := List.mem_filter.1 hb
      simp only [decide_eq_true_eq] at h2
      rcases List.mem_append.1 ha with ha | ha
      · have h1 := List.mem_filter.1 ha
        simp only [decide_eq_true_eq] at h1; omega
      · have h1 := colCells_mem ha
        omega
  · rw [ht]
    simp only [DMem.store, storeBytes, List.mem_append, List.mem_filter] at hm
    rcases hm with (hm | hm) | hm
    · exact hz c hm.1
    · have h1 := colCells_mem hm
      refine h1.2.2.imp id fun hkeep => ?_
      have : c.1 / 32 = col := by omega
      rw [this]; simpa using hkeep
    · exact hz c hm.1
  · rw [ht]
    rcases Tbl.mem_putKeep hm with ⟨rfl, hx⟩ | hx
    · exact hx.imp id fun hx => by simpa using hx
    · exact hk c hx.1

/-- Fields of device memory besides bytes, check bits and tags do not matter to its form. -/
theorem DMem.wf_congr {m m' : DMem} (hb : m'.bytes = m.bytes) (hc : m'.check = m.check) (hu : m'.undef = m.undef) :
    m'.wf = m.wf := by
  simp only [DMem.wf, DMem.tag, hb, hc, hu]

/-- Memory with nothing listed is canonical. -/
theorem DMem.wf_nil {m : DMem} (hb : m.bytes = []) (hc : m.check = []) : m.wf = true := by
  simp [DMem.wf, hb, hc]

/-- Device memory right after a power-on is canonical. -/
theorem State.reset_mem_wf : State.reset.mem.wf = true := DMem.wf_nil rfl rfl

/-- Dropping the pseudo-channels that a test names, with new tags for them only, keeps the canonical form. -/
theorem DMem.wf_drop {m m' : DMem} (h : m.wf = true) (f : Nat → Bool) (hb : m'.bytes = m.bytes.filter fun c => !f (locOf (c.1 / 32)).gpc)
    (hc : m'.check = m.check.filter fun c => !f (locOf c.1).gpc)
    (hu : ∀ g, f g = false → Tbl.get 0 m'.undef g = Tbl.get 0 m.undef g) : m'.wf = true := by
  obtain ⟨h1, h2, h3, h4⟩ := m.wf_iff.1 h
  rw [DMem.wf_iff, hb, hc]
  refine ⟨h1.filter _, fun c hm => ?_, h3.filter _, fun c hm => ?_⟩
  · have hm := List.mem_filter.1 hm
    have := h2 c hm.1
    unfold DMem.tag at this ⊢
    rwa [hu _ (by simpa using hm.2)]
  · have hm := List.mem_filter.1 hm
    have := h4 c hm.1
    unfold DMem.tag at this ⊢
    rwa [hu _ (by simpa using hm.2)]

end Sys2Proof.Machine
end

