-- ==== Sys2Proof/Laws/Work.lean ====
section
/-! SUPPORT. What the work of records, contexts, flags and units leaves alone: the fields of the module as a whole, and the canonical form
of device memory. -/

namespace Sys2Proof.Machine

open Sys2Proof

/-- What the work of records, contexts, flags and units never touches. -/
def frozen (s : State) : Time × Phase × Bool × Firmware × Layout × List (Nat × Nat × Nat) × Owner × Tbl Mbox × Therm × Shut × Pack
    × Side × Debug × Bool × Bool × Option Nat × List Instr :=
  (s.time, s.phase, s.valid, s.fw, s.lay, s.routeNew, s.own, s.mboxes, s.therm, s.shut, s.pack, s.side, s.jtag, s.booted,
    s.resetBusy, s.voltLogAt, s.pending)

/-- `t` comes from `s` by work: the frozen fields stand, and memory keeps its canonical form. -/
def Work (s t : State) : Prop := frozen t = frozen s ∧ (s.mem.wf = true → t.mem.wf = true)

namespace Work
variable {s t : State}

theorem refl (s : State) : Work s s := ⟨rfl, id⟩

theorem trans {u : State} (h : Work s t) (k : Work t u) : Work s u := ⟨k.1.trans h.1, fun w => k.2 (h.2 w)⟩

/-- An update of fields that are not frozen. -/
theorem same {u : State} (h : Work s t) (e : frozen u = frozen t) (hm : u.mem = t.mem) : Work s u :=
  h.trans ⟨e, fun w => by rw [hm]; exact w⟩

/-- An update of device memory that keeps its form. -/
theorem memory {u : State} (h : Work s t) (e : frozen u = frozen t) (hm : t.mem.wf = true → u.mem.wf = true) : Work s u :=
  h.trans ⟨e, hm⟩

theorem notice {u : State} (h : Work s t) (n : Notice t u) : Work s u := by
  obtain ⟨_, _, _, _, _, rfl⟩ := n
  exact h.same rfl rfl

theorem ite {c : Prop} [Decidable c] {a b : State} (ha : Work s a) (hb : Work s b) : Work s (if c then a else b) := by
  split <;> assumption

theorem foldl {α : Type} {f : State → α → State} (hf : ∀ t x, Work s t → Work s (f t x)) (l : List α) (h : Work s t) :
    Work s (l.foldl f t) := by
  induction l generalizing t with
  | nil => exact h
  | cons a l ih => exact ih (hf t a h)

/-! ## Plain updates -/

theorem setPort (h : Work s t) (p : Nat) (v : Port) : Work s (t.setPort p v) := h.same rfl rfl
theorem setCtx (h : Work s t) (c : Nat) (v : Ctx) : Work s (t.setCtx c v) := h.same rfl rfl
theorem setQueue (h : Work s t) (q : Nat) (v : Queue) : Work s (t.setQueue q v) := h.same rfl rfl
theorem setStream (h : Work s t) (i : Nat) (v : Stream) : Work s (t.setStream i v) := h.same rfl rfl
theorem setPair (h : Work s t) (i : Nat) (v : Pair) : Work s (t.setPair i v) := h.same rfl rfl
theorem setChan (h : Work s t) (i : Nat) (v : Chan) : Work s (t.setChan i v) := h.same rfl rfl
theorem setFrond (h : Work s t) (i : Nat) (v : Frond) : Work s (t.setFrond i v) := h.same rfl rfl
theorem setCore (h : Work s t) (i : Nat) (v : Core) : Work s (t.setCore i v) := h.same rfl rfl
theorem setEngine (h : Work s t) (i : Nat) (v : Engine) : Work s (t.setEngine i v) := h.same rfl rfl
theorem setBar (h : Work s t) (i : Nat) (v : Barrier) : Work s (t.setBar i v) := h.same rfl rfl
theorem setHCore (h : Work s t) (i : Nat) (v : HCore) : Work s (t.setHCore i v) := h.same rfl rfl
theorem setRPort (h : Work s t) (i : Nat) (v : RPort) : Work s (t.setRPort i v) := h.same rfl rfl
theorem setFLink (h : Work s t) (i : Nat) (v : FLink) : Work s (t.setFLink i v) := h.same rfl rfl
theorem setBucket (h : Work s t) (i : Nat) (v : Bucket) : Work s (t.setBucket i v) := h.same rfl rfl
theorem setIntr (h : Work s t) (i : Nat) (v : Intr) : Work s (t.setIntr i v) := h.same rfl rfl
theorem setRec (h : Work s t) (r : Rec) : Work s (t.setRec r) := h.same rfl rfl
theorem setRecs (h : Work s t) (l : List Rec) : Work s { t with recs := l } := h.same rfl rfl
theorem emit (h : Work s t) (o : Out) : Work s (t.emit o) := h.same rfl rfl
theorem fresh (h : Work s t) : Work s t.fresh := h.same rfl rfl

/-! ## Interrupts and logs -/

theorem toHost (h : Work s t) (p : Fin 4) (o : Out) : Work s (t.toHost p o) := h.notice ((Notice.refl t).toHost p o)
theorem msix (h : Work s t) (p : Fin 4) (v : Nat) : Work s (t.msix p v) := h.notice ((Notice.refl t).msix p v)
theorem msixAll (h : Work s t) (v : Nat) : Work s (t.msixAll v) := h.notice ((Notice.refl t).msixAll v)
theorem eachIntr (h : Work s t) (f : Intr → Intr) : Work s (t.eachIntr f) := h.notice ((Notice.refl t).eachIntr f)
theorem ownershipIrq (h : Work s t) : Work s t.ownershipIrq := h.notice (Notice.refl t).ownershipIrq
theorem evAdd (h : Work s t) (e : EvEntry) : Work s (t.evAdd e) := h.notice ((Notice.refl t).evAdd e)
theorem ev (h : Work s t) (kind st u d0 d1 d2 d3 d4 : Nat) : Work s (t.ev kind st u d0 d1 d2 d3 d4) := h.evAdd _
theorem moduleError (h : Work s t) (st : Nat) : Work s (t.moduleError st) := h.notice ((Notice.refl t).moduleError st)
theorem conservation (h : Work s t) (u r : Nat) : Work s (t.conservation u r) := h.notice ((Notice.refl t).conservation u r)
theorem err (h : Work s t) (k d b r u : Nat) : Work s (t.err k d b r u) := h.notice ((Notice.refl t).err k d b r u)
theorem bucketOver (h : Work s t) (st : Nat) : Work s (t.bucketOver st) := h.notice ((Notice.refl t).bucketOver st)
theorem corrected (h : Work s t) (st : Nat) : Work s (t.corrected st) := h.notice ((Notice.refl t).corrected st)
theorem logBad (h : Work s t) (r : Requester) (c : Nat) (p : Bool) : Work s (t.logBad r c p) := h.notice ((Notice.refl t).logBad r c p)
theorem logDiscard (h : Work s t) (a : Agent) (st ad v : Nat) : Work s (t.logDiscard a st ad v) :=
  h.notice ((Notice.refl t).logDiscard a st ad v)
theorem discard (h : Work s t) (p : Fin 4) (ad v : Nat) : Work s (t.discard p ad v) := h.notice ((Notice.refl t).discard p ad v)

/-! ## Device memory -/

theorem store (h : Work s t) (col : Nat) (d : BitVec 256) (k : BitVec 48) : Work s { t with mem := t.mem.store col d k } :=
  h.memory rfl fun w => DMem.wf_store w col d k

/-- A change of the armed flip masks. -/
theorem storeFlips (h : Work s t) (col : Nat) (d : BitVec 256) (k : BitVec 48) (f : Tbl (Option Flip)) :
    Work s { t with mem := { t.mem.store col d k with flips := f } } :=
  h.memory rfl fun w => (DMem.wf_congr rfl rfl rfl).trans (DMem.wf_store w col d k)

theorem writeFull (h : Work s t) (r : Requester) (col : Nat) (d : BitVec 256) (p : Bool) : Work s (t.writeFull r col d p) := by
  unfold State.writeFull
  dsimp only
  split
  · exact h.store _ _ _
  · exact (h.storeFlips _ _ _ _).err _ _ _ _ _

theorem writeMasked (h : Work s t) (r : Requester) (col : Nat) (d : BitVec 256) (be : Nat) (p : Bool) :
    Work s (t.writeMasked r col d be p) := by
  unfold State.writeMasked
  dsimp only
  split
  · exact h.store _ _ _
  · exact (h.storeFlips _ _ _ _).err _ _ _ _ _

theorem writeBytes (h : Work s t) (r : Requester) (col : Nat) (d : BitVec 256) (be : Nat) (p : Bool) :
    Work s (t.writeBytes r col d be p) :=
  ite (ite (h.writeFull _ _ _ _) (ite h (h.writeMasked _ _ _ _ _))) h

theorem writePart (h : Work s t) (r : Requester) (col : Nat) (d : BitVec 256) (be : Nat) (p : Bool) :
    Work s (t.writePart r col d be p) := ite (h.writeMasked _ _ _ _ _) h

theorem writeHost (h : Work s t) (a b : Nat) (l : BitVec 512) (be : Word64) (p : Bool) : Work s (t.writeHost a b l be p) :=
  ite ((h.writeBytes _ _ _ _ _).writeBytes _ _ _ _ _) ((h.writePart _ _ _ _ _).writePart _ _ _ _ _)

theorem writeAll (h : Work s t) (r : Requester) (ws : List DWrite) : Work s (t.writeAll r ws) :=
  foldl (fun _ _ h => h.writeBytes _ _ _ _ _) _ h

theorem correct (h : Work s t) (r : Requester) (col : Nat) (o : ReadOut) (d : BitVec 256) : Work s (t.correct r col o d) :=
  ((h.store _ _ _).err _ _ _ _ _).corrected _

theorem noteRead (h : Work s t) (r : Requester) (col : Nat) : Work s (t.noteRead r col) := by
  unfold State.noteRead
  split
  · split
    · exact h
    · exact h.logBad _ _ _
    · exact h.logBad _ _ _
    · exact h.correct _ _ _ _
  · exact h

theorem noteReads (h : Work s t) (r : Requester) (cols : List Nat) : Work s (t.noteReads r cols) :=
  foldl (fun _ _ h => h.noteRead _ _) _ h

/-! ## Ordinary accesses -/

theorem serveOne (h : Work s t) (a : OrdAccess) : Work s (t.serveOne a) := by
  cases a
  · exact (h.noteRead _ _).emit _
  · exact ite (h.writeFull _ _ _ _) h
  · exact (h.noteReads _ _).toHost _ _
  · exact (h.writeHost _ _ _ _ _).toHost _ _

theorem served (h : Work s t) (su : Nat) (a : OrdAccess) (rest : List OrdAccess) : Work s (t.served su a rest) :=
  ite (((h.setChan _ _).setPair _ _).serveOne _) ((h.setChan _ _).setPair _ _)

theorem serve (su : Nat) (fuel cols : Nat) (h : Work s t) : Work s (t.serve su fuel cols) := by
  induction fuel generalizing t cols with
  | zero => exact h
  | succ n ih =>
    unfold State.serve
    split
    · exact h
    · exact ite (ih _ (h.served _ _ _)) h

theorem refreshFirst (h : Work s t) (su : Nat) : Work s (t.refreshFirst su) := ite (h.setPair _ _) h
theorem boundary (h : Work s t) (su : Nat) : Work s (t.boundary su) := (h.refreshFirst su).serve su _ _
theorem serveNow (h : Work s t) (su : Nat) : Work s (t.serveNow su) :=
  ite h (ite ((h.boundary su).setPair _ _) ((h.refreshFirst su).serve su _ _))

theorem arrive (h : Work s t) (a : OrdAccess) : Work s (t.arrive a) := by
  unfold State.arrive
  split
  · exact (h.setPair _ _).serveNow _
  · exact h

theorem dispatch (h : Work s t) (src : Nat) (a : OrdAccess) : Work s (t.dispatch src a) := by
  unfold State.dispatch
  split
  · exact ite (h.setFLink _ _) (h.same rfl rfl)
  · exact h.arrive _

theorem send (h : Work s t) (src : Nat) (a : OrdAccess) : Work s (t.send src a) := ite (h.same rfl rfl) (h.dispatch _ _)

/-! ## Flags and queues -/

theorem owe (h : Work s t) (b : Nat) (o n : Word64) : Work s (t.owe b o n) := by
  unfold State.owe
  split
  · exact h
  · exact ite h (h.same rfl rfl)

theorem putBlock (h : Work s t) (b : Nat) (n : Word64) : Work s (t.putBlock b n) :=
  owe (h.same (u := { t with flags := Tbl.put 0 t.flags b n }) rfl rfl) _ _ _

theorem hwClear (h : Work s t) (b : Nat) : Work s (t.hwClear b) := h.same rfl rfl
theorem putFlag (h : Work s t) (v : Bool) (b i : Nat) : Work s (t.putFlag v b i) := h.putBlock _ _

theorem putFlags (h : Work s t) (c : Nat) (v : Bool) (ns : List Nat) : Work s (t.putFlags c v ns) :=
  foldl (fun u n h => by
    split
    · exact h.putFlag _ _ _
    · exact h) _ h

theorem touch (h : Work s t) (c : Nat) : Work s (t.touch c) := h.same rfl rfl
theorem active (h : Work s t) (c : Nat) : Work s (t.active c) := h.same rfl rfl
theorem headNow (h : Work s t) (q : Nat) : Work s (t.headNow q) := h.setQueue _ _

theorem pauseWait (h : Work s t) (q : Nat) : Work s (t.pauseWait q) := by
  unfold State.pauseWait
  dsimp only
  split
  · exact h.setQueue _ _
  · exact h

theorem resumeWait (h : Work s t) (q : Nat) : Work s (t.resumeWait q) := ite h (h.setQueue _ _)
theorem pauseWaits (h : Work s t) (c : Nat) : Work s (t.pauseWaits c) := foldl (fun _ _ h => h.pauseWait _) _ h
theorem resumeWaits (h : Work s t) (c : Nat) : Work s (t.resumeWaits c) := foldl (fun _ _ h => h.resumeWait _) _ h

/-! ## Records -/

theorem cqPut (h : Work s t) (q : Nat) (seq : Word32) (st cl op u ev : Nat) : Work s (t.cqPut q seq st cl op u ev) :=
  (h.send _ _).setQueue _ _

theorem advanceStreams (h : Work s t) (r : Rec) : Work s (t.advanceStreams r) :=
  foldl (fun _ _ h => ite h (h.setStream _ _)) _ h

theorem dropRec (h : Work s t) (r : Rec) : Work s (t.dropRec r) := by
  unfold State.dropRec
  have h1 := foldl (f := fun (s : State) f => s.setFrond f { s.frond f with
      sums := (s.frond f).sums.filter fun e => !(e.1 == r.q && e.2.1 == r.seq)
      maxima := (s.frond f).maxima.filter fun e => !(e.1 == r.q && e.2.1 == r.seq)
      preImages := (s.frond f).preImages.filter fun e => !(e.q == r.q && e.seq == r.seq)
      heldDone := (s.frond f).heldDone.filter fun e => !(e.1 == r.q && e.2 == r.seq) }) (fun _ _ h => h.setFrond _ _) [0, 1, 2, 3]
    (h.same (u := { t with recs := t.recs.filter fun x => !(x.q == r.q && x.seq == r.seq) }) rfl rfl)
  exact ite (h1.setBar _ _) h1

theorem retire (h : Work s t) (r : Rec) (cq : Bool) : Work s (t.retire r cq) := by
  unfold State.retire
  have h1 : ∀ st : Nat, Work s (if st < 0x10 then (t.dropRec r).advanceStreams r else t.dropRec r) := fun st =>
    ite ((h.dropRec r).advanceStreams r) (h.dropRec r)
  have h2 : ∀ (st : Nat) (u : State), Work s u → Work s (if st < 0x10 ∧ r.op ≠ 0x50 then u.putFlags r.ctx true r.signals else u) :=
    fun st u hu => ite (hu.putFlags _ _ _) hu
  exact active (ite (cqPut (h2 _ _ (h1 _)) _ _ _ _ _ _ _) (h2 _ _ (h1 _))) _

theorem sendControl (h : Work s t) (n : Nat) : Work s (t.sendControl n) := ite (h.setRPort _ _) h

theorem tellMembers (h : Work s t) (ms : BitVec 16) (o : Out) : Work s (t.tellMembers ms o) :=
  foldl (fun _ _ h => h.sendControl _) _ (ite h (h.emit _))

theorem logSat (h : Work s t) (r : Rec) : Work s (t.logSat r).1 := by
  unfold State.logSat
  split
  · exact h
  · exact h.ev _ _ _ _ _ _ _ _

theorem endRec (h : Work s t) (r : Rec) (code : Nat) : Work s (t.endRec r code) := (h.logSat r).retire _ _

theorem cancelSent (h : Work s t) (r : Rec) : Work s (t.cancelSent r) := ite (h.tellMembers _ _) h

theorem cancelRec (h : Work s t) (r : Rec) (cq : Bool) : Work s (t.cancelRec r cq) := ((h.logSat r).cancelSent _).retire _ _

theorem cancelAll (h : Work s t) (rs : List Rec) (cq : Bool) : Work s (t.cancelAll rs cq) :=
  foldl (fun _ _ h => h.cancelRec _ _) _ h

theorem flushCancel (q : Nat) (n : Nat) (h : Work s t) : Work s (flushCancel q n t) := by
  induction n generalizing t with
  | zero => exact h
  | succ n ih =>
    unfold Machine.flushCancel
    dsimp only
    split
    · exact h
    · exact ite (h.setQueue _ _) (ite h (ih (((((h.noteReads _ _).cqPut _ _ _ _ _ _ _).setQueue _ _).headNow _).active _)))

theorem cancelUnissued (h : Work s t) (q : Nat) (u : Word32) : Work s (t.cancelUnissued q u) :=
  flushCancel _ _ (h.setQueue _ _)

theorem cqFreed (h : Work s t) (q : Nat) : Work s (t.cqFreed q) := by
  unfold State.cqFreed
  dsimp only
  split
  · exact h
  · exact h.flushCancel _ _

theorem loseWaiters (h : Work s t) (f : Rec → Bool) : Work s (t.loseWaiters f) := foldl (fun _ _ h => h.retire _ _) _ h
theorem ownerLost (h : Work s t) (c : Nat) : Work s (t.ownerLost c) := h.loseWaiters _

/-! ## Contexts, groups, ownership -/

theorem writeLine (h : Work s t) (i : Nat) (l : Line) : Work s (t.writeLine i l) :=
  foldl (fun _ _ h => h.send _ _) _ h

theorem writeBackCore (h : Work s t) (n : Nat) : Work s (t.writeBackCore n) :=
  foldl (fun _ e h => by
    split
    · exact (h.writeLine _ _).same rfl rfl
    · exact h) _ h

theorem resetHCore (h : Work s t) (n : Nat) : Work s (t.resetHCore n) := (h.writeBackCore n).setHCore _ _

theorem cleanLine (h : Work s t) (i : Nat) (keep : Bool) : Work s (t.cleanLine i keep) := by
  unfold State.cleanLine
  split
  · exact h
  · have h1 : ∀ l, Work s (if l.dirty = true then t.writeLine i l else t) := fun l => ite (h.writeLine _ _) h
    exact (h1 _).same rfl rfl

theorem coresOf (h : Work s t) (c : Nat) (f : State → Nat → State) (hf : ∀ u n, Work s u → Work s (f u n)) :
    Work s (t.coresOf c f) := foldl (fun _ _ h => ite (hf _ _ h) h) _ h

theorem stopCores (h : Work s t) (c : Nat) : Work s (t.stopCores c) := h.coresOf c _ fun _ _ h => h.setHCore _ _
theorem resumeCores (h : Work s t) (c : Nat) : Work s (t.resumeCores c) := h.coresOf c _ fun _ _ h => ite (h.setHCore _ _) h
theorem destroyCores (h : Work s t) (c : Nat) : Work s (t.destroyCores c) :=
  h.coresOf c _ fun _ _ h => (h.writeBackCore _).setHCore _ _

theorem clearBar (h : Work s t) (b : Nat) : Work s (t.clearBar b) := setBar (ite (h.ev _ _ _ _ _ _ _ _) h) _ _
theorem clearBars (h : Work s t) (b n : Nat) : Work s (t.clearBars b n) := foldl (fun _ _ h => h.clearBar _) _ h

theorem endMembership (h : Work s t) : Work s t.endMembership := by
  unfold State.endMembership
  refine ite ?_ h
  dsimp only
  refine foldl (fun _ _ h => ite (h.clearBar _) (h.setBar _ _)) _ (foldl (fun _ _ h => h.retire _ _) _ (foldl (fun _ _ h => h.endRec _ _) _ ?_))
  exact h.same rfl rfl

theorem leaveGroup (h : Work s t) : Work s t.leaveGroup := ite (h.tellMembers _ _).endMembership h

theorem orphanCtx (h : Work s t) (c : Nat) : Work s (t.orphanCtx c) := by
  have h2 := fun x => (((h.pauseWaits c).setCtx c x).ownerLost c).stopCores c
  exact (h2 _).setRecs _

theorem orphanAll (h : Work s t) : Work s t.orphanAll := foldl (fun _ _ h => h.orphanCtx _) _ h

theorem unbindAll (h : Work s t) (c : Nat) : Work s (t.unbindAll c) := (foldl (fun _ _ h => h.hwClear _) _ h).setCtx _ _
theorem clearMirrors (h : Work s t) : Work s t.clearMirrors := foldl (fun _ _ h => h.setCtx _ _) _ h

theorem removeQueue (h : Work s t) (q : Nat) : Work s (t.removeQueue q) := by
  unfold State.removeQueue
  extract_lets qu s1
  refine setQueue ?_ _ _
  unfold s1
  split
  · exact ite h (h.ev _ _ _ _ _ _ _ _)
  · exact h

theorem freeStreams (h : Work s t) (a n : Nat) : Work s (t.freeStreams a n) := h.same rfl rfl

theorem tellLost (h : Work s t) (b n : Nat) : Work s (t.tellLost b n) :=
  ite (foldl (fun _ _ h => ite (h.tellMembers _ _) h) _ h) h

theorem forgetCtx (h : Work s t) (c : Nat) : Work s (t.forgetCtx c) := h.same rfl rfl
theorem stir (h : Work s t) : Work s t.stir := h.same rfl rfl
theorem unpause (h : Work s t) (c : Nat) : Work s (t.unpause c) := h.same rfl rfl

theorem removeQueues (h : Work s t) (l : List Nat) :
    Work s (l.foldl (fun s q => (s.cancelUnissued q (s.queue q).tail).removeQueue q) t) :=
  foldl (fun _ _ h => (h.cancelUnissued _ _).removeQueue _) _ h

theorem destroyCtx (h : Work s t) (c : Nat) : Work s (t.destroyCtx c) := by
  unfold State.destroyCtx
  dsimp only
  exact ((((((((h.tellLost _ _).cancelAll _ true).removeQueues _).freeStreams _ _).unbindAll _).clearBars _ _).destroyCores _).forgetCtx _).setCtx _ _
    |>.stir

theorem disposeOrphans (h : Work s t) (d : Bool) : Work s (t.disposeOrphans d) :=
  foldl (fun _ _ h => ite (h.destroyCtx _) (h.setCtx _ _)) _ h

/-! ## Units -/

theorem reissueAll (h : Work s t) (w : Claimant) (a : Bool) : Work s (t.reissueAll w a) := h.same rfl rfl
theorem abandonFrond (h : Work s t) (f : Nat) (e : Bool) : Work s (t.abandonFrond f e) := h.same rfl rfl
theorem endLien (h : Work s t) (c : Nat) : Work s (t.endLien c) := h.same rfl rfl
theorem lower (h : Work s t) (x : Holder) (k : Nat) : Work s (t.lower x k) := by
  unfold State.lower
  cases x <;> exact h.same rfl rfl
theorem dropAsked (h : Work s t) (x : Holder) : Work s (t.dropAsked x) := h.same rfl rfl
theorem capAt (h : Work s t) (x : Holder) (a b : Nat) : Work s (t.capAt x a b) :=
  same (u := { t.lower x _ with power := _ }) (h.lower _ _) rfl rfl
theorem returnLevel (h : Work s t) (c : Nat) : Work s (t.returnLevel c) :=
  (((h.endLien _).lower _ _).dropAsked _).setCore _ _
theorem returnStack (h : Work s t) (st : Nat) : Work s (t.returnStack st) := ite h ((h.lower _ _).dropAsked _)
theorem returnToken (h : Work s t) (u : Nat) : Work s (t.returnToken u) := by
  unfold State.returnToken
  extract_lets p s1
  have h1 : Work s s1 := h.setPair _ _
  exact ite (h1.same rfl rfl) h
theorem returnTokens (h : Work s t) (c : Nat) : Work s (t.returnTokens c) := foldl (fun _ _ h => h.returnToken _) _ h
theorem abandonUnits (h : Work s t) (f : Nat → Bool) (c u : Nat) : Work s (t.abandonUnits f c u) := h.same rfl rfl
theorem fenceCore (h : Work s t) (c st : Nat) : Work s (t.fenceCore c st) :=
  ite ((((h.setCore _ _).reissueAll _ _).returnLevel _).ev _ _ _ _ _ _ _ _)
    (((((h.setCore _ _).reissueAll _ _).returnLevel _).ev _ _ _ _ _ _ _ _).abandonFrond _ _)
theorem fenceEngine (h : Work s t) (e st : Nat) : Work s (t.fenceEngine e st) :=
  ite (((h.setEngine _ _).reissueAll _ _).ev _ _ _ _ _ _ _ _) ((((h.setEngine _ _).reissueAll _ _).ev _ _ _ _ _ _ _ _).abandonFrond _ _)
theorem dropSteps (h : Work s t) (c : Nat) : Work s (t.dropSteps c) := foldl (fun _ _ h => (h.setPair _ _).serveNow _) _ h
theorem channelOut (h : Work s t) (c : Nat) (v : Svc) (k : Nat) : Work s (t.channelOut c v k) :=
  ((((h.setChan _ _).abandonUnits _ _ _).returnTokens _).dropSteps _).returnStack _
theorem fenceChannel (h : Work s t) (c st : Nat) : Work s (t.fenceChannel c st) := (h.channelOut _ _ _).ev _ _ _ _ _ _ _ _

end Work

end Sys2Proof.Machine
end

