-- ==== Sys2Proof/Laws/Keeps.lean ====
section
/-! SUPPORT. What almost every operation keeps: the layout, the queue of waiting commands and the canonical form of device memory,
with a timebase that never goes back. -/

namespace Sys2Proof.Machine

open Sys2Proof

/-- `t` has the layout and the queue of `s`, a timebase no earlier, and memory in canonical form when that of `s` is. -/
def Keeps (s t : State) : Prop :=
  s.time.now ≤ t.time.now ∧ t.lay = s.lay ∧ t.pending = s.pending ∧ (s.mem.wf = true → t.mem.wf = true)

namespace Keeps
variable {s t : State}

theorem refl (s : State) : Keeps s s := ⟨Nat.le_refl _, rfl, rfl, id⟩

theorem trans {u : State} (h : Keeps s t) (k : Keeps t u) : Keeps s u :=
  ⟨Nat.le_trans h.1 k.1, k.2.1.trans h.2.1, k.2.2.1.trans h.2.2.1, fun w => k.2.2.2 (h.2.2.2 w)⟩

/-- An update of other fields. -/
theorem same {u : State} (h : Keeps s t) (ht : u.time.now = t.time.now) (hl : u.lay = t.lay) (hp : u.pending = t.pending)
    (hm : u.mem = t.mem) : Keeps s u :=
  h.trans ⟨Nat.le_of_eq ht.symm, hl, hp, fun w => by rw [hm]; exact w⟩

/-- Work keeps all of it. -/
theorem work {u : State} (h : Keeps s t) (k : Work t u) : Keeps s u := by
  have e := k.1
  simp only [frozen, Prod.mk.injEq] at e
  exact h.trans ⟨Nat.le_of_eq (congrArg Time.now e.1).symm, e.2.2.2.2.1, e.2.2.2.2.2.2.2.2.2.2.2.2.2.2.2.2, k.2⟩

theorem notice {u : State} (h : Keeps s t) (n : Notice t u) : Keeps s u := h.work ((Work.refl t).notice n)

theorem ite {c : Prop} [Decidable c] {a b : State} (ha : Keeps s a) (hb : Keeps s b) : Keeps s (if c then a else b) := by
  split <;> assumption

theorem foldl {α : Type} {f : State → α → State} (hf : ∀ t x, Keeps s t → Keeps s (f t x)) (l : List α) (h : Keeps s t) :
    Keeps s (l.foldl f t) := by
  induction l generalizing t with
  | nil => exact h
  | cons a l ih => exact ih (hf t a h)

theorem advance (h : Keeps s t) (n : Nat) : Keeps s (t.advance n) :=
  h.trans ⟨by rw [State.advance_time_now]; split <;> first | exact Nat.le_max_left _ _ | exact Nat.le_refl _, rfl, rfl, id⟩
theorem tick (h : Keeps s t) : Keeps s t.tick :=
  h.trans ⟨by show _ ≤ if _ then _ else _; split <;> first | exact Nat.le_add_right _ _ | exact Nat.le_refl _, rfl, rfl, id⟩
theorem setMbox (h : Keeps s t) (i : Nat) (v : Mbox) : Keeps s (t.setMbox i v) := h.same rfl rfl rfl rfl
theorem setFLink (h : Keeps s t) (i : Nat) (v : FLink) : Keeps s (t.setFLink i v) := h.same rfl rfl rfl rfl
theorem setDom (h : Keeps s t) (i : Nat) (v : Domain) : Keeps s (t.setDom i v) := h.same rfl rfl rfl rfl
theorem fresh (h : Keeps s t) : Keeps s t.fresh := h.same rfl rfl rfl rfl
theorem emit (h : Keeps s t) (o : Out) : Keeps s (t.emit o) := h.same rfl rfl rfl rfl
theorem setIntr (h : Keeps s t) (i : Nat) (v : Intr) : Keeps s (t.setIntr i v) := h.same rfl rfl rfl rfl
theorem msix (h : Keeps s t) (p : Fin 4) (v : Nat) : Keeps s (t.msix p v) := h.notice ((Notice.refl t).msix p v)
theorem ev (h : Keeps s t) (k st u d0 d1 d2 d3 d4 : Nat) : Keeps s (t.ev k st u d0 d1 d2 d3 d4) :=
  h.notice ((Notice.refl t).ev k st u d0 d1 d2 d3 d4)

/-! ## Mailboxes -/

theorem mbIrq (h : Keeps s t) (mb : Fin 32) : Keeps s (t.mbIrq mb) := by
  unfold State.mbIrq
  dsimp only
  split
  · exact ite ((h.setIntr _ _).msix _ _) (h.setIntr _ _)
  · exact ite ((h.setIntr _ _).emit _) (h.setIntr _ _)

theorem finish (h : Keeps s t) (mb : Fin 32) (st bl b : Nat) (cl : List Clamp) : Keeps s (t.finish mb st bl b cl) := by
  unfold State.finish
  extract_lets r st' s1 b1 done s2 resp s3
  have h1 : Keeps s s1 := ite h (h.ev _ _ _ _ _ _ _ _)
  exact ite ((h1.setMbox _ _).ev _ _ _ _ _ _ _ _) ((h1.setMbox _ _).mbIrq _)

theorem accept (h : Keeps s t) (mb : Fin 32) (img : BitVec 32768) (d : Bool) (n : Nat) : Keeps s (t.accept mb img d n) := by
  unfold State.accept
  dsimp only
  split
  · exact (h.setMbox _ _).finish _ _ _ _ _
  · exact h.setMbox _ _

theorem acceptNext (mb : Fin 32) (l : List (BitVec 32768 × Bool × Nat)) (h : Keeps s t) : Keeps s (State.acceptNext mb l t) := by
  induction l generalizing t with
  | nil => exact h.setMbox _ _
  | cons a l ih => exact ite ((h.setMbox _ _).accept _ _ _ _) (ih ((h.setMbox _ _).accept _ _ _ _))

theorem reply (h : Keeps s t) (mb : Fin 32) (st bl b : Nat) (cl : List Clamp) : Keeps s (t.reply mb st bl b cl) :=
  acceptNext _ _ ((h.finish _ _ _ _ _).same rfl rfl rfl rfl)

/-- A command keeps what its own steps keep. -/
theorem molian (mb : Fin 32) (op : Nat) (a : Auth) (len : Req → Nat) (fs : Req → List (Nat × Nat)) (run : Req → State → Ans)
    (hr : ∀ r, match run r t with
      | .fail _ => True
      | .done _ _ _ _ u => Keeps s u
      | .wait _ _ u => Keeps s u) (h : Keeps s t) : Keeps s (molian mb op a len fs run t) := by
  unfold Machine.molian
  dsimp only
  split
  · exact h
  · split
    · exact h.reply _ _ _ _ _
    · split
      · exact h.reply _ _ _ _ _
      · have := hr (t.req mb)
        revert this
        cases run (t.req mb) t <;> intro this
        · exact h.reply _ _ _ _ _
        · exact reply this _ _ _ _ _
        · exact setMbox this _ _

/-! ## Ownership -/

theorem ownerChange (h : Keeps s t) (p : Option (Fin 4)) (c l : Nat) : Keeps s (t.ownerChange p c l) := by
  unfold State.ownerChange
  extract_lets old new st o1 s1 s2 s2' s3 s4 s5
  have h2 : Keeps s s2 := (h.same (u := s1) rfl rfl rfl rfl).ev _ _ _ _ _ _ _ _
  have h2' : Keeps s s2' := ite h2 (h2.same rfl rfl rfl rfl)
  have h3 : Keeps s s3 := ite (h2'.work (Work.refl s2').orphanAll) h2'
  have h4 : Keeps s s4 := ite h3 (h3.work (Work.refl s3).leaveGroup)
  have h5 : Keeps s s5 := ite (h4.work (Work.refl s4).clearMirrors) h4
  exact ite (h5.notice (Notice.refl s5).ownershipIrq) h5

theorem lapse (h : Keeps s t) : Keeps s t.lapse := h.ownerChange _ _ _

end Keeps

end Sys2Proof.Machine
end

