-- ==== Sys2Proof/Laws/Mailboxes.lean ====
section
/-! SUPPORT. What ending a request leaves: the response in its mailbox, and everything else as it was. -/

namespace Sys2Proof.Machine

open Sys2Proof

/-- A message of a port changes what waits at the ports and the outputs only. -/
theorem State.msix_eq (s : State) (p : Fin 4) (v : Nat) : ∃ ps o, s.msix p v = { s with ports := ps, out := o } := by
  unfold State.msix State.toHost
  dsimp only
  (repeat' split) <;> exact ⟨_, _, rfl⟩

/-- An event-log entry changes what waits at the ports, the event log and the outputs only. -/
theorem State.ev_eq (s : State) (k st u a b c d e : Nat) : ∃ ps ev o, s.ev k st u a b c d e = { s with ports := ps, evlog := ev, out := o } := by
  have key : ∀ (l : List (Fin 4)) (t : State), ∃ ps o,
    l.foldl (fun (t : State) (p : Fin 4) => if s.evPending p then t else t.msix p 2) t = { t with ports := ps, out := o } := by
    intro l
    induction l with
    | nil => intro t; exact ⟨_, _, rfl⟩
    | cons p l ih =>
      intro t
      have hm : ∃ ps o, (if s.evPending p then t else t.msix p 2) = { t with ports := ps, out := o } := by
        split
        · exact ⟨_, _, rfl⟩
        · exact t.msix_eq p 2
      obtain ⟨ps, o, hm⟩ := hm
      obtain ⟨ps', o', h'⟩ := ih (if s.evPending p then t else t.msix p 2)
      exact ⟨ps', o', by rw [List.foldl_cons, h', hm]⟩
  obtain ⟨ps, o, h⟩ := key [0, 1, 2, 3] _
  exact ⟨ps, _, o, h⟩

@[simp] theorem State.ev_mbox (s : State) (k st u a b c d e mb : Nat) : (s.ev k st u a b c d e).mbox mb = s.mbox mb := by
  obtain ⟨_, _, _, h⟩ := s.ev_eq k st u a b c d e
  rw [h]; rfl

@[simp] theorem State.ev_free (s : State) (k st u a b c d e : Nat) : (s.ev k st u a b c d e).free = s.free := by
  obtain ⟨_, _, _, h⟩ := s.ev_eq k st u a b c d e
  rw [h]

@[simp] theorem State.ev_ownershipBody (s : State) (k st u a b c d e : Nat) : (s.ev k st u a b c d e).ownershipBody = s.ownershipBody := by
  obtain ⟨_, _, _, h⟩ := s.ev_eq k st u a b c d e
  rw [h]; rfl

/-- The interrupt of a completed request changes interrupt pages, ports and outputs only. -/
theorem State.mbIrq_eq (s : State) (mb : Fin 32) : ∃ ps is o, s.mbIrq mb = { s with ports := ps, intrs := is, out := o } := by
  unfold State.mbIrq
  dsimp only
  split
  · split
    · obtain ⟨_, _, h⟩ := State.msix_eq _ _ _
      exact ⟨_, _, _, h⟩
    · exact ⟨_, _, _, rfl⟩
  · split <;> exact ⟨_, _, _, rfl⟩

/-- What ending a request that no port reset has touched leaves. -/
theorem State.finish_eq (s : State) (mb : Fin 32) (st bl body : Nat) (cl : List Clamp) (hd : (s.mbox mb).discard = false) :
    ∃ ps is ev o,
      s.finish mb st bl body cl = ({ s with ports := ps, intrs := is, evlog := ev, out := o } : State).setMbox mb
        { s.mbox mb with cur := false, begun := false, deadline := 0, clamps := [], discard := false, st := .complete
                         resp := s.response (s.req mb) (s.mbox mb).startAt (clampStatus st cl) bl body cl
                         lastStatus := clampStatus st cl, lastTag := (s.req mb).tag } := by
  unfold State.finish
  extract_lets r st' s1 b1 done s2 resp s3
  have h1 : ∃ ps ev o, s1 = { s with ports := ps, evlog := ev, out := o } := by
    unfold s1
    split
    · exact ⟨_, _, _, rfl⟩
    · exact s.ev_eq _ _ _ _ _ _ _ _
  obtain ⟨ps, ev, o, h1⟩ := h1
  have hb : b1 = s.mbox mb := by unfold b1; rw [h1]; rfl
  rw [hb, hd]
  have h3 : s3 = ({ s with ports := ps, evlog := ev, out := o } : State).setMbox mb
      { s.mbox mb with cur := false, begun := false, deadline := 0, clamps := [], discard := false, st := .complete
                       resp := s.response (s.req mb) (s.mbox mb).startAt (clampStatus st cl) bl body cl
                       lastStatus := clampStatus st cl, lastTag := (s.req mb).tag } := by
    unfold s3 resp done st' r
    rw [hb, h1]; rfl
  obtain ⟨ps', is', o', h⟩ := s3.mbIrq_eq mb
  exact ⟨ps', is', ev, o', by rw [if_neg (by simp), h, h3]; rfl⟩

/-- A lookup in a table whose entries are changed alike, where an unlisted entry is left as it is. -/
theorem Tbl.get_map {α : Type} (d : α) (g : Nat × α → α) (hd : ∀ i, g (i, d) = d) (m : Tbl α) (k : Nat) :
    Tbl.get d (m.map fun e => (e.1, g e)) k = g (k, Tbl.get d m k) := by
  induction m with
  | nil => exact (hd k).symm
  | cons e m ih =>
    obtain ⟨i, x⟩ := e
    simp only [List.map_cons, Tbl.get]
    split
    · rename_i h; rw [h]
    · exact ih

/-- R273: of the mailboxes, those with an accepted request that has not begun may start; the rest is as it was. -/
theorem State.startWaiting_mbox (t s : State) (k : Nat) :
    (t.startWaiting s).mbox k = t.mbox k
      ∨ ((t.mbox k).cur = true ∧ (t.mbox k).begun = false ∧ (t.startWaiting s).mbox k = (t.mbox k).starts t) := by
  unfold State.startWaiting State.mbox
  dsimp only
  rw [Tbl.get_map {} (fun e : Nat × Mbox =>
    if e.2.cur && !e.2.begun && s.excluded (s.req (Fin.ofNat 32 e.1)) && !t.excluded (s.req (Fin.ofNat 32 e.1)) then e.2.starts t
    else e.2) (fun _ => rfl)]
  dsimp only
  split
  · rename_i h
    simp only [Bool.and_eq_true, Bool.not_eq_true'] at h
    exact .inr ⟨h.1.1.1, h.1.1.2, rfl⟩
  · exact .inl rfl

theorem State.startWaiting_eq (t s : State) : ∃ mbs, t.startWaiting s = { t with mboxes := mbs } := ⟨_, rfl⟩

/-- R268, R270, R273: a request that ends answers its mailbox and changes nothing else, but that requests which waited for it
start; nothing waits behind it. -/
theorem State.reply_ends (s : State) (mb : Fin 32) (st bl body : Nat) (cl : List Clamp) (hd : (s.mbox mb).discard = false)
    (hb : (s.mbox mb).behind = []) :
    Ends s s (s.reply mb st bl body cl) mb (clampStatus st cl)
      (if returnsOwnership (s.req mb).opcode then 24 else bl)
      (if returnsOwnership (s.req mb).opcode then s.ownershipBody else body) := by
  obtain ⟨ps, is, ev, o, h⟩ := s.finish_eq mb st bl body cl hd
  obtain ⟨u, hu⟩ : ∃ u, u = s.finish mb st bl body cl := ⟨_, rfl⟩
  rw [← hu] at h
  have hm : (u.startWaiting s).mbox mb = u.mbox mb := by
    refine (u.startWaiting_mbox s mb).resolve_right fun hc => ?_
    have := hc.1
    simp [h] at this
  have hr : s.reply mb st bl body cl = (u.startWaiting s).setMbox mb { u.mbox mb with behind := [] } := by
    have hb' : (u.mbox mb).behind = [] := by simpa [h] using hb
    unfold State.reply
    rw [← hu]
    simp only [hm, hb', State.acceptNext]
  obtain ⟨mbs, hw⟩ := u.startWaiting_eq s
  have hr' : s.reply mb st bl body cl = { s with mboxes := (s.reply mb st bl body cl).mboxes, ports := ps, intrs := is, evlog := ev, out := o } := by
    rw [hr, hw, h]; rfl
  refine ⟨?_, ⟨_, _, _, _, _, hr'⟩, fun k hk => ?_⟩
  · rw [hr, h]
    simp only [Answered, State.mbox_setMbox, State.response, and_self]
  · have hk' : u.mbox k = s.mbox k := by
      rw [h, State.mbox_setMbox_ne _ _ _ hk]; rfl
    have ht : ∀ b : Mbox, b.starts u = b.starts s := fun b => by rw [h]; rfl
    rw [hr, State.mbox_setMbox_ne _ _ _ hk]
    simpa only [hk', ht] using u.startWaiting_mbox s k

/-- R272: an admitted request of a command runs the command's own steps. -/
theorem molian_run {s : State} {mb : Fin 32} {op : Nat} {a : Auth} {len : Req → Nat} {fs : Req → List (Nat × Nat)}
    (run : Req → State → Ans) (h : Admitted s mb op a (len (s.req mb)) (fs (s.req mb))) :
    molian mb op a len fs run s = match run (s.req mb) s with
      | .fail st => s.reply mb st 0 0 []
      | .done st bl body cl s' => s'.reply mb st bl body cl
      | .wait dl cl s' => s'.setMbox mb { s'.mbox mb with begun := true, deadline := dl, clamps := cl } := by
  obtain ⟨h1, h2, h3, h4, h5, h6, h7, h8⟩ := h
  unfold molian
  simp only [h1, h2, h5, h6, h7, h8, bne_self_eq_false, Bool.or_false, Bool.not_true, Bool.false_eq_true, if_false]

/-- The same for a command whose body has a fixed layout. -/
theorem molian_admitted {s : State} {mb : Fin 32} {op len : Nat} {a : Auth} {fs : List (Nat × Nat)} (run : Req → State → Ans)
    (h : Admitted s mb op a len (bodyFields fs)) :
    molianFixed mb op a len fs run s = match run (s.req mb) s with
      | .fail st => s.reply mb st 0 0 []
      | .done st bl body cl s' => s'.reply mb st bl body cl
      | .wait dl cl s' => s'.setMbox mb { s'.mbox mb with begun := true, deadline := dl, clamps := cl }
 :=
  molian_run run h

end Sys2Proof.Machine
end

