-- ==== Sys2Proof/Laws/Owners.lean ====
section
/-! SUPPORT. What a change of ownership and the end of any request can change. -/

namespace Sys2Proof.Machine

open Sys2Proof

/-- `t` is `s` but for mailboxes and what reports them. -/
def Talk (s t : State) : Prop :=
  ∃ mbs ps is ev o, t = { s with mboxes := mbs, ports := ps, intrs := is, evlog := ev, out := o }

namespace Talk
variable {s t : State}

theorem refl (s : State) : Talk s s := ⟨_, _, _, _, _, rfl⟩

theorem trans {u : State} (h : Talk s t) (k : Talk t u) : Talk s u := by
  obtain ⟨_, _, _, _, _, rfl⟩ := h
  obtain ⟨_, _, _, _, _, rfl⟩ := k
  exact ⟨_, _, _, _, _, rfl⟩

theorem ite {c : Prop} [Decidable c] {a b : State} (ha : Talk s a) (hb : Talk s b) : Talk s (if c then a else b) := by
  split <;> assumption

theorem foldl {α : Type} {f : State → α → State} (hf : ∀ t x, Talk s t → Talk s (f t x)) (l : List α) (h : Talk s t) :
    Talk s (l.foldl f t) := by
  induction l generalizing t with
  | nil => exact h
  | cons a l ih => exact ih (hf t a h)

theorem setMbox (h : Talk s t) (i : Nat) (v : Mbox) : Talk s (t.setMbox i v) := h.trans ⟨_, _, _, _, _, rfl⟩

theorem ev (h : Talk s t) (k st u a b c d e : Nat) : Talk s (t.ev k st u a b c d e) := by
  obtain ⟨_, _, _, e⟩ := t.ev_eq k st u a b c d e
  exact h.trans ⟨_, _, _, _, _, e⟩

theorem mbIrq (h : Talk s t) (mb : Fin 32) : Talk s (t.mbIrq mb) := by
  obtain ⟨_, _, _, e⟩ := t.mbIrq_eq mb
  exact h.trans ⟨_, _, _, _, _, e⟩

theorem finish (h : Talk s t) (mb : Fin 32) (st bl b : Nat) (cl : List Clamp) : Talk s (t.finish mb st bl b cl) := by
  unfold State.finish
  extract_lets r st' s1 b1 done s2 resp s3
  have h1 : Talk s s1 := ite h (h.ev _ _ _ _ _ _ _ _)
  exact ite ((h1.setMbox _ _).ev _ _ _ _ _ _ _ _) ((h1.setMbox _ _).mbIrq _)

theorem accept (h : Talk s t) (mb : Fin 32) (img : BitVec 32768) (d : Bool) (rung : Nat) : Talk s (t.accept mb img d rung) := by
  unfold State.accept
  dsimp only
  split
  · exact (h.setMbox _ _).finish _ _ _ _ _
  · exact h.setMbox _ _

theorem acceptNext (mb : Fin 32) (l : List (BitVec 32768 × Bool × Nat)) (h : Talk s t) : Talk s (State.acceptNext mb l t) := by
  induction l generalizing t with
  | nil => exact h.setMbox _ _
  | cons a l ih => exact ite ((h.setMbox _ _).accept _ _ _ _) (ih ((h.setMbox _ _).accept _ _ _ _))

theorem reply (h : Talk s t) (mb : Fin 32) (st bl b : Nat) (cl : List Clamp) : Talk s (t.reply mb st bl b cl) :=
  acceptNext _ _ ((h.finish _ _ _ _ _).trans ⟨_, _, _, _, _, rfl⟩)

theorem own (h : Talk s t) : t.own = s.own := by obtain ⟨_, _, _, _, _, rfl⟩ := h; rfl

end Talk

/-- R262: the ownership after a change. -/
def State.ownerAfter (s : State) (upto : Option (Fin 4)) (cause lease : Nat) : Owner :=
  { s.own with
    st := match upto with
      | some p => .owned p
      | none => .vacant
    gen := s.own.gen + 1, cause, claims := [], leaseEnd := if upto.isSome then s.time.now + leaseNs lease else 0 }

/-- R262: a change of ownership changes the ownership as given; the rest of it is work. -/
theorem State.ownerChange_work (s : State) (upto : Option (Fin 4)) (cause lease : Nat) :
    Work { s with own := s.ownerAfter upto cause lease } (s.ownerChange upto cause lease) := by
  have h0 : Work { s with own := s.ownerAfter upto cause lease } { s with own := s.ownerAfter upto cause lease } := Work.refl _
  unfold State.ownerChange
  extract_lets old new st o1 s1 s2 s2' s3 s4 s5
  have h2 : Work { s with own := s.ownerAfter upto cause lease } s2 := Work.ev h0 _ _ _ _ _ _ _ _
  have h2' : Work { s with own := s.ownerAfter upto cause lease } s2' := Work.ite h2 (h2.same rfl rfl)
  have h3 : Work { s with own := s.ownerAfter upto cause lease } s3 := Work.ite h2'.orphanAll h2'
  have h4 : Work { s with own := s.ownerAfter upto cause lease } s4 := Work.ite h3 h3.leaveGroup
  have h5 : Work { s with own := s.ownerAfter upto cause lease } s5 := Work.ite h4.clearMirrors h4
  exact Work.ite h5.ownershipIrq h5

theorem State.ownerChange_own (s : State) (upto : Option (Fin 4)) (cause lease : Nat) :
    (s.ownerChange upto cause lease).own = s.ownerAfter upto cause lease := by
  have h := (s.ownerChange_work upto cause lease).1
  simp only [frozen, Prod.mk.injEq] at h
  exact h.2.2.2.2.2.2.1

@[simp] theorem State.ownerChange_mbox (s : State) (upto : Option (Fin 4)) (cause lease mb : Nat) :
    (s.ownerChange upto cause lease).mbox mb = s.mbox mb := by
  have h := (s.ownerChange_work upto cause lease).1
  simp only [frozen, Prod.mk.injEq] at h
  exact congrArg (fun t => Tbl.get {} t mb) h.2.2.2.2.2.2.2.1

end Sys2Proof.Machine
end

