-- ==== Sys2Proof/Tests/Slice0.lean ====
section
/-! SUPPORT. The sitting's own tests: ill-formed commands, sorus words written out from the table of R81, and, for the hypotheses of every
statement, a state and operands that meet them. -/

namespace Sys2Proof.Tests

set_option Elab.async false

open Sys2Proof Sys2Proof.Machine

/-! ## Small states -/

/-- A ready module whose memory reads as zero. -/
def ready : State := { State.reset with phase := .ready, booted := true, mem := {} }
/-- The image of a request: opcode, tag 7, length of the body, fields by byte offset, width and value. -/
def image (op len : Nat) (fs : List (Nat × Nat × Nat)) : BitVec 32768 :=
  BitVec.ofNat 32768 (op + 7 * 2 ^ 16 + len * 2 ^ 32 + (fs.map fun f => f.2.2 * 2 ^ (8 * f.1)).sum)
/-- A mailbox holds an accepted request. -/
def asks (s : State) (mb op len : Nat) (fs : List (Nat × Nat × Nat)) (begun : Bool := false) : State :=
  s.setMbox mb { cur := true, begun, st := .busy, sram := image op len fs }
def owned (s : State) : State := { s with own := { s.own with st := .owned 0, gen := 1, leaseEnd := 10 ^ 12 } }
def vacant (s : State) : State := { s with own := { s.own with st := .vacant } }
/-- A context that may use the first 64 KiB, barriers 0 to 3, streams 0 to 3. -/
def ctxOf (st : CtxState) : Ctx :=
  { st, windows := [{ base := 0, size := 65536, write := true }], barCount := 4, queueLimit := 4, strCount := 4, priv := true }
def withCtx (s : State) (st : CtxState) : State := s.setCtx 0 (ctxOf st)
/-- A record of an operation, in flight on queue 0 and begun; fields by first bit and value. -/
def rec0 (op : Nat) (fs : List (Nat × Nat)) : Rec :=
  { q := 0, seq := 0, ctx := 0, raw := BitVec.ofNat 1024 (op + (fs.map fun f => f.2 * 2 ^ f.1).sum), started := true }
def flying (s : State) (r : Rec) : State := { s with recs := [r] }
/-- A dense int8 vector. -/
def vec (base n : Nat) : Desc :=
  { at_ := 0, fmt := 1, scaled := false, group := 0, scaleFmt := 0, base, ext := [n], stride := [1], scaleRef := 0, outIdx := 0, outCount := 0
    outData := 0 }
def port0 (s : State) (f : Port → Port) : State := s.setPort 0 (f (s.port 0))
/-- What a step leaves (the state itself when it does not end in one). -/
def after (i : Instr) (s : State) : State :=
  match exec i s with
  | .next t => t
  | _ => s

/-! ## Well-formedness: an ill-formed command for each check, and the last value that each allows -/

def burst0 : Burst := { data := 0, check := 0 }
def cfg0 : ScfgOp := { loadCfg := true, loadScale := false, loadPat := false, config := 0, scale := burst0, pat0 := burst0, pat1 := burst0 }
def sld0 : SldOp := { first := true, vec := 0, colOff := 0, payload := [burst0] }
def mma0 : MmaOp :=
  { mode := .int8, acc := 31, m := 64, n := 64, k := 256, aUnsigned := false, aE5m2 := false, bE5m2 := false, aBase := 0, aPitch := 1, bBase := 0
    bPitch := 1, sBase := 0, sPitch := 1, group := 0 }
def stage0 : CoreStage := { op := 0, src := .imm 1, imm2 := 0, arg := 0 }
def chain0 : ChainOp :=
  { src := .vreg 0, dst := .vreg 1, inLane := .int32, outLane := .int32, stages := [stage0], mask := { reg := 7, build := none }, zero := false
    segment := false }
def red0 : ReduceOp :=
  { fn := .max, form := .axis1 0, lane := .int32, resInt32 := true, mask := { reg := 7, build := none }, dst := 31, stored := 1 }
def hdm0 : HdmCommit := { dec := 0, base := 2 ^ 28, size := 2 ^ 28, skip := 0, ways := 1, other := false }

/-- The commands that name a queue, with queue `q`. -/
def onQueue (q : Nat) : List Instr :=
  [.matmul q 0, .matmulQ q 0, .gemvMem q 0, .memRowop q 0, .memEw q 0, .memNorm q 0, .ewChain q 0, .reduce q 0, .norm q 0, .copy q 0,
    .permute q 0, .gather q 0, .scatterAdd q 0, .hostWrite q 0, .hostRead q 0, .sporeWrite q 0, .collective q 0 [] true, .flagSet q 0,
    .flagWait q, .barrier q 0, .claimTicket q 0 (.core 0) 0, .commitRequest q 0 (.core 0) 0 0, .commitDone q 0 (.core 0) 0,
    .ticketHoldTimeout q 0 (.core 0) 0, .doorbellTail (.port 0) q 0, .cqHeadWrite (.port 0) q 0, .recordIssue q, .recordStart q 0,
    .epilogue q 0 0, .wideningRerun q 0, .recordComplete q 0, .flagWaitTimeout q 0, .hostAckReadComplete q 0 { ticket := 0, bytes := 0 },
    .hostReadCompletion q 0 .ur, .hostCompletionTimeout q 0, .collectiveCancel q 0 0]
/-- The commands of a sorus unit and of a context, with unit `su` and context `c`. -/
def onUnit (su c : Nat) : List Instr :=
  [.scfg su c false cfg0, .slut su c false [], .smac su c 16 0 0, .sfet su c false 16, .scpy su c 0 0, .sini su c 0, .slog su c .and 0 0 0,
    .selt su c .add 0 0 0, .snrm su c 0 31 31]

/-- An ill-formed command for each check of `Instr.wf`. -/
def ill : List Instr :=
  onQueue 2048 ++ onUnit 32768 0 ++ onUnit 0 257
    ++ [.heldCommandApply 32768, .sorusTokenGrant 32768, .sorusParityRerun 32768, .pairRefresh 32768 .due, .ordinaryAccessServe 32768 [],
      .sld 2048 0 false 1 sld0, .sld 0 257 false 1 sld0, .smac 0 0 0 0 0, .smac 0 0 17 0 0, .sfet 0 0 false 17, .snrm 0 0 0 32 0,
      .snrm 0 0 0 0 32, .sbrd 1024 0 1 1 1 (.init 0), .sbrd 0 257 1 1 1 (.init 0), .sbrd 0 0 1 1 65537 (.init 0), .mma 0 { mma0 with acc := 32 },
      .mma 0 { mma0 with m := 65 }, .mma 0 { mma0 with n := 65 }, .mma 0 { mma0 with k := 257 }, .accClose 0 32,
      .drain 0 { chain0 with stages := List.replicate 9 stage0 }, .drain 0 { chain0 with mask := { reg := 8, build := none } },
      .vchain 0 { chain0 with stages := [] }, .vchain 0 { chain0 with stages := List.replicate 9 stage0 },
      .vchain 0 { chain0 with mask := { reg := 8, build := none } }, .coreReduce 0 { red0 with dst := 32 },
      .coreReduce 0 { red0 with mask := { reg := 8, build := none } }, .tload 0 8 0, .tload 0 0 (2 ^ 22 - 16383), .tstore 0 8 0,
      .tstore 0 0 (2 ^ 22 - 16383), .vload 0 32 0, .vload 0 0 (2 ^ 22 - 1023), .vstore 0 32 0, .vstore 0 0 (2 ^ 22 - 1023),
      .flagPageSet (.port 0) 256 0, .flagPageClear (.port 0) 256 0, .setMask (.port 0) 256 0 0, .setMask (.port 0) 0 1024 0,
      .clearMask (.port 0) 256 0 0, .clearMask (.port 0) 0 1024 0, .flagMirrorWrite 1024, .barrierArrival 4096 .rachis none,
      .barrierForward 4096 .rachis, .barrierRelease 4096 0, .memrd 0 32, .memwr 0 32 0 false, .memwrptl 0 32 0 0 false, .meminv 0 32 0,
      .commandParityError 2048 (.refresh 0) 0, .autoColumnRepair 65536 0 0, .autoColumnRepair 0 32 0, .hdmDecoderCommit 0 { hdm0 with ways := 0 },
      .hostLinkUp 0 5 false, .registerWrite (.port 0) 0 3 0, .registerWrite (.port 0) 1 4 0, .contextReset 0 256 0,
      .hostCoreAccess 0 0 3 .load, .hostCoreAccess 0 1 8 .load, .quantaRequest (.core 0) (.ask 24001),
        .quantaRequest (.core 0) (.giveBack 24001), .sbFwRecover 2 0 [],
      .sbFwRecover 0 0 (List.replicate 65 0)]

/-- The last values that the checks allow. -/
def well : List Instr :=
  onQueue 2047 ++ onUnit 32767 256
    ++ [.sorusTokenGrant 32767, .sld 2047 256 false 1 sld0, .smac 0 0 1 0 0, .sbrd 1023 256 1 1 65536 (.init 0), .mma 0 mma0, .accClose 0 31,
      .vchain 0 { chain0 with stages := List.replicate 8 stage0 }, .coreReduce 0 red0, .tload 0 7 (2 ^ 22 - 16384), .vload 0 31 (2 ^ 22 - 1024),
      .setMask (.port 0) 255 1023 0, .barrierForward 4095 .rachis, .memrd 0 64, .autoColumnRepair 65535 31 0, .registerWrite (.port 0) 8 8 0,
      .contextReset 0 255 0, .hostCoreAccess 0 8 8 .load, .quantaRequest (.core 0) (.ask 24000),
      .quantaRequest (.core 0) (.giveBack 24000), .sbFwRecover 1 0 (List.replicate 64 0)]

theorem test_ill_formed_refused : ill.all (fun i => !i.wf) = true := by decide +kernel
theorem test_well_formed_accepted : well.all Instr.wf = true := by decide +kernel

/-! ## Witnesses: the step and the whole machine -/

theorem wit_StepRunsFront : { ready with pending := [Instr.sbIdent] }.pending = Instr.sbIdent :: [] := rfl
theorem wit_IdleStepIsOneLclk : ready.pending = [] ∧ ready.time.root = 0 := ⟨rfl, rfl⟩
theorem wit_TimebaseNeverGoesBack :
    (ready.phase ≠ .off ∧ ready.phase ≠ .retention) ∧ ({ ready with phase := .off } : State).phase = .off
      ∧ ({ ready with phase := .retention } : State).phase = .retention ∧ ∃ t, exec (.logNvmCopy 5) ready = .next t :=
  ⟨⟨nofun, nofun⟩, rfl, rfl, _, rfl⟩
theorem wit_NextState : ∃ t, exec .packRemoved ready = .next t ∧ ∀ mb ok, Instr.packRemoved ≠ .setLayout mb ok := ⟨_, rfl, nofun⟩
theorem wit_EveryStepKeepsMemoryForm : (∃ t, step { ready with pending := [.packRemoved] } = .next t) ∧ ready.mem.wf = true := ⟨⟨_, rfl⟩, rfl⟩

/-! ## Witnesses: mailboxes, ownership -/

theorem wit_RingTakesTheRequest :
    (let s := ready.setMbox 0 { req := image 0x0101 0 [] }
     s.phase = .ready ∧ (s.mbox 0).st ≠ .busy ∧ (s.mbox 0).cur = false
      ∧ s.refusal (({ mb := 0, by_ := mbAgent 0, img := (s.mbox 0).req.toNat } : Req).opcode) = none)
    ∧ ((ready.setMbox 31 { st := .busy }).mbox 31).st = .busy := by decide +kernel
/-- Two accepted requests that name the same object, in the last mailbox of port 0 and the first of port 1, rung at two instants or at one. -/
def rivals (op a b : Nat) : State :=
  ((vacant ready).setMbox 3 { cur := true, st := .busy, sram := image op 2 [], acceptAt := a }).setMbox 4
    { cur := true, st := .busy, sram := image op 2 [], acceptAt := b }
theorem wit_RingTakesTheRequest_order :
    (let s := rivals 0x0405 0 1
     (s.mbox 4).cur = true ∧ (s.mbox 3).cur = true ∧ (s.mbox 3).acceptAt < (s.mbox 4).acceptAt ∧ (s.req 4).opcode = 0x0405
      ∧ (s.req 3).opcode = 0x0405 ∧ (s.req 4).fld 0x10 16 = (s.req 3).fld 0x10 16)
    ∧ (let s := rivals 0x0201 1 1
       (s.mbox 3).acceptAt = (s.mbox 4).acceptAt ∧ (3 : Fin 32) < 4 ∧ (s.req 4).opcode = 0x0201 ∧ s.own.st ≠ .window) := by decide +kernel
theorem wit_ReadCommandsAnswer :
    [0x0101, 0x0102, 0x0206, 0x0302, 0x0802, 0x0901, 0x0C01].all (fun op => (ready.allowed .any (.port 0))
      && ((asks ready 0 op 0 []).req 0).opcode == op && ((asks ready 0 op 0 []).req 0).shapeOk 0 []) = true := by decide +kernel
theorem wit_ReadCommandsAnswer_admitted : Admitted (asks ready 0 0x0101 0 []) 0 0x0101 .any 0 []
    ∧ Admitted (asks ready 31 0x0E02 0 []) 31 0x0E02 .any 0 [] := by
  unfold Admitted; decide +kernel
theorem wit_ReadCommandsAnswer_logs :
    (let s := asks ready 0 0x0A02 10 [(0x10, 64, 1), (0x18, 16, 95)]
     Admitted s 0 0x0A02 .any 10 (bodyFields [(0x10, 64), (0x18, 16)]) ∧ 1 ≤ (s.req 0).fld 0x18 16 ∧ (s.req 0).fld 0x18 16 ≤ 95)
    ∧ (let s := asks ready 0 0x0E01 10 [(0x10, 64, 1), (0x18, 16, 47)]
     Admitted s 0 0x0E01 .any 10 (bodyFields [(0x10, 64), (0x18, 16)]) ∧ 1 ≤ (s.req 0).fld 0x18 16 ∧ (s.req 0).fld 0x18 16 ≤ 47) := by
  unfold Admitted; decide +kernel
theorem wit_OwnershipCommands_claims :
    mbAgent 0 = .port 0
    ∧ (let s := asks (vacant ready) 0 0x0201 4 [(0x10, 32, 2000)]
       Admitted s 0 0x0201 .port 4 (bodyFields [(0x10, 32)]) ∧ s.own.st = .vacant)
    ∧ (let s := asks (vacant ready) 0 0x0205 8 [(0x10, 8, 1), (0x14, 32, 2000)]
       Admitted s 0 0x0205 .port 8 (bodyFields [(0x10, 8), (0x14, 32)]) ∧ s.own.st = .vacant ∧ (s.req 0).fld 0x10 8 < 2) := by
  unfold Admitted; decide +kernel
theorem wit_OwnershipCommands_owner :
    (let s := asks (owned ready) 0 0x0202 4 [(0x10, 32, 2000)]
     Admitted s 0 0x0202 .ownerPort 4 (bodyFields [(0x10, 32)]) ∧ s.time.now < s.own.leaseEnd)
    ∧ (let s := asks (owned ready) 0 0x0203 1 [(0x10, 8, 0)]
       Admitted s 0 0x0203 .ownerPort 1 (bodyFields [(0x10, 8)]) ∧ (s.req 0).fld 0x10 8 < 2
        ∧ s.ctxs.any (fun e => e.2.st != .free) = false)
    ∧ (let s := asks ((owned ready).setPort 3 { linkUp := true }) 0 0x0204 8 [(0x10, 8, 3), (0x14, 32, 2000)]
       Admitted s 0 0x0204 .ownerPort 8 (bodyFields [(0x10, 8), (0x14, 32)]) ∧ (s.req 0).fld 0x10 8 = 3 ∧ (3 : Fin 4) ≠ 0
        ∧ (s.port 3).linkUp = true ∧ (s.port 3).fence = false) := by
  unfold Admitted; decide +kernel
theorem wit_OwnershipEvents :
    (let s := { ready with phase := .starting }; s.phase = .starting ∧ s.booted = true)
    ∧ (let s := { ready with own := { st := .window, windowEnd := 5 } }
       s.own.st = .window ∧ s.phase = .ready ∧ s.own.windowEnd ≤ (s.advance 5).time.now ∧ s.own.claims = [])
    ∧ (let s := owned ready; s.own.st = .owned 0 ∧ s.own.leaseEnd ≤ (s.advance (10 ^ 12)).time.now ∧ s.renewing 0 = false)
    ∧ (asks (owned ready) 3 0x0202 4 [(0x10, 32, 2000)]).renewing 0 = true := by decide +kernel
theorem wit_OwnershipEvents_noClaim : NoClaimWaits { ready with own := { st := .window, windowEnd := 5 } } := by
  unfold NoClaimWaits; decide +kernel
theorem wit_WindowElectsHighestPriority :
    let c : HeldClaim := { port := 2, mb := 8, takeover := false, dispose := 0, leaseMs := 9 }
    let s := { ready with own := { st := .window, windowEnd := 5, claims := [c] } }
    s.own.st = .window ∧ s.phase = .ready ∧ s.own.windowEnd ≤ (s.advance 5).time.now ∧ (s.advance 5).holdClaims.own.claims ≠ [] := by
  decide +kernel
/-- A claim rung in the window by the last port, not yet executed. -/
theorem wit_WindowElectsHighestPriority_rung :
    let s := asks { ready with own := { st := .window, windowEnd := 5 } } 15 0x0201 4 [(0x10, 32, 2000)]
    s.own.claims = [] ∧ (s.advance 5).holdClaims.own.claims.map (·.port) = [3] := by decide +kernel
theorem wit_LostOwnerOrphansContexts :
    let s := withCtx (owned ready) .suspended
    s.own.st = .owned 0 ∧ s.own.leaseEnd ≤ (s.advance (10 ^ 12)).time.now ∧ s.renewing 0 = false ∧ (s.ctx 0).st = .suspended := by
  decide +kernel

/-! ## Witnesses: layout, contexts, queues, streams, flag windows -/

theorem wit_SetLayoutLoadsTheLayout :
    let s := asks (owned ready) 0 0x0301 0x20 [(0x10, 8, 1), (0x14, 16, 64), (0x16, 16, 64), (0x18, 16, 64), (0x1A, 16, 64)]
    Admitted s 0 0x0301 .ownerPort 0x20 setLayoutFields ∧ bits (s.req 0).img 0x80 2 < 2 ∧ s.queueOrCore = false
      ∧ (∀ su, (s.pair su).ordQ = [] ∧ (s.pair su).rerun = none ∧ (s.pair su).owed < 4) ∧ s.underway = []
      ∧ { layoutApplied (bits (s.req 0).img 0x80 2) ((s.req 0).fld 0x14 16) ((s.req 0).fld 0x16 16) ((s.req 0).fld 0x18 16)
            ((s.req 0).fld 0x1A 16) with gen := s.lay.gen } ≠ s.lay := by
  unfold Admitted; exact ⟨by decide +kernel, by decide +kernel, by decide +kernel, fun _ => ⟨rfl, rfl, (by decide : (0 : Int) < 4)⟩, rfl,
    by decide +kernel⟩
theorem wit_CtxCreateMakesAnActiveContext :
    let s := asks (owned ready) 0 0x0401 0x30 [(0x10, 16, 255), (0x12, 8, 1), (0x13, 8, 1), (0x18, 16, 4092), (0x1A, 16, 4), (0x1C, 16, 8),
      (0x1E, 16, 8191), (0x20, 16, 1), (0x30, 64, 65536), (0x38, 32, 1), (0x3C, 8, 1)]
    let r := s.req 0
    Admitted s 0 0x0401 .ownerPort (ctxCreateLen (r.fld 0x13 8)) (ctxCreateFields (r.fld 0x13 8)) ∧ r.fld 0x10 16 < 256 ∧ r.fld 0x12 8 < 2
      ∧ r.fld 0x13 8 ≤ 16 ∧ r.fld 0x18 16 + r.fld 0x1A 16 ≤ 4096 ∧ r.fld 0x1E 16 + r.fld 0x20 16 ≤ 8192
      ∧ (∀ w ∈ r.windows, w.2.2 < 2 ∧ w.1 % 65536 = 0 ∧ w.1 < 2 ^ 41 ∧ w.1 + w.2.1 * 65536 ≤ 2 ^ 41) ∧ (s.ctx (r.fld 0x10 16)).st = .free
      ∧ s.ctxs.any (fun e => e.2.st != .free && (rangesMeet (r.fld 0x18 16) (r.fld 0x1A 16) e.2.barBase e.2.barCount
        || rangesMeet (r.fld 0x1E 16) (r.fld 0x20 16) e.2.strFirst e.2.strCount)) = false := by
  unfold Admitted; decide +kernel
/-- A context without a window: the last field ends at 0x22. -/
theorem wit_CtxCreateMakesAnActiveContext_none :
    let s := asks (owned ready) 0 0x0401 0x12 []
    Admitted s 0 0x0401 .ownerPort (ctxCreateLen ((s.req 0).fld 0x13 8)) (ctxCreateFields ((s.req 0).fld 0x13 8)) ∧ (s.req 0).windows = [] := by
  unfold Admitted; decide +kernel
theorem wit_ContextCommands :
    (let s := asks (withCtx (owned ready) .orphaned) 0 0x0405 2 []
     Admitted s 0 0x0405 .ownerPort 2 (bodyFields [(0x10, 16)]) ∧ (s.ctx ((s.req 0).fld 0x10 16)).st = .orphaned)
    ∧ (let s := asks (withCtx (owned ready) .suspended) 0 0x0404 2 []
       Admitted s 0 0x0404 .owner 2 (bodyFields [(0x10, 16)]) ∧ s.foreign (s.req 0).by_ 0 = false ∧ (s.ctx 0).st = .suspended)
    ∧ (let s := asks (withCtx (owned ready) .active) 0 0x0402 2 []
       Admitted s 0 0x0402 .owner 2 (bodyFields [(0x10, 16)]) ∧ s.foreign (s.req 0).by_ 0 = false ∧ (s.ctx 0).st ≠ .free) := by
  unfold Admitted; decide +kernel
theorem wit_ContextCommands_suspend :
    let s := asks (withCtx (owned ready) .active) 0 0x0403 8 [(0x14, 32, 5)]
    let busy := { s with recs := [rec0 0x20 []] }
    let begun := asks (withCtx (owned ready) .active) 0 0x0403 8 [(0x14, 32, 5)] true
    (Admitted s 0 0x0403 .owner 8 (bodyFields [(0x10, 16), (0x14, 32)]) ∧ s.foreign (s.req 0).by_ 0 = false ∧ (s.ctx 0).st = .active
      ∧ (s.ctxRecs 0).all (fun x => !x.started) = true)
    ∧ (Admitted busy 0 0x0403 .owner 8 (bodyFields [(0x10, 16), (0x14, 32)]) ∧ ∃ x ∈ busy.recs, x.ctx = 0 ∧ x.started = true ∧ x.op ≠ 0x52)
    ∧ (begun.mbox 0).cur = true ∧ (begun.mbox 0).begun = true ∧ (begun.req 0).opcode = 0x0403 ∧ (begun.mbox 0).discard = false
    ∧ (begun.mbox 0).behind = [] ∧ (begun.mbox 0).deadline ≤ Nat.max begun.time.now 0 := by
  unfold Admitted; decide +kernel
theorem wit_QueueCommands_create :
    let s := asks (withCtx (owned ready) .active) 0 0x0501 24
      [(0x12, 8, 9), (0x13, 8, 1), (0x14, 32, 64), (0x18, 64, 4096), (0x20, 64, 16384)]
    let r := s.req 0
    Admitted s 0 0x0501 .owner 24 (bodyFields [(0x10, 16), (0x12, 8), (0x13, 8), (0x14, 32), (0x18, 64), (0x20, 64)])
      ∧ s.foreign r.by_ 0 = false ∧ (s.ctx 0).st = .active ∧ r.fld 0x18 64 % 4096 = 0 ∧ r.fld 0x20 64 % 4096 = 0
      ∧ s.inOneWindow 0 (r.fld 0x18 64) (128 * entriesApplied (r.fld 0x14 32)) = true
      ∧ s.inOneWindow 0 (r.fld 0x20 64) (32 * entriesApplied (r.fld 0x14 32)) = true
      ∧ rangesMeet (r.fld 0x18 64) (128 * entriesApplied (r.fld 0x14 32)) (r.fld 0x20 64) (32 * entriesApplied (r.fld 0x14 32)) = false
      ∧ (s.ctxQueues 0).length < (s.ctx 0).queueLimit ∧ (s.queue 0).live = false := by
  unfold Admitted; decide +kernel
theorem wit_QueueCommands_others :
    let lively (s : State) (q : Queue) : State := (withCtx (owned s) .active).setQueue 2047 q
    (let s := asks (lively ready { live := true }) 0 0x0502 2 [(0x10, 16, 2047)]
     Admitted s 0 0x0502 .owner 2 (bodyFields [(0x10, 16)]) ∧ (s.queue 2047).live = true ∧ (s.queue 2047).occ = 0 ∧ s.qRecs 2047 = [])
    ∧ (let s := asks (lively ready { live := true, tail := 1 }) 0 0x0503 8 [(0x10, 16, 2047), (0x14, 32, 5)]
       Admitted s 0 0x0503 .owner 8 (bodyFields [(0x10, 16), (0x14, 32)]) ∧ (s.queue 2047).tail ≠ (s.queue 2047).head
        ∧ s.foreign (s.req 0).by_ (s.queue 2047).ctx = false)
    ∧ (let s := asks (lively ready { live := true }) 0 0x0503 8 [(0x10, 16, 2047), (0x14, 32, 5)]
       Admitted s 0 0x0503 .owner 8 (bodyFields [(0x10, 16), (0x14, 32)]) ∧ (s.queue 2047).tail = (s.queue 2047).head ∧ s.qRecs 2047 = [])
    ∧ (let s := asks (lively ready { live := true, tail := 1, drainTo := some 1 }) 0 0x0503 8 [(0x10, 16, 2047), (0x14, 32, 5)] true
       (s.mbox 0).cur = true ∧ (s.mbox 0).begun = true ∧ (s.req 0).opcode = 0x0503 ∧ (s.mbox 0).discard = false ∧ (s.mbox 0).behind = []
        ∧ (s.mbox 0).deadline ≤ Nat.max s.time.now 0 ∧ (s.queue 2047).drainTo = some 1) := by
  unfold Admitted; decide +kernel
theorem wit_StreamCommands :
    (let s := asks (withCtx (owned ready) .active) 0 0x0601 4 [(0x12, 16, 3)]
     Admitted s 0 0x0601 .owner 4 (bodyFields [(0x10, 16), (0x12, 16)]) ∧ s.foreign (s.req 0).by_ 0 = false ∧ (s.ctx 0).st = .active
      ∧ .streams ∉ s.stopped ∧ (s.stream 3).st = .free ∧ (s.ctx 0).strFirst ≤ 3 ∧ 3 < (s.ctx 0).strFirst + (s.ctx 0).strCount
      ∧ (s.req 0).fld 0x12 16 = 3)
    ∧ (let s := asks (withCtx (owned ready) .active) 0 0x0601 4 [(0x12, 16, 0xFFFF)]
       Admitted s 0 0x0601 .owner 4 (bodyFields [(0x10, 16), (0x12, 16)]) ∧ (s.req 0).fld 0x12 16 = 0xFFFF ∧ (s.ctx 0).strFirst = 0)
    ∧ (let s := asks ((withCtx (owned ready) .active).setStream 8191 { st := .active }) 0 0x0602 2 [(0x10, 16, 8191)]
       Admitted s 0 0x0602 .owner 2 (bodyFields [(0x10, 16)]) ∧ (s.stream 8191).st ≠ .free ∧ s.foreign (s.req 0).by_ (s.stream 8191).ctx = false
        ∧ ∀ y ∈ s.recs, 8191 ∉ y.streams) := by
  unfold Admitted; decide +kernel
theorem wit_StreamCommands_set :
    let s := asks ((withCtx (owned ready) .active).setStream 8191 { st := .active }) 0 0x0603 0x90 [(0x10, 16, 8191), (0x12, 16, 2), (0x24, 32, 9)]
    let busy := { s with recs := [{ rec0 0x10 [] with batch := [(8191, 1)] }] }
    let ok (t : State) : Prop := Admitted t 0 0x0603 .owner 0x90 (streamSetFields ((t.req 0).fld 0x12 16))
    (ok s ∧ (s.stream 8191).st ≠ .free ∧ s.foreign (s.req 0).by_ (s.stream 8191).ctx = false
      ∧ streamSetBad ((s.req 0).fld 0x12 16) ((s.req 0).fld 0x20 1024) = false
      ∧ streamSetOut s (s.stream 8191).ctx ((s.req 0).fld 0x12 16) ((s.req 0).fld 0x20 1024) = false ∧ s.advancing 8191 = false)
    ∧ ok busy ∧ busy.advancing 8191 = true := by
  unfold Admitted; decide +kernel
theorem wit_FlagWindowMap :
    let s := asks (withCtx (owned ready) .active) 0 0x0701 0x20 [(0x12, 16, 1023), (0x20, 16, 5 + 2 ^ 11 + 2 ^ 12), (0x22, 16, 2047), (0x28, 64, 8)]
    let s := port0 s fun p => { p with msixOn := true }
    Admitted s 0 0x0701 .owner 0x20 flagMapFields ∧ s.foreign (s.req 0).by_ 0 = false ∧ (s.ctx 0).st ≠ .free ∧ (s.ctx 0).st ≠ .orphaned
      ∧ 1023 ∉ s.namedSlots 0 ∧ bits ((s.req 0).fld 0x20 128) 64 64 % 8 = 0 ∧ bits ((s.req 0).fld 0x20 128) 16 11 < s.vectorsOn
      ∧ s.binding 5 = none := by
  unfold Admitted; decide +kernel
theorem wit_FlagWindowMap_others :
    (let s := asks (withCtx (owned ready) .orphaned) 0 0x0701 0x20 [(0x12, 16, 1023), (0x14, 8, 2)]
     Admitted s 0 0x0701 .owner 0x20 flagMapFields ∧ s.foreign (s.req 0).by_ 0 = false ∧ (s.ctx 0).st ≠ .free ∧ (s.req 0).fld 0x14 8 = 2)
    ∧ (let s := asks ((owned ready).setCtx 0 { ctxOf .active with slots := [(1023, { block := 5, mapped := true })] }) 0 0x0701 0x20
        [(0x12, 16, 1023), (0x14, 8, 1)]
       Admitted s 0 0x0701 .owner 0x20 flagMapFields ∧ (s.req 0).fld 0x14 8 = 1 ∧ (s.ctx 0).st ≠ .orphaned
        ∧ (Tbl.get ({} : FSlot) (s.ctx 0).slots 1023).mapped = true ∧ 1023 ∉ s.namedSlots 0) := by
  unfold Admitted; decide +kernel

/-! ## Witnesses: power, integrity, service, pack, groups, firmware -/

theorem wit_PowerCommands :
    let ask (s : State) (e : Nat) : State := asks (owned s) 0 0x0801 4 [(0x10, 32, e)]
    let hot := ready.setCore 63 { level := 4 }
    let held := { ready with power := { ready.power with tokens := 8000 } }
    let order : List Grant := [{ holder := .core 63, quanta := 120, since := 0, parts := [] }]
    (let s := ask ready 24000; Admitted s 0 0x0801 .ownerPort 4 (bodyFields [(0x10, 32)]) ∧ s.heldQ + s.reservedQ ≤ 24000)
    ∧ (let s := { ask hot 8000 with power := { ready.power with tokens := 3284, grants := order } }
       Admitted s 0 0x0801 .ownerPort 4 (bodyFields [(0x10, 32)]) ∧ 8000 < s.heldQ + s.reservedQ ∧ (s.dropLiens.lowerGrants 8000).heldQ ≤ 8000)
    ∧ (let s := { ask ready 8000 with power := { ready.power with tokens := 3284, liens := [{ core := 63, reserved := 120 }] } }
       s.heldQ ≤ 8000 ∧ 8000 < s.heldQ + s.reservedQ ∧ (s.dropLiens.lowerGrants 8000).heldQ ≤ 8000)
    ∧ (let s := ask held 8000
       Admitted s 0 0x0801 .ownerPort 4 (bodyFields [(0x10, 32)]) ∧ 8000 < s.heldQ + s.reservedQ
        ∧ 8000 < (s.dropLiens.lowerGrants 8000).heldQ)
    ∧ (let s := { ready with power := { ready.power with lowerTo := some 9000 } }; s.power.lowerTo = some 9000 ∧ s.heldQ ≤ 9000)
    ∧ (let s := asks (owned ready) 0 0x0803 8 [(0x10, 8, 7), (0x14, 8, 3), (0x16, 16, 100)]
       Admitted s 0 0x0803 .ownerPort 8 sorusLimitFields ∧ Nat.min s.bandFigure (Nat.min 8192 ((s.req 0).fld 0x16 16)) ≠ 0) := by
  unfold Admitted; decide +kernel
theorem wit_ArbiterCommands :
    let asked := { ready with power := { ready.power with waiting := [{ holder := .core 63, quanta := 120, since := 0 }] } }
    let lent := ready.setCore 63 { lentLevel := some 4 }
    (0 < Nat.min 8 (ready.headroom (.stack 31)) ∧ Holder.stack 31 ≠ .tokens ∧ Nat.min 1 (ready.headroom .rachis) = 0)
    ∧ (4 ≤ ((ready.setCore 63 { level := 4 }).core 63).level
      ∧ (let s : State := { ready with power := { ready.power with stackEighths := [(31, 8)] } }; 7 < Tbl.get 1 s.power.stackEighths 31))
    ∧ (asked.advance 0).granting = true ∧ (asked.advance 0).nextGrant = some { holder := .core 63, quanta := 120, since := 0 }
    ∧ (let s := { ready with power := { ready.power with waiting := [{ holder := .tokens, quanta := 1, since := 0 }] } }
       (s.advance 0).granting = true ∧ (s.advance 0).nextGrant = some { holder := .tokens, quanta := 1, since := 0 })
    ∧ 120 ≤ asked.freeQ - asked.reservedQ
    ∧ (let s := { ready.setCore 63 { level := 1 } with time := { now := 2000 } }
       (s.core 63).level ≠ 0 ∧ (s.core 63).lentLevel = none ∧ (s.core 63).lastOp + 2000 ≤ s.time.now ∧ s.borrowedBy (.core 63) = 0)
    ∧ (lent.core 63).lentLevel = some 4 ∧ (lent.core 63).level = 0 ∧ lent.granting = true
    ∧ (lent.reservedQ ≤ lent.freeQ ∧ 30 * Nat.min 4 (lent.coreCap 63) ≤ lent.freeQ - lent.reservedQ) := by decide +kernel
theorem wit_ArbiterCommands_ledger :
    (∀ x ∈ [((.core 0 : Holder), 0), (.rachis, 1000), (.token 32767, 0)], ready.ledger x.1 = x.2)
    ∧ ready.ledger (.token 32767) ≠ 1 ∧ ready.ledger (.uncore 3) ≠ 401
    ∧ (∀ x ∈ [(Quantity.flags, 0)], x.1 ≠ .packCharge ∧ ∀ n, x.1 ≠ .rhizoidCredits n) := by
  refine ⟨by decide +kernel, by decide +kernel, by decide +kernel, ?_⟩
  rintro x (_ | ⟨_, ⟨⟩⟩)
  exact ⟨nofun, nofun⟩
theorem wit_IntegrityCommands :
    (let s := asks (owned ready) 0 0x0A01 16 [(0x10, 64, 2 ^ 41 - 32), (0x18, 64, 32)]
     Admitted s 0 0x0A01 .owner 16 (bodyFields [(0x10, 64), (0x18, 64)]) ∧ (s.req 0).fld 0x10 64 % 32 = 0 ∧ (s.req 0).fld 0x10 64 < 2 ^ 41
      ∧ (s.req 0).fld 0x18 64 % 32 = 0)
    ∧ (let s := asks (owned ready) 0 0x0A03 6 [(0x10, 8, 31), (0x12, 16, 3601)]
       Admitted s 0 0x0A03 .ownerPort 6 (bodyFields [(0x10, 8), (0x12, 16), (0x14, 16)]) ∧ (s.req 0).fld 0x10 8 < 32)
    ∧ (let s := asks (owned ready) 0 0x0A03 6 [(0x10, 8, 0xFF), (0x12, 16, 1), (0x14, 16, 1)]
       Admitted s 0 0x0A03 .ownerPort 6 (bodyFields [(0x10, 8), (0x12, 16), (0x14, 16)]) ∧ (s.req 0).fld 0x10 8 = 0xFF)
    ∧ (let s := asks (owned ready) 0 0x0A04 0x38 [(0x10, 32, unitId 3 1023), (0x20, 8, 1)]
       Admitted s 0 0x0A04 .privileged 0x38 (bodyFields [(0x10, 32), (0x20, 256), (0x40, 48)]) ∧ bits ((s.req 0).fld 0x10 32) 28 4 = 3
        ∧ unitOk ((s.req 0).fld 0x10 32) = true)
    ∧ (let s := asks (owned ready) 0 0x0A05 7 [(0x10, 32, unitId 5 65535), (0x14, 16, 32767), (0x16, 8, 1)]
       Admitted s 0 0x0A05 .ownerPort 7 (bodyFields [(0x10, 32), (0x14, 16), (0x16, 8)]) ∧ bits ((s.req 0).fld 0x10 32) 28 4 = 5
        ∧ unitOk ((s.req 0).fld 0x10 32) = true ∧ (s.req 0).fld 0x14 16 < 32768 ∧ (s.req 0).fld 0x16 8 < 2
        ∧ (s.mem.spares 65535 32767).2 < (s.mem.spares 65535 32767).1 ∧ s.pcUp (65535 / 32) = true) := by
  unfold Admitted; decide +kernel
/-- Reads of eight rows of the last column position of the last bank have shown errors. -/
def worn : State :=
  { ready with integ := { log := (List.range 8).map fun row =>
      { seq := row, time := 0, dpa := ready.lay.dpaOf ((65535 * 32768 + row) * 32 + 31), byte := 0, kind := 0, requester := 0
        unit := unitId 5 65535, rep := 0 } } }
theorem wit_IntegrityEvents :
    (ready.bucket 31).nextLeak ≤ (ready.advance (10 ^ 10)).time.now ∧ ready.integ.nextCopy ≤ (ready.advance 0).time.now
    ∧ wordOk (.word 0 0 0 0x9FCF_FFFF_0F00_0000#64) = true ∧ wordOk (.word 0 0 0 0) = false ∧ wordOk (.refresh 32767) = false
    ∧ worn.pcUp (65535 / 32) = true ∧ 8 ≤ (worn.errRows 65535 31 0).length ∧ (Tbl.get [] worn.mem.colRepairs 2047).length < 8
    ∧ (let m := { worn.mem with colRepairs := [(2047, (List.range 8).map fun k => (k, 0))] }
       8 ≤ (({ worn with mem := m } : State).errRows 65535 31 0).length ∧ 8 ≤ (Tbl.get [] m.colRepairs 2047).length) := by decide +kernel
theorem wit_ServiceCommands :
    let ask (u : Nat) (begun : Bool) : State := asks (owned ready) 0 0x0B01 12 [(0x10, 32, u), (0x18, 32, 5)] begun
    ([unitId 3 1023, unitId 7 63, unitId 9 15].all fun u =>
      ((ask u false).req 0).opcode == 0x0B01 && ((ask u false).req 0).shapeOk 12 (bodyFields [(0x10, 32), (0x14, 8), (0x18, 32)])
        && (ask u false).allowed .ownerPort (.port 0) && unitOk u && decide (((ask u false).req 0).fld 0x14 8 < 2)) = true
    ∧ Admitted (ask (unitId 3 1023) false) 0 0x0B01 .ownerPort 12 (bodyFields [(0x10, 32), (0x14, 8), (0x18, 32)])
    ∧ (ready.chan 1023).svc = .inService ∧ ready.channelIdle 1023 = true ∧ (ready.core 63).svc = .inService ∧ ready.coreIdle 63 = true
    ∧ (ready.hcore 15).svc = .inService
    ∧ (let s := ask (unitId 3 1023) true
       (s.mbox 0).cur = true ∧ (s.mbox 0).begun = true ∧ (s.req 0).opcode = 0x0B01 ∧ (s.mbox 0).discard = false ∧ (s.mbox 0).behind = []
        ∧ (s.mbox 0).deadline ≤ (s.advance 0).time.now)
 := by
  unfold Admitted; decide +kernel
theorem wit_ServiceCommands_alone (m : Nat) (h : m ≠ 0) : ((asks ready 0 0x0B01 12 [] true).mbox m).begun = false := by
  rw [asks, State.mbox_setMbox_ne _ _ _ h]; rfl
theorem wit_ServiceCommands_back :
    let ask (s : State) (u : Nat) : State := asks (owned s) 0 0x0B02 4 [(0x10, 32, u)]
    (let s := ask (ready.setCore 63 { svc := .disabled }) (unitId 7 63)
     Admitted s 0 0x0B02 .ownerPort 4 (bodyFields [(0x10, 32)]) ∧ unitOk (unitId 7 63) = true ∧ s.inSvc (unitId 7 63) = false
      ∧ s.readmitCovered (unitId 7 63) = true)
    ∧ (let s := ask (ready.setHCore 15 { svc := .disabled }) (unitId 9 15)
       Admitted s 0 0x0B02 .ownerPort 4 (bodyFields [(0x10, 32)]) ∧ unitOk (unitId 9 15) = true ∧ s.inSvc (unitId 9 15) = false
         ∧ s.readmitCovered (unitId 9 15) = true)
    ∧ (let s := ask { ready with flinks := [(7, { svc := .fenced })] } (unitId 11 7)
       Admitted s 0 0x0B02 .ownerPort 4 (bodyFields [(0x10, 32)]) ∧ unitOk (unitId 11 7) = true ∧ s.inSvc (unitId 11 7) = false
        ∧ s.readmitCovered (unitId 11 7) = true ∧ (∀ f : Fin 4, (s.frond f.val).path = true) ∧ s.fabricHeld = [])
    ∧ (let s := ask { ready with engines := [(63, { svc := .fenced })] } (unitId 12 63)
       Admitted s 0 0x0B02 .ownerPort 4 (bodyFields [(0x10, 32)]) ∧ unitOk (unitId 12 63) = true ∧ s.inSvc (unitId 12 63) = false
         ∧ s.readmitCovered (unitId 12 63) = true)
    ∧ (let s := asks (owned ready) 0 0x0B03 4 [(0x10, 32, 0x45524153)]
       Admitted s 0 0x0B03 .ownerPort 4 (bodyFields [(0x10, 32)]) ∧ (s.req 0).fld 0x10 32 = 0x45524153 ∧ s.queueOrCore = false
        ∧ s.dropLevels.granting = true ∧ 4096 ≤ Nat.min s.dropLevels.bandFigure s.dropLevels.freeQ) := by
  unfold Admitted; decide +kernel
theorem wit_ServiceCommands_port :
    let s := asks (owned (ready.setRPort 7 { svc := .disabled })) 0 0x0B02 4 [(0x10, 32, unitId 10 7)]
    Admitted s 0 0x0B02 .ownerPort 4 (bodyFields [(0x10, 32)]) ∧ unitOk (unitId 10 7) = true ∧ s.inSvc (unitId 10 7) = false
      ∧ s.readmitCovered (unitId 10 7) = true := by
  unfold Admitted; decide +kernel
/-- A pack's answer to a poll. -/
def reading : PackReading :=
  { serial := 1, model := 0x0120, mfgWeek := 0, ratedMwh := 120000, soh := 1000, soc := 1000, cellTemp := -32768, storedMc := 2 ^ 32 - 1
    storedMwh := 120000, inMc := 5, outMc := 5, charging := false, week := 0 }
theorem wit_PackCommands :
    let with_ (present : Bool) (missed : Nat) (ph : Phase) : State := { ready with phase := ph, pack := { ready.pack with present, missed } }
    (let s := asks (owned ready) 0 0x0C03 1 [(0x10, 8, 1)]
     Admitted s 0 0x0C03 .ownerPort 1 (bodyFields [(0x10, 8)]) ∧ (s.req 0).fld 0x10 8 < 2)
    ∧ (let s := asks (owned (with_ true 0 .ready)) 0 0x0C02 0 []; Admitted s 0 0x0C02 .ownerPort 0 [] ∧ s.pack.present = true)
    ∧ PackReading.inRange reading = true ∧ 2 ≤ (with_ true 2 .ready).pack.missed ∧ (with_ false 0 .ready).pack.present = false
    ∧ (with_ false 3 .ready).pack.missed = 3
    ∧ (with_ true 0 .ready).phase ≠ .retention ∧ ready.pack.nextCopy ≤ (ready.advance 0).time.now
    ∧ PackReading.inRange { reading with soh := 1001 } = false ∧ (with_ true 1 .ready).pack.missed < 2
    ∧ replyPasses .silent = false := by
  unfold Admitted; decide +kernel
theorem wit_GroupCommands :
    let ask (ms : Nat) : State := asks (owned ready) 0 0x0D01 12 [(0x10, 64, 9), (0x18, 8, 15), (0x1A, 16, ms)]
    let group : Group := { token := 9, member := 15, members := 0x8001#16, joinMb := some 0 }
    let joining : State := { asks (owned ready) 0 0x0D01 12 [] true with group }
    let msg : JoinMsg := { member := 0, token := 9, members := 0x8001#16, serial := 5, routesOk := true }
    let inside : State := { ready with group := { inGroup := true, member := 15, members := 0x8001#16 } }
    (Admitted (ask 0x8000) 0 0x0D01 .ownerPort 12 (bodyFields [(0x10, 64), (0x18, 8), (0x1A, 16)]) ∧ memberList 0x8000#16 = [15])
    ∧ (Admitted (ask 0x8001) 0 0x0D01 .ownerPort 12 (bodyFields [(0x10, 64), (0x18, 8), (0x1A, 16)]) ∧ memberList 0x8001#16 ≠ [15]
      ∧ (0x8001#16).getLsbD 15 = true ∧ (ask 0x8001).group.msgs = [] ∧ (ask 0x8001).group.inGroup = false)
    ∧ (joining.group.inGroup = false ∧ joining.group.joinMb = some 0 ∧ (joining.mbox 0).discard = false ∧ (joining.mbox 0).behind = []
      ∧ joining.group.members.getLsbD msg.member.val = true ∧ msg.member.val ≠ joining.group.member
      ∧ { msg with token := 8 }.token ≠ joining.group.token ∧ msg.token = joining.group.token ∧ msg.members = joining.group.members
      ∧ joining.group.msgs = [] ∧ (memberList joining.group.members).filter (· != joining.group.member) = [msg.member.val])
    ∧ Admitted (asks (owned inside) 0 0x0D02 0 []) 0 0x0D02 .ownerPort 0 []
    ∧ (inside.group.inGroup = true ∧ inside.group.members.getLsbD (0 : Fin 16).val = true ∧ (0 : Fin 16).val ≠ inside.group.member)
    ∧ (∀ x ∈ inside.recs, x.op = 0x40 → x.q = 0 → x.fld 0x42 16 = 3 → x.collK ≠ 1)
    ∧ (flying inside (rec0 0x40 [(8 * 0x42, 3)])).recs.find? (fun r => r.op == 0x40 && r.q == 0 && r.fld 0x42 16 == 3 && r.collK == 0)
        = some (rec0 0x40 [(8 * 0x42, 3)]) := by
  unfold Admitted; decide +kernel
theorem wit_GroupCommands_fits :
    let s : State := { ready with
      group := { member := 15, members := 0x9001#16 }, rports := [(0, { up := true, serial := 7 }), (4, { up := true, serial := 8 })] }
    let msg : JoinMsg := { member := 12, token := 9, members := 0x9001#16, serial := 7, routesOk := true }
    (msg.routesOk = true ∧ (s.portTo msg.member.val).isSome = true
      ∧ ∀ n : Fin 8, (s.rport n.val).up = true → (msg.member.val = neighbourOf s.group.member n.val ↔ msg.serial = (s.rport n.val).serial))
    ∧ ¬ (12 = neighbourOf 15 0 ↔ (8 : BitVec 64) = (s.rport 0).serial) := by decide
theorem wit_ServiceCommands_narrow :
    let s := asks (owned (ready.setChan 1023 { svc := .disabled })) 0 0x0B02 4 [(0x10, 32, unitId 3 1023)]
    let o : Readmission := { passes := true, lanes := [{ lane := 10239, write := 64, read := 64, width := 19 }] }
    Admitted s 0 0x0B02 .ownerPort 4 (bodyFields [(0x10, 32)]) ∧ unitOk (unitId 3 1023) = true ∧ s.inSvc (unitId 3 1023) = false
      ∧ s.readmitCovered (unitId 3 1023) = true ∧ (lanesOf o [1023]).any eyeNarrow = true := by
  unfold Admitted; decide +kernel
/-- Both firmware slots hold images of version and security version 0. -/
def slot0 : Slot := { valid := true, version := 0, security := 0, length := 4096, digest := 0 }
def loaded (s : State) : State := { s with fw := { slotA := slot0, slotB := slot0, minSecurity := 0 } }
/-- Every domain has been sampled, at 0 °C. -/
def cool : Therm := { ready.therm with doms := (List.range 72).map fun d => (d, { sampled := true }) }
theorem wit_ShutdownAndFirmware :
    let h : FwHeader := { version := 5, security := 0, raises := false, length := 4096, digest := 0 }
    (let s := asks { ready with phase := .logicShut, shut := { latched := true, read := true }, therm := cool } 0 0x0E03 0 []
     Admitted s 0 0x0E03 .port 0 [] ∧ s.shut.latched = true ∧ s.shut.read = true ∧ s.cooled = true)
    ∧ (let s := asks (owned (loaded ready)) 0 0x0F01 (16 + 3968) [(0x10, 32, 380 * 2 ^ 20 + 128), (0x14, 16, 3968), (0x20, 8, 1)]
       Admitted s 0 0x0F01 .ownerPort (16 + (s.req 0).fld 0x14 16) (fwStageFields ((s.req 0).fld 0x14 16))
        ∧ (s.req 0).fld 0x10 32 + (s.req 0).fld 0x14 16 = 380 * 2 ^ 20 + 4096 ∧ (s.req 0).fld 0x10 32 % 64 = 0 ∧ s.fw.running < 2)
    ∧ (let s := asks (owned (loaded ready)) 0 0x0F02 1 [(0x10, 8, 1)]
       Admitted s 0 0x0F02 .ownerPort 1 (bodyFields [(0x10, 8)]) ∧ (s.req 0).fld 0x10 8 = 1 ∧ s.fw.minSecurity.toNat ≤ h.security.toNat)
    ∧ h.security.toNat < ({ (loaded ready).fw with minSecurity := 1 } : Firmware).minSecurity.toNat
    ∧ (let s := { ready with phase := .starting, fw := { (loaded ready).fw with slotA := { slot0 with trial := true } } }
       s.phase = .starting ∧ s.booted = true ∧ (s.fw.slot s.fw.running).trial = true ∧ s.fw.running < 2)
    ∧ (let s := asks (owned ready) 0 0x0802 0 []
       (s.mbox 0).cur = true ∧ (s.mbox 0).begun = false ∧ (s.req 0).opcode ≠ 0x0A01 ∧ s.excluded (s.req 0) = false ∧ (s.mbox 0).discard = false
        ∧ (s.mbox 0).behind = []
        ∧ (s.mbox 0).startAt + maxTime (s.req 0) (s.mbox 0).slow (s.own.st == .window) ≤ (s.advance (10 ^ 15)).time.now) := by
  unfold Admitted; decide +kernel

/-! ## Witnesses: records -/

/-- A dense descriptor of a format, innermost extent first. -/
def arr (fmt base : Nat) (ext : List Nat) (stride : List Int) : Desc := { vec base 0 with fmt, ext, stride }
/-- A record whose operand slots hold descriptors. -/
def recD (op : Nat) (fs : List (Nat × Nat)) (ds : List (Option Desc)) : Rec := { rec0 op fs with descs := ds }
def tiles (op : Nat) : Rec := recD op [(8 * 0x2C, 1)] [some (vec 4096 4), some (vec 0 4), some (arr 1 8192 [4, 4] [1, 4])]
/-- A record in flight runs and its paths are up. -/
def runsClear (op : Nat) (r : Rec) : Prop := Runs (flying ready r) 0 0 op r ∧ (flying ready r).pathsUp r = true
theorem ready_underway : ready.underway = [] := by decide +kernel
theorem wit_SorusControl_reach : AtRest ready rachis [0, 2 ^ 36 - 1] :=
  ⟨fun h hh => by rw [ready_underway] at hh; exact (nomatch hh), fun _ _ => ⟨rfl, rfl, (by decide : (0 : Int) < 4), rfl⟩⟩
theorem wit_TileRecordsDoTheirWork :
    ∀ op ∈ [0x01, 0x02, 0x20, 0x21, 0x22, 0x30, 0x31, 0x32, 0x33], runsClear op (tiles op) ∧ (tiles op).desc 0 = some (vec 4096 4)
      ∧ (tiles op).actDesc = some (vec 0 4) ∧ (tiles op).desc 1 = some (vec 0 4) ∧ (tiles op).desc 2 = some (arr 1 8192 [4, 4] [1, 4]) := by
  unfold runsClear Runs; decide +kernel
/-- A row list entry of one row of the last unit of the first bank-local window. -/
def row0 : RowEntry := { d := 1, x := 2, y := 3, nrows := 1, window := ready.lay.first, unit := 15, vec := 0 }
def rows (op : Nat) (fs : List (Nat × Nat)) : Rec := { recD op fs [none, some (vec 4096 1)] with rowE := [row0] }
theorem wit_BankRecordsDoTheirWork_rowop :
    let r := rows 0x11 [(8, 1)]
    let s := flying ready r
    Runs s 0 0 0x11 r ∧ s.pathsUp r = true ∧ s.rowopRows r ≠ [] ∧ s.rowsReady (s.rowopRows r) = true := by
  unfold Runs; decide +kernel
theorem wit_BankRecordsDoTheirWork_ew :
    let r := rows 0x12 []
    let s := flying ready r
    Runs s 0 0 0x12 r ∧ s.pathsUp r = true ∧ s.ewRows r ≠ [] ∧ s.rowsReady (s.ewRows r) = true := by
  unfold Runs; decide +kernel
theorem wit_BankRecordsDoTheirWork_norm :
    let r := rows 0x13 []
    let s := flying ready r
    Runs s 0 0 0x13 r ∧ s.pathsUp r = true ∧ s.normRows r ≠ [] ∧ r.desc 1 = some (vec 4096 1) ∧ s.rowsReady (s.normRows r) = true
      ∧ r.normExt (vec 4096 1) ≠ [] := by
  unfold Runs; decide +kernel
/-- The row operation reads no column for its patterns: what it reaches is the state itself, at whose pairs nothing waits. -/
theorem wit_BankRecordsDoTheirWork_noneWait : NoneWait ((flying ready (rows 0x11 [(8, 1)])).reachRec (rows 0x11 [(8, 1)]) []) := fun _ => rfl
/-- Two output rows of one vector, their weights in one bank pair. -/
def gemv (engine : Nat) : Rec :=
  let r := recD 0x10 [(8 * 0x2C, 1), (8 * 0x60, 1), (8 * 0x64, 2), (8 * 0x68, 1)] [some (arr 1 (2 ^ 40) [1, 2] [1, 1]), some (vec 0 64)]
  { r with engine, vcount := 1, mapE := [{ rowOp := 0, unit := 15, window := ready.lay.first, nrows := 2, outFirst := 0, kslice := 0 }] }
def out2 : Desc := arr 1 (2 ^ 40) [1, 2] [1, 1]
theorem wit_BankRecordsDoTheirWork_pass :
    let r := gemv 1
    let s := flying ready r
    Runs s 0 0 0x10 r ∧ s.pathsUp r = true ∧ r.desc 0 = some out2 ∧ r.actDesc = some (vec 0 64)
      ∧ r.swept = false ∧ s.passReady r = true := by
  unfold Runs; decide +kernel
theorem wit_BankRecordsDoTheirWork_cores :
    let r := gemv 0
    let s := flying ready r
    Runs s 0 0 0x10 r ∧ s.pathsUp r = true ∧ r.engine ≠ 1 := by
  unfold Runs; decide +kernel
theorem wit_BankRecordsDoTheirWork_epilogue :
    let r := { gemv 1 with sweptTo := 2, swept := true }
    let s := flying ready r
    Runs s 0 0 0x10 r ∧ s.pathsUp r = true ∧ 1 < r.sweptTo ∧ 1 ∈ r.rowsLeft s.lay := by
  unfold Runs; decide +kernel
def up (s : State) : State := s.setPort 3 { linkUp := true }
theorem wit_OutwardRecordsDoTheirWork :
    (let r := recD 0x34 [(8, 3), (8 * 0x2C, 1)] [none, some (vec 0 4)]
     Runs (flying ready r) 0 0 0x34 r ∧ (flying ready r).pathsUp r = true ∧ (flying ready r).hostUp r = false
      ∧ (flying (up ready) r).hostUp r = true)
    ∧ (let r := { recD 0x35 [(8, 3), (8 * 0x2C, 1)] [some (vec 0 4)] with
                  tickets := { total := 1, gridM := 1, gridN := 1, tab := [(0, { st := .claimed (.engine 0) 0 })] } }
       Runs (flying ready r) 0 0 0x35 r ∧ (flying ready r).pathsUp r = true ∧ (flying ready r).hostUp r = false
        ∧ (flying (up ready) r).hostUp r = true ∧ (r.ticket 0).st = .claimed (.engine 0) 0
        ∧ (r.ticket 0).asked = false ∧ r.halted = false ∧ ((up ready).port r.variant).linkUp = true ∧ ((up ready).port r.variant).retraining = false)
    ∧ (let r := recD 0x36 [] []; Runs (flying ready r) 0 0 0x36 r ∧ (flying ready r).pathsUp r = true)
    ∧ (let r := recD 0x50 [(27, 1), (8 * 0x0C, 63)] []
       let s := flying (ready.setCtx 0 { ctxOf .active with slots := [(0, { block := 1023, mapped := true })] }) r
       Runs s 0 0 0x50 r ∧ s.pathsUp r = true ∧ r.codes = [] ∧ s.downCode (s.sporeCols r) = [] ∧ 63 ∈ r.signals
        ∧ (s.ctx r.ctx).flag 63 = some (1023, 63))
    ∧ (let r := recD 0x40 [(8 * 0x2C, 1)] [some (vec 4096 4), some (vec 0 4)]
       runsClear 0x40 r ∧ r.desc 0 = some (vec 4096 4) ∧ r.desc 1 = some (vec 0 4))
    ∧ (let r := { recD 0x52 [(8 * 0x2C, 8)] [] with started := false }
       let s := flying (withCtx ready .active) r
       s.findRec 0 0 = some r ∧ r.op = 0x52 ∧ r.arrived = false ∧ s.startOk r = true) := by
  unfold runsClear Runs; decide +kernel
/-- Queue 0 of an active context holds one record at its `HEAD`, at 0. -/
def ringed (raw : Nat) : State :=
  let s := { (withCtx ready .active).setQueue 0 { live := true, ring := 0, cqRing := 16384, tail := 1 } with own := (owned ready).own }
  (List.range 4).foldl (fun s c => s.writeFull .host (s.lay.colOf (32 * c)) (BitVec.ofNat 256 (bits raw (256 * c) 256)) false) s
/-- A tiled record with one ticket, in a state, of a core's claim. -/
def held (op : Nat) (st : TState) : Rec :=
  { tiles op with workDone := true, tickets := { total := 1, gridM := 1, gridN := 1, tab := [(0, { st })] } }
theorem wit_RecordsLeaveTheRing : (ringed 0x20).nextQueue = some 0 ∧ (ringed 0x51).nextQueue = some 0 ∧ ((ringed 0x51).headRec 0).op = 0x51 := by
  decide +kernel
theorem wit_RecordsLeaveTheRing_timeout :
    let s := (ringed (0x51 + 2 ^ 24 + 63 * 2 ^ 32 + 5 * 2 ^ 512)).setCtx 0 { ctxOf .active with slots := [(0, { block := 1023, mapped := true })] }
    let s := s.setQueue 0 { s.queue 0 with waited := 5000 }
    (s.headRec 0).op = 0x51 ∧ (s.headRec 0).fld 0x40 32 ≠ 0 ∧ 1000 * (s.headRec 0).fld 0x40 32 ≤ (s.advance 0).waitedNs 0
      ∧ (s.advance 0).issueRoom 0 = true ∧ (s.advance 0).headClear 0 = true ∧ (s.advance 0).headBad 0 = none
      ∧ (s.advance 0).unmapped (s.headRec 0) = false ∧ (s.advance 0).recWaitSat (s.headRec 0) = false := by decide +kernel
/-- An int8 record whose first pass is over, with a wide source and more saturations than its limit allows. -/
def wide : Rec := { recD 0x01 [(8 * 0x2C, 1)] [some (vec 4096 4), some (vec 0 4)] with workDone := true, sat := 1, produced := 1 }
theorem wit_RecordsStartAndComplete :
    (let r := { tiles 0x20 with started := false }
     (flying (withCtx ready .active) r).findRec 0 0 = some r ∧ r.op ≠ 0x52 ∧ (flying (withCtx ready .active) r).startOk r = true)
    ∧ (wide.started = true ∧ wide.finished ready.lay = true ∧ wide.ticketsHeld = false ∧ wide.widens = true)
    ∧ (let r := { held 0x20 .committed with tickets := { total := 1, done := 1 }, batch := [(8191, 1)] }
       let s := flying ready r
       s.findRec 0 0 = some r ∧ r.finished s.lay = true ∧ r.ticketsHeld = false ∧ r.widens = false ∧ s.heldAtFrond r = false
        ∧ (∀ f ∈ r.fronds s.lay, (s.frond f).path = true) ∧ r.batch = [(8191, 1)] ∧ r.final.1 < 0x10
        ∧ (let s := s.setFrond 0 { path := false }
           s.heldAtFrond r = false ∧ (r.fronds s.lay).find? (fun f => !(s.frond f).path) = some 0)) := by decide +kernel
theorem wit_TicketProtocol_claims :
    (let r := { held 0x20 .unclaimed with workDone := false, tickets := { total := 1, gridM := 1, gridN := 1 } }
     let s := flying (ready.setCore 0 { level := 4 }) r
     s.findRec 0 0 = some r ∧ r.servedBy (.core 0) = true ∧ s.claims (.core 0) = true ∧ (r.claimant (claimantIdx (.core 0))).lastSerial ≠ some 0
      ∧ (r.claimant (claimantIdx (.core 0))).held ≠ 2 ∧ s.nextTicket r (.core 0) = some 0)
    ∧ (let r := held 0x20 .committed
       (flying (ready.setCore 0 { level := 4 }) r).nextTicket r (.core 0) = none ∧ r.servedBy (.core 0) = true)
    ∧ (let r := { held 0x20 .committed with tickets := { claimants := [(claimantIdx (.core 63), { held := 2, lastSerial := some 0xFFFF })] } }
       (r.claimant (claimantIdx (.core 63))).lastSerial = some 0xFFFF ∧ (r.claimant (claimantIdx (.core 63))).held = 2
        ∧ (flying (ready.setCore 63 { level := 4 }) r).claims (.core 63) = true
        ∧ (flying (ready.setCore 63 { svc := .draining }) r).claims (.core 63) = false) := by decide +kernel
theorem wit_TicketProtocol_commits :
    (let r := held 0x20 (.claimed (.core 0) 3)
     (flying ready r).findRec 0 0 = some r ∧ (r.ticket 0).st = .claimed (.core 0) 3 ∧ (flying ready r).formed r 0 = true
      ∧ (r.ticket 0).st ≠ .claimed (.core 0) 2 ∧ (flying ready r).mayRun (.core 0) = false
      ∧ (flying (ready.setCore 0 { level := 4 }) r).mayRun (.core 0) = true
      ∧ (flying (ready.setCore 0 { level := 4 }) r).formed r 0 = true)
    ∧ (let r := held 0x20 (.committing (.core 0) 3)
       (flying ready r).findRec 0 0 = some r ∧ (r.ticket 0).st = .committing (.core 0) 3)
    ∧ (let r := held 0x20 (.claimed (.core 0) 3)
       let s := { flying ready r with time := { now := 100000001 } }
       s.findRec 0 0 = some r ∧ (s.advance 0).heldTooLong r (.core 0) = true) := by decide +kernel

theorem wit_NoDisableWaits : NoDisableWaits ready := by unfold NoDisableWaits; decide +kernel

/-! ## Witnesses: doorbells, flags, barriers -/

theorem wit_Doorbells :
    let s := (withCtx (owned ready) .active).setQueue 2047 { live := true, tail := 1, cqTail := 1 }
    s.isOwner 0 = true ∧ (s.queue 2047).live = true ∧ (s.ctx (s.queue 2047).ctx).st = .active
      ∧ ((64#32 : Word32) ≠ (s.queue 2047).tail ∧ precedes 64#32 (s.queue 2047).tail = false
        ∧ ((64#32 : Word32) - (s.queue 2047).head).toNat ≤ (s.queue 2047).entries)
      ∧ (precedes 65#32 (s.queue 2047).tail = false ∧ (s.queue 2047).entries < ((65#32 : Word32) - (s.queue 2047).head).toNat)
      ∧ ((1#32 : Word32) - (s.queue 2047).cqHead).toNat ≤ ((s.queue 2047).cqTail - (s.queue 2047).cqHead).toNat
      ∧ ((s.queue 2047).cqTail - (s.queue 2047).cqHead).toNat < ((2#32 : Word32) - (s.queue 2047).cqHead).toNat ∧ s.isOwner 3 = false := by
  decide +kernel
/-- Block 1,023 is bound to the last slot of context 255, mirrored. -/
def bound : State :=
  (owned ready).setCtx 255 { ctxOf .active with slots := [(1023, { block := 1023, mapped := true, mirror := true, addr := 8 })] }
theorem wit_FlagPages_retraining :
    (let s := bound.setPort 0 { linkUp := true, busMaster := true, retraining := true }; (s.port 0).reach = true ∧ (s.port 0).retraining = true)
    ∧ ((bound.setPort 0 { linkUp := true, busMaster := true }).port 0).retraining = false := by decide +kernel
theorem wit_FlagPages :
    bound.isOwner 0 = true ∧ (bound.ctx 255).flag 65535 = some (1023, 63) ∧ (bound.ctx 255).flag 65471 = none
    ∧ (bound.ctx 255).flag (64 * 1023) = some (1023, 0) ∧ bound.ownerPort = some 0
    ∧ bound.binding 1023 = some (255, 1023, { block := 1023, mapped := true, mirror := true, addr := 8 })
    ∧ ((bound.setPort 0 { linkUp := true, busMaster := true }).port 0).reach = true
    ∧ (let ms : State := { bound with mirrors := [(1023, { write := true })] }; (Tbl.get ({} : Mirror) ms.mirrors 1023).write = true) := by
  decide +kernel
def bars (s : State) (x : Barrier) : State := s.setBar 4095 x
def arr0 (scope : Nat) (wait : Bool) : Arrival := { q := 0, seq := 0, scope, count := 2, frond := 3, wait }
/-- This module is member 15 of a group whose root is member 0, or its root. -/
def member (n : Nat) (s : State) : State := { s with group := { inGroup := true, member := n, members := 0x8001#16 } }
theorem wit_Barriers_arrivals :
    ready.counting = true
    ∧ ([0, 1, 2].all fun sc => let x : Barrier := { inF := [(3, [arr0 sc true])] }
        ((bars ready x).bar 4095).inF == x.inF && (({ x with inF := Tbl.put [] x.inF 3 [] } : Barrier).fix (arr0 sc true)).agrees (arr0 sc true)
          && decide ((({ x with inF := Tbl.put [] x.inF 3 [] } : Barrier).fix (arr0 sc true)).pendAt 3 < 0xFFFF)) = true
    ∧ ((bars ready { inR := [arr0 1 true] }).bar 4095).inR = arr0 1 true :: []
    ∧ (let s := bars (member 15 ready) { inR := [arr0 2 true] }
       s.counting = true ∧ (s.bar 4095).inR = arr0 2 true :: [] ∧ s.group.isRoot = false
        ∧ pendCount ((s.bar 4095).sent ++ (s.bar 4095).pendR) < 0xFFFF) := by decide +kernel
theorem wit_Barriers_group :
    (let s := bars (member 0 ready) {}
     s.counting = true ∧ s.group.inGroup = true ∧ s.group.isRoot = true
      ∧ (((s.bar 4095).fix { q := 0, seq := 0, scope := 2, count := 2, frond := 0, wait := false, num := 2, member := some 15 }).scope = 2)
      ∧ (({ fixed := true, scope := 1, count := 2, rootCount := 1 } : Barrier).fix
          { q := 0, seq := 0, scope := 2, count := 2, frond := 0, wait := false, num := 2, member := some 15 }).scope ≠ 2)
    ∧ (let s := flying (bars (member 15 ready) { sent := [arr0 2 true] }) (recD 0x52 [] [])
       s.counting = true ∧ (s.bar 4095).sent = arr0 2 true :: [] ∧ s.findRec 0 0 = some (recD 0x52 [] [])) := by decide +kernel
theorem wit_Barriers_forward :
    (ready.frond 3).path = true
    ∧ (let s := (bars (member 15 ready) { pendR := [arr0 2 true] }).setRPort 0 { up := true }
       s.group.inGroup = true ∧ (memberList s.group.members).head? = some 0 ∧ (s.bar 4095).pendR ≠ [])
    ∧ (let s := flying (bars ready { released := [7], waiters := [(0, 0, 7)] }) (recD 0x52 [] [])
       7 ∈ (s.bar 4095).released ∧ (0, 0, 7) ∈ (s.bar 4095).waiters ∧ s.findRec 0 0 = some (recD 0x52 [] [])) := by decide +kernel
theorem wit_Barriers_deadlock :
    let s := (ringed (0x51 + 2 ^ 24 + 63 * 2 ^ 32)).setCtx 0
      { ctxOf .active with slots := [(0, { block := 1023, mapped := true })], dlWindowMs := 500 }
    let s := { s with time := { now := 500000000 } }
    (s.advance 0).stuck .module = true ∧ (s.advance 0).windowPassed .module = true ∧ (s.advance 0).stuck (.context 0) = true
      ∧ (s.advance 0).windowPassed (.context 0) = true := by decide +kernel

/-! ## Witnesses: sorus units -/

theorem wit_SorusLoadsAndFetches :
    ready.canLoad 32767 256 false (.cfg cfg0) = true ∧ ready.canLoad 32767 256 false (.lut (List.replicate 8 burst0)) = true
    ∧ (∀ k ∈ maskUnits 2047 0x8001#16, ready.canLoad k 256 false (.vec { sld0 with vec := 7, colOff := 31 }) = true)
    ∧ cfg0.loadCfg = true ∧ partsOf (bits cfg0.config.toNat 1 3 + 1) = partsOf ((ready.pair 32767).ready 256).unit.vecs
    ∧ partsOf (bits (8#32 : Word32).toNat 1 3 + 1) ≠ partsOf ((ready.pair 32767).ready 256).unit.vecs
    ∧ (let s := ready.setPair 32767 { token := true, lastCtx := some 256 }
       s.canLoad 32767 256 true (.cfg cfg0) = true ∧ s.canLoad 32767 256 true (.lut (List.replicate 8 burst0)) = true ∧ (s.pair 32767).token = true
        ∧ ∀ k ∈ maskUnits 2047 0x8001#16, s.canLoad k 256 true (.vec sld0) = true) ∧ ready.canIssue 32767 = true := by decide +kernel
/-- The last pair's unit holds a token for context 0. -/
def granted : State := { ready with pairs := [(32767, { token := true, lastCtx := some 0 })] }
theorem pair_granted (k : Nat) : granted.pair k = if k = 32767 then { token := true, lastCtx := some 0 } else {} := rfl
theorem issues_granted (cmd : RowCmd) (h : ({} : Sorus).cmdOk cmd = true)
    (hc : ∀ r ∈ (cmdRows cmd).2, ∀ c, c < 32 → colMasked (granted.mem.data (rowCol 32767 r c)) (granted.mem.chk (rowCol 32767 r c)) = false) :
    Issues granted 32767 0 cmd {} :=
  ⟨by decide +kernel, by decide +kernel, fun _ hb => (nomatch hb), rfl, rfl, h, rfl, fun k _ => by rw [pair_granted]; split <;> rfl, fun _ => rfl, hc⟩
/-- No column that a command reads at that unit is reported. -/
def unmasked (cmd : RowCmd) : Bool :=
  ({} : Sorus).cmdOk cmd && (cmdRows cmd).2.all fun r => (List.range 32).all fun c =>
    !colMasked (granted.mem.data (rowCol 32767 r c)) (granted.mem.chk (rowCol 32767 r c))
theorem issues_unmasked {cmd : RowCmd} (h : unmasked cmd = true) : Issues granted 32767 0 cmd {} := by
  simp only [unmasked, Bool.and_eq_true, List.all_eq_true, Bool.not_eq_true'] at h
  exact issues_granted cmd h.1 fun r hr c hc => h.2 r hr c (List.mem_range.2 hc)
theorem wit_SorusRowOperations :
    Issues granted 32767 0 (.copy 0x7FFF 0x8000) {} ∧ Issues granted 32767 0 (.init 0xFFFF) {}
      ∧ Issues granted 32767 0 (.log .andn 0x7FFF 0x8000 1) {}
      ∧ ({} : Sorus).satCount ≤ 0xFFFF :=
  ⟨issues_unmasked (by decide +kernel), issues_unmasked (by decide +kernel), issues_unmasked (by decide +kernel), by decide⟩
theorem wit_SorusArithmetic :
    (Issues granted 32767 0 (.mac 2 30719 0) {} ∧ ({} : Sorus).accs = List.replicate 8 0
      ∧ ((List.range 2).all fun k => (List.range 32).all fun c => !colMasked (granted.mem.data (rowCol 32767 (sweepRow 30719 k) c))
          (granted.mem.chk (rowCol 32767 (sweepRow 30719 k) c))) = true)
      ∧ Issues granted 32767 0 (.nrm 0 0 31) {} ∧ Issues granted 32767 0 (.elt .mul 0x7FFF 0x8000 1) {} :=
  ⟨⟨issues_unmasked (by decide +kernel), rfl, by decide +kernel⟩, issues_unmasked (by decide +kernel), issues_unmasked (by decide +kernel)⟩
theorem wit_SorusBroadcast :
    let us (s : State) := (bcastUnits 1023 3#2 0x8001#16).filter fun su => s.pcUp (su / 16)
    (3#2 : BitVec 2) ≠ 0 ∧ us ready ≠ [] ∧ ready.idleUnits (us ready) = true ∧ (∀ k ∈ us ready, ready.canLoad k 256 false (.cfg cfg0) = true)
    ∧ ready.idleUnits (bcastUnits 1023 3#2 0xFFFF#16) = true ∧ followerOk (.init 1) 65536 = false ∧ followerOk (.init 0) 16 = true
    ∧ followerOk (.copy 0x7FFF 0x8000) 1 = true
    ∧ (∀ k ∈ us ready, ready.tokenFree k = true ∧ ready.unitPath k = true ∧ (ready.pair k).rerun = none ∧ (ready.pair k).ordQ = [])
    ∧ ((List.range 32).all fun c => (us ready).all fun k =>
        !colMasked (ready.mem.data (rowCol k 0x8000 c)) (ready.mem.chk (rowCol k 0x8000 c))) = true
    ∧ (let s := { ready with power := { ready.power with tokens := 8192 } }
       s.idleUnits (bcastUnits 1023 3#2 0xFFFF#16) = true ∧ ∀ k ∈ us s, s.tokenFree k = false ∧ (s.pair k).rerun = none ∧ (s.pair k).token = false)
    ∧ ((withCtx ready .active).ctx 0).priv = true ∧ ((withCtx ready .orphaned).ctx 0).st = .orphaned := by decide +kernel
/-- The last pair waits to run a copy again whose first column's read was masked. -/
def again : State :=
  let x : Rerun := { steps := [{ cmd := .copy 0x7FFF 0x8000, part := 0, op := 0 }], accs := [], fifo := [], sat := 0, poison := false
                     rows := [(rowCol 32767 0x8000 0, 5, freshCheck 5 false)], bad := [rowCol 32767 0x8000 0], carry := false }
  { ready with pairs := [(32767, { token := true, rerun := some x })] }
theorem wit_SorusControl :
    (ready.canIssue 32767 = true ∧ ready.tokenFree 32767 = true ∧ (ready.pair 32767).token = false)
    ∧ (let s := { ready with power := { ready.power with tokens := 8192 } }; s.pool ≤ s.power.tokens ∧ (s.pair 32767).todo = [])
    ∧ ((ready.pair 32767).nextRef ≤ ready.time.now ∧ (ready.pair 32767).owed < 4 ∧ -4 < (ready.pair 32767).owed)
    ∧ (let s := ready.setPair 32767 { nextRef := 1 }; s.time.now < (s.pair 32767).nextRef)
    ∧ (let col := rowCol 32767 0xFFFF 31; colUnit col = 32767 ∧ ready.colUp col = true ∧ (ready.readCol col).1.good = true)
    ∧ (let s := ready.setPair 32767 { token := true, mustStep := true }; (s.pair 32767).token = true ∧ (s.pair 32767).mustStep = true)
    ∧ ∃ x st, (again.pair 32767).rerun = some x ∧ x.steps = [st] ∧ st.cmd = .copy 0x7FFF 0x8000 ∧ (again.pair 32767).token = true
        ∧ (again.pair 32767).ordQ = [] ∧ rowCol 32767 0x8000 0 ∈ x.bad
        ∧ x.rows.find? (·.1 == rowCol 32767 0x8000 0) = some (rowCol 32767 0x8000 0, 5, freshCheck 5 false)
        ∧ (decodeCol 5 (freshCheck 5 false)).1.good = true := by
  refine ⟨by decide +kernel, by decide +kernel, by decide +kernel, by decide +kernel, by decide +kernel, by decide +kernel, ?_⟩
  exact ⟨_, _, rfl, rfl, rfl, rfl, rfl, by decide +kernel, by decide +kernel, by decide +kernel⟩
theorem wit_SorusWordsReadBack : (SWord.smac 15#4 0x8001#16 31#8).ok 15#4 = true ∧ (SWord.sbrd 3#2 0xFFFF#16 0xFFFF#16).ok 0#4 = true := by decide
/-- The fields' places of R81, bit by bit, at the extremes of their ranges. -/
theorem test_words :
    SWord.decode 0x9FCF_FFFF_0F00_0000#64 = some (.smac 15#4 0xFFFF#16 15#8, 1#1, 15#4)
      ∧ (SWord.scpy 0x8000#16 0x7FFF#16).word 1#1 15#4 = 0xAFC0_8000_7FFF_0000#64 := by decide

/-! ## Witnesses: frond cores -/

def powered (s : State) (c : Nat) : State := s.setCore c { level := 4 }
theorem wit_Cores :
    (ready.core 0).runs = false ∧ ((powered ready 63).core 63).runs = true ∧ mmaSeg mma0 = false
      ∧ mmaSeg { mma0 with mode := .int8seg } = true ∧ chain0.outLane = .int32 ∧ { chain0 with src := .acc 31 }.src = .acc 31
      ∧ (∀ b, chain0.dst ≠ .acc b) ∧ red0.form = .axis1 0 ∧ red0.lane = .int32 ∧ (ready.core 63).svc ≠ .fenced := by
  refine ⟨by decide +kernel, by decide +kernel, rfl, rfl, rfl, rfl, nofun, rfl, rfl, by decide +kernel⟩
theorem wit_CoreReductions : maskBit ((ready.core 63).maskOf { reg := 0, build := none }) true 63 = true
    ∧ maskBit (((ready.core 63).buildMask { reg := 1, build := some 0 }).maskOf { reg := 1, build := some 0 }) true 63 = false := by decide +kernel

/-! ## Witnesses: host ports, register pages, resets, host cores -/

/-- The owner's port is linked and maps 256 MiB at HPA 256 MiB to DPA 0; port 3 is linked too. -/
def hosted : State :=
  let s := owned ready
  (s.setPort 0 { linkUp := true, busMaster := true, hdm := [(3, { base := 2 ^ 28, size := 2 ^ 28, on := true })] }).setPort 3 { linkUp := true }
theorem wit_CxlReadsAndWrites :
    (hosted.port 0).linkUp = true ∧ hosted.memOpen 0 = true ∧ (hosted.port 0).dpaOf (2 ^ 29 - 64) = some (2 ^ 28 - 64)
      ∧ (2 ^ 28 - 64) % 64 = 0 ∧ hosted.clearLine (2 ^ 28 - 64) = true ∧ (hosted.port 0).dpaOf (2 ^ 29) = none
      ∧ hosted.isOwner 0 = true ∧ hosted.colUp (hosted.lay.colOf (2 ^ 28 - 64)) = true ∧ hosted.colUp (hosted.lay.colOf (2 ^ 28 - 32)) = true
      ∧ (hosted.port 3).linkUp = true ∧ hosted.isOwner 3 = false
      ∧ (let s := port0 hosted fun f => { f with fence := true }
         s.phase = .ready ∧ s.isOwner 0 = true ∧ (s.port 0).dpaOf (2 ^ 28) ≠ none ∧ (s.port 0).fence = true ∧ s.memOpen 0 = false) := by
  decide +kernel
theorem wit_CxlReadsAndWrites_arrived : ∀ h ∈ hosted.underway, OrdAccess.writeOf 0 h.2 = false := by decide +kernel
theorem wit_CxlReadsAndWrites_retraining :
    (let s := port0 hosted fun f => { f with retraining := true }; (s.port 0).retraining = true ∧ (s.port 0).dpaOf (2 ^ 29) = none)
    ∧ (hosted.port 0).retraining = false := by decide +kernel
theorem wit_CxlReadsAndWrites_flips : ∀ ch, Tbl.get none hosted.mem.flips ch = none := fun _ => rfl
/-- A host read of port 0 that is under way, one of its tickets held. -/
def fetching (op : Nat) (st : TState) : Rec :=
  let r := recD op [(8 * 0x2C, 1), (8 * 0x19, 3)] [some (vec 4096 4), some (vec 0 4)]
  { r with workDone := true, tickets := { total := 1, gridM := 1, gridN := 1, tab := [(0, { st })] } }
theorem wit_HostLinks :
    widthCode 16 ≠ 0 ∧ ready.linksLive = true ∧ (hosted.port 0).fence = false ∧ ((port0 hosted fun f => { f with fence := true }).port 0).fence = true
    ∧ ([0x34, 0x35].all fun op => let r := fetching op (.claimed (.engine 0) 0); let s := flying hosted r
        decide (r ∈ s.recs ∧ r.op = op ∧ r.variant = 0 ∧ r.halted = false ∧ r.tickets.done < r.tickets.total
          ∧ ∀ x ∈ s.recs, x.q = r.q → x.seq = r.seq → x = r)) = true
    ∧ (let s := port0 { hosted with time := { now := 100000000 } } fun f => { f with retraining := true, heldOut := [.cxlDone 0] }
       (s.port 0).linkUp = true ∧ (s.port 0).retraining = true ∧ (s.port 0).retrainAt + 100000000 ≤ s.time.now
        ∧ { s with time := { now := 99999999 } }.time.now < (s.port 0).retrainAt + 100000000)
    ∧ (hosted.port 0).retraining = false := by decide +kernel
theorem wit_HostTransfers :
    (let r := fetching 0x34 (.committing (.engine 0) 0); let s := flying hosted r
     s.findRec 0 0 = some r ∧ r.op = 0x34 ∧ r.workDone = true ∧ r.halted = false ∧ r.tickets.done < r.tickets.total
      ∧ (s.port r.variant).retraining = false ∧ (r.ticket 0).st = .committing (.engine 0) 0 ∧ 4 ∈ ackPoints (r.ticketBytes 0).length
      ∧ (r.ticket 0).acked < 4)
    ∧ (let r := fetching 0x35 (.claimed (.engine 0) 0)
       (flying hosted r).findRec 0 0 = some r ∧ (r.ticket 0).st = .claimed (.engine 0) 0) := by decide +kernel
theorem wit_RegisterWrites :
    ([1, 2, 4, 8].contains 3 = false ∧ 0x1004 % 8 ≠ 0) ∧ ((hosted.mbox 15).st ≠ .busy) ∧ ((hosted.setMbox 15 { st := .busy }).mbox 15).st = .busy
      ∧ (0x0FF8 < 0x1000 ∧ 0x0FF8 % 8 = 0) ∧ (hosted.port 3).commitError hdm0 = none ∧ (hosted.port 3).commitError { hdm0 with ways := 2 } ≠ none
      ∧ hdm0.on = true ∧ { hdm0 with on := false }.on = false
      ∧ (let s := { port0 hosted fun f => { f with msixOn := true, msixOpen := [(2, true)] } with evlog := { hosted.evlog with nextSeq := 3 } }
         (1#64 : Word64).toNat < s.evlog.nextSeq - 1 ∧ (s.port 0).canSend 2 = true ∧ (s.port 0).retraining = false) := by
  decide +kernel
theorem wit_ResetsOfTheOwner :
    hosted.isOwner 3 = false ∧ hosted.isOwner 0 = true ∧ hosted.resetting 3 = false ∧ hosted.resetting 0 = false
      ∧ ({ hosted with resetBusy := true, resetBy := some 0 } : State).resetting 0 = true ∧ ((0xA4#8 : Byte) ≠ 0xA5#8)
      ∧ ((hosted.setCtx 255 (ctxOf .active)).ctx 255).st = .active ∧ (hosted.ctx 254).st = .free ∧ hosted.recs = []
      ∧ ((hosted.setCtx 255 (ctxOf .suspended)).ctx 255).st = .suspended := by decide +kernel
theorem wit_ResetsOfTheOwner_idle : ∀ k, (hosted.mbox k).begun = false := fun _ => rfl
/-- Host core 15 runs for context 0, with a line and an instruction line. -/
def running : State :=
  let s := (withCtx hosted .active).setHCore 15 { run := true, stopped := false, il1 := [(1023, some (0, false))] }
  { s with lines := [(1023, some { data := 0, by_ := 15, dirty := true }), (1022, some { data := 0 })] }
theorem wit_HostCores :
    (withCtx hosted .active).mayStart { ((withCtx hosted .active).hcore 15) with ctx := 0 } = true
      ∧ ((withCtx hosted .active).hcore 15).svc = .inService
      ∧ (let s := (withCtx hosted .active).setHCore 15 { svc := .disabled }
         (s.hcore 15).svc ≠ .inService ∧ (s.hcore 15).run = false ∧ s.mayStart { (s.hcore 15) with ctx := 0 } = true)
      ∧ hosted.mayStart { (hosted.hcore 15) with ctx := 0 } = false ∧ running.executes 15 = true ∧ hosted.executes 15 = false
      ∧ ({ running with phase := .logicShut } : State).executes 15 = false
      ∧ running.inWindows 0 (65536 - 1) 65535 true = true ∧ running.inWindows 0 65535 65536 false = false
      ∧ (65528 % 64 + 8 ≤ 64 ∧ Tbl.get none running.lines (65528 / 64) = some { data := 0, by_ := 15, dirty := true })
      ∧ Tbl.get none (running.hcore 15).il1 (65528 / 64) = some (0, false)
      ∧ (∀ w ∈ running.underway, ordReq w.2 ≠ .hostCore)
      ∧ (2 ^ 41 < 2 ^ 44 ∧ 2 ^ 44 + 2 ^ 26 ≤ 2 ^ 44 + 2 ^ 26 ∧ (0x3FFF : Nat) < 0x4000)
      ∧ running.clearLine (64 * (65528 / 64)) = true ∧ Tbl.get none running.lines (65408 / 64) = some { data := 0 }
      ∧ running.colUp (running.lay.colOf (64 * (65528 / 64))) = true ∧ running.colUp (running.lay.colOf (64 * (65528 / 64) + 32)) = true := by
  decide +kernel

/-! ## Witnesses: clocks, sensors, input, start-up, links, sideband -/

theorem wit_ThermalAndClocks :
    (domClass 3 ≠ .dram ∧ domClass 3 ≠ .pack ∧ (List.replicate (sensorCount 3) (2400 : Int)).length = sensorCount 3
      ∧ (∀ v ∈ List.replicate (sensorCount 3) (2400 : Int), -640 ≤ v ∧ v ≤ 2400 ∧ (thresholds (domClass 3)).2.2.1 ≤ v))
    ∧ (let therm := { ready.therm with doms := [(3, { thrUp := 1, level := 2, throttleAt := some 0 })] }
       let s := { ready with therm, time := { now := 10 ^ 9 } }
       1 ≤ (s.dom 3).thrUp ∧ ((s.advance 0).stepCause (.logic 3)).1 = true ∧ s.time.wantRoot = none ∧ s.time.root = 0
        ∧ ({ s with time := { s.time with root := 1 } } : State).time.root < 2)
    ∧ (let s := { ready with therm := { ready.therm with clearedAt := some 0 }, time := { now := 10 ^ 8, root := 1 } }
       s.therm.clearedAt = some 0 ∧ 0 + 100000000 ≤ (s.advance 0).time.now ∧ s.therm.lastUp + 100000000 ≤ (s.advance 0).time.now
        ∧ s.time.wantRoot = none ∧ 0 < s.time.root)
    ∧ (({ ready with time := { wantRoot := some 2 } } : State).time.wantRoot = some 2 ∧ State.reset.phase = .starting ∧ State.reset.booted = false)
    ∧ 300 < (-1000 : Int).natAbs ∧ (-1000 : Int).natAbs ≤ 1000 := by decide +kernel
/-- A request accepted 49,999,999 ns before the root becomes 4.8 GHz is still within its first 50 ms; one a nanosecond earlier is not. -/
theorem wit_ThermalAndClocks_slow :
    let s := ({ ready with time := { now := 50000000, wantRoot := some 2 } } : State).setMbox 31 { cur := true, startAt := 1 }
    (s.mbox 31).cur = true ∧ s.time.now < (s.mbox 31).startAt + 50000000 ∧ ¬ s.time.now < 0 + 50000000 := by decide +kernel
theorem wit_ThermalAndClocks_noAccess : NoAccess ready := ⟨fun _ => rfl, ready_underway⟩
theorem wit_ThermalAndClocks_sensors : ∀ i, (Tbl.get {} (ready.dom 3).sensors i).out = false := fun _ => rfl
def start0 : StartReport :=
  { dbgEn := false, slotA := some { version := 1, security := 0, raises := false, length := 4096, digest := 0 }, slotB := none, badLinks := []
    badCores := [], badHostCores := [], fits := [], pack := .absent }
theorem wit_InputAndStartUp :
    (ready.phase ≠ .off ∧ ready.phase ≠ .retention ∧ ready.phase ≠ .fullShut ∧ ready.pack.ready = false)
    ∧ (let p : Pack := { present := true, authentic := true, soc := 1000, soh := 1000, storedMc := 10 ^ 9, storedMwh := 10 ^ 9, ratedMwh := 100000 }
       p.ready = true)
    ∧ (let s := { loaded ready with phase := .off, valid := false }
       s.phase = .off ∧ s.fw.active = 0 ∧ s.fw.minSecurity.toNat ≤ 0 ∧ s.fw.slotA.rejected = false ∧ s.shut.latched = false ∧ s.valid = false
        ∧ start0.slotB = none ∧ start0.dbgEn = false ∧ { start0 with dbgEn := true }.dbgEn = true ∧ s.fw.active < 2)
    ∧ (let h : Shut := { latched := true, kind := 2, cause := 4 }; h.latched = true ∧ h.kind = 2 ∧ h.cause ≠ 5)
    ∧ ¬ (ready.shut.latched = true ∧ ready.shut.kind = 2 ∧ ready.shut.cause ≠ 5)
    ∧ (60000 < 60001 ∧ 63000 < 63001 ∧ 40000 ≤ 40000 ∧ 40000 < 44000 ∧ 60000 < 63000 ∧ 63000 ≤ 63000)
    ∧ ({ ready with phase := .retention } : State).phase = .retention ∧ ready.voltLogAt = none := by decide +kernel
/-- Rhizoid port 7 holds its quanta. -/
def trainable : State := { ready with power := { ready.power with rports := [(7, true)] } }
theorem wit_Links :
    (ready.frond 3).path = true
    ∧ (let s := ready.setFrond 3 { path := false }; (s.frond 3).path = false ∧ s.hasRoute 3 = true)
    ∧ ready.linkUp 7 = true ∧ (ready.flink 7).retraining = false
    ∧ (let s := ready.setFLink 7 { retraining := true }
       (s.flink 7).retraining = true ∧ (s.flink 7).replay = [] ∧ s.fabricHeld = [] ∧ s.linkUp 7 = true)
    ∧ (ready.undelivered 4 0 = false ∧ ready.fabricHeld = [] ∧ ready.underway = [])
    ∧ trainable.mayTrain 7 = true
    ∧ (let s := ready.setRPort 7 { up := true }
       (s.rport 7).up = true ∧ (s.rport 7).retraining = false ∧ (0#12 : BitVec 12) = (s.rport 7).rxSeq + 1)
    ∧ (let s := ready.setRPort 7 { up := true, retraining := true }
       (s.rport 7).retraining = true ∧ (s.rport 7).retrainAt + 2000000 ≤ (s.advance 2000000).time.now ∧ 480 = (s.rport 7).credD
        ∧ 479 ≠ (s.rport 7).credD)
    ∧ (let s := trainable.setRPort 7 { retryAt := 1 }; 0 < (s.rport 7).retryAt ∧ (s.rport 7).retryAt ≤ (s.advance 1).time.now
      ∧ s.mayTrain 7 = true) := by
  decide +kernel
/-- A fabric link that the rachis's traffic for a frond waits on holds it undelivered. -/
theorem wit_Links_undelivered :
    (let s := ready.setFLink 0 { retraining := true, replay := [(4, .read .host (ready.lay.colOf 0))] }
     s.undelivered 4 0 = true) := by decide +kernel
theorem wit_SidebandAndDebugPort :
    ready.phase ≠ .off ∧ ready.mayClear = false
    ∧ ({ ready with phase := .logicShut, shut := { latched := true, read := true }, therm := cool } : State).mayClear = true
    ∧ ({ ready with phase := .held } : State).phase = .held ∧ ready.jtag.enabled = false
    ∧ ({ ready with jtag := { ready.jtag with enabled := true } } : State).jtag.enabled = true := by decide +kernel
theorem wit_RefusedRequestsChangeNothing :
    (let s := asks ready 31 0x0101 1 []
     (s.mbox 31).cur = true ∧ (s.mbox 31).begun = false ∧ (s.req 31).opcode = 0x0101 ∧ s.excluded (s.req 31) = false
      ∧ (s.req 31).shapeOk 0 (bodyFields []) = false)
    ∧ (let s := asks ready 0 0x0801 4 [(0x10, 32, 9000)]
       (s.req 0).shapeOk 4 (bodyFields [(0x10, 32)]) = true ∧ s.allowed .ownerPort (s.req 0).by_ = false) := by decide +kernel
theorem wit_RowsAndWeights : 31 < 32 ∧ 1023 < 1024 ∧ 2047 < 2048 := by decide
theorem wit_AddressDecodeIsOneToOne : 1 < 2 ∧ 2 ^ 41 - 1 < 2 ^ 41
    ∧ (layoutApplied 1 64 64 64 64).dpaOf ((layoutApplied 1 64 64 64 64).colOf (2 ^ 41 - 1)) = (2 ^ 41 - 1) / 32 * 32 := by decide +kernel

/-! ## The worked examples of the manual -/

/-- 01_architecture.md: unit 0x6000_5A37 is sorus unit 7 of pseudo-channel 1,443, PC1 of channel 721; it serves banks 14 and 15. -/
theorem test_unit_identifier :
    unitId 6 0x5A37 = 0x60005A37 ∧ unitOk 0x60005A37 = true ∧ 0x5A37 / 16 = 1443 ∧ (locOf (rowCol 0x5A37 0 0)).bank = 14
      ∧ (locOf (rowCol 0x5A37 0x8000 0)).bank = 15 := by decide +kernel
/-- 02_address_map.md: DPA 0x20_091A_4DA5 and DPA 0x96_162A_F223 in the default layout: stack 13, C4, PC1; stack 1, C27, PC0. -/
theorem test_address_decode :
    ready.lay.loc 0x20091A4DA5 = { gpc := 64 * 13 + 2 * 4 + 1, bank := 9, row := 36, col := 5 }
      ∧ ready.lay.loc 0x96162AF223 = { gpc := 64 * 1 + 2 * 27, bank := 11, row := 2748, col := 17 } := by decide +kernel
/-- A unit at V = 2, int4 weights, groups of 128, scaled, and the two columns of row 70 and the scale column of its bank that are not zero. -/
def partialUnit : Sorus :=
  { cfg := BitVec.ofNat 32 (1 * 2 + 2 ^ 7 + 1 * 2 ^ 5), act := [(5, 100), (130, 0x80), (4096 + 5, 0x80), (4096 + 130, 127)] }
def partialState : State :=
  let s := { granted with pairs := [(32767, { unit := partialUnit, token := true, lastCtx := some 0 })] }
  ((s.writeFull .host (rowCol 32767 70 0) (0x70#256 <<< 16) false).writeFull .host (rowCol 32767 70 2) (0x08#256 <<< 8) false).writeFull .host
    (rowCol 32767 31746 6) (BitVec.ofNat 256 (300 + 0xFFFE * 2 ^ 16)) false
/-- 03_sorus_datapath.md: the partial of that row: 207,952 and -266,768 in one entry. -/
theorem test_scaled_partial :
    groupSize partialUnit.group = 128 ∧ (((after (.smac 32767 0 1 70 0) partialState).pair 32767).unit.fifo.map fun e => (e.count, e.words.take 2))
      = [(2, [BitVec.ofInt 32 207952, BitVec.ofInt 32 (-266768)])] := by decide +kernel
/-- 03_sorus_datapath.md: three lanes of an int8 multiply with `SHIFT` 4. -/
theorem test_multiply_with_rounding :
    let e := ({ cfg := BitVec.ofNat 32 (4 * 2 ^ 10) } : Sorus).eltEnv
    eltLane .mul e 45 (-7) = (-20, false) ∧ eltLane .mul e 24 3 = (4, false) ∧ eltLane .mul e 100 100 = (127, true) := by decide +kernel
/-- 08_tensor_layout.md: a scatter's contributions are added onto the stored 100 before it is stored once, as 110. -/
theorem test_scatter_sum : storeInt 1 (100 + ([50, -60, 20] : List Int).sum) = (110, false) := by decide +kernel
/-- 09_quantisation.md: fp32 300.0 converts to E4M3 as 288, fp32 464.0 as 448, counted. -/
theorem test_e4m3 : encodeElem 8 (.flt 0x43960000#32) = (0x79, false) ∧ encodeElem 8 (.flt 0x43E80000#32) = (0x7E, true) := by decide +kernel
/-- 09_quantisation.md: an epilogue with `ZP` 3, multiplier 3, `SHIFT` 16, `ROWSUM` -1,250. -/
theorem test_epilogue :
    encodeElem 1 (.int (rescaled (epilogueV 876890 4096 3 (-1250)) 3 16)) = (40, false)
      ∧ encodeElem 1 (.int (rescaled (epilogueV (-886438) (-2048) 3 (-1250)) 3 16)) = (0xD8, false)
      ∧ encodeElem 1 (.int (rescaled (epilogueV 2996250 0 3 (-1250)) 3 16)) = (127, true) := by decide +kernel
/-- 09_quantisation.md: the halves of the wide values 1,000 and -1,000. -/
theorem test_wide_halves : (hiHalf 1000, loHalf 1000, hiHalf (-1000), loHalf (-1000)) = (3, 232, -4, 24) := by decide +kernel
/-- 09_quantisation.md: with `SAT_LIMIT` 4 and 245,760 elements produced, 15 saturations do not widen a record, 16 do. -/
theorem test_widening_limit :
    let r (sat : Nat) : Rec := { recD 0x10 [(16, 4)] [none, some (vec 0 1)] with workDone := true, sat, produced := 245760 }
    (r 15).widens = false ∧ (r 16).widens = true := by decide +kernel
/-- 10_streams_and_queues.md: a queue of 1,024 entries across the wrap of its sequence. -/
theorem test_queue_wrap :
    let q : Queue := { live := true, entries := 1024, head := 0xFFFFFF80#32, cqHead := 0xFFFFFF80#32, tail := 0x100#32 }
    q.occ = 384 ∧ q.entryAt q.head = 128 * 896 ∧ q.entryAt 0xFF#32 = 128 * 255 ∧ precedes 0xFFFFFFF0#32 0x10#32 = true
      ∧ (0x480#32 - q.head).toNat = 1280 ∧ { q with head := 0x200#32 }.backlog = 640 := by decide +kernel
/-- 14_memory_integrity.md: three corruptions of a column that holds byte 0 = 0x3C and byte 9 = 0x81. -/
theorem test_corruptions :
    let d : BitVec 256 := 0x3C#256 ||| (0x81#256 <<< 72)
    let k := freshCheck d false
    k.extractLsb' 0 32 = 0#32 ∧ k.extractLsb' 32 8 = 0xBD#8
      ∧ decodeCol (d ^^^ (1#256 <<< 74)) k = (.data 9, d)
      ∧ (decodeCol (d ^^^ (1#256 <<< 74) ^^^ (1#256 <<< 160)) k).1.good = false
      ∧ decodeCol d (k ^^^ (1#48 <<< 9)) = (.parity 9, d) := by decide +kernel

end Sys2Proof.Tests
end

