-- ==== Sys2Proof/Proofs/Rules.lean ====
section
/-! SUPPORT. The rules that carry `Work` and `Keeps` through the commands: an update of other fields, the answer of a request, the outcome of
a command; and what the initialisation of R333 and a change of layout (R48) do to the form of device memory. The
files of this development elaborate one declaration after another (`Elab.async`): many at once ask for more thread stacks than the check allows. -/

namespace Sys2Proof.Machine

set_option Elab.async false

open Sys2Proof

/-! ## Plain updates -/

/-- An update of fields that work may touch and that leave the form of device memory alone. -/
theorem Work.upd {s t u : State} (h : Work s t) (e : frozen u = frozen t := by rfl)
    (hm : u.mem.wf = t.mem.wf := by exact DMem.wf_congr rfl rfl rfl) : Work s u :=
  h.memory e fun w => hm.trans w

/-- An update that leaves the timebase, the layout, the queue and the form of device memory alone. -/
theorem Keeps.upd {s t u : State} (h : Keeps s t) (ht : u.time.now = t.time.now := by rfl) (hl : u.lay = t.lay := by rfl)
    (hp : u.pending = t.pending := by rfl) (hm : u.mem.wf = t.mem.wf := by exact DMem.wf_congr rfl rfl rfl) : Keeps s u :=
  h.trans ⟨Nat.le_of_eq ht.symm, hl, hp, fun w => hm.trans w⟩

/-! Updates of one field of a state that is not written out: what stands before the update is not unfolded. -/

namespace Keeps
variable {s t : State} (h : Keeps s t)
include h

theorem setStopped (l : List Quantity) : Keeps s { t with stopped := l } := h.upd
theorem setPower (p : Power) : Keeps s { t with power := p } := h.upd
theorem setPack (p : Pack) : Keeps s { t with pack := p } := h.upd
theorem setColRepairs (r : Tbl (List (Nat × Nat))) : Keeps s { t with mem := { t.mem with colRepairs := r } } := h.upd

end Keeps

/-- A fold over a larger value whose state is worked on. -/
theorem Work.foldlOn {s : State} {α β : Type} (st : β → State) {f : β → α → β} (hf : ∀ b x, Work s (st b) → Work s (st (f b x)))
    (l : List α) {b : β} (h : Work s (st b)) : Work s (st (l.foldl f b)) :=
  List.foldlRecOn (motive := fun b => Work s (st b)) l f h fun b hb x _ => hf b x hb

/-! ## Requests and outcomes -/

/-- The state that a command's own steps answer, if any, has a property. -/
def Ans.Meets (P : State → Prop) : Ans → Prop
  | .fail _ => True
  | .done _ _ _ _ u => P u
  | .wait _ _ u => P u

namespace Ans.Meets
variable {P : State → Prop} {u : State}

theorem fail {st : Nat} : Ans.Meets P (.fail st) := trivial
theorem done {st bl b : Nat} {cl : List Clamp} (h : P u) : Ans.Meets P (.done st bl b cl u) := h
theorem wait {dl : Nat} {cl : List Clamp} (h : P u) : Ans.Meets P (.wait dl cl u) := h

theorem ite {c : Prop} [Decidable c] {a b : Ans} (ha : Ans.Meets P a) (hb : Ans.Meets P b) : Ans.Meets P (if c then a else b) := by
  split <;> assumption

end Ans.Meets

/-- R272: a property that outlasts whatever keeps the timebase, the layout, the queue and the form of memory holds after a request when the
command's own steps leave it. -/
theorem molian_meets {P : State → Prop} (hP : ∀ u v, P u → Keeps u v → P v) {t : State} (h : P t) {mb : Fin 32} {op : Nat} {a : Auth}
    {len : Req → Nat} {fs : Req → List (Nat × Nat)} {run : Req → State → Ans} (hr : ∀ r, (run r t).Meets P) :
    P (molian mb op a len fs run t) := by
  have reply : ∀ u st bl b cl, P u → P (u.reply mb st bl b cl) := fun u _ _ _ _ hu => hP u _ hu ((Keeps.refl u).reply _ _ _ _ _)
  unfold molian
  dsimp only
  split
  · exact h
  · split
    · exact reply _ _ _ _ _ h
    · split
      · exact reply _ _ _ _ _ h
      · have h' := hr (t.req mb)
        cases hrun : run (t.req mb) t with
        | fail => exact reply _ _ _ _ _ h
        | done _ _ _ _ u => rw [hrun] at h'; exact reply _ _ _ _ _ h'
        | wait _ _ u => rw [hrun] at h'; exact hP u _ h' ((Keeps.refl u).setMbox _ _)

/-- R272: a request keeps what the command's own steps keep. -/
theorem Keeps.request {s t : State} (h : Keeps s t) {mb : Fin 32} {op : Nat} {a : Auth} {len : Req → Nat} {fs : Req → List (Nat × Nat)}
    {run : Req → State → Ans} (hr : ∀ r, (run r t).Meets (Keeps s)) : Keeps s (Machine.molian mb op a len fs run t) :=
  molian_meets (fun _ _ => Keeps.trans) h hr

/-- The next state that a command ends in, if any, keeps what `Keeps` names. -/
def OutKeeps (s : State) (o : Host.Outcome State Fault Refusal) : Prop := ∀ t, o = .next t → Keeps s t

theorem OutKeeps.next {s t : State} (h : Keeps s t) : OutKeeps s (.next t) := by
  rintro _ ⟨⟩
  exact h

/-! ## The form of device memory -/

theorem Tbl.get_filter {α : Type} (d : α) (p : Nat → Bool) (m : Tbl α) {i : Nat} (h : p i = true) :
    Tbl.get d (m.filter fun e => p e.1) i = Tbl.get d m i := by
  induction m with
  | nil => rfl
  | cons e m ih =>
    obtain ⟨k, v⟩ := e
    by_cases hk : i = k
    · subst hk; simp [Tbl.get, h]
    · cases hp : p k <;> simp [Tbl.get, hk, hp, ih]

theorem Tbl.get_foldl_put_of_notMem {α : Type} [DecidableEq α] (d x : α) {l : List Nat} {i : Nat} (h : i ∉ l) (m : Tbl α) :
    Tbl.get d (l.foldl (fun m j => Tbl.put d m j x) m) i = Tbl.get d m i := by
  induction l generalizing m with
  | nil => rfl
  | cons j l ih =>
    rw [List.mem_cons, not_or] at h
    rw [List.foldl_cons, ih h.2, Tbl.get_put_ne d d m x h.1]

/-- R8, R48: making pseudo-channels undefined keeps the canonical form: what they list is dropped, and only their tags change. -/
theorem DMem.wf_undefine {m : DMem} (h : m.wf = true) (f : Nat → Bool) (tag : Nat) : (m.undefine f tag).wf = true :=
  DMem.wf_drop h f rfl rfl fun g hg => by
    have hm : g ∉ (List.range 2048).filter f := fun hm => by simp [hg] at hm
    simpa only [DMem.undefine] using Tbl.get_foldl_put_of_notMem 0 tag hm m.undef

/-- R333: the initialisation of the channels in service keeps the canonical form: what they list and their tags are dropped. -/
theorem Work.initMemory {s t : State} (h : Work s t) : Work s t.initMemory :=
  h.memory rfl fun w => DMem.wf_drop w (fun g => (t.chan (g / 2)).svc == .inService) rfl rfl fun g hg =>
    Tbl.get_filter 0 (fun g => !((t.chan (g / 2)).svc == .inService)) t.mem.undef (by simp [hg])

end Sys2Proof.Machine
end

