-- ==== Sys2Proof/Proofs/Traffic.lean ====
section
/-! SUPPORT. What work keeps (`Work`) and what commands keep (`Keeps`):
the faults, the accesses, the mailboxes, the waits and the fabric. -/

namespace Sys2Proof.Machine

set_option Elab.async false

open Sys2Proof

/-! ## Faults and messages -/

namespace Work
variable {s t : State}

theorem msixFlush (h : Work s t) (p : Fin 4) : Work s (t.msixFlush p) :=
  foldl (fun _ _ h => (h.setPort _ _).toHost _ _) _ h
theorem noteCorrected (h : Work s t) (req : Requester) (col : Nat) (o : ReadOut) : Work s (t.noteCorrected req col o) :=
  (h.err _ _ _ _ _).corrected _

end Work

/-! ## Accesses and refresh -/

namespace Work
variable {s t : State}

theorem serveBefore (h : Work s t) (su k fuel : Nat) : Work s (t.serveBefore su k fuel) := by
  induction fuel generalizing t with
  | zero => exact h
  | succ n ih =>
    unfold State.serveBefore
    split
    · exact h
    · exact ite (ih (h.served _ _ _)) h

theorem deliver (h : Work s t) (f : Nat × OrdAccess → Bool) : Work s (t.deliver f) :=
  foldl (fun _ _ h => h.arrive _) _ h.upd
theorem resendHeld (h : Work s t) : Work s t.resendHeld :=
  foldl (fun _ _ h => h.send _ _) _ h.upd
theorem issueRefresh (h : Work s t) (su : Nat) : Work s (t.issueRefresh su) :=
  ite (h.setPair _ _) h

end Work

namespace Keeps
variable {s t : State}

theorem execPairRefresh (h : Keeps s t) (su : Nat) (act : RefreshAct) : OutKeeps s (execPairRefresh su act t) := by
  refine .next ?_
  split
  · exact ite (ite (h.work ((Work.refl _).setPair _ _)) (h.work ((Work.refl _).setPair _ _))) h
  · exact h.work ((Work.refl _).issueRefresh _)

end Keeps

/-! ## Completions -/

namespace Work
variable {s t : State}

theorem cqHeadPut (h : Work s t) (by_ : Agent) (q : Nat) (v : Word32) : Work s (cqHeadPut by_ q v t) :=
  ite (h.logDiscard _ _ _ _) (((h.setQueue _ _).touch _).cqFreed _)

end Work

/-! ## Mailboxes -/

namespace Keeps
variable {s t : State}

theorem startWaiting (h : Keeps s t) (v : State) : Keeps s (t.startWaiting v) :=
  h.upd
theorem ringMailbox (h : Keeps s t) (mb : Fin 32) : Keeps s (ringMailbox mb t) :=
  ite (h.setMbox _ _) (ite (h.setMbox _ _) ((h.setMbox _ _).accept _ _ _ _))
theorem execMailboxRing (h : Keeps s t) (mb : Fin 32) : OutKeeps s (execMailboxRing mb t) :=
  .next (by split; exacts [h, h, h, h, h.ringMailbox _])

end Keeps

/-! ## Contexts -/

namespace Work
variable {s t : State}

theorem makeRoom (h : Work s t) (used : List Nat) : Work s (t.makeRoom used) := by
  unfold State.makeRoom
  refine ite h ?_
  dsimp only
  split
  · exact h.fresh.cleanLine _ _
  · exact h

end Work

/-! ## Waiting commands and units out of service -/

namespace Work
variable {s t : State}

theorem streamWrite (h : Work s t) (r : Req) : Work s (t.streamWrite r).1 :=
  h.setStream _ _
theorem rportDown (h : Work s t) (n : Nat) : Work s (t.rportDown n) :=
  ((h.setRPort _ _).lower _ _).dropAsked _
theorem rerouteLog (h : Work s t) (n : Nat) : Work s (t.rerouteLog n) :=
  ite h (h.ev _ _ _ _ _ _ _ _)
theorem creditLost (h : Work s t) (n : Nat) : Work s (t.creditLost n) :=
  ite ((((h.rportDown _).setRPort _ _).ev _ _ _ _ _ _ _ _).rerouteLog _) (((h.rportDown _).setRPort _ _).ev _ _ _ _ _ _ _ _)
theorem portLeave (h : Work s t) (n : Nat) : Work s (t.portLeave n) :=
  ite ((h.rportDown _).rerouteLog _) (h.rportDown _)

theorem unitOut (h : Work s t) (u code : Nat) : Work s (t.unitOut u code) := by
  unfold State.unitOut
  dsimp only
  split
  · exact ite ((h.setCore _ _).returnLevel _) (((h.setCore _ _).returnLevel _).abandonFrond _ _)
  · exact h.setHCore _ _
  · exact (h.portLeave _).setRPort _ _
  · exact foldl (fun _ _ h => ite h (h.channelOut _ _ _)) _ h

theorem unitAbort (h : Work s t) (u : Nat) : Work s (t.unitAbort u) := by
  unfold State.unitAbort
  dsimp only
  split
  · exact (h.setCore _ _).reissueAll _ _
  · exact h.portLeave _
  · exact h

theorem suspended (h : Work s t) (c : Nat) : Work s (t.suspended c) :=
  (((h.pauseWaits _).touch _).setCtx _ _).stopCores _

end Work

namespace Keeps
variable {s t : State}

theorem settleUnit (h : Keeps s t) (i : Nat) : Keeps s (settleUnit t i) :=
  ite (((h.work ((Work.refl _).unitOut _ _)).ev _ _ _ _ _ _ _ _).reply _ _ _ _ _) h
theorem settleUnits (h : Keeps s t) : Keeps s t.settleUnits :=
  foldl (fun _ _ h => h.settleUnit _) _ h

theorem settleMb (h : Keeps s t) (i : Nat) : Keeps s (settleMb t i) := by
  refine ite h ?_
  split
  · exact ite ((h.work ((Work.refl _).suspended _)).reply _ _ _ _ _) h
  · exact ite ((h.work (((Work.refl _).setQueue _ _).touch _)).reply _ _ _ _ _) h
  · exact ite h (ite (h.reply _ _ _ _ _) ((h.work ((Work.refl _).streamWrite _)).reply _ _ _ _ _))
  · exact h.settleUnit _
  · exact h

theorem settle (h : Keeps s t) : Keeps s t.settle :=
  foldl (fun _ _ h => h.settleMb _) _ h

end Keeps

/-! ## The fabric -/

namespace Work
variable {s t : State}

theorem losePath (h : Work s t) (f : Nat) : Work s (t.losePath f) :=
  h.setFrond _ _

theorem completeOrHold (h : Work s t) (r : Rec) : Work s (t.completeOrHold r) := by
  unfold State.completeOrHold
  dsimp only
  split
  · exact ite h (h.setFrond _ _)
  · exact h.retire _ _

theorem completeHeld (h : Work s t) (e : Nat × Word32) : Work s (completeHeld t e) := by
  unfold Machine.completeHeld
  split
  · exact h.completeOrHold _
  · exact h

theorem resend (h : Work s t) (e : Nat × OrdAccess) : Work s (t.resend e) :=
  ite h.upd (h.dispatch _ _)

theorem resendReplay (h : Work s t) (replay : List (Nat × OrdAccess)) : Work s (t.resendReplay replay) := by
  unfold State.resendReplay
  extract_lets s1
  have h1 : Work s s1 := foldl (fun _ _ h => h.resend _) _ h.upd
  exact h1.upd

end Work

namespace Keeps
variable {s t : State}

theorem pathReturn (h : Keeps s t) (f : Nat) : Keeps s (t.pathReturn f) :=
  (foldl (fun _ _ h => h.work ((Work.refl _).completeHeld _)) _ (h.work ((Work.refl _).setFrond _ _))).settle
theorem reroute (h : Keeps s t) (old : BitVec 8) : Keeps s (t.reroute old) :=
  (foldl (fun _ _ h => ite (ite h (h.pathReturn _)) (ite (h.work ((Work.refl _).losePath _)) h)) _ h.upd).work (Work.refl _).resendHeld
theorem execFrontPathLost (h : Keeps s t) (f : Fin 4) : OutKeeps s (execFrontPathLost f t) :=
  .next (ite (h.work ((Work.refl _).losePath _)) h)
theorem execFrondPathReturn (h : Keeps s t) (f : Fin 4) : OutKeeps s (execFrondPathReturn f t) :=
  .next (ite (h.pathReturn _) h)

theorem execFabricLinkRetrain (h : Keeps s t) (l : LinkRetrain) : OutKeeps s (execFabricLinkRetrain l t) := by
  refine .next ?_
  split
  · exact ite (h.setFLink _ _) h
  · exact ite ((h.setFLink _ _).work ((Work.refl _).resendReplay _).resendHeld) h

theorem fenceLink (h : Keeps s t) (l : Nat) : Keeps s (t.fenceLink l) := by
  unfold State.fenceLink
  extract_lets old replay s1
  have h1 : Keeps s s1 := (h.setFLink _ _).ev _ _ _ _ _ _ _ _
  clear_value s1
  exact (h1.work ((Work.refl _).resendReplay _)).reroute _

theorem execFabricLinkFence (h : Keeps s t) (l : Fin 8) : OutKeeps s (execFabricLinkFence l t) :=
  .next (ite (h.fenceLink _) h)
theorem execFabricRouteRelease (h : Keeps s t) (source granule : Nat) : OutKeeps s (execFabricRouteRelease source granule t) :=
  .next (ite h (h.upd.work (Work.refl _).resendHeld))
theorem execOrdinaryAccessServe (h : Keeps s t) (su : Nat) (arrived : List OrdAccess) : OutKeeps s (execOrdinaryAccessServe su arrived t) :=
  .next (h.work (((Work.refl _).setPair _ _).serveNow _)).settleUnits

end Keeps

end Sys2Proof.Machine
end

