-- ==== Sys2Proof/Proofs/Compute.lean ====
section
/-! SUPPORT. What work keeps (`Work`) and what commands keep (`Keeps`):
the tile units, their outputs, the pack and the power arbiter. -/

namespace Sys2Proof.Machine

set_option Elab.async false

open Sys2Proof

/-! ## Elements and outputs -/

namespace Work
variable {s t : State}

theorem writeElems (h : Work s t) (r : Rec) (d : Desc) (es : List OutElem) : Work s (t.writeElems r d es) :=
  (h.writeAll _ _).setRec _
theorem formOuts (h : Work s t) (r : Rec) (cols : List Nat) (d : Desc) (es : List OutElem) (sat : Nat) :
    Work s (t.formOuts r cols d es sat) :=
  (h.noteReads _ _).setRec _

end Work

/-! ## Tensor records -/

namespace Work
variable {s t : State}

theorem matmulWork (h : Work s t) (r : Rec) : Work s (t.matmulWork r) := by
  unfold State.matmulWork
  dsimp only
  split
  · exact h.formOuts _ _ _ _ _
  · exact h

theorem ewWork (h : Work s t) (r : Rec) : Work s (t.ewWork r) := by
  unfold State.ewWork
  dsimp only
  split
  · exact h.formOuts _ _ _ _ _
  · exact h

theorem reduceWork (h : Work s t) (r : Rec) : Work s (t.reduceWork r) := by
  unfold State.reduceWork
  dsimp only
  split
  · exact h.formOuts _ _ _ _ _
  · exact h

theorem normWork (h : Work s t) (r : Rec) : Work s (t.normWork r) := by
  unfold State.normWork
  dsimp only
  split
  · exact h.formOuts _ _ _ _ _
  · exact h

end Work

/-! ## Core operations -/

namespace Keeps
variable {s t : State}

theorem onCore (h : Keeps s t) (c : Fin 64) (i : Instr) : OutKeeps s (onCore c i t) :=
  .next (h.work (.ite ((Work.refl _).setCore _ _) (.ite ((Work.refl _).setCore _ _) (.refl _))))
theorem execMma (h : Keeps s t) (c : Fin 64) (o : MmaOp) : OutKeeps s (execMma c o t) :=
  h.onCore _ _
theorem execAccClose (h : Keeps s t) (c : Fin 64) (acc : Nat) : OutKeeps s (execAccClose c acc t) :=
  h.onCore _ _
theorem execDrain (h : Keeps s t) (c : Fin 64) (o : ChainOp) : OutKeeps s (execDrain c o t) :=
  h.onCore _ _
theorem execVchain (h : Keeps s t) (c : Fin 64) (o : ChainOp) : OutKeeps s (execVchain c o t) :=
  h.onCore _ _
theorem execCoreReduce (h : Keeps s t) (c : Fin 64) (o : ReduceOp) : OutKeeps s (execCoreReduce c o t) :=
  h.onCore _ _
theorem execTload (h : Keeps s t) (c : Fin 64) (k addr : Nat) : OutKeeps s (execTload c k addr t) :=
  h.onCore _ _
theorem execTstore (h : Keeps s t) (c : Fin 64) (k addr : Nat) : OutKeeps s (execTstore c k addr t) :=
  h.onCore _ _
theorem execVload (h : Keeps s t) (c : Fin 64) (v addr : Nat) : OutKeeps s (execVload c v addr t) :=
  h.onCore _ _
theorem execVstore (h : Keeps s t) (c : Fin 64) (v addr : Nat) : OutKeeps s (execVstore c v addr t) :=
  h.onCore _ _

theorem execCoreFault (h : Keeps s t) (c : Fin 64) (kind : CoreFaultKind) : OutKeeps s (execCoreFault c kind t) := by
  refine .next ?_
  split
  · exact h.work (((Work.refl _).setCore _ _).err _ _ _ _ _)
  · exact ite h (h.work ((Work.refl _).fenceCore _ _)).settle

end Keeps

/-! ## The pack -/

namespace Keeps
variable {s t : State}

theorem packSet (h : Keeps s t) (p : Pack) : Keeps s (t.packSet p) :=
  ite h.upd (h.upd.ev _ _ _ _ _ _ _ _)
theorem execPackStatus (h : Keeps s t) (mb : Fin 32) : OutKeeps s (execPackStatus mb t) :=
  .next (h.request fun _ => .done h)
theorem execPackAuth (h : Keeps s t) (mb : Fin 32) (reply : PackReply) : OutKeeps s (execPackAuth mb reply t) :=
  .next (h.request fun _ => .done (ite (h.packSet _) h))
theorem execRetainArm (h : Keeps s t) (mb : Fin 32) : OutKeeps s (execRetainArm mb t) :=
  .next (h.request fun _ => .ite .fail (.done (h.packSet _)))
theorem execPackPoll (h : Keeps s t) (at_ : Nat) (reading : Option PackReading) : OutKeeps s (execPackPoll at_ reading t) :=
  .next (ite (h.advance _) (by split; exacts [(h.advance _).packSet _, ite ((h.advance _).packSet _) ((h.advance _).packSet _)]))
theorem execPackDetect (h : Keeps s t) (reading : PackReading) (reply : PackReply) : OutKeeps s (execPackDetect reading reply t) :=
  .next (ite h (h.packSet _))
theorem execPackLedgerCheck (h : Keeps s t) (storedNow : Nat) : OutKeeps s (execPackLedgerCheck storedNow t) :=
  .next (ite h (h.packSet _))

theorem execLedgerNvmCopy (h : Keeps s t) (at_ : Nat) : OutKeeps s (execLedgerNvmCopy at_ t) := by
  unfold Machine.execLedgerNvmCopy
  extract_lets s1
  have h1 : Keeps s s1 := h.advance _
  exact .next (ite h1.upd h1)

end Keeps

/-! ## Quanta -/

namespace Work
variable {s t : State}

theorem dropLiens (h : Work s t) : Work s t.dropLiens := by
  unfold State.dropLiens
  extract_lets s1
  have h1 : Work s s1 := foldl (fun _ _ h => h.setCore _ _) _ h
  exact h1.upd

theorem lowerUntil (h : Work s t) (x : Holder) (e n : Nat) : Work s (lowerUntil x e n t) := by
  induction n generalizing t with
  | zero => exact h
  | succ n ih => exact ite h (ih (h.lower _ _))

theorem lowerGrants (h : Work s t) (e : Nat) : Work s (t.lowerGrants e) :=
  foldl (fun _ _ h => h.lowerUntil _ _ _) _ h
theorem poolStopped (h : Work s t) : Work s t.poolStopped :=
  ite h.upd h
theorem raiseCore (h : Work s t) (c n : Nat) : Work s (t.raiseCore c n) :=
  h.setCore _ _

theorem raise (h : Work s t) (x : Holder) (n : Nat) : Work s (t.raise x n) := by
  unfold State.raise
  dsimp only
  split
  · exact h.raiseCore _ _
  · exact h.upd
  · exact h.upd
  · exact h

theorem grant (h : Work s t) (w : QReq) : Work s (t.grant w) :=
  h.upd.raise _ _

theorem revoke (h : Work s t) (b : Grant) : Work s (t.revoke b) := by
  unfold State.revoke
  extract_lets w s1
  have h1 : Work s s1 := h.upd
  split
  · exact h1.setCore _ _
  · exact h1.upd
  · exact h1

theorem revokeFor (h : Work s t) (c need : Nat) (l : List Grant) : Work s (revokeFor c need l t) := by
  induction l generalizing t with
  | nil => exact h
  | cons b l ih => exact ite h (ite (ih (h.revoke _)) (ih h))

theorem regrant (h : Work s t) (c : Fin 64) (lvl : Nat) : Work s (t.regrant c lvl) := by
  unfold State.regrant
  extract_lets n w s1
  have h1 : Work s s1 := ite h (h.grant _)
  exact ite h1 h1.upd

end Work

namespace Keeps
variable {s t : State}

theorem setEnvelopeRun (h : Keeps s t) (r : Req) : Ans.Meets (Keeps s) (setEnvelopeRun r t) :=
  .ite (.done h.upd) (.ite (.done (h.work ((Work.refl _).dropLiens.lowerGrants _)).upd) (.wait (h.work ((Work.refl _).dropLiens.lowerGrants _)).upd))
theorem execSetEnvelope (h : Keeps s t) (mb : Fin 32) : OutKeeps s (execSetEnvelope mb t) :=
  .next (h.request fun _ => h.setEnvelopeRun _)
theorem finishEnvelope (h : Keeps s t) (i : Nat) : Keeps s (finishEnvelope t i) :=
  ite (h.reply _ _ _ _ _) h

theorem execEnvelopeLowerEdge (h : Keeps s t) : OutKeeps s (execEnvelopeLowerEdge t) := by
  refine .next ?_
  split
  · exact h
  · exact ite (foldl (fun _ _ h => h.finishEnvelope _) _ h.upd) h

theorem execGetPower (h : Keeps s t) (mb : Fin 32) : OutKeeps s (execGetPower mb t) :=
  .next (h.request fun _ => .done h)
theorem execSetSorusLimit (h : Keeps s t) (mb : Fin 32) : OutKeeps s (execSetSorusLimit mb t) :=
  .next (h.request fun _ => .done (h.upd.work (Work.refl _).poolStopped))
theorem execQuantaRequest (h : Keeps s t) (x : Holder) (m : QuantaMsg) : OutKeeps s (execQuantaRequest x m t) :=
  .next (by split; exacts [h.upd, h.work ((Work.refl _).lower _ _)])
theorem execQuantaGrant (h : Keeps s t) (at_ : Nat) : OutKeeps s (execQuantaGrant at_ t) :=
  .next (ite (by split; exacts [ite (h.advance _) ((h.advance _).work ((Work.refl _).grant _)), h.advance _]) (h.advance _))

theorem execCoreLend (h : Keeps s t) (c : Fin 64) : OutKeeps s (execCoreLend c t) := by
  unfold Machine.execCoreLend
  extract_lets x own s1 y s2
  have h2 : Keeps s s2 := h.work ((((Work.refl _).lower _ _).dropAsked _).setCore _ _)
  exact .next (ite h h2.upd)

theorem execCoreRegrant (h : Keeps s t) (c : Fin 64) : OutKeeps s (execCoreRegrant c t) := by
  refine .next ?_
  split
  · exact h
  · exact ite (h.work (((((Work.refl _).revokeFor _ _ _).endLien _).setCore _ _).regrant _ _)) h

theorem outOfBalance (h : Keeps s t) (f : Quantity × Nat) : Keeps s (t.outOfBalance f) := by
  have h1 := h.ev 0x0F Status.internal f.2 (Quantity.row f.1) 0 0 0 0
  have h2 := h.work ((Work.refl t).conservation f.2 (Quantity.row f.1))
  unfold State.outOfBalance
  split
  · exact h1.work ((Work.refl _).creditLost _)
  · exact h1.packSet _
  · exact h2.setStopped _

theorem execArbiterLedgerCheck (h : Keeps s t) (counts : LedgerCounts) : OutKeeps s (execArbiterLedgerCheck counts t) := by
  unfold Machine.execArbiterLedgerCheck
  extract_lets s1
  have h1 : Keeps s s1 := by
    unfold s1
    split
    · exact h
    · next c _ => exact (h.work ((Work.refl t).conservation (Holder.unitId c.1) 0)).setPower _
  exact .next (foldl (fun _ _ h => h.outOfBalance _) _ h1)

end Keeps

end Sys2Proof.Machine
end

