-- ==== Sys2Proof/Proofs/Sorus.lean ====
section
/-! SUPPORT. What work keeps (`Work`) and what commands keep (`Keeps`):
the commands of the SORUS units, what waits for a boundary and the gemv passes. -/

namespace Sys2Proof.Machine

set_option Elab.async false

open Sys2Proof

/-! ## SORUS commands -/

namespace Work
variable {s t : State}

theorem putLoad (h : Work s t) (su ctx : Nat) (mid : Bool) (c : LoadCmd) : Work s (t.putLoad su ctx mid c) :=
  ite (h.setPair _ _) (h.setPair _ _)
theorem loadVecs (h : Work s t) (gpc ctx : Nat) (mid : Bool) (umask : BitVec 16) (c : SldOp) : Work s (t.loadVecs gpc ctx mid umask c) :=
  foldl (fun _ _ h => h.putLoad _ _ _ _) _ h

theorem takeToken (h : Work s t) (su : Nat) : Work s (t.takeToken su) := by
  unfold State.takeToken
  extract_lets p s1
  have h1 : Work s s1 := h.setPair _ _
  exact ite h h1.upd

theorem putStep (h : Work s t) (su : Nat) (st : UStep) (r : StepRes) : Work s (t.putStep su st r) :=
  foldl (fun _ _ h => h.writeFull _ _ _ _) _ (h.setPair _ _)
theorem endStep (h : Work s t) (su : Nat) : Work s (t.endStep su) :=
  h.setPair _ _
theorem logPoisoned (h : Work s t) (view : Nat → RawCol) (cols : List Nat) : Work s (t.logPoisoned view cols) :=
  foldl (fun _ _ h => ite (h.logBad _ _ _) h) _ h
theorem logUncorrectable (h : Work s t) (view : Nat → RawCol) (cols : List Nat) : Work s (t.logUncorrectable view cols) :=
  foldl (fun _ _ h => ite (h.logBad _ _ _) h) _ h

theorem stepOnce (h : Work s t) (su : Nat) (view : State → Nat → RawCol) (used : Option Nat) (carry : Bool) (st : UStep)
    (rest : List UStep) : Work s (t.stepOnce su view used carry st rest).1 := by
  have h1 := (h.logPoisoned (view t) ((t.pair su).unit.step su (view t) st carry).reads).putStep su st
    ((t.pair su).unit.step su (view t) st carry)
  unfold State.stepOnce
  dsimp only
  split
  · exact h1.endStep _
  · split
    · exact (h1.logUncorrectable _ _).endStep _
    · exact h1.setPair _ _

theorem correctRead (h : Work s t) (c : Nat) (e : RawCol) (o : ReadOut) (d : BitVec 256) : Work s (t.correctRead c e o d) :=
  ite (h.correct _ _ _ _) (h.noteCorrected _ _ _)

theorem correctRows (su : Nat) (l : List Nat) (rows : List (Nat × RawCol)) (h : Work s t) : Work s (correctRows su t l rows).1 := by
  induction l generalizing t rows with
  | nil => exact h
  | cons c l ih =>
    unfold Machine.correctRows
    split
    · exact ih _ h
    · split
      · exact ih _ (h.logBad _ _ _)
      · exact ih _ h
      · exact ih _ (h.correctRead _ _ _ _)

theorem rerunStep (h : Work s t) (su : Nat) (x : Rerun) (st : UStep) : Work s (t.rerunStep su x st).1 := by
  have h1 := correctRows su x.bad x.rows h
  unfold State.rerunStep
  dsimp only
  split
  · exact (h1.putStep _ _ _).endStep _
  · exact (h1.setPair _ _).endStep _

theorem offerToken (h : Work s t) (gpc : Nat) : Work s (t.offerToken gpc) :=
  ite h (by split; exacts [h.takeToken _, h])
theorem endCmd (h : Work s t) (su : Nat) : Work s (t.endCmd su) :=
  (((h.setPair _ _).returnToken _).offerToken _).serveNow _
theorem park (h : Work s t) (su : Nat) (rest : List UStep) : Work s (t.park su rest) :=
  (h.setPair _ _).endCmd _

theorem runSteps (h : Work s t) (su : Nat) (view : State → Nat → RawCol) (now : Bool) (used : Option Nat) (carry : Bool)
    (l : List UStep) : Work s (t.runSteps su view now used carry l) := by
  induction l generalizing t used carry with
  | nil => exact h.endCmd _
  | cons st rest ih =>
    have h1 := h.stepOnce su view used carry st rest
    unfold State.runSteps
    dsimp only
    split
    · next y _ =>
      have h2 := h1.rerunStep su y st
      exact ite (ite (h2.park _ _) (ih (ite h2 (h2.boundary _)) _ _)) h1
    · exact ite (h1.park _ _) (ih (ite h1 (h1.boundary _)) _ _)

theorem fetchStatus (h : Work s t) (su : Nat) : Work s (t.fetchStatus su) :=
  (h.setPair _ _).emit _

theorem fetchOne (h : Work s t) (su : Nat) : Work s (t.fetchOne su) := by
  unfold State.fetchOne
  dsimp only
  split
  · exact h.emit _
  · exact (h.setPair _ _).emit _

theorem resume (h : Work s t) (su : Nat) : Work s (t.resume su) :=
  ite (((h.setPair _ _).refreshFirst _).runSteps _ _ _ _ _ _) h

theorem goOn (h : Work s t) (su : Nat) (now : Bool) : Work s (t.goOn su now) := by
  unfold State.goOn
  dsimp only
  split
  · split
    · exact ite ((h.rerunStep _ _ _).park _ _) ((ite (h.rerunStep _ _ _) ((h.rerunStep _ _ _).boundary _)).runSteps _ _ _ _ _ _)
    · exact h.endCmd _
  · exact h

theorem finishRerun (h : Work s t) (su : Nat) : Work s (t.finishRerun su) :=
  h.goOn _ _

theorem bcastUnit (h : Work s t) (ctx reps : Nat) (cmd : RowCmd) (su : Nat) : Work s (t.bcastUnit ctx reps cmd su) := by
  unfold State.bcastUnit
  extract_lets s1 p s2
  have h2 : Work s s2 := (h.finishRerun su).setPair _ _
  exact (ite (h2.takeToken _) h2).resume _

end Work

namespace Keeps
variable {s t : State}

theorem execScfg (h : Keeps s t) (su ctx : Nat) (mid : Bool) (c : ScfgOp) : OutKeeps s (execScfg su ctx mid c t) :=
  .next (ite (h.work ((Work.refl _).putLoad _ _ _ _)) h)
theorem execSld (h : Keeps s t) (gpc ctx : Nat) (mid : Bool) (umask : BitVec 16) (c : SldOp) : OutKeeps s (execSld gpc ctx mid umask c t) :=
  .next (ite (h.work ((Work.refl _).loadVecs _ _ _ _ _)) h)
theorem execSlut (h : Keeps s t) (su ctx : Nat) (mid : Bool) (payload : List Burst) : OutKeeps s (execSlut su ctx mid payload t) :=
  .next (ite (h.work ((Work.refl _).putLoad _ _ _ _)) h)
theorem execHeldCommandApply (h : Keeps s t) (su : Nat) : OutKeeps s (execHeldCommandApply su t) :=
  .next (ite h (h.work ((Work.refl _).setPair _ _)))
theorem runCmd (h : Keeps s t) (su ctx : Nat) (cmd : RowCmd) : Keeps s (t.runCmd su ctx cmd) :=
  ite (h.work ((((Work.refl _).setPair _ _).refreshFirst _).runSteps _ _ _ _ _ _)).settleUnits h
theorem execSmac (h : Keeps s t) (su ctx nrows : Nat) (w : BitVec 16) (abase : Nat) : OutKeeps s (execSmac su ctx nrows w abase t) :=
  .next (h.runCmd _ _ _)
theorem execScpy (h : Keeps s t) (su ctx : Nat) (d x : BitVec 16) : OutKeeps s (execScpy su ctx d x t) :=
  .next (h.runCmd _ _ _)
theorem execSini (h : Keeps s t) (su ctx : Nat) (d : BitVec 16) : OutKeeps s (execSini su ctx d t) :=
  .next (h.runCmd _ _ _)
theorem execSlog (h : Keeps s t) (su ctx : Nat) (fn : LogFn) (d x y : BitVec 16) : OutKeeps s (execSlog su ctx fn d x y t) :=
  .next (h.runCmd _ _ _)
theorem execSelt (h : Keeps s t) (su ctx : Nat) (op : EltOp) (d x y : BitVec 16) : OutKeeps s (execSelt su ctx op d x y t) :=
  .next (h.runCmd _ _ _)
theorem execSnrm (h : Keeps s t) (su ctx : Nat) (x : BitVec 16) (cFirst cLast : Nat) : OutKeeps s (execSnrm su ctx x cFirst cLast t) :=
  .next (h.runCmd _ _ _)

theorem execSfet (h : Keeps s t) (su ctx : Nat) (status : Bool) (nent : Nat) : OutKeeps s (execSfet su ctx status nent t) := by
  unfold Machine.execSfet
  extract_lets s1
  have h1 : Keeps s s1 := h.work ((Work.refl _).setPair _ _)
  exact .next (ite (ite (h1.work ((Work.refl _).fetchStatus _)) (foldl (fun _ _ h => h.work ((Work.refl _).fetchOne _)) _ h1)) h)

theorem execSorusTokenGrant (h : Keeps s t) (su : Nat) : OutKeeps s (execSorusTokenGrant su t) :=
  .next (ite ((ite (h.work ((Work.refl _).takeToken _)) h).work ((Work.refl _).resume _)) h)

theorem execSbrd (h : Keeps s t) (ch ctx : Nat) (pcsel : BitVec 2) (umask : BitVec 16) (reps : Nat) (f : Follower) :
    OutKeeps s (execSbrd ch ctx pcsel umask reps f t) := by
  refine .next (ite h ?_)
  split
  · exact ite (foldl (fun _ _ h => h.work ((Work.refl _).putLoad _ _ _ _)) _ h) h
  · exact ite (foldl (fun _ _ h => h.work ((Work.refl _).bcastUnit _ _ _ _)) _ h).settleUnits h
  · exact h

theorem execSorusParityRerun (h : Keeps s t) (su : Nat) : OutKeeps s (execSorusParityRerun su t) :=
  .next (h.work ((Work.refl _).goOn _ _)).settleUnits

end Keeps

/-! ## Accesses at their boundaries -/

namespace Work
variable {s t : State}

theorem endBegun (h : Work s t) (su : Nat) : Work s (t.endBegun su) :=
  (h.finishRerun _).refreshFirst _
theorem settlePair (h : Work s t) (su : Nat) : Work s (t.settlePair su) :=
  (h.endBegun _).serve _ _ _
theorem quiesce (h : Work s t) : Work s t.quiesce :=
  foldl (fun _ _ h => h.settlePair _) _ (h.deliver _)
theorem reachPair (h : Work s t) (k su : Nat) : Work s (State.reachPair k t su) :=
  ite (((h.endBegun _).serveBefore _ _ _).setPair _ _) ((h.endBegun _).serveBefore _ _ _)
theorem reach (h : Work s t) (src k : Nat) (cols : List Nat) : Work s (t.reach src k cols) :=
  foldl (fun _ _ h => h.reachPair _ _) _ (h.deliver _)
theorem reachRec (h : Work s t) (r : Rec) (cols : List Nat) : Work s (t.reachRec r cols) :=
  h.reach _ _ _

end Work

namespace Keeps
variable {s t : State}

theorem onBegun (h : Keeps s t) (q : Nat) (seq : Word32) (op : Nat) {act : Rec → State} (ha : ∀ r, Keeps s (act r)) :
    Keeps s (onBegun q seq op t act) := by
  unfold Machine.onBegun
  split
  · exact ite (ha _) h
  · exact h

theorem onRec (h : Keeps s t) (q : Nat) (seq : Word32) (op : Nat) {act : Rec → State} (ha : ∀ r, Keeps s (act r)) :
    Keeps s (onRec q seq op t act) := h.onBegun _ _ _ fun _ => ite (ha _) h
theorem onData (h : Keeps s t) (q : Nat) (seq : Word32) (op : Nat) {act : State → Rec → State} (ha : ∀ u r, Keeps s u → Keeps s (act u r)) :
    Keeps s (onData q seq op t act) := h.onRec _ _ _ fun _ => ha _ _ (h.work ((Work.refl _).reachRec _ _))

end Keeps

/-! ## GEMV_MEM and the epilogue -/

namespace Work
variable {s t : State}

theorem recCmd (h : Work s t) (r : Rec) (su : Nat) (cmd : RowCmd) : Work s (t.recCmd r su cmd) :=
  (((h.refreshFirst _).serveBefore _ _ _).takeToken _).runSteps _ _ _ _ _ _
theorem fetchUnit (h : Work s t) (su : Nat) : Work s (t.fetchUnit su).1 :=
  h.setPair _ _
theorem readStatus (h : Work s t) (su : Nat) : Work s (t.readStatus su).1 :=
  h.setPair _ _

theorem readStatuses (h : Work s t) (us : List Nat) : Work s (t.readStatuses us).1 := by
  unfold State.readStatuses
  refine foldlOn (b := (t, 0, false)) Prod.fst (fun _ su h => ?_) us h
  exact h.readStatus su

theorem takeUnits (h : Work s t) (r : Rec) (us : List Nat) : Work s (t.takeUnits r us) :=
  foldl (fun _ _ h => ((h.setPair _ _).fetchUnit _).readStatus _) _ h
theorem recLoad (h : Work s t) (r : Rec) (su : Nat) (c : LoadCmd) : Work s (t.recLoad r su c) :=
  h.putLoad _ _ _ _
theorem gpassMac (r : Rec) (vs : List Nat) (mul : Int) (su base : Nat) (run : GRun) {g : GPass} (h : Work s g.st) (c : Nat × Nat) :
    Work s (GPass.mac r vs mul su base run g c).st := (h.recCmd _ _ _).fetchUnit _
theorem gpassUnit (r : Rec) (vs : List Nat) (mul : Int) (k0 n lo hi : Nat) {g : GPass} (h : Work s g.st) (su : Nat) :
    Work s (GPass.unit r vs mul k0 n lo hi g su).st :=
  foldlOn GPass.st (fun _ _ h => foldlOn GPass.st (fun _ _ h => foldlOn GPass.st (fun _ _ h => gpassMac _ _ _ _ _ _ h _) _ h) _ h) _ h

theorem gpassGroup (r : Rec) (x : Desc) (vs : List Nat) (unsigned : Bool) (f : Int → Int) (mul : Int) (lo hi gpc : Nat) {g : GPass}
    (h : Work s g.st) (k0 : Nat) : Work s (GPass.group r x vs unsigned f mul lo hi gpc g k0).st := by
  unfold GPass.group
  extract_lets n us mask s1 s2
  have h1 : Work s s1 := foldl (fun _ _ h => h.recLoad _ _ _) _ h
  have h2 : Work s s2 := foldl (fun _ _ h => h.loadVecs _ _ _ _ _) _ h1
  exact foldlOn GPass.st (fun _ _ h => gpassUnit _ _ _ _ _ _ _ h _) _ h2

theorem gpassHalf (r : Rec) (x : Desc) (vs : List Nat) (lo hi gpc : Nat) {g : GPass} (h : Work s g.st) (p : Bool × (Int → Int) × Int) :
    Work s (GPass.half r x vs lo hi gpc g p).st :=
  foldlOn GPass.st (fun _ _ h => gpassGroup _ _ _ _ _ _ _ _ _ h _) _ h
theorem gemvPass (h : Work s t) (r : Rec) (x : Desc) (lo hi : Nat) : Work s (t.gemvPass r x lo hi).st :=
  (foldlOn GPass.st (fun _ _ h => foldlOn GPass.st (fun _ _ h => foldlOn GPass.st (fun _ _ h => gpassHalf _ _ _ _ _ _ h _) _ h) _ h) _
    (h.takeUnits _ _)).readStatuses _
theorem keepSums (h : Work s t) (r : Rec) (sums : Tbl (Int × Bool)) (ns : List Nat) : Work s (t.keepSums r sums ns) :=
  foldl (fun _ _ h => h.setFrond _ _) _ h
theorem dropMaxima (h : Work s t) (r : Rec) : Work s (t.dropMaxima r) :=
  h.upd
theorem bankPass (h : Work s t) (r : Rec) (x : Desc) : Work s (t.bankPass r x) := by
  have h1 := fun lo hi => (h.noteReads .frond (t.sourceCols r)).gemvPass r x lo hi
  exact ((ite ((h1 _ _).dropMaxima _) (h1 _ _)).keepSums _ _ _).setRec _
theorem gemvCores (h : Work s t) (r : Rec) (o x : Desc) : Work s (t.gemvCores r o x) :=
  h.formOuts _ _ _ _ _
theorem epilogueWork (h : Work s t) (r : Rec) (o : Desc) (n : Nat) : Work s (t.epilogueWork r o n) :=
  ((h.writeAll _ _).setFrond _ _).setRec _

end Work

namespace Keeps
variable {s t : State}

theorem execGemvMem (h : Keeps s t) (q : Nat) (seq : Word32) : OutKeeps s (execGemvMem q seq t) := by
  refine .next (h.onRec _ _ _ fun _ => ?_)
  split
  · exact ite (ite (h.work (((Work.refl _).reachRec _ _).bankPass _ _)) h) (h.work (((Work.refl _).reachRec _ _).gemvCores _ _ _))
  · exact h

theorem execEpilogue (h : Keeps s t) (q : Nat) (seq : Word32) (n : Nat) : OutKeeps s (execEpilogue q seq n t) := by
  refine .next (h.onBegun _ _ _ fun _ => ?_)
  split
  · exact ite (h.work (((Work.refl _).reachRec _ _).epilogueWork _ _ _)) h
  · exact h

end Keeps

end Sys2Proof.Machine
end

