-- ==== Sys2Proof/Proofs/Records.lean ====
section
/-! SUPPORT. What work keeps (`Work`) and what commands keep (`Keeps`):
flags, doorbells, records and barriers. -/

namespace Sys2Proof.Machine

set_option Elab.async false

open Sys2Proof

/-! ## Flags and doorbells -/

namespace Work
variable {s t : State}

theorem mirrorSend (h : Work s t) (b : Nat) : Work s (t.mirrorSend b) := by
  unfold State.mirrorSend
  dsimp only
  split
  · exact ite (ite ((ite (h.upd.toHost _ _) h.upd).msix _ _) (ite (h.upd.toHost _ _) h.upd)) h
  · exact h

theorem mirrorStop (h : Work s t) (p : Fin 4) (cause : Nat) : Work s (t.mirrorStop p cause) :=
  ite ((h.setPort _ _).ev _ _ _ _ _ _ _ _) h

theorem mirrorReturn (h : Work s t) (p : Fin 4) : Work s (t.mirrorReturn p) := by
  have sent : ∀ u (b : Nat), Work s u → Work s (match u.binding b with
      | some (_, _, f) => if f.mirror then u.toHost p (.mirror p f.addr (u.flagBlock b)) else u
      | none => u) := fun u b h => by
    split
    · exact ite (h.toHost _ _) h
    · exact h
  exact ite (foldl (fun _ _ h => h.upd) _ (foldl (fun _ _ h => h.msix _ _) _ (foldl sent _ (h.setPort _ _)))) h

theorem hostReturn (h : Work s t) (p : Fin 4) : Work s (t.hostReturn p) :=
  (h.mirrorReturn _).msixFlush _

theorem tailWrite (h : Work s t) (by_ : Agent) (q : Nat) (v : Word32) : Work s (tailWrite by_ q v t) := by
  unfold Machine.tailWrite
  dsimp only
  split
  · exact h.logDiscard _ _ _ _
  · exact h.logDiscard _ _ _ _
  · exact ite h (ite (h.logDiscard _ _ _ _) (ite (h.logDiscard _ _ _ _) (ite (((h.setQueue _ _).headNow _).touch _) (h.setQueue _ _))))

end Work

namespace Keeps
variable {s t : State}

theorem flagPage (h : Keeps s t) (by_ : Agent) (ctx off v : Nat) {act : State → State} (ha : Keeps s (act t)) :
    Keeps s (flagPage by_ ctx off v t act) := by
  cases by_ with
  | port p => exact ite ha (h.work ((Work.refl _).discard _ _ _))
  | hcore n => exact ite ha h

theorem flagPageOne (h : Keeps s t) (by_ : Agent) (ctx off : Nat) (n : BitVec 16) (v : Bool) : Keeps s (flagPageOne by_ ctx off n v t) :=
  h.flagPage _ _ _ _ (by split; exacts [h.work (((Work.refl _).putFlag _ _ _).touch _), h.ev _ _ _ _ _ _ _ _])
theorem flagPageMask (h : Keeps s t) (by_ : Agent) (ctx off slot : Nat) (mask : Word64) (v : Bool) :
    Keeps s (flagPageMask by_ ctx off slot mask v t) :=
  h.flagPage _ _ _ _ (by split; exacts [h.work (((Work.refl _).putBlock _ _).touch _), h.ev _ _ _ _ _ _ _ _])
theorem execFlagPageSet (h : Keeps s t) (by_ : Agent) (ctx : Nat) (n : BitVec 16) : OutKeeps s (execFlagPageSet by_ ctx n t) :=
  .next (h.flagPageOne _ _ _ _ _)
theorem execFlagPageClear (h : Keeps s t) (by_ : Agent) (ctx : Nat) (n : BitVec 16) : OutKeeps s (execFlagPageClear by_ ctx n t) :=
  .next (h.flagPageOne _ _ _ _ _)
theorem execSetMask (h : Keeps s t) (by_ : Agent) (ctx slot : Nat) (mask : Word64) : OutKeeps s (execSetMask by_ ctx slot mask t) :=
  .next (h.flagPageMask _ _ _ _ _ _)
theorem execClearMask (h : Keeps s t) (by_ : Agent) (ctx slot : Nat) (mask : Word64) : OutKeeps s (execClearMask by_ ctx slot mask t) :=
  .next (h.flagPageMask _ _ _ _ _ _)
theorem execFlagMirrorWrite (h : Keeps s t) (block : Nat) : OutKeeps s (execFlagMirrorWrite block t) :=
  .next (h.work ((Work.refl _).mirrorSend _))

theorem doorbellPage (h : Keeps s t) (by_ : Agent) (q off : Nat) (v : Word32) {act : State → State} (ha : Keeps s (act t)) :
    Keeps s (doorbellPage by_ q off v t act) := by
  cases by_ with
  | port p => exact ite (h.work ((Work.refl _).discard _ _ _)) (ite (h.work ((Work.refl _).logDiscard _ _ _ _)) ha)
  | hcore n => exact ite ha h

theorem execDoorbellTail (h : Keeps s t) (by_ : Agent) (q : Nat) (v : Word32) : OutKeeps s (execDoorbellTail by_ q v t) :=
  .next (h.doorbellPage _ _ _ _ (h.work ((Work.refl _).tailWrite _ _ _)))

end Keeps

/-! ## Records -/

namespace Work
variable {s t : State}

theorem forfeit (h : Work s t) : Work s t.forfeit :=
  h.upd
theorem faultStreams (h : Work s t) (r : Rec) : Work s (t.faultStreams r) :=
  foldl (fun _ _ h => ite ((h.setStream _ _).ev _ _ _ _ _ _ _ _) h) _ h
theorem consume (h : Work s t) (r : Rec) : Work s (t.consume r) :=
  ite (h.putFlags _ _ _) h
theorem enter (h : Work s t) (r : Rec) : Work s (t.enter r) :=
  h.upd
theorem enterColl (h : Work s t) (r : Rec) : Work s (t.enterColl r) :=
  ite (h.upd.retire _ _) (h.upd.enter _)
theorem failDecode (h : Work s t) (r : Rec) (st unit : Nat) : Work s (t.failDecode r st unit) :=
  ite (((ite (h.faultStreams _) h).ev _ _ _ _ _ _ _ _).retire _ _) ((ite (h.faultStreams _) h).retire _ _)

theorem decode (h : Work s t) (r0 : Rec) : Work s (t.decode r0) := by
  have h1 := (h.reach rachis 12 (t.decodeCols (t.readRec r0))).noteReads .sequencer (t.decodeCols (t.readRec r0))
  unfold State.decode
  dsimp only
  split
  · exact h1.failDecode _ _ _
  · exact ite ((h1.consume _).enterColl _) ((h1.consume _).enter _)

theorem passHead (h : Work s t) (q : Nat) : Work s (t.passHead q) :=
  ((h.setQueue _ _).headNow _).active _
theorem headFails (h : Work s t) (q : Nat) (cols : List Nat) : Work s (t.headFails q cols) :=
  ite h (ite ((h.passHead _).retire _ _) (ite ((h.passHead _).failDecode _ _ _) h))

theorem issueRec (h : Work s t) (q : Nat) (expired : Bool) : Work s (t.issueRec q expired) := by
  have h1 : ∀ ring sched, Work s { ((t.reach rachis 12 ring).noteReads .sequencer ring).passHead q with sched } := fun ring _ =>
    (((h.reach rachis 12 ring).noteReads .sequencer ring).passHead q).upd
  unfold State.issueRec
  dsimp only
  split
  · exact (h1 _ _).retire _ _
  · exact ite ((h1 _ _).retire _ _) ((h1 _ _).decode _)

end Work

namespace Keeps
variable {s t : State}

theorem execRecordIssue (h : Keeps s t) (q : Nat) : OutKeeps s (execRecordIssue q t) :=
  .next (ite (h.work ((Work.refl _).issueRec _ _).forfeit) (h.work (Work.refl _).forfeit)).settle
theorem execFlagWait (h : Keeps s t) (q : Nat) : OutKeeps s (execFlagWait q t) :=
  .next (ite (h.work ((Work.refl _).issueRec _ _).forfeit) h).settle
theorem execFlagWaitTimeout (h : Keeps s t) (q at_ : Nat) : OutKeeps s (execFlagWaitTimeout q at_ t) :=
  .next (ite ((h.advance _).work ((Work.refl _).issueRec _ _)) (h.advance _)).settle
theorem execRecordStart (h : Keeps s t) (q : Nat) (seq : Word32) : OutKeeps s (execRecordStart q seq t) :=
  .next (by split; exacts [ite (h.work ((Work.refl _).setRec _)) h, h])
theorem execWideningRerun (h : Keeps s t) (q : Nat) (seq : Word32) : OutKeeps s (execWideningRerun q seq t) :=
  .next (by split; exacts [ite (h.work ((Work.refl _).setRec _)) h, h])

theorem execRecordComplete (h : Keeps s t) (q : Nat) (seq : Word32) : OutKeeps s (execRecordComplete q seq t) := by
  refine .next ?_
  split
  · exact ite (h.work ((((Work.refl _).logSat _).setRec _).completeOrHold _)).settle h
  · exact h

end Keeps

/-! ## Barriers -/

namespace Work
variable {s t : State}

theorem arriveBar (h : Work s t) (r : Rec) : Work s (t.arriveBar r) :=
  (h.setBar _ _).setRec _

theorem refuseArr (h : Work s t) (a : Arrival) (status unit : Nat) : Work s (t.refuseArr a status unit) := by
  unfold State.refuseArr
  dsimp only
  split
  · exact h.setRec _
  · exact h

theorem saturatedArr (h : Work s t) (b : Nat) (a : Arrival) (unit : Nat) : Work s (t.saturatedArr b a unit) :=
  (h.ev _ _ _ _ _ _ _ _).refuseArr _ _ _

theorem arriveOnly (h : Work s t) (a : Arrival) : Work s (t.arriveOnly a) := by
  unfold State.arriveOnly
  split
  · exact ite h (h.setRec _)
  · exact h

theorem rootAccept (h : Work s t) (b : Nat) (a : Arrival) : Work s (t.rootAccept b a) :=
  (h.setBar _ _).arriveOnly _

theorem frondArrival (h : Work s t) (b f : Nat) : Work s (t.frondArrival b f) := by
  unfold State.frondArrival
  dsimp only
  split
  · exact h
  · exact ite ((h.setBar _ _).refuseArr _ _ _) (ite ((h.setBar _ _).rootAccept _ _) (ite ((h.setBar _ _).saturatedArr _ _ _) (h.setBar _ _)))

theorem rachisArrival (h : Work s t) (b : Nat) : Work s (t.rachisArrival b) := by
  unfold State.rachisArrival
  dsimp only
  split
  · exact h
  · exact ite ((h.setBar _ _).rootAccept _ _) (ite ((h.setBar _ _).saturatedArr _ _ _) ((h.setBar _ _).setBar _ _))

theorem tellMember (h : Work s t) (m : Nat) (o : Out) : Work s (t.tellMember m o) := by
  unfold State.tellMember
  split
  · exact (h.emit _).sendControl _
  · exact h.emit _

theorem remoteArrivals (h : Work s t) (b member num count : Nat) : Work s (t.remoteArrivals b member num count) :=
  ite (by split; exacts [((h.setBar _ _).tellMember _ _).touch _, (h.setBar _ _).tellMember _ _]) (h.tellMember _ _)
theorem acceptedArr (h : Work s t) (b : Nat) (gen : Word32) (place : Nat) (a : Arrival × Nat) : Work s (acceptedArr b gen place t a) :=
  ite ((h.setBar _ _).setBar _ _) ((h.setBar _ _).arriveOnly _)

theorem remoteArrival (h : Work s t) (b : Nat) (m : RemoteArr) : Work s (t.remoteArrival b m) := by
  unfold State.remoteArrival
  dsimp only
  split
  · exact h.remoteArrivals _ _ _ _
  · exact foldl (fun _ _ h => h.acceptedArr _ _ _ _) _ (h.setBar _ _)
  · exact foldl (fun _ _ h => h.refuseArr _ _ _) _ (h.setBar _ _)
  · exact ite (h.loseWaiters _) h

theorem releaseGen (h : Work s t) (b : Nat) (gen : Word32) : Work s (t.releaseGen b gen) :=
  foldl (fun _ _ h => by split; exacts [h.setRec _, h]) _ (h.setBar _ _)

end Work

namespace Keeps
variable {s t : State}

theorem execBarrier (h : Keeps s t) (q : Nat) (seq : Word32) : OutKeeps s (execBarrier q seq t) :=
  .next (by split; exacts [ite (h.work ((Work.refl _).arriveBar _)) h, h])

theorem execBarrierArrival (h : Keeps s t) (b : Nat) (node : BNode) (remote : Option RemoteArr) :
    OutKeeps s (execBarrierArrival b node remote t) := by
  refine .next (ite h ?_)
  split
  · exact h.work ((Work.refl _).frondArrival _ _)
  · exact h.work ((Work.refl _).rachisArrival _)
  · exact h.work ((Work.refl _).remoteArrival _ _)

theorem execBarrierForward (h : Keeps s t) (b : Nat) (node : BNode) : OutKeeps s (execBarrierForward b node t) := by
  refine .next ?_
  split
  · exact ite (h.work ((Work.refl _).setBar _ _)) h
  · split
    · exact h
    · split
      · exact h
      · exact ite h (((h.work ((Work.refl _).setBar _ _)).emit _).work ((Work.refl _).sendControl _))

theorem execBarrierRelease (h : Keeps s t) (b : Nat) (gen : Word32) : OutKeeps s (execBarrierRelease b gen t) := by
  have h1 := h.work ((Work.refl t).releaseGen b gen)
  exact .next (ite (ite (h1.work ((Work.refl _).tellMembers _ _)) h1) (ite (h.work (((Work.refl _).setBar _ _).releaseGen _ _)) h))

theorem execDeadlockDetected (h : Keeps s t) (sc : Scope) (at_ : Nat) : OutKeeps s (execDeadlockDetected sc at_ t) := by
  unfold Machine.execDeadlockDetected
  extract_lets s1 qs d0 s2 s3
  have h1 : Keeps s s1 := h.advance _
  have h2 : Keeps s s2 := h1.work (((Work.refl _).evAdd _).moduleError _)
  have h3 : Keeps s s3 := foldl (fun _ _ h => h.work ((Work.refl _).evAdd _)) _ h2
  refine .next (ite ?_ h1)
  split
  · exact h3.upd
  · exact h3.work ((Work.refl _).setCtx _ _)

end Keeps

end Sys2Proof.Machine
end

