-- ==== Sys2Proof/Proofs/Ownership.lean ====
section
/-! SUPPORT. What work keeps (`Work`) and what commands keep (`Keeps`):
contexts, movement and ownership. -/

namespace Sys2Proof.Machine

set_option Elab.async false

open Sys2Proof

/-! ## Context commands -/

namespace Keeps
variable {s t : State}

theorem ctxCreateRun (h : Keeps s t) (r : Req) : Ans.Meets (Keeps s) (ctxCreateRun r t) :=
  .ite .fail (.ite .fail (by split; exacts [.fail, .ite .fail (.done (h.work (((Work.refl _).clearBars _ _).setCtx _ _)))]))
theorem execCtxCreate (h : Keeps s t) (mb : Fin 32) : OutKeeps s (execCtxCreate mb t) :=
  .next (h.request fun _ => h.ctxCreateRun _)
theorem onCtx (r : Req) (legal : CtxState → Bool) {act : Nat → Ans} (ha : ∀ c, (act c).Meets (Keeps s)) :
    (onCtx r t legal act).Meets (Keeps s) := .ite .fail (.ite .fail (.ite .fail (ha _)))
theorem execCtxDestroy (h : Keeps s t) (mb : Fin 32) : OutKeeps s (execCtxDestroy mb t) :=
  .next (h.request fun _ => onCtx _ _ fun _ => .done (h.work ((Work.refl _).destroyCtx _))).settle
theorem execCtxSuspend (h : Keeps s t) (mb : Fin 32) : OutKeeps s (execCtxSuspend mb t) :=
  .next (h.request fun _ => onCtx _ _ fun _ => .wait (h.work ((((Work.refl _).setCtx _ _).ownerLost _).stopCores _))).settle
theorem suspendEnd (h : Keeps s t) (mb : Fin 32) (status : Nat) : Keeps s (suspendEnd mb status t) :=
  (h.work ((Work.refl _).suspended _)).reply _ _ _ _ _
theorem execCtxSuspendTimeout (h : Keeps s t) (mb : Fin 32) (at_ : Nat) : OutKeeps s (execCtxSuspendTimeout mb at_ t) :=
  .next (ite ((h.advance _).suspendEnd _ _) (h.advance _))
theorem execCtxResume (h : Keeps s t) (mb : Fin 32) : OutKeeps s (execCtxResume mb t) :=
  .next (h.request fun _ => onCtx _ _ fun _ => .done (h.work ((((((Work.refl _).setCtx _ _).touch _).resumeWaits _).resumeCores _).unpause _)))
theorem execCtxAdopt (h : Keeps s t) (mb : Fin 32) : OutKeeps s (execCtxAdopt mb t) :=
  .next (h.request fun _ => onCtx _ _ fun _ => .done (h.work ((Work.refl _).setCtx _ _)))

end Keeps

/-! ## Movement -/

namespace Work
variable {s t : State}

theorem moveWork (h : Work s t) (r : Rec) : Work s (t.moveWork r) := by
  unfold State.moveWork
  split
  · exact h.formOuts _ _ _ _ _
  · exact h

theorem postTicket (h : Work s t) (r : Rec) (k : Nat) : Work s (t.postTicket r k) := by
  unfold State.postTicket
  extract_lets p ks addr data s1 s2
  have h1 : Work s s1 := foldl (fun _ _ h => h.toHost _ _) _ h
  have h2 : Work s s2 := foldl (fun _ _ h => h.toHost _ _) _ h1
  exact ite (h2.setRec _) h2

theorem askTicket (h : Work s t) (r : Rec) (k : Nat) : Work s (t.askTicket r k) :=
  ite h ((foldl (fun _ _ h => h.toHost _ _) _ h).setRec _)
theorem askTickets (h : Work s t) (r : Rec) : Work s (t.askTickets r) :=
  ite (foldl (fun _ _ h => by split; exacts [h.askTicket _ _, h]) _ h) h
theorem haltXfer (h : Work s t) (r : Rec) (status : Nat) : Work s (t.haltXfer r status) :=
  (h.ev _ _ _ _ _ _ _ _).setRec _
theorem putSpore (h : Work s t) (r : Rec) : Work s (t.putSpore r) :=
  ite (h.writeAll _ _) h

theorem collectiveWork (h : Work s t) (r : Rec) (others : List (List (Word32 × Bool))) : Work s (t.collectiveWork r others) := by
  unfold State.collectiveWork
  dsimp only
  split
  · exact (h.noteReads _ _).writeElems _ _ _
  · exact h

end Work

namespace Keeps
variable {s t : State}

theorem execCopy (h : Keeps s t) (q : Nat) (seq : Word32) : OutKeeps s (execCopy q seq t) :=
  .next (h.onData _ _ _ fun _ _ h => h.work ((Work.refl _).moveWork _))
theorem execPermute (h : Keeps s t) (q : Nat) (seq : Word32) : OutKeeps s (execPermute q seq t) :=
  .next (h.onData _ _ _ fun _ _ h => h.work ((Work.refl _).moveWork _))
theorem execGather (h : Keeps s t) (q : Nat) (seq : Word32) : OutKeeps s (execGather q seq t) :=
  .next (h.onData _ _ _ fun _ _ h => h.work ((Work.refl _).moveWork _))
theorem execScatterAdd (h : Keeps s t) (q : Nat) (seq : Word32) : OutKeeps s (execScatterAdd q seq t) :=
  .next (h.onData _ _ _ fun _ _ h => h.work ((Work.refl _).moveWork _))
theorem execHostWrite (h : Keeps s t) (q : Nat) (seq : Word32) : OutKeeps s (execHostWrite q seq t) :=
  .next (h.onData _ _ _ fun _ _ h => ite (h.work (((Work.refl _).noteReads _ _).setRec _)) (h.work ((Work.refl _).haltXfer _ _)))
theorem execHostRead (h : Keeps s t) (q : Nat) (seq : Word32) : OutKeeps s (execHostRead q seq t) :=
  .next (h.onRec _ _ _ fun _ => ite (h.work (((Work.refl _).setRec _).askTickets _)) (h.work ((Work.refl _).haltXfer _ _)))
theorem execSporeWrite (h : Keeps s t) (q : Nat) (seq : Word32) : OutKeeps s (execSporeWrite q seq t) :=
  .next (h.onRec _ _ _ fun _ => h.work ((Work.refl _).setRec _))

theorem execFlagSet (h : Keeps s t) (q : Nat) (seq : Word32) : OutKeeps s (execFlagSet q seq t) := by
  refine .next (h.onRec _ _ _ fun r => ?_)
  have h1 := h.work ((Work.refl t).putSpore r)
  exact (ite (h1.work ((Work.refl _).putFlags _ _ _)) h1).work ((Work.refl _).setRec _)

theorem execCollective (h : Keeps s t) (q : Nat) (seq : Word32) (others : List (List (Word32 × Bool))) (agree : Bool) :
    OutKeeps s (execCollective q seq others agree t) :=
  .next (h.onData _ _ _ fun _ _ h => ite (h.work ((Work.refl _).setRec _)) (h.work ((Work.refl _).collectiveWork _ _)))

end Keeps

/-! ## Ownership -/

namespace Keeps
variable {s t : State}

theorem execGetCaps (h : Keeps s t) (mb : Fin 32) : OutKeeps s (execGetCaps mb t) :=
  .next (h.request fun _ => .done h)
theorem execGetVersion (h : Keeps s t) (mb : Fin 32) : OutKeeps s (execGetVersion mb t) :=
  .next (h.request fun _ => .done h)
theorem execGetOwner (h : Keeps s t) (mb : Fin 32) : OutKeeps s (execGetOwner mb t) :=
  .next (h.request fun _ => .done h)

theorem claimRun (h : Keeps s t) (takeover : Bool) (dispose reqLease leaseOff : Nat) (r : Req) :
    Ans.Meets (Keeps s) (claimRun takeover dispose reqLease leaseOff r t) := by
  unfold Machine.claimRun
  dsimp only
  split
  · exact .fail
  · split
    · exact .fail
    · exact .wait h.upd
    · exact .done (ite ((h.ownerChange _ _ _).work ((Work.refl _).disposeOrphans _)) (h.ownerChange _ _ _))

theorem execClaim (h : Keeps s t) (mb : Fin 32) : OutKeeps s (execClaim mb t) :=
  .next (h.request fun _ => h.claimRun _ _ _ _ _)
theorem execTakeover (h : Keeps s t) (mb : Fin 32) : OutKeeps s (execTakeover mb t) :=
  .next (h.request fun _ => .ite .fail (h.claimRun _ _ _ _ _))

theorem lapseDue (h : Keeps s t) : Keeps s t.lapseDue := by
  unfold State.lapseDue
  split
  · exact ite h.lapse h
  · exact h

theorem execRenewLease (h : Keeps s t) (mb : Fin 32) : OutKeeps s (execRenewLease mb t) :=
  .next ((ite h.lapseDue h).request fun _ => .done ((ite h.lapseDue h).ownerChange _ _ _))
theorem execRelease (h : Keeps s t) (mb : Fin 32) : OutKeeps s (execRelease mb t) :=
  .next (h.request fun _ => .ite .fail (.ite .fail (.done (h.ownerChange _ _ _))))
theorem execHandover (h : Keeps s t) (mb : Fin 32) : OutKeeps s (execHandover mb t) :=
  .next (h.request fun _ => .ite .fail (.ite .fail (.done (h.ownerChange _ _ _))))

theorem closeWindow (h : Keeps s t) : Keeps s t.closeWindow := by
  unfold State.closeWindow
  split
  · refine ite ?_ h
    dsimp only
    split
    · exact h.ownerChange _ _ _
    · next w _ =>
      have h1 := h.ownerChange (some w.port) (if w.takeover then 0x03 else 0x02) w.leaseMs
      have h2 := ite (c := w.takeover = true) (h1.work ((Work.refl _).disposeOrphans (w.dispose == 1))) h1
      exact foldl (fun _ _ h => h.reply _ _ _ _ _) _ (h2.reply _ _ _ _ _)
  · exact h

theorem nextOf (h : Keeps s t) {o : Host.Outcome State Fault Refusal} (ho : OutKeeps s o) : Keeps s (nextOf t o) := by
  cases o with
  | next u => exact ho u rfl
  | fault => exact h
  | refused => exact h

theorem holdClaims (h : Keeps s t) : Keeps s t.holdClaims :=
  ite (foldl (fun _ _ h =>
    have h1 := h.nextOf (h.execClaim _)
    h1.nextOf (h1.execTakeover _)) _ h) h

theorem execOwnershipWindowClose (h : Keeps s t) (at_ : Nat) : OutKeeps s (execOwnershipWindowClose at_ t) :=
  .next (ite (h.advance _).holdClaims.closeWindow (h.advance _))
theorem execLeaseExpiry (h : Keeps s t) (at_ : Nat) : OutKeeps s (execLeaseExpiry at_ t) :=
  .next (h.advance _).lapseDue

end Keeps

end Sys2Proof.Machine
end

