-- ==== Sys2Proof/Proofs/Lifecycle.lean ====
section
/-! SUPPORT. What work keeps (`Work`) and what commands keep (`Keeps`):
scrubbing, logs and repairs, shut-downs, retention, start and resets. -/

namespace Sys2Proof.Machine

set_option Elab.async false

open Sys2Proof

/-! ## Scrubbing, logs and repairs -/

namespace Work
variable {s t : State}

theorem scrubPhys {x : State × ScrubSum} (h : Work s x.1) (col dpa : Nat) : Work s (scrubPhys x col dpa).1 := by
  obtain ⟨u, m⟩ := x
  have h1 : Work s (u.noteRead .scrub col) := noteRead h _ _
  unfold Machine.scrubPhys
  dsimp only
  split
  · exact h
  · split
    · split
      · exact h1
      · exact h1.writeFull _ _ _ _
    · exact h1.writeFull _ _ _ _
    · exact h1
    · exact h1

theorem scrubFrom (h : Work s t) (base n : Nat) : Work s (scrubFrom base n t).1 :=
  foldlOn Prod.fst (fun _ _ h => h.scrubPhys _ _) _ h

/-- Scrubbing a list of columns of each of a list of channels. -/
theorem scrubAll {x : State × ScrubSum} (h : Work s x.1) (chs cols : List Nat) (col dpa : Nat → Nat → Nat) :
    Work s (chs.foldl (fun x c => cols.foldl (fun x i => Machine.scrubPhys x (col c i) (dpa c i)) x) x).1 :=
  foldlOn Prod.fst (fun _ _ h => foldlOn Prod.fst (fun _ _ h => h.scrubPhys _ _) _ h) _ h
theorem scrubChannels (h : Work s t) (chs : List Nat) : Work s (scrubChannels chs t).1 :=
  scrubAll (x := (t, {})) h chs (List.range (2 * 33554432)) (fun c i => 2 * c * 33554432 + i)
    fun c i => t.lay.dpaOf (2 * c * 33554432 + i)

theorem scrubAnswer (h : Work s t) (startAt base n : Nat) : Work s (scrubAnswer startAt base n t).1 := (h.reach _ _ _).scrubFrom _ _
theorem copyLogs (h : Work s t) : Work s t.copyLogs :=
  h.upd
theorem setBucketOf (h : Work s t) (leak thr st : Nat) : Work s (setBucketOf leak thr t st) :=
  ite ((h.setBucket _ _).bucketOver _) (h.setBucket _ _)
theorem repairCol (h : Work s t) (req : Requester) (col : Nat) : Work s (repairCol req t col) :=
  (h.noteRead _ _).writeFull _ _ _ _

theorem repairRow (h : Work s t) (bank row : Nat) (fuse : Bool) : Work s (t.repairRow bank row fuse) := by
  unfold State.repairRow
  extract_lets used s1 s2 m tbl m'
  have h2 : Work s s2 := foldl (fun _ _ h => h.repairCol _ _) _ (h.endBegun _)
  clear_value s2
  have h3 : Work s { s2 with mem := m' } := h2.upd
  exact h3.err _ _ _ _ _

end Work

namespace Keeps
variable {s t : State}

theorem execScrub (h : Keeps s t) (mb : Fin 32) : OutKeeps s (execScrub mb t) :=
  .next (h.request fun _ => .ite .fail (.ite .fail (.ite .fail (.done
    (h.work ((Work.refl t).scrubAnswer (t.mbox mb).startAt _ _))))))
theorem execGetErrlog (h : Keeps s t) (mb : Fin 32) : OutKeeps s (execGetErrlog mb t) :=
  .next (h.request fun _ => .done h)
theorem execGetEventLog (h : Keeps s t) (mb : Fin 32) : OutKeeps s (execGetEventLog mb t) :=
  .next (h.request fun _ => .done h)

theorem execLogNvmCopy (h : Keeps s t) (at_ : Nat) : OutKeeps s (execLogNvmCopy at_ t) := by
  unfold Machine.execLogNvmCopy
  extract_lets s1
  have h1 : Keeps s s1 := h.advance _
  exact .next (ite (h1.work (Work.refl _).copyLogs).upd h1)

theorem execSetBucket (h : Keeps s t) (mb : Fin 32) : OutKeeps s (execSetBucket mb t) :=
  .next (h.request fun _ => .ite .fail (.done (foldl (fun _ _ h => h.work ((Work.refl _).setBucketOf _ _ _)) _ h)))
theorem execBucketLeak (h : Keeps s t) (st : Fin 32) (at_ : Nat) : OutKeeps s (execBucketLeak st at_ t) :=
  .next (ite ((h.advance _).work ((Work.refl _).setBucket _ _)) (h.advance _))
theorem execFlipMaskArm (h : Keeps s t) (mb : Fin 32) : OutKeeps s (execFlipMaskArm mb t) :=
  .next (h.request fun _ => .ite .fail (.done h.upd))
theorem execRepairRow (h : Keeps s t) (mb : Fin 32) : OutKeeps s (execRepairRow mb t) :=
  .next (h.request fun _ => .ite .fail (.ite .fail (.ite .fail (.done (h.work ((Work.refl _).repairRow _ _ _))))))

/-- The state after the 32,768 columns are read is generalised, so that nothing unfolds the fold over them. -/
theorem execAutoColumnRepair (h : Keeps s t) (bank column at_ : Nat) : OutKeeps s (execAutoColumnRepair bank column at_ t) := by
  unfold Machine.execAutoColumnRepair
  extract_lets s1 gpc key done last from_ s2 s3 m s4
  have h1 : Keeps s s1 := h.advance _
  have h3 : Keeps s s3 := foldl (fun _ _ h => h.work ((Work.refl _).repairCol _ _)) _ (h1.work ((Work.refl _).reach _ _ _))
  clear_value s3
  have h4 : Keeps s s4 := h3.setColRepairs _
  clear_value s4
  exact .next (ite h1 (ite (h1.work ((Work.refl _).err _ _ _ _ _)) (h4.work ((Work.refl _).err _ _ _ _ _))))

end Keeps

/-! ## Shut-down, retention, start and reset -/

namespace Work
variable {s t : State}

theorem failTraining (h : Work s t) (ch : Nat) : Work s (failTraining t ch) :=
  ite (h.fenceChannel _ _) h
theorem storeLanes (h : Work s t) (lanes : List LaneFit) : Work s (t.storeLanes lanes) :=
  h.upd
theorem train (h : Work s t) (fits : List RootFit) : Work s (t.train fits) :=
  foldl (fun _ _ h => h.failTraining _) _ h.upd
theorem refuseReset (h : Work s t) (p : Fin 4) (value cause : Nat) : Work s (t.refuseReset p value cause) :=
  (h.setPort _ _).ev _ _ _ _ _ _ _ _

end Work

namespace Keeps
variable {s t : State}

theorem setPhase (h : Keeps s t) (p : Phase) : Keeps s (t.setPhase p) :=
  h.upd
theorem refuseMb (h : Keeps s t) (i : Nat) : Keeps s (refuseMb t i) :=
  ite (by split; exacts [h.reply _ _ _ _ _, h]) h
theorem refuseAll (h : Keeps s t) : Keeps s t.refuseAll :=
  foldl (fun _ _ h => h.refuseMb _) _ h
theorem computeOff (h : Keeps s t) : Keeps s t.computeOff :=
  h.upd

theorem logicReset (h : Keeps s t) : Keeps s t.logicReset := by
  unfold State.logicReset
  extract_lets s1 s2 s3
  have h1 : Keeps s s1 := h.work (Work.refl _).leaveGroup
  have h2 : Keeps s s2 := h1.upd
  have h3 : Keeps s s3 := (h2.work (Work.refl _).orphanAll).computeOff
  exact h3.upd

theorem coldBase (h : Keeps s t) : Keeps s t.coldBase := h.trans ⟨Nat.le_refl _, rfl, rfl, fun _ => DMem.wf_nil rfl rfl⟩
theorem writeRecord (h : Keeps s t) (kind cause sensor unit : Nat) (reading threshold : Int) :
    Keeps s (t.writeRecord kind cause sensor unit reading threshold) :=
  h.upd

theorem abandonWork (h : Keeps s t) : Keeps s t.abandonWork := by
  unfold State.abandonWork
  extract_lets s1 s2
  have h1 : Keeps s s1 := foldl (fun _ _ h => h.work ((Work.refl _).dropRec _)) _ h
  have h2 : Keeps s s2 := h1.upd
  exact (h2.work (Work.refl _).quiesce).computeOff

theorem logicShutdown (h : Keeps s t) (cause sensor unit : Nat) (reading threshold : Int) :
    Keeps s (t.logicShutdown cause sensor unit reading threshold) := by
  have h1 := (h.writeRecord 1 cause sensor unit reading threshold).abandonWork.work (Work.refl _).copyLogs
  unfold State.logicShutdown
  split
  · exact (setPhase h1.upd _).refuseAll
  · exact (setPhase h1.upd _).refuseAll
  · exact (setPhase h1.upd _).refuseAll
  · exact h

theorem fullShutdown (h : Keeps s t) (cause sensor unit : Nat) (reading threshold : Int) :
    Keeps s (t.fullShutdown cause sensor unit reading threshold) := by
  unfold State.fullShutdown
  dsimp only
  split
  · exact ((h.writeRecord _ _ _ _ _ _).work (Work.refl _).copyLogs).coldBase.upd.setPhase _
  · exact ((h.writeRecord _ _ _ _ _ _).work (Work.refl _).copyLogs).coldBase.upd.setPhase _
  · exact ((h.writeRecord _ _ _ _ _ _).work (Work.refl _).copyLogs).coldBase.upd.setPhase _
  · exact ((h.writeRecord _ _ _ _ _ _).work (Work.refl _).copyLogs).coldBase.upd.setPhase _
  · exact h

theorem unshutAll (h : Keeps s t) : Keeps s t.unshutAll :=
  h.upd

theorem clearLatch (h : Keeps s t) : Keeps s t.clearLatch := by
  unfold State.clearLatch
  extract_lets kept x s1 s2 s3
  have h1 : Keeps s s1 := h.upd
  have h3 : Keeps s s3 := ite h1.logicReset.upd h1
  exact h3.unshutAll.setPhase _

theorem execClearShutdown (h : Keeps s t) (mb : Fin 32) : OutKeeps s (execClearShutdown mb t) :=
  .next (h.request fun _ => .ite (.done h.clearLatch) .fail)
theorem execGetShutdownRecord (h : Keeps s t) (mb : Fin 32) : OutKeeps s (execGetShutdownRecord mb t) :=
  .next (h.request fun _ => .done h.upd)

theorem execRefclkLost (h : Keeps s t) (at_ : Nat) : OutKeeps s (execRefclkLost at_ t) := by
  unfold Machine.execRefclkLost
  extract_lets s1
  have h1 : Keeps s s1 := h.advance _
  exact .next (ite (h1.upd.logicShutdown _ _ _ _ _) h1)

theorem execRefclkWarning (h : Keeps s t) (ppm : Int) : OutKeeps s (execRefclkWarning ppm t) :=
  .next (ite (h.ev _ _ _ _ _ _ _ _) h)
theorem loseContents (h : Keeps s t) : Keeps s t.loseContents :=
  (h.writeRecord _ _ _ _ _ _).coldBase.setPhase _

theorem enterRetention (h : Keeps s t) : Keeps s t.enterRetention := by
  unfold State.enterRetention
  extract_lets s1 s2 x s3 s4 s5
  have h2 : Keeps s s2 := (h.abandonWork.ev _ _ _ _ _ _ _ _).work (Work.refl _).copyLogs
  have h3 : Keeps s s3 := h2.setPack _
  have h5 : Keeps s s5 := h3.logicReset.upd
  exact h5.setPhase _

theorem inputLost (h : Keeps s t) : Keeps s t.inputLost := by
  have h1 := ite (c := t.shut.latched = true ∧ t.shut.kind = 2 ∧ t.shut.cause ≠ 5) (h.coldBase.setPhase .off)
    (ite (c := t.pack.ready = true) h.enterRetention h.loseContents)
  unfold State.inputLost
  split
  · exact h
  · exact h
  · exact h1

theorem execInputPowerLost (h : Keeps s t) (at_ : Nat) : OutKeeps s (execInputPowerLost at_ t) :=
  .next (h.advance _).inputLost
theorem execInputOvervoltage (h : Keeps s t) (at_ mv : Nat) : OutKeeps s (execInputOvervoltage at_ mv t) :=
  .next (ite (h.advance _).inputLost (h.advance _))
theorem execInputOvercurrent (h : Keeps s t) (at_ ma : Nat) : OutKeeps s (execInputOvercurrent at_ ma t) :=
  .next (ite ((h.advance _).ev _ _ _ _ _ _ _ _).inputLost (h.advance _))

theorem execInputVoltageWarning (h : Keeps s t) (at_ mv : Nat) : OutKeeps s (execInputVoltageWarning at_ mv t) := by
  unfold Machine.execInputVoltageWarning
  extract_lets s1 lvl due
  have h1 : Keeps s s1 := h.advance _
  exact .next (ite h1 (ite (h1.upd.upd.ev _ _ _ _ _ _ _ _) h1.upd))

theorem execPackReserveReached (h : Keeps s t) (e : RetentionUse) : OutKeeps s (execPackReserveReached e t) :=
  .next (ite (h.packSet _).loseContents h)
theorem execPackSelfDisconnect (h : Keeps s t) (e : RetentionUse) : OutKeeps s (execPackSelfDisconnect e t) :=
  .next (ite (h.packSet _).loseContents h)
theorem execPackRemoved (h : Keeps s t) : OutKeeps s (execPackRemoved t) :=
  .next (ite h.upd (ite (h.packSet _).loseContents (h.packSet _)))
theorem execRetentionExit (h : Keeps s t) (nsHeld chargeUsed powerMw : Nat) : OutKeeps s (execRetentionExit nsHeld chargeUsed powerMw t) :=
  .next (ite ((h.upd.ev _ _ _ _ _ _ _ _).setPhase _) h)

theorem selectSlot (h : Keeps s t) (a b : Option FwHeader) : Keeps s (t.selectSlot a b).1 := by
  unfold State.selectSlot
  extract_lets va vb fw s1 ok act s2
  have h1 : Keeps s s1 := h.upd
  have h2 : Keeps s s2 := h1.ev _ _ _ _ _ _ _ _
  split
  · exact h1
  · split
    · exact h2
    · exact h2.ev _ _ _ _ _ _ _ _

theorem computeOn (h : Keeps s t) (r : StartReport) : Keeps s (t.computeOn r) := by
  unfold State.computeOn
  extract_lets s1 s2
  have h1 : Keeps s s1 := foldl (fun _ _ h => ite (h.fenceLink _) h) _ h
  have h2 : Keeps s s2 := foldl (fun _ _ h => ite (h.work ((Work.refl _).fenceCore _ _)) h) _ h1
  exact foldl (fun _ _ h => ite ((h.work ((Work.refl _).setHCore _ _)).ev _ _ _ _ _ _ _ _) h) _ h2

theorem boot (h : Keeps s t) (r : StartReport) : Keeps s (t.boot r) := by
  have h0 := h.selectSlot r.slotA r.slotB
  unfold State.boot
  split
  next u slot hu =>
  rw [hu] at h0
  split
  · exact setPhase h0.upd _
  · extract_lets fw s1 s2 tm s3 s4 s5 s6
    have h1 : Keeps s s1 := h0.upd
    have h2 : Keeps s s2 := ite h1 (h1.setPhase _)
    have h3 : Keeps s s3 := h2.upd
    have h4 : Keeps s s4 := (h3.computeOn _).work ((Work.refl _).train _)
    have h5 : Keeps s s5 := ite h4 (h4.work (Work.refl _).initMemory)
    have h6 : Keeps s s6 := h5.upd
    exact ite (h1.setPhase _) (ite (h6.packSet _) h6)

theorem execStartUp (h : Keeps s t) (r : StartReport) : OutKeeps s (execStartUp r t) := by
  have h1 : Keeps s ({ t with therm := t.therm.recheck }.setPhase .starting) := setPhase h.upd _
  refine .next ?_
  split
  · exact ite h1.upd (h1.boot _)
  · exact ite h (ite h.upd (h.boot _))
  · exact h.boot _
  · exact h

theorem endTrial (h : Keeps s t) : Keeps s t.endTrial :=
  ite h.upd h

theorem execReadyReached (h : Keeps s t) (at_ : Nat) : OutKeeps s (execReadyReached at_ t) := by
  unfold Machine.execReadyReached
  extract_lets s1 s2 o s3
  have h1 : Keeps s s1 := h.advance _
  have h2 : Keeps s s2 := h1.endTrial.setPhase _
  have h3 : Keeps s s3 := h2.upd
  exact .next (ite (h3.work (Work.refl _).ownershipIrq) h1)

theorem execFwTrialFallback (h : Keeps s t) (at_ : Nat) (watchdog : Bool) : OutKeeps s (execFwTrialFallback at_ watchdog t) := by
  unfold Machine.execFwTrialFallback
  extract_lets s1 i x
  have h1 : Keeps s s1 := h.advance _
  exact .next (ite (h1.upd.ev _ _ _ _ _ _ _ _) h1)

theorem warmReset (h : Keeps s t) : Keeps s t.warmReset := by
  unfold State.warmReset
  extract_lets s1
  have h1 : Keeps s s1 := (h.work ((Work.refl _).cancelAll _ _).quiesce).logicReset
  exact h1.upd.setPhase _

theorem orderedReset (h : Keeps s t) (p : Fin 4) (value : Nat) (key : Byte) {act : State → State} (ha : Keeps s (act t)) :
    Keeps s (t.orderedReset p value key act) :=
  ite (h.work ((Work.refl _).refuseReset _ _ _)) (ite h (ite (h.work ((Work.refl _).refuseReset _ _ _)) ha))
theorem execWarmModuleReset (h : Keeps s t) (p : Fin 4) (key : Byte) : OutKeeps s (execWarmModuleReset p key t) :=
  .next (h.orderedReset _ _ _ h.warmReset.upd)

end Keeps

end Sys2Proof.Machine
end

