-- ==== Sys2Proof/Proofs/Service.lean ====
section
/-! SUPPORT. What work keeps (`Work`) and what commands keep (`Keeps`):
queues and streams, RHIZOID and groups, the service of units. -/

namespace Sys2Proof.Machine

set_option Elab.async false

open Sys2Proof

/-! ## Queues and streams -/

namespace Work
variable {s t : State}

theorem unbindSlot (h : Work s t) (c slot : Nat) : Work s (t.unbindSlot c slot) :=
  ite ((h.hwClear _).setCtx _ _) h

theorem bindSlot (h : Work s t) (c slot : Nat) (f : FSlot) : Work s (t.bindSlot c slot f) := by
  unfold State.bindSlot
  extract_lets s1 s2 x s3
  have h1 : Work s s1 := h.unbindSlot _ _
  have h2 : Work s s2 := h1.hwClear _
  have h3 : Work s s3 := h2.setCtx _ _
  exact ite h3.upd h3

end Work

namespace Keeps
variable {s t : State}

theorem qCreateRun (h : Keeps s t) (r : Req) : (qCreateRun r t).Meets (Keeps s) := by
  refine .ite .fail (.ite .fail (.ite .fail ?_))
  split
  · exact .fail
  · split
    · exact .fail
    · refine .ite .fail (.ite .fail ?_)
      split
      · exact .fail
      · exact .done (h.upd.work ((Work.refl _).setQueue _ _))

theorem execQCreate (h : Keeps s t) (mb : Fin 32) : OutKeeps s (execQCreate mb t) :=
  .next (h.request fun _ => h.qCreateRun _)
theorem onQueue (r : Req) {act : Nat → Ans} (ha : ∀ q, (act q).Meets (Keeps s)) : (onQueue r t act).Meets (Keeps s) :=
  .ite .fail (.ite .fail (.ite .fail (ha _)))
theorem execQDestroy (h : Keeps s t) (mb : Fin 32) : OutKeeps s (execQDestroy mb t) :=
  .next (h.request fun _ => onQueue _ fun _ => .ite .fail (.done (h.work ((Work.refl _).setQueue _ _))))
theorem execQDrain (h : Keeps s t) (mb : Fin 32) : OutKeeps s (execQDrain mb t) :=
  .next (h.request fun _ => onQueue _ fun _ => .wait (h.work ((Work.refl _).setQueue _ _))).settle

theorem drainEnd (h : Keeps s t) (mb : Fin 32) (status : Nat) : Keeps s (drainEnd mb status t) := by
  unfold Machine.drainEnd
  extract_lets b q qu s1 s2 s3 qu' s4
  have h1 : Keeps s s1 := h.work ((Work.refl _).cancelAll _ _)
  have h2 : Keeps s s2 := h1.upd
  have h3 : Keeps s s3 := by
    unfold s3
    split
    · exact h2.work ((Work.refl _).cancelUnissued _ _)
    · exact h2
  have h4 : Keeps s s4 := h3.work (((Work.refl _).setQueue _ _).touch _)
  exact (h4.reply _ _ _ _ _).settle

theorem execQDrainTimeout (h : Keeps s t) (mb : Fin 32) (at_ : Nat) : OutKeeps s (execQDrainTimeout mb at_ t) :=
  .next (ite ((h.advance _).drainEnd _ _) (h.advance _))
theorem execCqHeadWrite (h : Keeps s t) (by_ : Agent) (q : Nat) (v : Word32) : OutKeeps s (execCqHeadWrite by_ q v t) :=
  .next (h.doorbellPage _ _ _ _ (h.work ((Work.refl _).cqHeadPut _ _ _)))

theorem execStreamAlloc (h : Keeps s t) (mb : Fin 32) : OutKeeps s (execStreamAlloc mb t) := by
  refine .next (h.request fun _ => .ite .fail (.ite .fail (.ite .fail (.ite .fail (.ite .fail ?_)))))
  dsimp only
  split
  · exact .fail
  · exact .done (h.work ((Work.refl _).setStream _ _))

theorem onStream (r : Req) (bad : Bool) {act : Nat → Ans} (ha : ∀ i, (act i).Meets (Keeps s)) : (onStream r t bad act).Meets (Keeps s) :=
  .ite .fail (.ite .fail (.ite .fail (ha _)))
theorem execStreamFree (h : Keeps s t) (mb : Fin 32) : OutKeeps s (execStreamFree mb t) :=
  .next (h.request fun _ => onStream _ _ fun _ => .ite .fail (.done (h.work ((Work.refl _).setStream _ _))))
theorem execStreamSet (h : Keeps s t) (mb : Fin 32) : OutKeeps s (execStreamSet mb t) :=
  .next (h.request fun _ => onStream _ _ fun _ => .ite .fail (.wait h)).settle
theorem flagMapRun (h : Keeps s t) (r : Req) : (flagMapRun r t).Meets (Keeps s) := by
  refine .ite .fail (.ite .fail (.ite .fail (.ite .fail (.ite .fail (.ite .fail (.done ?_))))))
  exact ite (h.work ((Work.refl _).bindSlot _ _ _)) (ite (h.work ((Work.refl _).unbindSlot _ _)) h)
theorem execFlagWindowMap (h : Keeps s t) (mb : Fin 32) : OutKeeps s (execFlagWindowMap mb t) :=
  .next (h.request fun _ => h.flagMapRun _)

end Keeps

/-! ## RHIZOID and groups -/

namespace Work
variable {s t : State}

theorem startRetrain (h : Work s t) (n : Nat) : Work s (t.startRetrain n) :=
  h.setRPort _ _
theorem portDownLog (h : Work s t) (n : Nat) : Work s (t.portDownLog n) :=
  (h.ev _ _ _ _ _ _ _ _).rerouteLog _
theorem flitAnswer (h : Work s t) (n : Fin 8) (f : Flit) : Work s (t.flitAnswer n f) :=
  ite (ite ((foldl (fun _ _ h => h.emit _) _ (h.setRPort _ _)).startRetrain _) (foldl (fun _ _ h => h.emit _) _ (h.setRPort _ _))) (h.setRPort _ _)
theorem flitDeliver (h : Work s t) (n : Fin 8) (f : Flit) : Work s (t.flitDeliver n f) :=
  ite h (ite ((h.setRPort _ _).emit _) (ite (h.emit _) (h.emit _)))
theorem joined (h : Work s t) : Work s t.joined :=
  h.upd
theorem joinFailed (h : Work s t) : Work s t.joinFailed :=
  h.upd

end Work

namespace Keeps
variable {s t : State}

theorem execRhizoidPortTrained (h : Keeps s t) (n : Fin 8) (serial : Word64) : OutKeeps s (execRhizoidPortTrained n serial t) :=
  .next (ite (h.work ((Work.refl _).setRPort _ _)) h)
theorem execRhizoidLinkRetrain (h : Keeps s t) (n : Fin 8) : OutKeeps s (execRhizoidLinkRetrain n t) :=
  .next (ite (h.work ((Work.refl _).startRetrain _)) h)
theorem execRhizoidRetrainDone (h : Keeps s t) (n : Fin 8) (freeD freeC : Nat) : OutKeeps s (execRhizoidRetrainDone n freeD freeC t) :=
  .next (ite h (ite (h.work ((Work.refl _).setRPort _ _)) (h.work ((Work.refl _).creditLost _))))
theorem execRhizoidRetrainTimeout (h : Keeps s t) (n : Fin 8) (at_ : Nat) : OutKeeps s (execRhizoidRetrainTimeout n at_ t) :=
  .next (ite ((h.advance _).work ((((Work.refl _).rportDown _).setRPort _ _).portDownLog _)) (h.advance _))
theorem execRhizoidTrainRetry (h : Keeps s t) (n : Fin 8) (at_ : Nat) (serial : Option Word64) :
    OutKeeps s (execRhizoidTrainRetry n at_ serial t) :=
  .next (ite (by split; exacts [(h.advance _).work ((Work.refl _).setRPort _ _), (h.advance _).work ((Work.refl _).setRPort _ _)]) (h.advance _))
theorem execRhizoidFlitReceive (h : Keeps s t) (n : Fin 8) (f : Flit) : OutKeeps s (execRhizoidFlitReceive n f t) :=
  .next (ite h (ite (h.emit _) (ite (h.work ((Work.refl _).flitAnswer _ _)) (h.work (((Work.refl _).flitAnswer _ _).flitDeliver _ _))).settleUnits))

theorem judgeJoin (h : Keeps s t) : Keeps s t.judgeJoin := by
  have h1 := h.work (Work.refl t).joined
  have h2 := h.work (Work.refl t).joinFailed
  unfold State.judgeJoin
  dsimp only
  split
  · exact h
  · exact ite (h2.reply _ _ _ _ _) (ite (ite (h1.reply _ _ _ _ _) (h2.reply _ _ _ _ _)) h)

theorem execGroupJoin (h : Keeps s t) (mb : Fin 32) : OutKeeps s (execGroupJoin mb t) := by
  refine .next (h.request fun r => .ite .fail (.ite .fail ?_)).judgeJoin
  extract_lets g s1 s2
  have h1 : Keeps s s1 := h.upd
  have h2 : Keeps s s2 := h1.work ((Work.refl _).tellMembers _ _)
  clear_value s2
  exact .ite (.done (h1.work (Work.refl _).joined)) (.wait h2.upd)

theorem execGroupJoinMessage (h : Keeps s t) (msg : JoinMsg) : OutKeeps s (execGroupJoinMessage msg t) :=
  .next (ite h h.upd.judgeJoin)
theorem execGroupLeave (h : Keeps s t) (mb : Fin 32) : OutKeeps s (execGroupLeave mb t) :=
  .next (h.request fun _ => .ite (.done (h.work (Work.refl _).leaveGroup)) .fail).settle
theorem execMemberUnreachable (h : Keeps s t) (m : Fin 16) (at_ : Nat) : OutKeeps s (execMemberUnreachable m at_ t) :=
  .next (ite ((h.advance _).work (Work.refl _).leaveGroup).settle (h.advance _))
theorem execGroupBreak (h : Keeps s t) : OutKeeps s (execGroupBreak t) :=
  .next (ite (h.work (Work.refl _).endMembership).settle h)
theorem execCollectiveCancel (h : Keeps s t) (q : Nat) (members : BitVec 16) (k : Nat) : OutKeeps s (execCollectiveCancel q members k t) :=
  .next (by split; exacts [(h.work ((Work.refl _).endRec _ _)).settle, h.upd])

end Keeps

/-! ## Service of units, erasure and resets -/

namespace Work
variable {s t : State}

theorem drainUnit (h : Work s t) (u : Nat) : Work s (t.drainUnit u) := by
  unfold State.drainUnit
  dsimp only
  split
  · exact h.setCore _ _
  · exact h.setHCore _ _
  · exact h
  · exact foldl (fun _ _ h => ite (h.setChan _ _) h) _ h

theorem stopPair (h : Work s t) (su : Nat) : Work s (t.stopPair su) :=
  ite (h.setPair _ _) ((h.setPair _ _).returnToken _)
theorem abortUnit (h : Work s t) (u : Nat) : Work s (t.abortUnit u) :=
  foldl (fun _ _ h => ite (foldl (fun _ _ h => h.stopPair _) _ (h.abandonUnits _ _ _)) h) _ (h.unitAbort _)
theorem resetChannel (h : Work s t) (ch : Nat) : Work s (t.resetChannel ch) :=
  h.upd.setChan _ _
theorem barClaimant (h : Work s t) (i : Nat) : Work s (t.barClaimant i) :=
  h.upd

theorem erase (h : Work s t) : Work s t.erase := by
  unfold State.erase
  extract_lets s1
  have h1 : Work s s1 := h.initMemory
  exact h1.upd

theorem dropLevels (h : Work s t) : Work s t.dropLevels :=
  foldl (fun _ _ h => h.lower _ _) _ h.dropLiens
theorem lostSums (h : Work s t) (f : Nat) : Work s (t.lostSums f) :=
  h.upd
theorem resetTileUnit (h : Work s t) (ok : List (Fin 64)) (c : Nat) : Work s (resetTileUnit ok t c) :=
  ite ((((h.reissueAll _ _).reissueAll _ _).setCore _ _).fenceCore _ _) (((h.reissueAll _ _).reissueAll _ _).setCore _ _)
theorem resetQueue (h : Work s t) (q : Nat) : Work s (resetQueue t q) :=
  (h.ev _ _ _ _ _ _ _ _).setQueue _ _

end Work

namespace Keeps
variable {s t : State}

theorem execUnitDisable (h : Keeps s t) (mb : Fin 32) : OutKeeps s (execUnitDisable mb t) := by
  have h1 := fun u => h.work ((Work.refl t).drainUnit u)
  exact .next (h.request fun _ => .ite .fail (.ite .fail (.wait (ite ((h1 _).work ((Work.refl _).abortUnit _)) (h1 _))))).settle

theorem disableEnd (h : Keeps s t) (mb : Fin 32) (status : Nat) : Keeps s (disableEnd mb status t) := by
  unfold Machine.disableEnd
  extract_lets s1 b u s2
  have h2 : Keeps s s2 := h.settle.work (((Work.refl _).abortUnit _).unitOut _ _)
  exact ite h.settle (((h2.ev _ _ _ _ _ _ _ _).reply _ _ _ _ _).settle)

theorem execUnitDisableTimeout (h : Keeps s t) (mb : Fin 32) (at_ : Nat) : OutKeeps s (execUnitDisableTimeout mb at_ t) :=
  .next (ite ((h.advance _).disableEnd _ _) (h.advance _))

theorem readmitChannels (h : Keeps s t) (startAt : Nat) (chs : List Nat) (u : Nat) (o : Readmission) :
    (readmitChannels startAt chs u o t).Meets (Keeps s) := by
  unfold Machine.readmitChannels
  extract_lets s1 s2 x
  have h1 : Keeps s s1 := foldl (fun _ _ h => h.work ((Work.refl _).resetChannel _)) _ h
  have h2 : Keeps s s2 := foldl (fun _ _ h => h.work ((Work.refl _).setChan _ _)) _ (h1.work ((Work.refl _).storeLanes _))
  have h3 : Keeps s x.1 := h2.work ((Work.refl _).scrubChannels _)
  exact .ite (.done (h1.ev _ _ _ _ _ _ _ _)) (.done (h3.ev _ _ _ _ _ _ _ _))

theorem readmitOther (h : Keeps s t) (u : Nat) : Keeps s (readmitOther u t) := by
  unfold Machine.readmitOther
  dsimp only
  split
  · exact h.work (((Work.refl _).setCore _ _).barClaimant _)
  · exact h.work ((Work.refl _).setHCore _ _)
  · exact h.work ((Work.refl _).setRPort _ _)
  · exact (h.setFLink _ _).reroute _
  · exact h.work (((Work.refl _).setEngine _ _).barClaimant _)

theorem readmitRun (h : Keeps s t) (o : Readmission) (r : Req) : Ans.Meets (Keeps s) (readmitRun o r t) := by
  unfold Machine.readmitRun
  dsimp only
  split
  · exact .fail
  · exact .ite (h.readmitChannels _ _ _ _) (.ite (.done ((h.readmitOther _).ev _ _ _ _ _ _ _ _)) (.done (h.ev _ _ _ _ _ _ _ _)))

theorem execUnitReadmit (h : Keeps s t) (mb : Fin 32) (outcome : Readmission) : OutKeeps s (execUnitReadmit mb outcome t) :=
  .next (ite h (h.request fun _ => h.readmitRun _ _))

theorem eraseRun (h : Keeps s t) (bad : List Nat) (r : Req) : (eraseRun bad r t).Meets (Keeps s) := by
  unfold Machine.eraseRun
  extract_lets s1 s2 skipped s3 s4
  have h1 : Keeps s s1 := h.work (Work.refl _).dropLevels
  have h2 : Keeps s s2 := h1.work (Work.refl _).erase
  have h3 : Keeps s s3 := foldl (fun _ _ h => h.ev _ _ _ _ _ _ _ _) _ h2
  have h4 : Keeps s s4 := foldl (fun _ _ h => h.ev _ _ _ _ _ _ _ _) _ h3
  exact .ite .fail (.ite .fail (.ite (.done h1) (.done h4)))

theorem execSecureErase (h : Keeps s t) (mb : Fin 32) (badColumns : List Nat) : OutKeeps s (execSecureErase mb badColumns t) :=
  .next (h.request fun _ => h.eraseRun _ _)

theorem frondReset (h : Keeps s t) (f : Nat) (ok : List (Fin 64)) : Keeps s (t.frondReset f ok) := by
  unfold State.frondReset
  extract_lets lost s1 s2 m s3 fr s4 s5
  have h1 : Keeps s s1 := h.work (((Work.refl _).abandonUnits _ _ _).lostSums _)
  have h2 : Keeps s s2 := foldl (fun _ _ h => h.work ((Work.refl _).returnToken _)) _ h1
  have h3 : Keeps s s3 := h2.upd
  have h5 : Keeps s s5 := h3.work (((Work.refl _).setFrond _ _).cancelAll _ _)
  exact (foldl (fun _ _ h => h.work ((Work.refl _).resetTileUnit _ _)) _ h5).settle

theorem execFrondReset (h : Keeps s t) (by_ : ResetBy) (f : Fin 4) (key : Byte) (bistOk : List (Fin 64)) :
    OutKeeps s (execFrondReset by_ f key bistOk t) := by
  refine .next ?_
  split
  · exact h.frondReset _ _
  · exact h.orderedReset _ _ _ (h.frondReset _ _)

theorem contextReset (h : Keeps s t) (c : Nat) : Keeps s (t.contextReset c) := by
  unfold State.contextReset
  extract_lets x s1 s2 s3 s4 s5
  have h1 : Keeps s s1 := h.work ((Work.refl _).cancelAll _ _)
  have h2 : Keeps s s2 := foldl (fun _ _ h => h.work ((Work.refl _).resetQueue _)) _ h1
  have h3 : Keeps s s3 := foldl (fun _ _ h => h.work ((Work.refl _).putBlock _ _)) _ h2
  have h5 : Keeps s s5 := h3.work (((Work.refl _).clearBars _ _).coresOf _ _ fun _ _ h => (h.resetHCore _).setHCore _ _)
  exact (h5.work (((Work.refl _).setCtx _ _).touch _)).settle

theorem execContextReset (h : Keeps s t) (p : Fin 4) (ctx : Nat) (key : Byte) : OutKeeps s (execContextReset p ctx key t) := by
  refine .next (h.orderedReset _ _ _ ?_)
  split
  · exact h.work ((Work.refl _).refuseReset _ _ _)
  · exact h.work ((Work.refl _).refuseReset _ _ _)
  · exact h.contextReset _

theorem execFwStage (h : Keeps s t) (mb : Fin 32) : OutKeeps s (execFwStage mb t) :=
  .next (h.request fun _ => .ite .fail (.done h.upd))
theorem execFwActivate (h : Keeps s t) (mb : Fin 32) (header : Option FwHeader) : OutKeeps s (execFwActivate mb header t) :=
  .next (h.request fun _ => .ite .fail (.ite (.done h) (.done (h.upd.ev _ _ _ _ _ _ _ _))))

theorem undoWaiting (h : Keeps s t) (mb : Fin 32) (op : Nat) : Keeps s (undoWaiting mb op t) := by
  unfold Machine.undoWaiting
  dsimp only
  split
  · exact h.upd
  · exact h.work (Work.refl _).joinFailed
  · exact h.upd
  · exact h.upd
  · exact h

theorem scrubTimeout (h : Keeps s t) (mb : Fin 32) (columnsDone : Nat) : Keeps s (scrubTimeout mb columnsDone t) :=
  (h.work ((Work.refl _).scrubAnswer _ _ _)).reply _ _ _ _ _
theorem endWaiting (h : Keeps s t) (mb : Fin 32) (status : Nat) : Keeps s (endWaiting mb status t) :=
  ite (h.disableEnd _ _) (ite (h.suspendEnd _ _) (ite (h.drainEnd _ _) ((h.undoWaiting _ _).reply _ _ _ _ _)))
theorem watchdog (h : Keeps s t) (mb : Fin 32) (columnsDone : Nat) : Keeps s (watchdog mb columnsDone t) :=
  ite (h.endWaiting _ _) (ite (h.scrubTimeout _ _) (h.reply _ _ _ _ _))

theorem machineCheck (h : Keeps s t) : Keeps s t.machineCheck := by
  unfold State.machineCheck
  split
  · exact h.endWaiting _ _
  · exact h

theorem execMailboxWatchdogTimeout (h : Keeps s t) (mb : Fin 32) (at_ columnsDone : Nat) :
    OutKeeps s (execMailboxWatchdogTimeout mb at_ columnsDone t) :=
  .next (ite ((h.advance _).watchdog _ _) (h.advance _))

end Keeps

end Sys2Proof.Machine
end

