-- ==== Sys2Proof/Proofs/Host.lean ====
section
/-! SUPPORT. What work keeps (`Work`) and what commands keep (`Keeps`):
the host ports, the registers, the host cores and the test access. -/

namespace Sys2Proof.Machine

set_option Elab.async false

open Sys2Proof

/-! ## Host ports -/

namespace Work
variable {s t : State}

theorem writesIn (h : Work s t) (p : Fin 4) : Work s (t.writesIn p) :=
  ite (h.deliver _) h
theorem poisonRead (h : Work s t) (p : Fin 4) : Work s (t.poisonRead p) :=
  (h.writesIn _).fresh.toHost _ _
theorem cxlWrite (h : Work s t) (p : Fin 4) (hpa : Nat) (line : BitVec 512) (be : Word64) (poison : Bool) :
    Work s (cxlWrite p hpa line be poison t) :=
  ite h (by split; exacts [(h.discard _ _ _).toHost _ _, ite ((h.discard _ _ _).toHost _ _) (ite (h.toHost _ _) (h.send _ _))])
theorem poisonCols (h : Work s t) (req : Requester) (cols : List Nat) : Work s (t.poisonCols req cols) :=
  foldl (fun _ _ h => ite (h.fresh.writeFull _ _ _ _) h) _ h

theorem badFor (h : Work s t) (q : Nat) (seq : Word32) (cols : List Nat) : Work s (t.badFor q seq cols) := by
  unfold State.badFor
  split
  · exact h.setRec _
  · exact h

theorem sorusFailed (h : Work s t) (su q : Nat) (seq : Word32) : Work s (t.sorusFailed su q seq) := by
  unfold State.sorusFailed
  extract_lets s1 s2
  have h1 : Work s s1 := by
    unfold s1
    split
    · exact ite (h.setRec _) h
    · exact h
  exact (h1.returnToken _).setPair _ _

theorem fillBad (h : Work s t) (cols : List Nat) : Work s (t.fillBad cols) :=
  foldl (fun _ _ h => by split; exacts [h, (h.fresh.makeRoom _).upd]) _ h
theorem logParity (h : Work s t) (gpc : Nat) (cmd : ParityCmd) : Work s (t.logParity gpc cmd) :=
  h.err _ _ _ _ _
theorem haltPort (h : Work s t) (p : Fin 4) : Work s (t.haltPort p) :=
  foldl (fun _ _ h => h.haltXfer _ _) _ h
theorem linkLost (h : Work s t) (p : Fin 4) : Work s (t.linkLost p) :=
  ite (((h.setPort _ _).haltPort _).mirrorStop _ _) h
theorem linkTrained (h : Work s t) (p : Fin 4) (width : Nat) (rate64 : Bool) : Work s (t.linkTrained p width rate64) :=
  foldl (fun _ _ h => h.askTickets _) _ ((foldl (fun _ _ h => h.emit _) _ (ite (h.setPort _ _) ((h.setPort _ _).ev _ _ _ _ _ _ _ _))).hostReturn _)
theorem fencePort (h : Work s t) (p : Fin 4) : Work s (t.fencePort p) :=
  ite h (((h.setPort _ _).haltPort _).mirrorStop _ _)
theorem unfencePort (h : Work s t) (p : Fin 4) : Work s (t.unfencePort p) :=
  ite ((h.setPort _ _).hostReturn _) h

end Work

namespace Keeps
variable {s t : State}

theorem execHdmDecoderCommit (h : Keeps s t) (p : Fin 4) (c : HdmCommit) : OutKeeps s (execHdmDecoderCommit p c t) :=
  .next (ite (h.work ((Work.refl _).setPort _ _)) (by split; exacts [(h.ev _ _ _ _ _ _ _ _).emit _, (h.work ((Work.refl _).setPort _ _)).emit _]))
theorem execMemrd (h : Keeps s t) (p : Fin 4) (hpa : Nat) : OutKeeps s (execMemrd p hpa t) :=
  .next (ite h (ite (h.work ((Work.refl _).poisonRead _)) (by split; exacts [h.work ((Work.refl _).poisonRead _), h.work ((Work.refl _).send _ _)])))
theorem execMemwr (h : Keeps s t) (p : Fin 4) (hpa : Nat) (line : BitVec 512) (poison : Bool) :
    OutKeeps s (execMemwr p hpa line poison t) :=
  .next (h.work ((Work.refl _).cxlWrite _ _ _ _ _))
theorem execMemwrptl (h : Keeps s t) (p : Fin 4) (hpa : Nat) (line : BitVec 512) (be : Word64) (poison : Bool) :
    OutKeeps s (execMemwrptl p hpa line be poison t) :=
  .next (h.work ((Work.refl _).cxlWrite _ _ _ _ _))
theorem execMeminv (h : Keeps s t) (p : Fin 4) (hpa : Nat) (line : BitVec 512) : OutKeeps s (execMeminv p hpa line t) :=
  .next (h.work ((Work.refl _).cxlWrite _ _ _ _ _))

theorem parityEffect (h : Keeps s t) (gpc : Nat) (cmd : ParityCmd) : Keeps s (t.parityEffect gpc cmd) := by
  have bad : Work t ((parityCols cmd).foldl (fun u c => u.logBad (parityRequester cmd) c false) t) :=
    Work.foldl (fun _ _ h => h.logBad _ _ _) _ (Work.refl t)
  cases cmd with
  | recRead q seq cols => exact h.work (bad.badFor _ _ _)
  | hostRead p cols => exact h.work (bad.poisonRead _)
  | coreRead c a cols => exact h.work (bad.fillBad _)
  | otherRead req cols => exact ite (h.work bad).machineCheck (h.work bad)
  | headRead q cols => exact h.work (bad.headFails _ _)
  | write req cols cxl again =>
    have h1 : Keeps s (if again = true then (t.logParity gpc (.write req cols cxl again)).fenceChannel (gpc / 2) Status.uncorrectable
        else t.poisonCols req cols) :=
      ite (h.work (((Work.refl t).logParity _ _).fenceChannel _ _)) (h.work ((Work.refl t).poisonCols _ _))
    refine ite ?_ h1
    split
    · exact h1.work ((Work.refl _).toHost _ _)
    · exact h1
  | sorus su q seq => exact h.work ((Work.refl t).sorusFailed _ _ _)
  | refresh su => exact h
  | word su q seq w => exact h.work ((Work.refl t).sorusFailed _ _ _)

theorem commandError (h : Keeps s t) (gpc : Nat) (cmd : ParityCmd) : Keeps s (t.commandError gpc cmd) := by
  unfold State.commandError
  extract_lets ch s1 recent x s2
  have h2 : Keeps s s2 := ((h.work ((Work.refl _).logParity _ _)).parityEffect _ _).work ((Work.refl _).setChan _ _)
  exact (ite (h2.work ((Work.refl _).fenceChannel _ _)) h2).settle

theorem execCommandParityError (h : Keeps s t) (gpc : Nat) (cmd : ParityCmd) (at_ : Nat) :
    OutKeeps s (execCommandParityError gpc cmd at_ t) :=
  .next (ite (h.advance _) ((h.advance _).commandError _ _))
theorem execHostLinkUp (h : Keeps s t) (p : Fin 4) (width : Nat) (rate64 : Bool) : OutKeeps s (execHostLinkUp p width rate64 t) :=
  .next (ite h ((ite (h.work ((Work.refl _).linkLost _)) h).work ((Work.refl _).linkTrained _ _ _)))
theorem execHostLinkRetrain (h : Keeps s t) (p : Fin 4) : OutKeeps s (execHostLinkRetrain p t) :=
  .next (ite (h.work ((Work.refl _).setPort _ _)) h)
theorem execHostLinkLost (h : Keeps s t) (p : Fin 4) : OutKeeps s (execHostLinkLost p t) :=
  .next (h.work ((Work.refl _).linkLost _))
theorem resetMailbox (h : Keeps s t) (mb : Nat) : Keeps s (resetMailbox t mb) :=
  h.setMbox _ _
theorem execPortReset (h : Keeps s t) (p : Fin 4) : OutKeeps s (execPortReset p t) :=
  .next (foldl (fun _ _ h => h.resetMailbox _) _ (h.work (((Work.refl _).linkLost _).setPort _ _)))
theorem execPortFenceSet (h : Keeps s t) (p : Fin 4) : OutKeeps s (execPortFenceSet p t) :=
  .next (h.work ((Work.refl _).fencePort _))
theorem execPortFenceClear (h : Keeps s t) (p : Fin 4) : OutKeeps s (execPortFenceClear p t) :=
  .next (h.work ((Work.refl _).unfencePort _))

theorem execBusMasteringChange (h : Keeps s t) (p : Fin 4) (on : Bool) : OutKeeps s (execBusMasteringChange p on t) := by
  unfold Machine.execBusMasteringChange
  extract_lets old x s1
  have h1 : Keeps s s1 := h.work ((Work.refl _).setPort _ _)
  exact .next (ite (h1.work ((Work.refl _).mirrorStop _ _)) (ite (h1.work ((Work.refl _).hostReturn _)) h1))

theorem onXfer (h : Keeps s t) (q : Nat) (seq : Word32) (ops : List Nat) {act : Rec → State} (ha : ∀ r, Keeps s (act r)) :
    Keeps s (onXfer q seq ops t act) := by
  unfold Machine.onXfer
  split
  · exact ite (ha _) h
  · exact h

theorem execHostAckReadComplete (h : Keeps s t) (q : Nat) (seq : Word32) (at_ : AckPoint) :
    OutKeeps s (execHostAckReadComplete q seq at_ t) :=
  .next (h.onXfer _ _ _ fun _ => ite (h.work ((Work.refl _).setRec _)) h)

theorem execHostReadCompletion (h : Keeps s t) (q : Nat) (seq : Word32) (res : HostReadRes) :
    OutKeeps s (execHostReadCompletion q seq res t) := by
  refine .next (h.onXfer _ _ _ fun _ => ?_)
  split
  · exact ite (h.work ((Work.refl _).setRec _)) h
  · exact h.work ((Work.refl _).haltXfer _ _)
  · exact h.work ((Work.refl _).haltXfer _ _)

theorem execHostCompletionTimeout (h : Keeps s t) (q : Nat) (seq : Word32) : OutKeeps s (execHostCompletionTimeout q seq t) :=
  .next (h.onXfer _ _ _ fun _ => h.work ((Work.refl _).haltXfer _ _))

end Keeps

/-! ## Registers -/

namespace Work
variable {s t : State}

theorem startCore (h : Work s t) (n : Nat) : Work s (t.startCore n) :=
  (ite h (h.resetHCore _)).setHCore _ _

theorem coreCtrl (h : Work s t) (n : Nat) (w : Option Nat) (entry : Option Word64) : Work s (coreCtrl n w entry t) := by
  unfold Machine.coreCtrl
  extract_lets h' word err ctx ent moved h1 s1 s2
  have h1 : Work s s1 := h.setHCore _ _
  have h2 : Work s s2 := ite h1 (ite (ite h1 (ite (h1.setHCore _ _) (ite (h1.startCore _) h1))) (ite (h1.setHCore _ _) h1))
  exact ite (ite (h2.setHCore _ _) (h2.resetHCore _)) h2

theorem evlogAck (h : Work s t) (a : Agent) (v : Nat) : Work s (evlogAck a v t) := by
  unfold Machine.evlogAck
  dsimp only
  split
  · exact ite ((h.setIntr _ _).msix _ _) (h.setIntr _ _)
  · exact h.setIntr _ _

theorem intrWrite (h : Work s t) (a : Agent) (w : RegWrite) : Work s (intrWrite a w t) :=
  ite ((h.setIntr _ _).evlogAck _ _) (h.setIntr _ _)
theorem msixUnmask (h : Work s t) (p : Fin 4) (v : Nat) : Work s (t.msixUnmask p v) :=
  (h.setPort _ _).msixFlush _
theorem msixEntryWrite (h : Work s t) (p : Fin 4) (v : Nat) (w : RegWrite) (off : Nat) : Work s (msixEntryWrite p v w off t) :=
  ite (h.setPort _ _) (ite ((h.setPort _ _).setPort _ _) ((h.setPort _ _).msixUnmask _ _))
theorem msixWrite (h : Work s t) (p : Fin 4) (w : RegWrite) : Work s (msixWrite p w t) :=
  ite ((h.setPort _ _).msixFlush _) (ite (h.setPort _ _) (ite (h.setPort _ _) (ite (h.setPort _ _) (ite (h.msixEntryWrite _ _ _ _) h))))

end Work

namespace Keeps
variable {s t : State}

theorem coreBlock (h : Keeps s t) (p : Fin 4) {act : State → State} (ha : Keeps s (act t)) : Keeps s (coreBlock p t act) := ite ha h
theorem execHostCoreRun (h : Keeps s t) (p : Fin 4) (n : Fin 16) (w : Word32) : OutKeeps s (execHostCoreRun p n w t) :=
  .next (h.coreBlock _ (h.work ((Work.refl _).coreCtrl _ _ _)))
theorem execHostCoreStop (h : Keeps s t) (p : Fin 4) (n : Fin 16) (w : Word32) : OutKeeps s (execHostCoreStop p n w t) :=
  .next (h.coreBlock _ (h.work ((Work.refl _).coreCtrl _ _ _)))
theorem execHostCoreReset (h : Keeps s t) (p : Fin 4) (n : Fin 16) (w : Word32) : OutKeeps s (execHostCoreReset p n w t) :=
  .next (h.coreBlock _ (h.work ((Work.refl _).coreCtrl _ _ _)))
theorem execEvlogAckWrite (h : Keeps s t) (by_ : Agent) (v : Word64) : OutKeeps s (execEvlogAckWrite by_ v t) :=
  .next (h.work ((Work.refl _).evlogAck _ _))

theorem mailboxWrite (h : Keeps s t) (mb : Fin 32) (w : RegWrite) : Keeps s (mailboxWrite mb w t) := by
  have ring : ∀ c : Prop, [Decidable c] → Keeps s (if c then Machine.nextOf t (Machine.execMailboxRing mb t) else t) := fun c _ =>
    ite (h.nextOf (h.execMailboxRing mb)) h
  exact ite (ite (h.setMbox _ _) (h.setMbox _ _)) (ite h (ite ((ring _).setMbox _ _) (ring _)))

theorem doorbellWrite (h : Keeps s t) (a : Agent) (q : Nat) (w : RegWrite) : Keeps s (doorbellWrite a q w t) := by
  unfold Machine.doorbellWrite
  extract_lets v s1 v'
  have h1 : Keeps s s1 := ite (h.doorbellPage _ _ _ _ (h.work ((Work.refl _).tailWrite _ _ _))) h
  exact ite (h1.doorbellPage _ _ _ _ (h1.work ((Work.refl _).cqHeadPut _ _ _))) h1

theorem flagWrite (h : Keeps s t) (a : Agent) (c : Nat) (w : RegWrite) : Keeps s (flagWrite a c w t) :=
  ite (h.flagPageOne _ _ _ _ _) (ite (h.flagPageOne _ _ _ _ _) (ite (h.flagPageMask _ _ _ _ _ _) (ite (h.flagPageMask _ _ _ _ _ _) h)))

theorem orderReset (h : Keeps s t) (p : Fin 4) (v : Nat) : Keeps s (orderReset p v t) := by
  unfold Machine.orderReset
  dsimp only
  split
  · exact h.warmReset.upd
  · exact h.frondReset _ _
  · split
    · exact h.work ((Work.refl _).refuseReset _ _ _)
    · exact h.work ((Work.refl _).refuseReset _ _ _)
    · exact h.contextReset _
  · exact h

theorem resetWrite (h : Keeps s t) (p : Fin 4) (w : RegWrite) : Keeps s (resetWrite p w t) := by
  unfold Machine.resetWrite
  extract_lets v p' s1
  have h1 : Keeps s s1 := ite (h.work ((Work.refl _).setPort _ _)) h
  exact ite h (ite h1 (h1.orderedReset _ _ _ (h1.orderReset _ _)))

theorem portWrite (h : Keeps s t) (p : Fin 4) (w : RegWrite) : Keeps s (portWrite p w t) := by
  unfold Machine.portWrite
  extract_lets old s1 s2
  have h1 : Keeps s s1 := ite (ite (h.work ((Work.refl _).fencePort _)) (h.work ((Work.refl _).unfencePort _))) h
  have h2 : Keeps s s2 := ite (h1.resetWrite _ _) h1
  exact ite (h2.coreBlock _ (h2.work ((Work.refl _).coreCtrl _ _ _))) h2

theorem regWrite (h : Keeps s t) (a : Agent) (w : RegWrite) : Keeps s (regWrite a w t) := by
  refine ite h ?_
  split
  · exact h.mailboxWrite _ _
  · refine ite (h.doorbellWrite _ _ _) (ite (h.flagWrite _ _ _) (ite (h.work ((Work.refl _).intrWrite _ _)) ?_))
    split
    · exact ite (h.portWrite _ _) (ite (h.work ((Work.refl _).msixWrite _ _)) h)
    · exact h

theorem execRegisterWrite (h : Keeps s t) (by_ : Agent) (off size : Nat) (v : Word64) : OutKeeps s (execRegisterWrite by_ off size v t) :=
  .next (h.regWrite _ _)

end Keeps

/-! ## Host cores -/

namespace Work
variable {s t : State}

theorem accessFault (h : Work s t) (n : Fin 16) (kind : Trap) (addr value : Nat) : Work s (t.accessFault n kind addr value) :=
  (h.ev _ _ _ _ _ _ _ _).emit _

theorem fillLine (h : Work s t) (used : List Nat) (i : Nat) : Work s (State.fillLine used t i) := by
  unfold State.fillLine
  split
  · exact h
  · extract_lets s1 l s2
    have h2 : Work s s2 := ((h.makeRoom _).reach _ _ _).noteReads _ _
    clear_value s2
    exact h2.upd

theorem storeByte (h : Work s t) (n a : Nat) (b : Byte) : Work s (t.storeByte n a b) :=
  h.upd
theorem makeInstrRoom (h : Work s t) (n : Nat) (used : List Nat) : Work s (t.makeInstrRoom n used) :=
  ite h (by split; exacts [h.fresh.setHCore _ _, h])

theorem fillInstr (h : Work s t) (n : Nat) (used : List Nat) (i : Nat) : Work s (State.fillInstr n used t i) := by
  unfold State.fillInstr
  dsimp only
  split
  · exact h
  · exact ((h.fillLine _ _).makeInstrRoom _ _).setHCore _ _

theorem fetch (h : Work s t) (n : Fin 16) (addr size : Nat) : Work s (t.fetch n addr size) :=
  have h1 := foldl (fun _ _ h => h.fillInstr _ _ _) (linesOf addr size) h
  ite (h1.emit _) (h1.emit _)

theorem memAccess (h : Work s t) (n : Fin 16) (addr size : Nat) (kind : AccKind) : Work s (t.memAccess n addr size kind) := by
  have h1 := foldl (fun _ i h => h.fillLine (linesOf addr size) i) (linesOf addr size) h
  refine ite (h.fetch _ _ _) ?_
  split
  · exact foldl (fun _ _ h => h.storeByte _ _ _) _ h1
  · exact ite (h1.emit _) (h1.emit _)

theorem coreFence (h : Work s t) : Work s t.coreFence :=
  ite (h.deliver _) h

end Work

namespace Keeps
variable {s t : State}

theorem coreAccess (h : Keeps s t) (n : Fin 16) (addr size : Nat) (kind : AccKind) : Keeps s (t.coreAccess n addr size kind) := by
  have trap := h.work ((Work.refl t).accessFault n (AccKind.trap kind) addr (storeValue kind))
  refine ite (ite (h.work ((Work.refl _).memAccess _ _ _ _)) trap) ?_
  split
  · exact h.emit _
  · exact h.regWrite _ _
  · exact trap

theorem execHostCoreAccess (h : Keeps s t) (n : Fin 16) (addr size : Nat) (kind : AccKind) :
    OutKeeps s (execHostCoreAccess n addr size kind t) :=
  .next (ite h (ite (h.work ((Work.refl _).setHCore _ _)) (ite (h.work (Work.refl _).coreFence) (ite (h.coreAccess _ _ _ _) h))))
theorem onLine (h : Keeps s t) (n : Fin 16) (addr : Nat) {act : Nat → State} (ha : ∀ i, Keeps s (act i)) :
    OutKeeps s (onLine n addr t act) :=
  .next (ite h (ite (ha _) (ite h (h.work ((Work.refl _).accessFault _ _ _ _)))))
theorem execCboClean (h : Keeps s t) (n : Fin 16) (addr : Nat) : OutKeeps s (execCboClean n addr t) :=
  h.onLine _ _ fun _ => h.work ((Work.refl _).cleanLine _ _)
theorem execCboFlush (h : Keeps s t) (n : Fin 16) (addr : Nat) : OutKeeps s (execCboFlush n addr t) :=
  h.onLine _ _ fun _ => h.work ((Work.refl _).cleanLine _ _)
theorem execCboInval (h : Keeps s t) (n : Fin 16) (addr : Nat) : OutKeeps s (execCboInval n addr t) :=
  h.onLine _ _ fun _ => h.upd

end Keeps

/-! ## Test access -/

namespace Keeps
variable {s t : State}

theorem onTap (h : Keeps s t) (die : Fin 37) (tap : Tap) (tdo : List Bool) : Keeps s (onTap die t tap tdo) :=
  ite (h.upd.emit _) h
theorem execBypass (h : Keeps s t) (die : Fin 37) (tdi : List Bool) : OutKeeps s (execBypass die tdi t) :=
  .next (h.onTap _ _ _)
theorem execIdcode (h : Keeps s t) (die : Fin 37) : OutKeeps s (execIdcode die t) :=
  .next (h.onTap _ _ _)

theorem execSamplePreload (h : Keeps s t) (die : Fin 37) (preload : List Bool) : OutKeeps s (execSamplePreload die preload t) := by
  unfold Machine.execSamplePreload
  extract_lets s1
  have h1 : Keeps s s1 := h.onTap _ _ _
  exact .next (ite h1.upd h1)

theorem execExtest (h : Keeps s t) (die : Fin 37) : OutKeeps s (execExtest die t) :=
  .next (h.onTap _ _ _)

end Keeps

end Sys2Proof.Machine
end

