-- ==== Sys2Proof/Proofs/Rest.lean ====
section
/-! SUPPORT. What work keeps (`Work`) and what commands keep (`Keeps`):
the layout and thermal commands, the sideband, the records of rows and tensors, the tickets. -/

namespace Sys2Proof.Machine

set_option Elab.async false

open Sys2Proof

/-! ## Layout reading -/

namespace Keeps
variable {s t : State}

theorem execGetLayout (h : Keeps s t) (mb : Fin 32) : OutKeeps s (execGetLayout mb t) :=
  .next (h.request fun _ => .done h)

end Keeps

/-! ## Row records -/

namespace Work
variable {s t : State}

theorem rowsDoneRow (r : Rec) {d : RowsDone} (h : Work s d.st) (m : MRow) : Work s (RowsDone.row r d m).st := (h.recCmd _ _ _).fetchUnit _
theorem prepare (h : Work s t) (r : Rec) (rows : List MRow) (cs : List LoadCmd) : Work s (t.prepare r rows cs) :=
  foldl (fun _ _ h => foldl (fun _ _ h => h.recLoad _ _ _) _ h) _ (h.takeUnits _ _)
theorem runRows (h : Work s t) (r : Rec) (cs : List LoadCmd) (rows : List MRow) : Work s (t.runRows r cs rows).st :=
  (foldlOn RowsDone.st (fun _ _ h => rowsDoneRow _ h _) _ (h.prepare _ _ _)).readStatuses _
theorem rowopWork (h : Work s t) (r : Rec) (rows : List MRow) : Work s (t.rowopWork r rows) :=
  ((h.noteReads _ _).runRows _ _ _).setRec _
theorem memEwWork (h : Work s t) (r : Rec) (rows : List MRow) : Work s (t.memEwWork r rows) :=
  ((h.noteReads _ _).runRows _ _ _).setRec _
theorem memNormWork (h : Work s t) (r : Rec) (d : Desc) : Work s (t.memNormWork r d) :=
  ((h.runRows _ _ _).setRec _).writeElems _ _ _

end Work

namespace Keeps
variable {s t : State}

theorem execMemRowop (h : Keeps s t) (q : Nat) (seq : Word32) : OutKeeps s (execMemRowop q seq t) :=
  .next (h.onRec _ _ _ fun _ => ite (h.work (((Work.refl _).reachRec _ _).rowopWork _ _)) h)
theorem execMemEw (h : Keeps s t) (q : Nat) (seq : Word32) : OutKeeps s (execMemEw q seq t) :=
  .next (h.onRec _ _ _ fun _ => ite (h.work (((Work.refl _).reachRec _ _).memEwWork _ _)) h)
theorem execMemNorm (h : Keeps s t) (q : Nat) (seq : Word32) : OutKeeps s (execMemNorm q seq t) :=
  .next (h.onRec _ _ _ fun _ => by split; exacts [ite (h.work (((Work.refl _).reachRec _ _).memNormWork _ _)) h, h])

end Keeps

/-! ## Thermal control -/

namespace Work
variable {s t : State}

theorem logSensor (h : Work s t) (d i : Nat) (was is : Bool) (r : Option Int) : Work s (logSensor t d i was is r) :=
  ite h (h.ev _ _ _ _ _ _ _ _)
theorem applyCaps (h : Work s t) (d : Nat) : Work s (t.applyCaps d) :=
  ite h (ite (foldl (fun _ _ h => h.capAt _ _ _) _ h) (ite (h.capAt _ _ _) h))

end Work

namespace Keeps
variable {s t : State}

theorem thermalShut (h : Keeps s t) (d sensor : Nat) : Keeps s (t.thermalShut d sensor) := by
  unfold State.thermalShut
  dsimp only
  split
  · exact h.logicShutdown _ _ _ _ _
  · exact h.fullShutdown _ _ _ _ _
  · exact h.logicShutdown _ _ _ _ _
  · exact h

theorem packThermal (h : Keeps s t) : Keeps s t.packThermal :=
  ite (h.packSet _).loseContents (h.packSet _)

theorem recentre (h : Keeps s t) (st : Nat) (lanes : List LaneFit) : Keeps s (t.recentre st lanes) := by
  unfold State.recentre
  extract_lets mine s1 full s2
  have h1 : Keeps s s1 := h.work ((Work.refl _).storeLanes _)
  have h2 : Keeps s s2 := foldl (fun _ _ h => h.ev _ _ _ _ _ _ _ _) _ h1
  exact (foldl (fun _ _ h => h.work ((Work.refl _).failTraining _)) _ h2).settle

theorem sampleDom (h : Keeps s t) (d : Nat) (reads : List (Option Int)) (lanes : List LaneFit) : Keeps s (sampleDom t d reads lanes) := by
  unfold Machine.sampleDom
  extract_lets x now js vals r tbl s1 y y' s2 s3 a s4 s5 s6
  have h2 : Keeps s s2 := (foldl (fun _ _ h => h.work ((Work.refl _).logSensor _ _ _ _ _)) _ h).setDom _ _
  have h3 : Keeps s s3 := h2.ev _ _ _ _ _ _ _ _
  have h4 : Keeps s s4 := ite h2 (ite h3.upd h3)
  have h5 : Keeps s s5 := h4.work ((Work.refl _).applyCaps _)
  have h6 : Keeps s s6 := ite (h5.recentre _ _) h5
  exact ite h6.packThermal (ite (h6.thermalShut _ _) h6)

theorem execThermalSample (h : Keeps s t) (at_ : Nat) (samples : List DomSample) (input : InputReading) :
    OutKeeps s (execThermalSample at_ samples input t) := by
  unfold Machine.execThermalSample
  extract_lets s1 s2
  have h1 : Keeps s s1 := h.advance _
  have h2 : Keeps s s2 := foldl (fun _ _ h => ite (h.sampleDom _ _ _) h) _ h1
  exact .next (ite h2 h2.upd.upd.upd)

theorem askRoot (h : Keeps s t) (r cause : Nat) : Keeps s (t.askRoot r cause) :=
  h.upd.ev _ _ _ _ _ _ _ _

theorem stepTaken (h : Keeps s t) (c : StepCause) : Keeps s (t.stepTaken c) := by
  unfold State.stepTaken
  dsimp only
  split
  · exact h.setDom _ _
  · exact h.setDom _ _
  · exact h.upd

theorem execThrottleStepDown (h : Keeps s t) (at_ : Nat) (cause : StepCause) : OutKeeps s (execThrottleStepDown at_ cause t) :=
  .next (ite (ite (((h.advance _).stepTaken _).askRoot _ _) ((h.advance _).stepTaken _)) (h.advance _))

theorem execThrottleStepUp (h : Keeps s t) (at_ : Nat) : OutKeeps s (execThrottleStepUp at_ t) := by
  unfold Machine.execThrottleStepUp
  extract_lets s1 due
  have h1 : Keeps s s1 := h.advance _
  exact .next (ite (h1.upd.askRoot _ _) h1)

theorem execRootRetarget (h : Keeps s t) : OutKeeps s (execRootRetarget t) := by
  refine .next ?_
  split
  · exact ite h (foldl (fun _ _ h => h.work ((Work.refl _).issueRefresh _)) _ h.fresh).upd
  · exact h

theorem execGetThermal (h : Keeps s t) (mb : Fin 32) : OutKeeps s (execGetThermal mb t) :=
  .next (h.request fun _ => .done h)

end Keeps

/-! ## The sideband -/

namespace Work
variable {s t : State}

theorem sbAnswer (h : Work s t) (n x : Nat) : Work s (t.sbAnswer n x) :=
  h.emit _

end Work

namespace Keeps
variable {s t : State}

theorem sbRun (h : Keeps s t) (w : SbWhen) {act : State → State} (ha : Keeps s (act t)) : OutKeeps s (sbRun w t act) :=
  .next (ite h (ite ha (h.emit _)))
theorem execSbIdent (h : Keeps s t) : OutKeeps s (execSbIdent t) :=
  h.sbRun _ (h.work ((Work.refl _).sbAnswer _ _))
theorem execSbState (h : Keeps s t) : OutKeeps s (execSbState t) :=
  h.sbRun _ (h.work ((Work.refl _).sbAnswer _ _))
theorem execSbThermal (h : Keeps s t) : OutKeeps s (execSbThermal t) :=
  h.sbRun _ (h.emit _)
theorem execSbPower (h : Keeps s t) : OutKeeps s (execSbPower t) :=
  h.sbRun _ (h.work ((Work.refl _).sbAnswer _ _))
theorem execSbShutdown (h : Keeps s t) : OutKeeps s (execSbShutdown t) := by
  have h1 := h.work ((Work.refl t).sbAnswer 32 t.recordBody)
  exact h.sbRun _ h1.upd
theorem execSbClear (h : Keeps s t) : OutKeeps s (execSbClear t) :=
  h.sbRun _ (ite (h.clearLatch.emit _) (h.emit _))
theorem execSbPack (h : Keeps s t) : OutKeeps s (execSbPack t) :=
  h.sbRun _ (h.work ((Work.refl _).sbAnswer _ _))
theorem execSbClaimPrio (h : Keeps s t) (w : Option Word32) : OutKeeps s (execSbClaimPrio w t) :=
  h.sbRun _ (by split; exacts [h.emit _, h.upd.emit _])
theorem execSbFwRecover (h : Keeps s t) (slot off : Nat) (data : List Byte) : OutKeeps s (execSbFwRecover slot off data t) :=
  h.sbRun _ (ite (h.emit _) (ite (h.emit _) (h.upd.emit _)))
theorem execSbAlertResponse (h : Keeps s t) : OutKeeps s (execSbAlertResponse t) :=
  .next (ite h h.upd)

end Keeps

/-! ## Tensor records -/

namespace Keeps
variable {s t : State}

theorem execMatmul (h : Keeps s t) (q : Nat) (seq : Word32) : OutKeeps s (execMatmul q seq t) :=
  .next (h.onData _ _ _ fun _ _ h => h.work ((Work.refl _).matmulWork _))
theorem execMatmulQ (h : Keeps s t) (q : Nat) (seq : Word32) : OutKeeps s (execMatmulQ q seq t) :=
  .next (h.onData _ _ _ fun _ _ h => h.work ((Work.refl _).matmulWork _))
theorem execEwChain (h : Keeps s t) (q : Nat) (seq : Word32) : OutKeeps s (execEwChain q seq t) :=
  .next (h.onData _ _ _ fun _ _ h => h.work ((Work.refl _).ewWork _))
theorem execReduce (h : Keeps s t) (q : Nat) (seq : Word32) : OutKeeps s (execReduce q seq t) :=
  .next (h.onData _ _ _ fun _ _ h => h.work ((Work.refl _).reduceWork _))
theorem execNorm (h : Keeps s t) (q : Nat) (seq : Word32) : OutKeeps s (execNorm q seq t) :=
  .next (h.onData _ _ _ fun _ _ h => h.work ((Work.refl _).normWork _))

end Keeps

/-! ## Tickets -/

namespace Work
variable {s t : State}

theorem loadChunk (h : Work s t) (r : Rec) (who : Claimant) (k : Nat) (at_ : Nat × Nat × Nat) : Work s (t.loadChunk r who k at_) := by
  unfold State.loadChunk
  dsimp only
  split
  · exact h.setCore _ _
  · exact h

theorem stageOuts (h : Work s t) (r : Rec) (who : Claimant) (k : Nat) : Work s (t.stageOuts r who k) := by
  unfold State.stageOuts
  dsimp only
  split
  · exact h.setCore _ _
  · exact h

theorem tileFor (h : Work s t) (who : Claimant) (ctx : Nat) : Work s (t.tileFor who ctx) := by
  unfold State.tileFor
  dsimp only
  split
  · exact ite h (h.setCore _ _)
  · exact h

theorem beginTicket (h : Work s t) (r : Rec) (who : Claimant) (k : Nat) : Work s (t.beginTicket r who k) :=
  ite (h.askTicket _ _) (h.loadChunk _ _ _ _)
theorem claim (h : Work s t) (r : Rec) (who : Claimant) (serial : BitVec 16) : Work s (t.claim r who serial) :=
  ite (h.emit _) (ite h (ite (h.emit _) (ite (h.emit _) (by split; exacts [h.emit _, (((h.tileFor _ _).setRec _).emit _).beginTicket _ _ _]))))

theorem commitGo (h : Work s t) (r : Rec) (who : Claimant) (k epoch : Nat) : Work s (t.commitGo r who k epoch) := by
  unfold State.commitGo
  extract_lets f fr has s1 s2 x ts r s3
  have h1 : Work s s1 := ite (h.setFrond _ _) h
  have h3 : Work s s3 := (((foldl (fun _ _ h => h.loadChunk _ _ _ _) _ h1).stageOuts _ _ _).setRec _).emit _
  exact ite (h3.postTicket _ _) h3

theorem clearCounts (h : Work s t) (who : Claimant) : Work s (t.clearCounts who) := by
  unfold State.clearCounts
  dsimp only
  split
  · exact h.setCore _ _
  · exact h

end Work

namespace Keeps
variable {s t : State}

theorem execClaimTicket (h : Keeps s t) (q : Nat) (seq : Word32) (who : Claimant) (serial : BitVec 16) :
    OutKeeps s (execClaimTicket q seq who serial t) :=
  .next (by split; exacts [ite (h.work ((Work.refl _).claim _ _ _)) h, h])

theorem execCommitRequest (h : Keeps s t) (q : Nat) (seq : Word32) (who : Claimant) (ticket epoch : Nat) :
    OutKeeps s (execCommitRequest q seq who ticket epoch t) := by
  refine .next ?_
  split
  · exact ite (h.emit _) (ite (h.work ((Work.refl _).commitGo _ _ _ _)) h)
  · exact h.emit _

theorem commitTicket (h : Keeps s t) (r : Rec) (who : Claimant) (k : Nat) (w : CommitWrites) : Keeps s (t.commitTicket r who k w) :=
  (h.work (((((Work.refl _).clearCounts _).setFrond _ _).writeAll _ _).setRec _)).settle

theorem execCommitDone (h : Keeps s t) (q : Nat) (seq : Word32) (who : Claimant) (ticket : Nat) :
    OutKeeps s (execCommitDone q seq who ticket t) := by
  refine .next ?_
  split
  · exact ite ((h.work ((Work.refl _).reachRec _ _)).commitTicket _ _ _ _) h
  · exact h

theorem execTicketHoldTimeout (h : Keeps s t) (q : Nat) (seq : Word32) (who : Claimant) (at_ : Nat) :
    OutKeeps s (execTicketHoldTimeout q seq who at_ t) := by
  unfold Machine.execTicketHoldTimeout
  extract_lets s1
  have h1 : Keeps s s1 := h.advance _
  refine .next ?_
  split
  · refine ite ?_ h1
    split
    · exact (h1.work ((Work.refl _).fenceCore _ _)).settle
    · exact (h1.work ((Work.refl _).fenceEngine _ _)).settle
  · exact h1

end Keeps

end Sys2Proof.Machine
end

