-- ==== Sys2Proof/Proofs/EveryStep.lean ====
section
/-! SUPPORT. Every command but `SET_LAYOUT` keeps what `Keeps` names; `SET_LAYOUT` keeps all of it but the layout. -/

namespace Sys2Proof.Machine

set_option Elab.async false

open Sys2Proof

/-- Every command but `SET_LAYOUT` keeps the timebase rising, the layout, the queue and the form of device memory. -/
theorem Keeps.exec {s t : State} (h : Keeps s t) : ∀ c : Instr, (∀ mb ok, c ≠ .setLayout mb ok) → OutKeeps s (Machine.exec c t)
  | .getCaps mb, _ => h.execGetCaps mb
  | .getVersion mb, _ => h.execGetVersion mb
  | .claim mb, _ => h.execClaim mb
  | .renewLease mb, _ => h.execRenewLease mb
  | .release mb, _ => h.execRelease mb
  | .handover mb, _ => h.execHandover mb
  | .takeover mb, _ => h.execTakeover mb
  | .getOwner mb, _ => h.execGetOwner mb
  | .setLayout mb nvmOk, hc => absurd rfl (hc mb nvmOk)
  | .getLayout mb, _ => h.execGetLayout mb
  | .ctxCreate mb, _ => h.execCtxCreate mb
  | .ctxDestroy mb, _ => h.execCtxDestroy mb
  | .ctxSuspend mb, _ => h.execCtxSuspend mb
  | .ctxSuspendTimeout mb at_, _ => h.execCtxSuspendTimeout mb at_
  | .ctxResume mb, _ => h.execCtxResume mb
  | .ctxAdopt mb, _ => h.execCtxAdopt mb
  | .qCreate mb, _ => h.execQCreate mb
  | .qDestroy mb, _ => h.execQDestroy mb
  | .qDrain mb, _ => h.execQDrain mb
  | .qDrainTimeout mb at_, _ => h.execQDrainTimeout mb at_
  | .streamAlloc mb, _ => h.execStreamAlloc mb
  | .streamFree mb, _ => h.execStreamFree mb
  | .streamSet mb, _ => h.execStreamSet mb
  | .flagWindowMap mb, _ => h.execFlagWindowMap mb
  | .setEnvelope mb, _ => h.execSetEnvelope mb
  | .envelopeLowerEdge, _ => h.execEnvelopeLowerEdge
  | .getPower mb, _ => h.execGetPower mb
  | .setSorusLimit mb, _ => h.execSetSorusLimit mb
  | .getThermal mb, _ => h.execGetThermal mb
  | .scrub mb, _ => h.execScrub mb
  | .getErrlog mb, _ => h.execGetErrlog mb
  | .setBucket mb, _ => h.execSetBucket mb
  | .flipMaskArm mb, _ => h.execFlipMaskArm mb
  | .repairRow mb, _ => h.execRepairRow mb
  | .unitDisable mb, _ => h.execUnitDisable mb
  | .unitDisableTimeout mb at_, _ => h.execUnitDisableTimeout mb at_
  | .unitReadmit mb outcome, _ => h.execUnitReadmit mb outcome
  | .secureErase mb badColumns, _ => h.execSecureErase mb badColumns
  | .packStatus mb, _ => h.execPackStatus mb
  | .packAuth mb reply, _ => h.execPackAuth mb reply
  | .retainArm mb, _ => h.execRetainArm mb
  | .groupJoin mb, _ => h.execGroupJoin mb
  | .groupLeave mb, _ => h.execGroupLeave mb
  | .getEventLog mb, _ => h.execGetEventLog mb
  | .getShutdownRecord mb, _ => h.execGetShutdownRecord mb
  | .clearShutdown mb, _ => h.execClearShutdown mb
  | .fwStage mb, _ => h.execFwStage mb
  | .fwActivate mb header, _ => h.execFwActivate mb header
  | .mailboxRing mb, _ => h.execMailboxRing mb
  | .mailboxWatchdogTimeout mb at_ columnsDone, _ => h.execMailboxWatchdogTimeout mb at_ columnsDone
  | .matmul q seq, _ => h.execMatmul q seq
  | .matmulQ q seq, _ => h.execMatmulQ q seq
  | .gemvMem q seq, _ => h.execGemvMem q seq
  | .memRowop q seq, _ => h.execMemRowop q seq
  | .memEw q seq, _ => h.execMemEw q seq
  | .memNorm q seq, _ => h.execMemNorm q seq
  | .ewChain q seq, _ => h.execEwChain q seq
  | .reduce q seq, _ => h.execReduce q seq
  | .norm q seq, _ => h.execNorm q seq
  | .copy q seq, _ => h.execCopy q seq
  | .permute q seq, _ => h.execPermute q seq
  | .gather q seq, _ => h.execGather q seq
  | .scatterAdd q seq, _ => h.execScatterAdd q seq
  | .hostWrite q seq, _ => h.execHostWrite q seq
  | .hostRead q seq, _ => h.execHostRead q seq
  | .sporeWrite q seq, _ => h.execSporeWrite q seq
  | .collective q seq others agree, _ => h.execCollective q seq others agree
  | .flagSet q seq, _ => h.execFlagSet q seq
  | .flagWait q, _ => h.execFlagWait q
  | .barrier q seq, _ => h.execBarrier q seq
  | .scfg su ctx mid c, _ => h.execScfg su ctx mid c
  | .sld gpc ctx mid umask c, _ => h.execSld gpc ctx mid umask c
  | .slut su ctx mid payload, _ => h.execSlut su ctx mid payload
  | .smac su ctx nrows w abase, _ => h.execSmac su ctx nrows w abase
  | .sfet su ctx status nent, _ => h.execSfet su ctx status nent
  | .scpy su ctx d x, _ => h.execScpy su ctx d x
  | .sini su ctx d, _ => h.execSini su ctx d
  | .slog su ctx fn d x y, _ => h.execSlog su ctx fn d x y
  | .selt su ctx op d x y, _ => h.execSelt su ctx op d x y
  | .snrm su ctx x cFirst cLast, _ => h.execSnrm su ctx x cFirst cLast
  | .sbrd ch ctx pcsel umask reps f, _ => h.execSbrd ch ctx pcsel umask reps f
  | .heldCommandApply su, _ => h.execHeldCommandApply su
  | .sorusTokenGrant su, _ => h.execSorusTokenGrant su
  | .sorusParityRerun su, _ => h.execSorusParityRerun su
  | .pairRefresh su act, _ => h.execPairRefresh su act
  | .ordinaryAccessServe su arrived, _ => h.execOrdinaryAccessServe su arrived
  | .mma c o, _ => h.execMma c o
  | .accClose c acc, _ => h.execAccClose c acc
  | .drain c o, _ => h.execDrain c o
  | .vchain c o, _ => h.execVchain c o
  | .coreReduce c o, _ => h.execCoreReduce c o
  | .tload c t addr, _ => h.execTload c t addr
  | .tstore c t addr, _ => h.execTstore c t addr
  | .vload c v addr, _ => h.execVload c v addr
  | .vstore c v addr, _ => h.execVstore c v addr
  | .coreFault c kind, _ => h.execCoreFault c kind
  | .claimTicket q seq who serial, _ => h.execClaimTicket q seq who serial
  | .commitRequest q seq who ticket epoch, _ => h.execCommitRequest q seq who ticket epoch
  | .commitDone q seq who ticket, _ => h.execCommitDone q seq who ticket
  | .ticketHoldTimeout q seq who at_, _ => h.execTicketHoldTimeout q seq who at_
  | .doorbellTail by_ q v, _ => h.execDoorbellTail by_ q v
  | .cqHeadWrite by_ q v, _ => h.execCqHeadWrite by_ q v
  | .recordIssue q, _ => h.execRecordIssue q
  | .recordStart q seq, _ => h.execRecordStart q seq
  | .epilogue q seq n, _ => h.execEpilogue q seq n
  | .wideningRerun q seq, _ => h.execWideningRerun q seq
  | .recordComplete q seq, _ => h.execRecordComplete q seq
  | .flagPageSet by_ ctx n, _ => h.execFlagPageSet by_ ctx n
  | .flagPageClear by_ ctx n, _ => h.execFlagPageClear by_ ctx n
  | .setMask by_ ctx slot mask, _ => h.execSetMask by_ ctx slot mask
  | .clearMask by_ ctx slot mask, _ => h.execClearMask by_ ctx slot mask
  | .flagWaitTimeout q at_, _ => h.execFlagWaitTimeout q at_
  | .flagMirrorWrite block, _ => h.execFlagMirrorWrite block
  | .barrierArrival b node remote, _ => h.execBarrierArrival b node remote
  | .barrierForward b node, _ => h.execBarrierForward b node
  | .barrierRelease b gen, _ => h.execBarrierRelease b gen
  | .deadlockDetected sc at_, _ => h.execDeadlockDetected sc at_
  | .memrd p hpa, _ => h.execMemrd p hpa
  | .memwr p hpa line poison, _ => h.execMemwr p hpa line poison
  | .memwrptl p hpa line be poison, _ => h.execMemwrptl p hpa line be poison
  | .meminv p hpa line, _ => h.execMeminv p hpa line
  | .bucketLeak st at_, _ => h.execBucketLeak st at_
  | .logNvmCopy at_, _ => h.execLogNvmCopy at_
  | .ledgerNvmCopy at_, _ => h.execLedgerNvmCopy at_
  | .commandParityError gpc cmd at_, _ => h.execCommandParityError gpc cmd at_
  | .autoColumnRepair bank column at_, _ => h.execAutoColumnRepair bank column at_
  | .hdmDecoderCommit p c, _ => h.execHdmDecoderCommit p c
  | .hostLinkUp p width rate64, _ => h.execHostLinkUp p width rate64
  | .hostLinkRetrain p, _ => h.execHostLinkRetrain p
  | .hostLinkLost p, _ => h.execHostLinkLost p
  | .portReset p, _ => h.execPortReset p
  | .hostAckReadComplete q seq at_, _ => h.execHostAckReadComplete q seq at_
  | .hostReadCompletion q seq res, _ => h.execHostReadCompletion q seq res
  | .hostCompletionTimeout q seq, _ => h.execHostCompletionTimeout q seq
  | .portFenceSet p, _ => h.execPortFenceSet p
  | .portFenceClear p, _ => h.execPortFenceClear p
  | .evlogAckWrite by_ v, _ => h.execEvlogAckWrite by_ v
  | .registerWrite by_ off size v, _ => h.execRegisterWrite by_ off size v
  | .warmModuleReset p key, _ => h.execWarmModuleReset p key
  | .frondReset by_ f key bistOk, _ => h.execFrondReset by_ f key bistOk
  | .contextReset p ctx key, _ => h.execContextReset p ctx key
  | .hostCoreRun p n w, _ => h.execHostCoreRun p n w
  | .hostCoreStop p n w, _ => h.execHostCoreStop p n w
  | .hostCoreReset p n w, _ => h.execHostCoreReset p n w
  | .hostCoreAccess n addr size kind, _ => h.execHostCoreAccess n addr size kind
  | .cboClean n addr, _ => h.execCboClean n addr
  | .cboFlush n addr, _ => h.execCboFlush n addr
  | .cboInval n addr, _ => h.execCboInval n addr
  | .ownershipWindowClose at_, _ => h.execOwnershipWindowClose at_
  | .leaseExpiry at_, _ => h.execLeaseExpiry at_
  | .quantaRequest holder m, _ => h.execQuantaRequest holder m
  | .quantaGrant at_, _ => h.execQuantaGrant at_
  | .coreLend c, _ => h.execCoreLend c
  | .coreRegrant c, _ => h.execCoreRegrant c
  | .arbiterLedgerCheck counts, _ => h.execArbiterLedgerCheck counts
  | .thermalSample at_ samples input, _ => h.execThermalSample at_ samples input
  | .throttleStepDown at_ cause, _ => h.execThrottleStepDown at_ cause
  | .throttleStepUp at_, _ => h.execThrottleStepUp at_
  | .rootRetarget, _ => h.execRootRetarget
  | .refclkLost at_, _ => h.execRefclkLost at_
  | .refclkWarning ppm, _ => h.execRefclkWarning ppm
  | .inputPowerLost at_, _ => h.execInputPowerLost at_
  | .inputOvervoltage at_ mv, _ => h.execInputOvervoltage at_ mv
  | .inputOvercurrent at_ ma, _ => h.execInputOvercurrent at_ ma
  | .inputVoltageWarning at_ mv, _ => h.execInputVoltageWarning at_ mv
  | .packReserveReached e, _ => h.execPackReserveReached e
  | .packSelfDisconnect e, _ => h.execPackSelfDisconnect e
  | .retentionExit nsHeld chargeUsed powerMw, _ => h.execRetentionExit nsHeld chargeUsed powerMw
  | .startUp r, _ => h.execStartUp r
  | .readyReached at_, _ => h.execReadyReached at_
  | .fwTrialFallback at_ watchdog, _ => h.execFwTrialFallback at_ watchdog
  | .packPoll at_ reading, _ => h.execPackPoll at_ reading
  | .packDetect reading reply, _ => h.execPackDetect reading reply
  | .packRemoved, _ => h.execPackRemoved
  | .packLedgerCheck storedNow, _ => h.execPackLedgerCheck storedNow
  | .frontPathLost f, _ => h.execFrontPathLost f
  | .frondPathReturn f, _ => h.execFrondPathReturn f
  | .fabricLinkRetrain l, _ => h.execFabricLinkRetrain l
  | .fabricLinkFence l, _ => h.execFabricLinkFence l
  | .fabricRouteRelease source granule, _ => h.execFabricRouteRelease source granule
  | .rhizoidFlitReceive n f, _ => h.execRhizoidFlitReceive n f
  | .rhizoidRetrainDone n freeD freeC, _ => h.execRhizoidRetrainDone n freeD freeC
  | .rhizoidRetrainTimeout n at_, _ => h.execRhizoidRetrainTimeout n at_
  | .rhizoidTrainRetry n at_ serial, _ => h.execRhizoidTrainRetry n at_ serial
  | .groupJoinMessage msg, _ => h.execGroupJoinMessage msg
  | .memberUnreachable m at_, _ => h.execMemberUnreachable m at_
  | .groupBreak, _ => h.execGroupBreak
  | .collectiveCancel q members k, _ => h.execCollectiveCancel q members k
  | .sbIdent, _ => h.execSbIdent
  | .sbState, _ => h.execSbState
  | .sbThermal, _ => h.execSbThermal
  | .sbPower, _ => h.execSbPower
  | .sbShutdown, _ => h.execSbShutdown
  | .sbClear, _ => h.execSbClear
  | .sbPack, _ => h.execSbPack
  | .sbClaimPrio w, _ => h.execSbClaimPrio w
  | .sbFwRecover slot off data, _ => h.execSbFwRecover slot off data
  | .sbAlertResponse, _ => h.execSbAlertResponse
  | .bypass die tdi, _ => h.execBypass die tdi
  | .idcode die, _ => h.execIdcode die
  | .samplePreload die preload, _ => h.execSamplePreload die preload
  | .extest die, _ => h.execExtest die
  | .busMasteringChange p on, _ => h.execBusMasteringChange p on
  | .rhizoidPortTrained n serial, _ => h.execRhizoidPortTrained n serial
  | .rhizoidLinkRetrain n, _ => h.execRhizoidLinkRetrain n

/-- What `Keeps` names, but the layout. -/
def KeepsForm (s t : State) : Prop := s.time.now ≤ t.time.now ∧ t.pending = s.pending ∧ (s.mem.wf = true → t.mem.wf = true)

namespace KeepsForm
variable {s t u : State}

theorem of_keeps (h : Keeps s t) : KeepsForm s t :=
  have ⟨ht, _, hp, hm⟩ := h
  ⟨ht, hp, hm⟩

theorem trans (h : KeepsForm s t) (h' : KeepsForm t u) : KeepsForm s u :=
  have ⟨ht, hp, hm⟩ := h
  have ⟨ht', hp', hm'⟩ := h'
  ⟨ht.trans ht', hp'.trans hp, hm' ∘ hm⟩

/-- R46 to R48: applying a layout makes content undefined in the canonical form. -/
theorem loadLayout (h : KeepsForm s t) (l : Layout) : KeepsForm s (t.loadLayout l) :=
  h.trans ⟨le_rfl, rfl, fun w => DMem.wf_undefine w _ _⟩

/-- R45 to R48: `SET_LAYOUT` lets the work in progress end, and applies the layout where its copy is written. -/
theorem execSetLayout (s : State) (mb : Fin 32) (nvmOk : Bool) (t : State) (h : Machine.execSetLayout mb nvmOk s = .next t) :
    KeepsForm s t := by
  cases h
  have hs : KeepsForm s s := of_keeps (.refl s)
  have hq : KeepsForm s s.quiesce := of_keeps ((Keeps.refl s).work (Work.refl s).quiesce)
  exact molian_meets (fun _ _ h k => h.trans (of_keeps k)) hs fun _ =>
    .ite .fail (.ite .fail (.ite (.done hs) (.ite (.done (hq.loadLayout _)) (.done hq))))

/-- Every command keeps the timebase rising, the queue and the form of device memory. -/
theorem exec {s t : State} (c : Instr) (h : Machine.exec c s = .next t) : KeepsForm s t := by
  by_cases hc : ∃ mb ok, c = .setLayout mb ok
  · obtain ⟨mb, ok, rfl⟩ := hc
    exact execSetLayout s mb ok t h
  · exact of_keeps ((Keeps.refl s).exec c (fun mb ok e => hc ⟨mb, ok, e⟩) t h)

end KeepsForm

/-- Settles O6: the module's time alone moves on an empty queue, and every command keeps the form (`KeepsForm.exec`). -/
theorem everyStepKeepsMemoryForm : Obligations.EveryStepKeepsMemoryForm := by
  intro s t h
  unfold step at h
  split at h
  · cases h
    exact id
  · have ⟨_, _, hm⟩ := KeepsForm.exec _ h
    exact hm

end Sys2Proof.Machine
end

section
/-! SUPPORT. The timebase (R26, R326): what an idle step and the instant of a command do to it. -/

namespace Sys2Proof.Machine

set_option Elab.async false

open Sys2Proof

theorem Phase.powered_of_ne {p : Phase} (h1 : p ≠ .off) (h2 : p ≠ .retention) : p.powered = true := by
  cases p
  · exact absurd rfl h1
  · rfl
  · rfl
  · exact absurd rfl h2
  all_goals rfl

theorem Phase.powered_eq_false {p : Phase} (h : p = .off ∨ p = .retention) : p.powered = false := by
  rcases h with rfl | rfl <;> rfl

/-- R26: the instant of a command is the timebase of a powered module, unless that is past it. -/
theorem State.advance_powered {s : State} (h : s.phase.powered = true) (at_ : Nat) :
    s.advance at_ = { s with time := { s.time with now := Nat.max s.time.now at_ } } := by
  simp [State.advance, h]

/-- R326: without power no instant moves the timebase. -/
theorem State.advance_unpowered {s : State} (h : s.phase.powered = false) (at_ : Nat) : s.advance at_ = s := by
  simp [State.advance, h]

/-- R26: one LCLK at 8.0 GHz is 1 ns. -/
theorem State.tick_root_zero {s : State} (h : s.phase.powered = true) (hr : s.time.root = 0) :
    s.tick = { s with time := { s.time with now := s.time.now + 1, frac := 0 } } := by
  simp [State.tick, h, hr]

theorem State.tick_unpowered {s : State} (h : s.phase.powered = false) : s.tick = s := by
  simp [State.tick, h]

/-- Settles O2: a step on an empty queue is `State.tick`. -/
theorem idleStepIsOneLclk : Obligations.IdleStepIsOneLclk := by
  intro s hp
  have hs : step s = .next s.tick := by simp only [step, hp]
  rw [hs]
  refine ⟨fun h1 h2 hr => ?_, fun h => ?_⟩
  · rw [State.tick_root_zero (Phase.powered_of_ne h1 h2) hr]
  · rw [State.tick_unpowered (Phase.powered_eq_false h)]

/-- Settles O3: every command keeps the timebase rising (`KeepsForm.exec`); the copies into NVM go on from their instant. -/
theorem timebaseNeverGoesBack : Obligations.TimebaseNeverGoesBack := by
  refine ⟨fun c s t h => ?_, fun s at_ => ⟨fun h1 h2 => ?_, fun h => ?_, ?_⟩⟩
  · obtain ⟨hnow, _, _⟩ := KeepsForm.exec c h
    exact hnow
  · exact State.advance_powered (Phase.powered_of_ne h1 h2) at_
  · exact State.advance_unpowered (Phase.powered_eq_false h) at_
  · rintro c t (rfl | rfl) h <;> cases h <;> split <;> rfl

end Sys2Proof.Machine
end

section
/-! SUPPORT. Statements of the thermal manager, of a bank pair and of the host transfers that some state does not meet: each with the state. -/

namespace Sys2Proof.Machine

set_option Elab.async false

open Sys2Proof

/-! ## The reference clock of a module without power (R24) -/

/-- R24: a module without power logs no deviation of its reference clock. -/
theorem refclkWarning_unpowered {s : State} (h : s.phase.powered = false) (ppm : Int) : exec (.refclkWarning ppm) s = .next s := by
  show Host.Outcome.next (if s.phase.powered ∧ 300 < ppm.natAbs ∧ ppm.natAbs ≤ 1000 then _ else s) = _
  rw [if_neg (by simp [h])]

/-- The module of a cold power-on with its power gone. -/
def State.unpowered : State := { State.reset with phase := .off }

/-- Refutes O54: its last clause asks for a log entry in every phase, and `State.unpowered` writes none for 400 ppm. -/
theorem not_thermalAndClocks : ¬ Obligations.ThermalAndClocks := by
  intro h
  obtain ⟨-, -, -, -, -, hwarn⟩ := h State.unpowered 0
  obtain ⟨t, ht, hseq, -⟩ := hwarn 400 (by decide) (by decide)
  rw [refclkWarning_unpowered rfl] at ht
  cases ht
  exact absurd hseq (Nat.ne_of_lt (Nat.lt_succ_self _))

/-! ## A token that a request waits for (R299, R300) -/

theorem State.takeToken_todo (s : State) (su : Nat) : ((s.takeToken su).pair su).todo = (s.pair su).todo := by
  unfold State.takeToken
  dsimp only
  split
  · rfl
  · show ((s.setPair su _).pair su).todo = _
    rw [State.pair_setPair]

/-- R86: a unit for which no iterations wait has nothing to go on with. -/
theorem State.resume_of_todo_nil {s : State} {su : Nat} (h : (s.pair su).todo = []) : s.resume su = s := by
  simp [State.resume, h]

/-- R88, R300: a unit to which a command may be issued takes a token that is free, and no more. -/
theorem sorusTokenGrant_of_canIssue {s : State} {su : Nat} (hi : s.canIssue su = true) (hf : s.tokenFree su = true) :
    exec (.sorusTokenGrant su) s = .next (s.takeToken su) := by
  simp only [State.canIssue, Bool.and_eq_true, List.isEmpty_iff] at hi
  obtain ⟨hmay, htodo⟩ := hi
  show Host.Outcome.next (if _ then State.resume (if s.tokenFree su then _ else _) su else s) = _
  rw [if_pos (by simpa [Bool.and_eq_true] using hmay), if_pos hf, State.resume_of_todo_nil ((s.takeToken_todo su).trans htodo)]

/-- The module after reset, with one request for a token at the arbiter. -/
def State.tokenAsked : State := { State.reset with power := { waiting := [{ holder := .tokens, quanta := 1, since := 0 }] } }

/-- Refutes O41: its clause on tokens leaves the waiting requests as they are, but a token granted at `State.tokenAsked` serves one. -/
theorem not_sorusControl : ¬ Obligations.SorusControl := by
  intro h
  obtain ⟨-, h⟩ := h
  obtain ⟨hgrant, -⟩ := h State.tokenAsked 0
  have hi : State.tokenAsked.canIssue 0 = true := by decide +kernel
  have hf : State.tokenAsked.tokenFree 0 = true := by decide +kernel
  obtain ⟨t, ht, -, hpower, -⟩ := hgrant hi hf rfl
  rw [sorusTokenGrant_of_canIssue hi hf] at ht
  cases ht
  exact absurd (congrArg Power.waiting hpower) (by decide +kernel)

/-! ## A transfer whose `VARIANT` names no port (R142, R179) -/

/-- The record of a `HOST_READ` of one byte, by its `SPORE_EN`, with `VARIANT` 4, whose one ticket core 0 has claimed. -/
def Rec.farRead : Rec :=
  { q := 0, seq := 0, ctx := 0, raw := BitVec.ofNat 1024 (0x35 + 4 * 2 ^ 8 + 2 ^ 12), started := true
    tickets := { total := 1, tab := [(0, { st := .claimed (.core 0) 0 })] } }

/-- The module after reset with that record in flight; its table of ports lists a number 4, whose link is up, and no other. -/
def State.farPort : State := { State.reset with ports := [(4, { linkUp := true })], recs := [Rec.farRead] }

/-- R255: the read request of the ticket goes to port 0, whose link is down. -/
theorem State.farPort_hostRead : ∃ t, exec (.hostRead 0 0) State.farPort = .next t ∧ t.out = [] :=
  ⟨_, rfl, by decide +kernel⟩

/-- Refutes O30: its clause on `HOST_READ` looks at the link of port `VARIANT`, but asks for requests on port `VARIANT` mod 4; at
`State.farPort` these are 4, whose link is up, and 0. -/
theorem not_outwardRecordsDoTheirWork : ¬ Obligations.OutwardRecordsDoTheirWork := by
  intro h
  obtain ⟨-, hread, -⟩ := h State.farPort 0 0 Rec.farRead
  have hruns : Runs State.farPort 0 0 0x35 Rec.farRead := by
    refine ⟨?_, ?_, rfl, rfl, rfl⟩ <;> decide +kernel
  obtain ⟨hup, -⟩ := hread hruns (by decide +kernel)
  obtain ⟨t, ht, -, -, -, hasks⟩ := hup (by decide +kernel)
  obtain ⟨t', ht', hout⟩ := State.farPort_hostRead
  obtain rfl : t' = t := by
    rw [ht'] at ht
    exact Host.Outcome.next.inj ht
  have hsent := hasks rfl (by decide +kernel) (by decide +kernel) 0 (.core 0) 0 (by decide +kernel) (by decide +kernel) (0, 1)
    (by decide +kernel)
  rw [hout] at hsent
  exact absurd hsent List.not_mem_nil

end Sys2Proof.Machine
end

section
/-! SUPPORT. Device memory and records in flight: what a store leaves in the other columns, what reads leave of the module, what replacing a
record leaves of the others. -/

namespace Sys2Proof.Machine

set_option Elab.async false

open Sys2Proof

/-! ## Columns that are not stored to -/

/-- A store of one column leaves the cells of the others. -/
theorem storeBytes_filter_ne (keep : Bool) (l : List Host.Cell) {col k : Nat} (d : BitVec 256) (h : k ≠ col) :
    (storeBytes keep l col d).filter (fun c => c.1 / 32 == k) = l.filter fun c => c.1 / 32 == k := by
  have hmid : (colCells keep col d).filter (fun c => c.1 / 32 == k) = [] := List.filter_eq_nil_iff.2 fun c hc => by
    obtain ⟨hlo, hhi, -⟩ := colCells_mem hc
    simp only [beq_iff_eq]; omega
  have cut : ∀ p : Host.Cell → Bool, (∀ c : Host.Cell, c.1 / 32 = k → p c = true) →
      (l.filter p).filter (fun c => c.1 / 32 == k) = l.filter fun c => c.1 / 32 == k := fun p hp => by
    rw [List.filter_filter]
    exact List.filter_congr fun c _ => by by_cases hc : c.1 / 32 = k <;> simp [hc, hp]
  have gone : ∀ p : Host.Cell → Bool, (∀ c : Host.Cell, c.1 / 32 = k → p c = false) →
      (l.filter p).filter (fun c => c.1 / 32 == k) = [] := fun p hp => by
    rw [List.filter_filter]
    exact List.filter_eq_nil_iff.2 fun c _ => by by_cases hc : c.1 / 32 = k <;> simp [hc, hp]
  unfold storeBytes
  rw [List.filter_append, List.filter_append, hmid, List.append_nil]
  rcases Nat.lt_or_gt_of_ne h with hlt | hgt
  · rw [cut _ fun c hc => by simp only [decide_eq_true_eq]; omega, gone _ fun c hc => by simp only [decide_eq_false_iff_not]; omega,
      List.append_nil]
  · rw [gone _ fun c hc => by simp only [decide_eq_false_iff_not]; omega, cut _ fun c hc => by simp only [decide_eq_true_eq]; omega,
      List.nil_append]

theorem DMem.data_store_ne (m : DMem) {col k : Nat} (d : BitVec 256) (x : BitVec 48) (h : k ≠ col) : (m.store col d x).data k = m.data k := by
  have hc : (m.store col d x).cells k = m.cells k := storeBytes_filter_ne _ m.bytes d h
  unfold DMem.data
  rw [hc]
  rfl

theorem DMem.chk_store_ne (m : DMem) {col k : Nat} (d : BitVec 256) (x : BitVec 48) (h : k ≠ col) : (m.store col d x).chk k = m.chk k :=
  Tbl.get_putKeep_ne _ _ _ _ _ h

/-! ## Columns that are read (R278 to R284) -/

theorem Notice.noteCorrected {s t : State} (h : Notice s t) (req : Requester) (col : Nat) (o : ReadOut) : Notice s (t.noteCorrected req col o) :=
  (h.err _ _ _ _ _).corrected _

/-- `t` is `s` after reads of columns: but for the correction of those, only what reports errors has changed. -/
def Reads (s t : State) (cols : List Nat) : Prop :=
  (∃ m ps is ev ig o, t = { s with mem := m, ports := ps, intrs := is, evlog := ev, integ := ig, out := o }) ∧ OnlyCols s t cols

namespace Reads
variable {s t u : State} {cols cols' : List Nat}

theorem of_notice (h : Notice s t) (cols : List Nat) : Reads s t cols := by
  obtain ⟨_, _, _, _, _, rfl⟩ := h
  exact ⟨⟨_, _, _, _, _, _, rfl⟩, fun _ _ => ⟨rfl, rfl⟩⟩

theorem trans (h : Reads s t cols) (k : Reads t u cols') : Reads s u (cols ++ cols') := by
  obtain ⟨⟨_, _, _, _, _, _, rfl⟩, h⟩ := h
  obtain ⟨⟨_, _, _, _, _, _, rfl⟩, k⟩ := k
  refine ⟨⟨_, _, _, _, _, _, rfl⟩, fun col hc => ?_⟩
  rw [List.mem_append, not_or] at hc
  obtain ⟨hd, hk⟩ := h col hc.1
  obtain ⟨kd, kk⟩ := k col hc.2
  exact ⟨kd.trans hd, kk.trans hk⟩

theorem correct (s : State) (req : Requester) (col : Nat) (o : ReadOut) (d : BitVec 256) : Reads s (s.correct req col o d) [col] := by
  have hstore : Reads s { s with mem := s.mem.store col d (freshCheck d false) } [col] :=
    ⟨⟨_, _, _, _, _, _, rfl⟩, fun _ hc =>
      have hne := fun e => hc (List.mem_singleton.2 e)
      ⟨DMem.data_store_ne _ _ _ hne, DMem.chk_store_ne _ _ _ hne⟩⟩
  exact hstore.trans (of_notice ((Notice.refl _).noteCorrected req col o) [])

theorem noteRead (s : State) (req : Requester) (col : Nat) : Reads s (s.noteRead req col) [col] := by
  unfold State.noteRead
  split
  · split
    · exact of_notice (.refl s) _
    · exact of_notice ((Notice.refl s).logBad _ _ _) _
    · exact of_notice ((Notice.refl s).logBad _ _ _) _
    · exact correct s req col _ _
  · exact of_notice (.refl s) _

theorem noteReads (s : State) (req : Requester) (cols : List Nat) : Reads s (s.noteReads req cols) cols := by
  induction cols generalizing s with
  | nil => exact of_notice (.refl s) _
  | cons c cols ih => exact (noteRead s req c).trans (ih _)

end Reads

/-! ## Records in flight -/

theorem State.findRec_key {s : State} {q : Nat} {seq : Word32} {r : Rec} (h : s.findRec q seq = some r) : r.q = q ∧ r.seq = seq := by
  simpa using List.find?_some h

/-- A change of the records in flight that keeps their queues and sequences. -/
theorem State.findRec_map (s : State) (f : Rec → Rec) (hf : ∀ x, (f x).q = x.q ∧ (f x).seq = x.seq) (q : Nat) (seq : Word32) :
    ({ s with recs := s.recs.map f } : State).findRec q seq = (s.findRec q seq).map f := by
  unfold State.findRec
  rw [List.find?_map]
  congr 2
  funext x
  simp [(hf x).1, (hf x).2]

theorem State.findRec_setRec (s : State) (r : Rec) (q : Nat) (seq : Word32) :
    (s.setRec r).findRec q seq = (s.findRec q seq).map fun x => if x.q = r.q ∧ x.seq = r.seq then r else x :=
  s.findRec_map _ (fun x => by split <;> simp_all) q seq

theorem State.findRec_setRec_same {s : State} {q : Nat} {seq : Word32} {x r : Rec} (h : s.findRec q seq = some x)
    (hr : r.q = q ∧ r.seq = seq) : (s.setRec r).findRec q seq = some r := by
  obtain ⟨rfl, rfl⟩ := hr
  rw [State.findRec_setRec, h, Option.map_some, if_pos (State.findRec_key h)]

theorem State.findRec_setRec_ne (s : State) {r : Rec} {q : Nat} {seq : Word32} (h : ¬ (q = r.q ∧ seq = r.seq)) :
    (s.setRec r).findRec q seq = s.findRec q seq := by
  rw [State.findRec_setRec]
  cases hf : s.findRec q seq with
  | none => rfl
  | some x =>
    obtain ⟨rfl, rfl⟩ := State.findRec_key hf
    rw [Option.map_some, if_neg h]

/-- Replacing a record after reads leaves what the work of a record leaves. -/
theorem Reads.setRec_workFrame {s t : State} {cols : List Nat} (h : Reads s t cols) {x r : Rec} (hx : x.q = r.q ∧ x.seq = r.seq) :
    WorkFrame s (t.setRec x) r := by
  obtain ⟨⟨_, _, _, _, _, _, rfl⟩, -⟩ := h
  refine ⟨⟨⟨rfl, rfl, rfl, rfl, rfl, rfl, rfl, rfl, rfl, rfl, rfl, rfl, rfl⟩, rfl, rfl, rfl, rfl, rfl, rfl, rfl, rfl, fun q seq hne => ?_⟩,
    rfl, rfl, rfl⟩
  rw [State.findRec_setRec_ne _ (by rwa [hx.1, hx.2])]
  rfl

end Sys2Proof.Machine
end

section
/-! SUPPORT. What the accesses and steps of bank pairs leave of the records (R59 to R101, R278 to R284): the records in flight, the queues, the
streams and the fronds. -/

namespace Sys2Proof.Machine

set_option Elab.async false

open Sys2Proof

/-- What `s` holds of records stands in `t`: the records in flight, the queues, the streams, the fronds. -/
structure Beside (s t : State) : Prop where
  recs : t.recs = s.recs
  queues : t.queues = s.queues
  streams : t.streams = s.streams
  fronds : t.fronds = s.fronds

namespace Beside
variable {s t u : State}

theorem refl (s : State) : Beside s s := ⟨rfl, rfl, rfl, rfl⟩

theorem trans (h : Beside s t) (k : Beside t u) : Beside s u :=
  ⟨k.recs.trans h.recs, k.queues.trans h.queues, k.streams.trans h.streams, k.fronds.trans h.fronds⟩

/-- An update of other fields. -/
theorem upd (h : Beside s t) (hr : u.recs = t.recs := by rfl) (hq : u.queues = t.queues := by rfl) (hs : u.streams = t.streams := by rfl)
    (hf : u.fronds = t.fronds := by rfl) : Beside s u := h.trans ⟨hr, hq, hs, hf⟩

theorem notice (h : Beside s t) (n : Notice t u) : Beside s u := by
  obtain ⟨_, _, _, _, _, rfl⟩ := n
  exact h.upd

theorem reads (h : Beside s t) {cols : List Nat} (k : Reads t u cols) : Beside s u := by
  obtain ⟨⟨_, _, _, _, _, _, rfl⟩, -⟩ := k
  exact h.upd

theorem ite {c : Prop} [Decidable c] {a b : State} (ha : Beside s a) (hb : Beside s b) : Beside s (if c then a else b) := by
  split <;> assumption

theorem foldl {α : Type} {f : State → α → State} (hf : ∀ t x, Beside s t → Beside s (f t x)) (l : List α) (h : Beside s t) :
    Beside s (l.foldl f t) :=
  List.foldlRecOn (motive := Beside s) l f h fun t ht x _ => hf t x ht

/-! ## Ordinary accesses -/

theorem writeFull (h : Beside s t) (req : Requester) (col : Nat) (d : BitVec 256) (p : Bool) : Beside s (t.writeFull req col d p) := by
  unfold State.writeFull
  dsimp only
  split
  · exact h.upd
  · exact h.upd.notice ((Notice.refl _).err _ _ _ _ _)

theorem writeMasked (h : Beside s t) (req : Requester) (col : Nat) (d : BitVec 256) (be : Nat) (p : Bool) :
    Beside s (t.writeMasked req col d be p) := by
  unfold State.writeMasked
  dsimp only
  split
  · exact h.upd
  · exact h.upd.notice ((Notice.refl _).err _ _ _ _ _)

theorem writeBytes (h : Beside s t) (req : Requester) (col : Nat) (d : BitVec 256) (be : Nat) (p : Bool) :
    Beside s (t.writeBytes req col d be p) := ite (ite (h.writeFull _ _ _ _) (ite h (h.writeMasked _ _ _ _ _))) h

theorem writePart (h : Beside s t) (req : Requester) (col : Nat) (d : BitVec 256) (be : Nat) (p : Bool) :
    Beside s (t.writePart req col d be p) := ite (h.writeMasked _ _ _ _ _) h

theorem writeHost (h : Beside s t) (a b : Nat) (l : BitVec 512) (be : Word64) (p : Bool) : Beside s (t.writeHost a b l be p) :=
  ite ((h.writeBytes _ _ _ _ _).writeBytes _ _ _ _ _) ((h.writePart _ _ _ _ _).writePart _ _ _ _ _)

theorem toHost (h : Beside s t) (p : Fin 4) (o : Out) : Beside s (t.toHost p o) := h.notice ((Notice.refl t).toHost p o)

theorem serveOne (h : Beside s t) (a : OrdAccess) : Beside s (t.serveOne a) := by
  cases a with
  | read req col => exact (h.reads (Reads.noteRead t req col)).upd
  | write => exact ite (h.writeFull _ _ _ _) h
  | lineRead p a b => exact (h.reads (Reads.noteReads t .host [a, b])).toHost _ _
  | lineWrite => exact (h.writeHost _ _ _ _ _).toHost _ _

theorem setChan (h : Beside s t) (ch : Nat) (c : Chan) : Beside s (t.setChan ch c) := h.upd

theorem setPair (h : Beside s t) (su : Nat) (p : Pair) : Beside s (t.setPair su p) := h.upd

theorem served (h : Beside s t) (su : Nat) (a : OrdAccess) (rest : List OrdAccess) : Beside s (t.served su a rest) :=
  ite (((h.setChan _ _).setPair _ _).serveOne _) ((h.setChan _ _).setPair _ _)

theorem serve (su : Nat) (fuel cols : Nat) (h : Beside s t) : Beside s (t.serve su fuel cols) := by
  induction fuel generalizing t cols with
  | zero => exact h
  | succ n ih =>
    unfold State.serve
    split
    · exact h
    · exact ite (ih _ (h.served _ _ _)) h

theorem serveBefore (su k fuel : Nat) (h : Beside s t) : Beside s (t.serveBefore su k fuel) := by
  induction fuel generalizing t with
  | zero => exact h
  | succ n ih =>
    unfold State.serveBefore
    split
    · exact h
    · exact ite (ih (h.served _ _ _)) h

theorem refreshFirst (h : Beside s t) (su : Nat) : Beside s (t.refreshFirst su) := ite (h.setPair _ _) h

theorem boundary (h : Beside s t) (su : Nat) : Beside s (t.boundary su) := (h.refreshFirst su).serve su _ _

theorem serveNow (h : Beside s t) (su : Nat) : Beside s (t.serveNow su) :=
  ite h (ite ((h.boundary su).setPair _ _) ((h.refreshFirst su).serve su _ _))

/-! ## Requests on the fabric -/

theorem arrive (h : Beside s t) (a : OrdAccess) : Beside s (t.arrive a) := by
  unfold State.arrive
  split
  · exact (h.setPair _ _).serveNow _
  · exact h

theorem dispatch (h : Beside s t) (src : Nat) (a : OrdAccess) : Beside s (t.dispatch src a) := by
  unfold State.dispatch
  split
  · exact ite h.upd h.upd
  · exact h.arrive _

theorem send (h : Beside s t) (src : Nat) (a : OrdAccess) : Beside s (t.send src a) := ite h.upd (h.dispatch _ _)

theorem deliver (h : Beside s t) (f : Nat × OrdAccess → Bool) : Beside s (t.deliver f) := foldl (fun _ _ h => h.arrive _) _ h.upd

/-! ## Steps of the units -/

theorem takeToken (h : Beside s t) (su : Nat) : Beside s (t.takeToken su) := ite h h.upd

theorem returnToken (h : Beside s t) (su : Nat) : Beside s (t.returnToken su) := ite h.upd h

theorem putStep (h : Beside s t) (su : Nat) (st : UStep) (r : StepRes) : Beside s (t.putStep su st r) :=
  foldl (fun _ _ h => h.writeFull _ _ _ _) _ (h.setPair _ _)

theorem endStep (h : Beside s t) (su : Nat) : Beside s (t.endStep su) := h.setPair _ _

theorem logBad (h : Beside s t) (req : Requester) (col : Nat) (p : Bool) : Beside s (t.logBad req col p) :=
  h.notice ((Notice.refl t).logBad _ _ _)

theorem logPoisoned (h : Beside s t) (view : Nat → RawCol) (cols : List Nat) : Beside s (t.logPoisoned view cols) :=
  foldl (fun _ _ h => ite (h.logBad _ _ _) h) _ h

theorem logUncorrectable (h : Beside s t) (view : Nat → RawCol) (cols : List Nat) : Beside s (t.logUncorrectable view cols) :=
  foldl (fun _ _ h => ite (h.logBad _ _ _) h) _ h

theorem stepOnce (h : Beside s t) (su : Nat) (view : State → Nat → RawCol) (used : Option Nat) (carry : Bool) (st : UStep)
    (rest : List UStep) : Beside s (t.stepOnce su view used carry st rest).1 := by
  have hrun := fun cols r => (h.logPoisoned (view t) cols).putStep su st r
  unfold State.stepOnce
  dsimp only
  split
  · exact (hrun _ _).endStep _
  · split
    · exact ((hrun _ _).logUncorrectable _ _).endStep _
    · exact (hrun _ _).setPair _ _

theorem correctRead (h : Beside s t) (c : Nat) (e : RawCol) (o : ReadOut) (d : BitVec 256) : Beside s (t.correctRead c e o d) :=
  ite (h.reads (Reads.correct t _ _ _ _)) (h.notice ((Notice.refl t).noteCorrected _ _ _))

theorem correctRows (su : Nat) (l : List Nat) (rows : List (Nat × RawCol)) (h : Beside s t) : Beside s (correctRows su t l rows).1 := by
  induction l generalizing t rows with
  | nil => exact h
  | cons c l ih =>
    unfold Machine.correctRows
    split
    · exact ih _ h
    · split
      · exact ih _ (h.logBad _ _ _)
      · exact ih _ h
      · exact ih _ (h.correctRead _ _ _ _)

theorem rerunStep (h : Beside s t) (su : Nat) (x : Rerun) (st : UStep) : Beside s (t.rerunStep su x st).1 := by
  have hrows := correctRows su x.bad x.rows h
  unfold State.rerunStep
  dsimp only
  split
  · exact (hrows.putStep _ _ _).endStep _
  · exact (hrows.setPair _ _).endStep _

theorem offerToken (h : Beside s t) (gpc : Nat) : Beside s (t.offerToken gpc) := ite h (by split; exacts [h.takeToken _, h])

theorem endCmd (h : Beside s t) (su : Nat) : Beside s (t.endCmd su) := (((h.setPair _ _).returnToken _).offerToken _).serveNow _

theorem park (h : Beside s t) (su : Nat) (rest : List UStep) : Beside s (t.park su rest) := (h.setPair _ _).endCmd _

theorem runSteps (h : Beside s t) (su : Nat) (view : State → Nat → RawCol) (now : Bool) (used : Option Nat) (carry : Bool)
    (l : List UStep) : Beside s (t.runSteps su view now used carry l) := by
  induction l generalizing t used carry with
  | nil => exact h.endCmd _
  | cons st rest ih =>
    have hstep := h.stepOnce su view used carry st rest
    unfold State.runSteps
    dsimp only
    split
    · next y _ =>
      have hrerun := hstep.rerunStep su y st
      exact ite (ite (hrerun.park _ _) (ih (ite hrerun (hrerun.boundary _)) _ _)) hstep
    · exact ite (hstep.park _ _) (ih (ite hstep (hstep.boundary _)) _ _)

theorem finishRerun (h : Beside s t) (su : Nat) : Beside s (t.finishRerun su) := by
  unfold State.finishRerun State.goOn
  dsimp only
  split
  · split
    · have hrerun := fun x st => h.rerunStep su x st
      exact ite ((hrerun _ _).park _ _) ((ite (hrerun _ _) ((hrerun _ _).boundary _)).runSteps _ _ _ _ _ _)
    · exact h.endCmd _
  · exact h

/-! ## Accesses that come through -/

theorem reachPair (h : Beside s t) (k su : Nat) : Beside s (State.reachPair k t su) :=
  have hbefore := fun fuel => ((h.finishRerun su).refreshFirst su).serveBefore su k fuel
  ite ((hbefore _).setPair _ _) (hbefore _)

theorem reach (h : Beside s t) (src k : Nat) (cols : List Nat) : Beside s (t.reach src k cols) :=
  foldl (fun _ _ h => h.reachPair _ _) _ (h.deliver _)

end Beside

/-- The accesses of a record leave the layout, and with it the columns of every operand. -/
theorem State.reachRec_lay (s : State) (r : Rec) (cols : List Nat) : (s.reachRec r cols).lay = s.lay := by
  have h := ((Work.refl s).reachRec r cols).1
  simp only [frozen, Prod.mk.injEq] at h
  exact h.2.2.2.2.1

theorem State.findRec_reachRec (s : State) (r : Rec) (cols : List Nat) (q : Nat) (seq : Word32) :
    (s.reachRec r cols).findRec q seq = s.findRec q seq := by
  unfold State.findRec State.reachRec
  rw [((Beside.refl s).reach _ _ _).recs]

theorem State.sourceCols_reachRec (s : State) (r x : Rec) (cols : List Nat) : (s.reachRec r cols).sourceCols x = s.sourceCols x := by
  have key : ∀ t : State, t.lay = s.lay → t.sourceCols x = s.sourceCols x := fun t h => by
    unfold State.sourceCols State.descCols State.scaleCols State.colsOf
    rw [h]
  exact key _ (s.reachRec_lay r cols)

end Sys2Proof.Machine
end

section
/-! SUPPORT. The records whose work forms the outputs of their tickets (R152): what `State.formOuts` leaves, and the operations that end in
it. -/

namespace Sys2Proof.Machine

set_option Elab.async false

open Sys2Proof

/-- A record that runs and has its paths does its data effect, its reads come through. -/
theorem onData_of_runs {s : State} {q : Nat} {seq : Word32} {op : Nat} {r : Rec} (act : State → Rec → State) (h : Runs s q seq op r)
    (hp : s.pathsUp r = true) : onData q seq op s act = act (s.reachRec r (s.sourceCols r)) r := by
  obtain ⟨hfind, hop, hstarted, hwork, hpaused⟩ := h
  simp [onData, onRec, onBegun, hfind, hop, hstarted, hwork, hpaused, hp]

/-- A record's work is done in `t`, which its reads of columns have left as `u` but for their corrections. -/
def WorkedFrom (u t : State) (r : Rec) (cols : List Nat) : Prop := WorkDone t r ∧ WorkFrame u t r ∧ OnlyCols u t cols

/-- R152: to form the outputs of a record in flight is to do its work. -/
theorem State.formOuts_worked {u : State} {r : Rec} (h : u.findRec r.q r.seq = some r) (cols : List Nat) (d : Desc) (es : List OutElem)
    (sat : Nat) : WorkedFrom u (u.formOuts r cols d es sat) r cols := by
  have hreads := Reads.noteReads u .frond cols
  refine ⟨?_, hreads.setRec_workFrame ⟨rfl, rfl⟩, hreads.2⟩
  have hfind : (u.noteReads .frond cols).findRec r.q r.seq = some r := by
    obtain ⟨⟨_, _, _, _, _, _, hu⟩, -⟩ := hreads
    rw [hu]
    exact h
  exact ⟨_, State.findRec_setRec_same hfind ⟨rfl, rfl⟩, rfl, rfl, rfl, fun c hc => List.mem_append_left _ hc⟩

variable {u : State} {r : Rec} (h : u.findRec r.q r.seq = some r)
include h

theorem State.matmulWork_worked {d x w : Desc} (h0 : r.desc 0 = some d) (hx : r.actDesc = some x) (hw : r.desc 2 = some w) :
    WorkedFrom u (u.matmulWork r) r (u.sourceCols r) := by
  simpa only [State.matmulWork, h0, hx, hw] using State.formOuts_worked h _ _ _ _

theorem State.ewWork_worked {d x : Desc} (h0 : r.desc 0 = some d) (hx : r.desc 1 = some x) : WorkedFrom u (u.ewWork r) r (u.sourceCols r) := by
  simpa only [State.ewWork, h0, hx] using State.formOuts_worked h _ _ _ _

theorem State.reduceWork_worked {d x : Desc} (h0 : r.desc 0 = some d) (hx : r.desc 1 = some x) :
    WorkedFrom u (u.reduceWork r) r (u.sourceCols r) := by
  simpa only [State.reduceWork, h0, hx] using State.formOuts_worked h _ _ _ _

theorem State.normWork_worked {d x : Desc} (h0 : r.desc 0 = some d) (hx : r.desc 1 = some x) : WorkedFrom u (u.normWork r) r (u.sourceCols r) := by
  simpa only [State.normWork, h0, hx] using State.formOuts_worked h _ _ _ _

theorem State.moveWork_worked {d x : Desc} (h0 : r.desc 0 = some d) (hx : r.desc 1 = some x) : WorkedFrom u (u.moveWork r) r (u.sourceCols r) := by
  simpa only [State.moveWork, h0, hx] using State.formOuts_worked h _ _ _ _

end Sys2Proof.Machine
end

section
/-! SUPPORT. Tile records. -/

namespace Sys2Proof.Machine

set_option Elab.async false

open Sys2Proof

/-- A record that runs with its paths up does the work `act`, when that is done wherever the record is in flight. -/
theorem onData_worked {s : State} {q : Nat} {seq : Word32} {op : Nat} {r : Rec} {act : State → Rec → State} (h : Runs s q seq op r)
    (hp : s.pathsUp r = true)
    (hact : ∀ u : State, u.findRec r.q r.seq = some r → WorkedFrom u (act u r) r (u.sourceCols r)) :
    ∃ t, (.next (onData q seq op s act) : Host.Outcome State Fault Refusal) = .next t ∧ WorkedFrom (s.reachRec r (s.sourceCols r)) t r (s.sourceCols r) := by
  obtain ⟨hfind, -⟩ := id h
  obtain ⟨rfl, rfl⟩ := State.findRec_key hfind
  have hwork := hact (s.reachRec r (s.sourceCols r)) ((s.findRec_reachRec r _ _ _).trans hfind)
  rw [State.sourceCols_reachRec] at hwork
  exact ⟨_, congrArg _ (onData_of_runs act h hp), hwork⟩

/-- Settles O28: each of the nine records ends in `State.formOuts`, which does its work in the state that its reads come through to. -/
theorem tileRecordsDoTheirWork : Obligations.TileRecordsDoTheirWork := by
  intro s q seq r d x w h0
  refine ⟨fun hx hw => ⟨?_, ?_⟩, fun hx => ⟨?_, ?_, ?_, ?_, ?_, ?_, ?_⟩⟩ <;> intro hr hp
  case refine_1 => exact onData_worked hr hp fun _ h => State.matmulWork_worked h h0 hx hw
  case refine_2 => exact onData_worked hr hp fun _ h => State.matmulWork_worked h h0 hx hw
  case refine_3 => exact onData_worked hr hp fun _ h => State.ewWork_worked h h0 hx
  case refine_4 => exact onData_worked hr hp fun _ h => State.reduceWork_worked h h0 hx
  case refine_5 => exact onData_worked hr hp fun _ h => State.normWork_worked h h0 hx
  all_goals exact onData_worked hr hp fun _ h => State.moveWork_worked h h0 hx

end Sys2Proof.Machine
end

section
/-! SUPPORT. What completing a record and completing the requests that wait for it leave: flags, contexts, grants, units and mailboxes stand
beside the records; `Settles` says what `State.settle` leaves of records, completion rings and fronds (R159, R215, R340). -/

namespace Sys2Proof.Machine

set_option Elab.async false

open Sys2Proof

namespace Beside
variable {s t : State}

/-! ## Flags and contexts -/

theorem owe (h : Beside s t) (b : Nat) (o n : Word64) : Beside s (t.owe b o n) := by
  unfold State.owe
  split
  · exact h
  · exact ite h h.upd

theorem putBlock (h : Beside s t) (b : Nat) (n : Word64) : Beside s (t.putBlock b n) :=
  owe (h.upd (u := { t with flags := Tbl.put 0 t.flags b n })) _ _ _

theorem putFlags (h : Beside s t) (c : Nat) (v : Bool) (ns : List Nat) : Beside s (t.putFlags c v ns) :=
  foldl (fun _ _ h => by
    split
    · exact h.putBlock _ _
    · exact h) _ h

theorem stopCores (h : Beside s t) (c : Nat) : Beside s (t.stopCores c) := foldl (fun _ _ h => ite h.upd h) _ h

theorem talk {u : State} (h : Beside s t) (k : Talk t u) : Beside s u := by
  obtain ⟨_, _, _, _, _, rfl⟩ := k
  exact h.upd

theorem ev (h : Beside s t) (k st u a b c d e : Nat) : Beside s (t.ev k st u a b c d e) := h.notice ((Notice.refl t).ev _ _ _ _ _ _ _ _)

theorem reply (h : Beside s t) (mb : Fin 32) (st bl b : Nat) (cl : List Clamp) : Beside s (t.reply mb st bl b cl) :=
  h.talk ((Talk.refl t).reply _ _ _ _ _)

/-! ## Grants and units -/

theorem lower (h : Beside s t) (x : Holder) (k : Nat) : Beside s (t.lower x k) := by
  cases x <;> exact h.upd

theorem dropAsked (h : Beside s t) (x : Holder) : Beside s (t.dropAsked x) := h.upd

theorem setCore (h : Beside s t) (c : Nat) (v : Core) : Beside s (t.setCore c v) := h.upd

theorem setRPort (h : Beside s t) (n : Nat) (v : RPort) : Beside s (t.setRPort n v) := h.upd

theorem returnLevel (h : Beside s t) (c : Nat) : Beside s (t.returnLevel c) :=
  (((h.upd (u := t.endLien c)).lower _ _).dropAsked _).setCore _ _

theorem returnStack (h : Beside s t) (st : Nat) : Beside s (t.returnStack st) := ite h ((h.lower _ _).dropAsked _)

theorem returnTokens (h : Beside s t) (ch : Nat) : Beside s (t.returnTokens ch) := foldl (fun _ _ h => h.returnToken _) _ h

theorem dropSteps (h : Beside s t) (ch : Nat) : Beside s (t.dropSteps ch) := foldl (fun _ _ h => (h.setPair _ _).serveNow _) _ h

theorem portLeave (h : Beside s t) (n : Nat) : Beside s (t.portLeave n) :=
  have hdown : Beside s (t.rportDown n) := ((h.setRPort _ _).lower _ _).dropAsked _
  ite (ite hdown (hdown.ev _ _ _ _ _ _ _ _)) hdown

end Beside

/-! ## Settling -/

/-- The queue and the sequence by which a record in flight is found. -/
def Rec.key (r : Rec) : Nat × Word32 := (r.q, r.seq)

/-- `t` comes from `s` by completing requests that waited: the same records are in flight, each queue's `HEAD` and `CQ_TAIL` and the fronds
stand. -/
structure Settles (s t : State) : Prop where
  keys : t.recs.map Rec.key = s.recs.map Rec.key
  cqTail : ∀ q, (t.queue q).cqTail = (s.queue q).cqTail
  head : ∀ q, (t.queue q).head = (s.queue q).head
  fronds : t.fronds = s.fronds

theorem State.findRec_eq_none_iff (s : State) (q : Nat) (seq : Word32) : s.findRec q seq = none ↔ (q, seq) ∉ s.recs.map Rec.key := by
  simp [State.findRec, Rec.key]

namespace Settles
variable {s t u : State}

theorem refl (s : State) : Settles s s := ⟨rfl, fun _ => rfl, fun _ => rfl, rfl⟩

theorem trans (h : Settles s t) (k : Settles t u) : Settles s u :=
  ⟨k.keys.trans h.keys, fun q => (k.cqTail q).trans (h.cqTail q), fun q => (k.head q).trans (h.head q), k.fronds.trans h.fronds⟩

theorem beside (h : Settles s t) (k : Beside t u) : Settles s u :=
  have hq : ∀ q, u.queue q = t.queue q := fun q => congrArg (Tbl.get ({} : Queue) · q) k.queues
  h.trans ⟨congrArg _ k.recs, fun q => congrArg Queue.cqTail (hq q), fun q => congrArg Queue.head (hq q), k.fronds⟩

theorem ite {c : Prop} [Decidable c] {a b : State} (ha : Settles s a) (hb : Settles s b) : Settles s (if c then a else b) := by
  split <;> assumption

theorem foldl {α : Type} {f : State → α → State} (hf : ∀ t x, Settles s t → Settles s (f t x)) (l : List α) (h : Settles s t) :
    Settles s (l.foldl f t) :=
  List.foldlRecOn (motive := Settles s) l f h fun t ht x _ => hf t x ht

/-- A change of the records in flight that keeps their queues and sequences. -/
theorem relabel (h : Settles s t) (f : Rec → Rec) (hf : ∀ x, (f x).key = x.key) : Settles s { t with recs := t.recs.map f } :=
  h.trans ⟨by simp [Function.comp_def, hf], fun _ => rfl, fun _ => rfl, rfl⟩

/-- A change of a queue that keeps its `HEAD` and `CQ_TAIL`. -/
theorem setQueue (h : Settles s t) (q : Nat) (v : Queue) (hc : v.cqTail = (t.queue q).cqTail) (hh : v.head = (t.queue q).head) :
    Settles s (t.setQueue q v) := by
  have hput : ∀ {α : Type} (f : Queue → α), f v = f (t.queue q) → ∀ p, f ((t.setQueue q v).queue p) = f (t.queue p) := fun f hf p => by
    by_cases hp : p = q
    · subst hp; simpa using hf
    · rw [State.queue_setQueue_ne _ _ _ hp]
  exact h.trans ⟨rfl, hput _ hc, hput _ hh, rfl⟩

theorem drained (h : Settles s t) (q : Nat) : Settles s (t.setQueue q { t.queue q with drainTo := none }) := h.setQueue q _ rfl rfl

theorem pauseWait (h : Settles s t) (q : Nat) : Settles s (t.pauseWait q) := by
  unfold State.pauseWait
  dsimp only
  split
  · exact h.setQueue _ _ rfl rfl
  · exact h

theorem suspended (h : Settles s t) (c : Nat) : Settles s (t.suspended c) :=
  have hpaused : Settles s (t.pauseWaits c) := foldl (fun _ _ h => h.pauseWait _) _ h
  hpaused.beside ((Beside.refl _).upd.stopCores c)

theorem abandonFrond (h : Settles s t) (f : Nat) (engines : Bool) : Settles s (t.abandonFrond f engines) :=
  h.relabel _ fun x => by
    dsimp only
    split
    · rfl
    · split <;> rfl

theorem abandonUnits (h : Settles s t) (f : Nat → Bool) (code unit : Nat) : Settles s (t.abandonUnits f code unit) :=
  h.relabel _ fun x => by
    dsimp only
    split
    · rfl
    · split <;> rfl

theorem channelOut (h : Settles s t) (ch : Nat) (svc : Svc) (code : Nat) : Settles s (t.channelOut ch svc code) :=
  ((h.beside ((Beside.refl t).setChan ch _)).abandonUnits _ _ _).beside ((((Beside.refl _).returnTokens _).dropSteps _).returnStack _)

theorem unitOut (h : Settles s t) (u code : Nat) : Settles s (t.unitOut u code) := by
  unfold State.unitOut
  dsimp only
  split
  · have hcore := fun v => h.beside (((Beside.refl t).setCore (bits u 0 28) v).returnLevel (bits u 0 28))
    exact ite (hcore _) ((hcore _).abandonFrond _ _)
  · exact h.beside (Beside.refl t).upd
  · exact h.beside (((Beside.refl t).portLeave _).setRPort _ _)
  · exact foldl (fun _ _ h => ite h (h.channelOut _ _ _)) _ h

theorem touch (h : Settles s t) (c : Nat) : Settles s (t.touch c) := h.beside (Beside.refl t).upd

theorem streamWrite (h : Settles s t) (r : Req) : Settles s (t.streamWrite r).1 := h.trans ⟨rfl, fun _ => rfl, fun _ => rfl, rfl⟩

theorem reply (h : Settles s t) (mb : Fin 32) (st bl b : Nat) (cl : List Clamp) : Settles s (t.reply mb st bl b cl) :=
  h.beside ((Beside.refl t).reply _ _ _ _ _)

theorem settleUnit (h : Settles s t) (i : Nat) : Settles s (settleUnit t i) :=
  ite (((h.unitOut _ _).beside ((Beside.refl _).ev _ _ _ _ _ _ _ _)).reply _ _ _ _ _) h

theorem settleMb (h : Settles s t) (i : Nat) : Settles s (settleMb t i) := by
  refine ite h ?_
  split
  · exact ite ((h.suspended _).reply _ _ _ _ _) h
  · exact ite (((h.drained _).touch _).reply _ _ _ _ _) h
  · exact ite h (ite (h.reply _ _ _ _ _) ((h.streamWrite _).reply _ _ _ _ _))
  · exact h.settleUnit _
  · exact h

end Settles

theorem State.settle_settles (s : State) : Settles s s.settle := Settles.foldl (fun _ _ h => h.settleMb _) _ (.refl s)

/-- With no request begun in a mailbox nothing waits to be completed. -/
theorem State.settle_of_not_begun {s : State} (h : ∀ k, (s.mbox k).begun = false) : s.settle = s :=
  List.foldlRecOn (motive := fun t => t = s) _ _ rfl fun t ht i _ => by
    subst ht
    simp [settleMb, h]

end Sys2Proof.Machine
end

section
/-! SUPPORT. Starting, widening and completing records. -/

namespace Sys2Proof.Machine

set_option Elab.async false

open Sys2Proof

/-! ## Completing a record -/

/-- A completing record up to its completion record: off the scoreboards, its streams advanced, its signals set. -/
def State.leave (s : State) (r : Rec) : State :=
  let t := if r.final.1 < 0x10 then (s.dropRec r).advanceStreams r else s.dropRec r
  if r.final.1 < 0x10 ∧ r.op ≠ 0x50 then t.putFlags r.ctx true r.signals else t

theorem State.retire_eq (s : State) (r : Rec) :
    s.retire r true = ((s.leave r).cqPut r.q r.seq r.final.1 r.clamps r.op r.final.2 r.evSeq).active r.ctx := rfl

/-- A change of fronds one by one changes fronds only. -/
theorem State.foldl_setFrond (s : State) (v : State → Nat → Frond) (l : List Nat) :
    ∃ fr, l.foldl (fun t f => t.setFrond f (v t f)) s = { s with fronds := fr } :=
  List.foldlRecOn (motive := fun t : State => ∃ fr, t = { s with fronds := fr }) _ _ ⟨_, rfl⟩ fun _ ht _ _ => by
    obtain ⟨_, rfl⟩ := ht
    exact ⟨_, rfl⟩

theorem State.dropRec_eq (s : State) (r : Rec) :
    ∃ fr b, s.dropRec r = { s with recs := s.recs.filter fun x => !(x.q == r.q && x.seq == r.seq), fronds := fr, bars := b } := by
  unfold State.dropRec
  obtain ⟨fr, hfr⟩ := State.foldl_setFrond { s with recs := s.recs.filter fun x => !(x.q == r.q && x.seq == r.seq) }
    (fun t f => { t.frond f with
      sums := (t.frond f).sums.filter fun e => !(e.1 == r.q && e.2.1 == r.seq)
      maxima := (t.frond f).maxima.filter fun e => !(e.1 == r.q && e.2.1 == r.seq)
      preImages := (t.frond f).preImages.filter fun e => !(e.q == r.q && e.seq == r.seq)
      heldDone := (t.frond f).heldDone.filter fun e => !(e.1 == r.q && e.2 == r.seq) }) [0, 1, 2, 3]
  dsimp only at hfr ⊢
  rw [hfr]
  split <;> exact ⟨_, _, rfl⟩

@[simp] theorem State.active_recs (s : State) (c : Nat) : (s.active c).recs = s.recs := rfl

@[simp] theorem State.active_queue (s : State) (c q : Nat) : (s.active c).queue q = s.queue q := rfl

@[simp] theorem State.active_stream (s : State) (c i : Nat) : (s.active c).stream i = s.stream i := rfl

theorem State.dropRec_recs (s : State) (r : Rec) : (s.dropRec r).recs = s.recs.filter fun x => !(x.q == r.q && x.seq == r.seq) := by
  obtain ⟨_, _, h⟩ := s.dropRec_eq r
  rw [h]

theorem State.dropRec_queues (s : State) (r : Rec) : (s.dropRec r).queues = s.queues := by
  obtain ⟨_, _, h⟩ := s.dropRec_eq r
  rw [h]

theorem State.dropRec_streams (s : State) (r : Rec) : (s.dropRec r).streams = s.streams := by
  obtain ⟨_, _, h⟩ := s.dropRec_eq r
  rw [h]

/-- Advancing streams leaves records in flight and queues. -/
theorem State.advanceStreams_recs_queues (s : State) (r : Rec) :
    (s.advanceStreams r).recs = s.recs ∧ (s.advanceStreams r).queues = s.queues :=
  List.foldlRecOn (motive := fun t : State => t.recs = s.recs ∧ t.queues = s.queues) _ _ ⟨rfl, rfl⟩ fun t ht e _ => by
    dsimp only
    split <;> exact ht

theorem State.leave_recs_queues (s : State) (r : Rec) : (s.leave r).recs = (s.dropRec r).recs ∧ (s.leave r).queues = s.queues := by
  have hadv : ∀ t : State, t = (if r.final.1 < 0x10 then (s.dropRec r).advanceStreams r else s.dropRec r) →
      t.recs = (s.dropRec r).recs ∧ t.queues = s.queues := by
    rintro _ rfl
    rw [← s.dropRec_queues r]
    split
    · exact State.advanceStreams_recs_queues _ r
    · exact ⟨rfl, rfl⟩
  unfold State.leave
  extract_lets t
  obtain ⟨hrecs, hqueues⟩ := hadv t rfl
  have hflags := (Beside.refl t).putFlags r.ctx true r.signals
  split
  · exact ⟨hflags.recs.trans hrecs, hflags.queues.trans hqueues⟩
  · exact ⟨hrecs, hqueues⟩

/-- R212: a record that ends well advances the one stream of its batch list. -/
theorem State.leave_stream (s : State) {r : Rec} {i n : Nat} (hb : r.batch = [(i, n)]) (hn : n ≠ 0) (hok : r.final.1 < 0x10) :
    (s.leave r).stream i =
      { s.stream i with pos := (s.stream i).pos + BitVec.ofNat 32 n, lastSeq := r.seq, lastQueue := BitVec.ofNat 16 r.q } := by
  have hadv : (s.dropRec r).advanceStreams r = (s.dropRec r).setStream i
      { s.stream i with pos := (s.stream i).pos + BitVec.ofNat 32 n, lastSeq := r.seq, lastQueue := BitVec.ofNat 16 r.q } := by
    have hstream : (s.dropRec r).stream i = s.stream i := congrArg (Tbl.get ({} : Stream) · i) (s.dropRec_streams r)
    simp [State.advanceStreams, hb, hn, hstream]
  have hflags := (Beside.refl ((s.dropRec r).advanceStreams r)).putFlags r.ctx true r.signals
  have hstream : (s.leave r).streams = ((s.dropRec r).advanceStreams r).streams := by
    unfold State.leave
    rw [if_pos hok]
    split
    · exact hflags.streams
    · rfl
  unfold State.stream at hadv ⊢
  rw [hstream, hadv]
  exact Tbl.get_put_same _ _ _ _

theorem State.cqPut_recs_streams (s : State) (q : Nat) (seq : Word32) (status clamps op unit ev : Nat) :
    (s.cqPut q seq status clamps op unit ev).recs = s.recs ∧ (s.cqPut q seq status clamps op unit ev).streams = s.streams :=
  have hsend := fun a => (Beside.refl s).send rachis a
  ⟨(hsend _).recs, (hsend _).streams⟩

/-- R208: a completion record takes the next place of its ring; `HEAD` stands. -/
theorem State.cqPut_queue (s : State) (q : Nat) (seq : Word32) (status clamps op unit ev : Nat) :
    (s.cqPut q seq status clamps op unit ev).queue q = { s.queue q with cqTail := (s.queue q).cqTail + 1 } := by
  have hsend : ∀ a, (s.send rachis a).queue q = s.queue q := fun a =>
    congrArg (Tbl.get ({} : Queue) · q) ((Beside.refl s).send rachis a).queues
  unfold State.cqPut
  simp only [State.queue_setQueue, hsend]

theorem State.retire_recs (s : State) (r : Rec) : (s.retire r true).recs = s.recs.filter fun x => !(x.q == r.q && x.seq == r.seq) := by
  rw [State.retire_eq, State.active_recs, (State.cqPut_recs_streams _ _ _ _ _ _ _ _).1, (s.leave_recs_queues r).1, s.dropRec_recs r]

/-- A completed record is in flight no more. -/
theorem State.findRec_retire (s : State) (r : Rec) : (s.retire r true).findRec r.q r.seq = none := by
  unfold State.findRec
  rw [State.retire_recs, List.find?_eq_none]
  intro x hx
  simpa [imp_iff_not_or] using (List.mem_filter.1 hx).2

/-- The completion record is written. -/
theorem State.queue_retire (s : State) (r : Rec) : (s.retire r true).queue r.q = { s.queue r.q with cqTail := (s.queue r.q).cqTail + 1 } := by
  have hq : (s.leave r).queue r.q = s.queue r.q := congrArg (Tbl.get ({} : Queue) · r.q) (s.leave_recs_queues r).2
  rw [State.retire_eq, State.active_queue, State.cqPut_queue, hq]

theorem State.retire_stream (s : State) {r : Rec} {i n : Nat} (hb : r.batch = [(i, n)]) (hn : n ≠ 0) (hok : r.final.1 < 0x10) :
    (s.retire r true).stream i =
      { s.stream i with pos := (s.stream i).pos + BitVec.ofNat 32 n, lastSeq := r.seq, lastQueue := BitVec.ofNat 16 r.q } := by
  have hput := (s.leave r).cqPut_recs_streams r.q r.seq r.final.1 r.clamps r.op r.final.2 r.evSeq
  rw [State.retire_eq, State.active_stream, ← s.leave_stream hb hn hok]
  exact congrArg (Tbl.get ({} : Stream) · i) hput.2

/-! ## The three commands -/

/-- The number of its saturation entry changes nothing else of a record. -/
theorem State.logSat_rec (s : State) (r : Rec) : (s.logSat r).2.key = r.key ∧ (s.logSat r).2.batch = r.batch ∧ (s.logSat r).2.final = r.final
    ∧ (∀ l, (s.logSat r).2.fronds l = r.fronds l) := by
  have hrec : ∃ e, (s.logSat r).2 = { r with evSeq := e } := by
    unfold State.logSat
    split
    · exact ⟨r.evSeq, rfl⟩
    · exact ⟨_, rfl⟩
  obtain ⟨e, h⟩ := hrec
  rw [h]
  exact ⟨rfl, rfl, rfl, fun _ => rfl⟩

theorem State.logSat_notice (s : State) (r : Rec) : Notice s (s.logSat r).1 := by
  unfold State.logSat
  split
  · exact .refl s
  · exact (Notice.refl s).ev _ _ _ _ _ _ _ _

/-- A record that completes, its saturations logged. -/
def State.logged (s : State) (r : Rec) : State := (s.logSat r).1.setRec (s.logSat r).2

theorem State.logged_eq (s : State) (r : Rec) : ∃ t, Notice s t ∧ s.logged r = t.setRec (s.logSat r).2 := ⟨_, s.logSat_notice r, rfl⟩

/-- What a completing record's saturation entry leaves. -/
theorem State.logged_leaves (s : State) (r : Rec) : frozen (s.logged r) = frozen s ∧ (s.logged r).queues = s.queues
    ∧ (s.logged r).streams = s.streams ∧ (s.logged r).fronds = s.fronds := by
  obtain ⟨t, ⟨_, _, _, _, _, rfl⟩, h⟩ := s.logged_eq r
  rw [h]
  exact ⟨rfl, rfl, rfl, rfl⟩

theorem State.findRec_logged {s : State} {q : Nat} {seq : Word32} {r : Rec} (h : s.findRec q seq = some r) :
    (s.logged r).findRec q seq = some (s.logSat r).2 := by
  obtain ⟨rfl, rfl⟩ := State.findRec_key h
  obtain ⟨hkey, -⟩ := s.logSat_rec r
  obtain ⟨t, ⟨_, _, _, _, _, rfl⟩, ht⟩ := s.logged_eq r
  rw [ht]
  exact State.findRec_setRec_same h (by simpa [Rec.key] using hkey)

theorem State.completeOrHold_up {s : State} {r : Rec} (h : (r.fronds s.lay).find? (fun f => !(s.frond f).path) = none) :
    s.completeOrHold r = s.retire r true := by
  unfold State.completeOrHold
  rw [h]

/-- R21: a completion held at a frond leaves the records in flight and the queues. -/
theorem State.completeOrHold_down {s : State} {r : Rec} {f : Nat} (h : (r.fronds s.lay).find? (fun f => !(s.frond f).path) = some f) :
    (s.completeOrHold r).recs = s.recs ∧ (s.completeOrHold r).queues = s.queues ∧ r.key ∈ ((s.completeOrHold r).frond f).heldDone := by
  unfold State.completeOrHold
  rw [h]
  dsimp only
  split
  · next hin => exact ⟨rfl, rfl, hin⟩
  · refine ⟨rfl, rfl, ?_⟩
    simp [State.frond, State.setFrond, Rec.key]

/-- A record that is done and is to complete. -/
structure Completes (s : State) (q : Nat) (seq : Word32) (r : Rec) : Prop where
  found : s.findRec q seq = some r
  started : r.started = true
  finished : r.finished s.lay = true
  free : r.ticketsHeld = false
  narrow : r.widens = false
  unheld : s.heldAtFrond r = false

theorem execRecordComplete_eq {s : State} {q : Nat} {seq : Word32} {r : Rec} (h : Completes s q seq r) :
    exec (.recordComplete q seq) s = .next ((s.logged r).completeOrHold (s.logSat r).2).settle := by
  obtain ⟨hfound, hstarted, hfin, hfree, hnarrow, hunheld⟩ := h
  change execRecordComplete q seq s = _
  simp [execRecordComplete, hfound, hstarted, hfin, hfree, hnarrow, hunheld, State.logged]

/-- The paths of a record's fronds, once its saturations are logged. -/
theorem State.find_path_logged (s : State) (r : Rec) :
    ((s.logSat r).2.fronds (s.logged r).lay).find? (fun f => !((s.logged r).frond f).path) = (r.fronds s.lay).find? fun f => !(s.frond f).path := by
  obtain ⟨hfrozen, -, -, hfronds⟩ := s.logged_leaves r
  obtain ⟨-, -, -, hof⟩ := s.logSat_rec r
  simp only [frozen, Prod.mk.injEq] at hfrozen
  obtain ⟨-, -, -, -, hlay, -⟩ := hfrozen
  unfold State.frond
  rw [hof, hlay, hfronds]

/-- R159, R212: with all its paths up the record completes. -/
theorem recordComplete_done {s : State} {q : Nat} {seq : Word32} {r : Rec} (h : Completes s q seq r)
    (hup : ∀ f ∈ r.fronds s.lay, (s.frond f).path = true) :
    ∃ t, exec (.recordComplete q seq) s = .next t ∧ t.findRec q seq = none ∧ (t.queue q).cqTail = (s.queue q).cqTail + 1
      ∧ (t.queue q).head = (s.queue q).head ∧ t.lay = s.lay
      ∧ ((∀ k, (s.mbox k).begun = false) → ∀ i n, r.batch = [(i, n)] → n ≠ 0 → r.final.1 < 0x10 →
          t.stream i = { s.stream i with pos := (s.stream i).pos + BitVec.ofNat 32 n, lastSeq := seq, lastQueue := BitVec.ofNat 16 q }) := by
  have hexec := execRecordComplete_eq h
  rw [State.completeOrHold_up ((s.find_path_logged r).trans (by simpa using hup))] at hexec
  obtain ⟨rfl, rfl⟩ := State.findRec_key h.found
  obtain ⟨hkey, hbatch, hfinal, -⟩ := s.logSat_rec r
  obtain ⟨hfrozen, hqueues, hstreams, -⟩ := s.logged_leaves r
  generalize s.logged r = u at hexec hfrozen hqueues hstreams
  generalize (s.logSat r).2 = x at hexec hkey hbatch hfinal
  obtain ⟨hq, hseq⟩ : x.q = r.q ∧ x.seq = r.seq := by simpa [Rec.key] using hkey
  have hwork : frozen (u.retire x true) = frozen s := ((Work.refl u).retire x true).1.trans hfrozen
  simp only [frozen, Prod.mk.injEq] at hwork
  obtain ⟨-, -, -, -, hlay, -, -, hmboxes, -⟩ := hwork
  have hsettle := (u.retire x true).settle_settles
  have hnone := u.findRec_retire x
  have hqueue := u.queue_retire x
  rw [hq, hseq] at hnone
  rw [hq, show u.queue r.q = s.queue r.q from congrArg (Tbl.get ({} : Queue) · r.q) hqueues] at hqueue
  refine ⟨_, hexec, ?_, ?_, ?_, ?_, ?_⟩
  · rw [State.findRec_eq_none_iff] at hnone ⊢
    rwa [hsettle.keys]
  · rw [hsettle.cqTail, hqueue]
  · rw [hsettle.head, hqueue]
  · obtain ⟨-, hl, -⟩ := (Keeps.refl (u.retire x true)).settle
    exact hl.trans hlay
  · intro hidle i n hb hn hok
    rw [State.settle_of_not_begun fun k => (congrArg (fun m => (Tbl.get ({} : Mbox) m k).begun) hmboxes).trans (hidle k),
      u.retire_stream (hbatch.trans hb) hn (hfinal ▸ hok), hq, hseq,
      show u.stream i = s.stream i from congrArg (Tbl.get ({} : Stream) · i) hstreams]

/-- R21: a frond without a path holds the completion. -/
theorem recordComplete_held {s : State} {q : Nat} {seq : Word32} {r : Rec} (h : Completes s q seq r) {f : Nat}
    (hdown : (r.fronds s.lay).find? (fun f => !(s.frond f).path) = some f) :
    ∃ t, exec (.recordComplete q seq) s = .next t ∧ t.findRec q seq ≠ none ∧ (t.queue q).cqTail = (s.queue q).cqTail
      ∧ (q, seq) ∈ (t.frond f).heldDone := by
  have hexec := execRecordComplete_eq h
  have hfound := State.findRec_logged h.found
  obtain ⟨hrecs, hqueues', hheld⟩ := State.completeOrHold_down ((s.find_path_logged r).trans hdown)
  obtain ⟨hkey, -⟩ := s.logSat_rec r
  obtain ⟨-, hqueues, -⟩ := s.logged_leaves r
  obtain ⟨rfl, rfl⟩ := State.findRec_key h.found
  have hsettle := ((s.logged r).completeOrHold (s.logSat r).2).settle_settles
  refine ⟨_, hexec, ?_, ?_, ?_⟩
  · rw [Ne, State.findRec_eq_none_iff, hsettle.keys, hrecs, ← State.findRec_eq_none_iff, hfound]
    exact Option.some_ne_none _
  · rw [hsettle.cqTail]
    exact congrArg (fun m => (Tbl.get ({} : Queue) m r.q).cqTail) (hqueues'.trans hqueues)
  · unfold State.frond at hheld ⊢
    rwa [hsettle.fronds, ← show r.key = (r.q, r.seq) from rfl, ← hkey]

/-- R302: a second pass in the banks while the token pool is 0: every entry is abandoned. -/
theorem State.runAgain_of_no_pool {s : State} {r : Rec} (h : r.inBank = true ∧ s.pool = 0) :
    (Status.powerDenied, 0) ∈ (s.runAgain r).codes ∧ ∀ su ∈ r.unitsOf s.lay, su ∈ (s.runAgain r).lostUnits := by
  unfold State.runAgain
  rw [if_pos h]
  exact ⟨List.mem_append_right _ (List.mem_singleton.2 rfl), fun su hsu => List.mem_append_right _ hsu⟩

/-- R196: a record that widens is in its second pass afresh. -/
theorem State.runAgain_fresh (s : State) (r : Rec) :
    let r' := s.runAgain r
    r'.key = r.key ∧ r'.pass = 2 ∧ r'.workDone = false ∧ r'.swept = false ∧ r'.doneRows = [] ∧ r'.outs = [] ∧ r'.satFirst = r.sat ∧ r'.sat = 0
      ∧ r'.raw = r.raw := by
  unfold State.runAgain
  split <;> exact ⟨rfl, rfl, rfl, rfl, rfl, rfl, rfl, rfl, rfl⟩

/-- Settles O32: a start and a second pass replace the record in flight; a completion retires it, or holds it at a frond, and `State.settle`
leaves both as they are. -/
theorem recordsStartAndComplete : Obligations.RecordsStartAndComplete := by
  intro s q seq r hfound
  refine ⟨fun hstarted hop hok => ?_, fun hstarted hfin hfree hwide => ?_, fun hstarted hfin hfree hnarrow hunheld => ?_⟩
  · change execRecordStart q seq s = _
    simp [execRecordStart, hfound, hstarted, hop, hok]
  · obtain ⟨rfl, rfl⟩ := State.findRec_key hfound
    obtain ⟨hkey, hpass, hwork, hswept, hrows, houts, hfirst, hsat, hraw⟩ := s.runAgain_fresh r
    have hkey' : (s.runAgain r).q = r.q ∧ (s.runAgain r).seq = r.seq := by simpa [Rec.key] using hkey
    refine ⟨s.setRec (s.runAgain r), s.runAgain r, ?_, State.findRec_setRec_same hfound hkey', hpass, hwork, hswept,
      State.runAgain_of_no_pool, hrows, houts, hfirst, hsat, hraw, rfl, (Reads.of_notice (.refl s) []).setRec_workFrame hkey'⟩
    change execWideningRerun r.q r.seq s = _
    simp [execWideningRerun, hfound, hstarted, hfin, hfree, hwide]
  · have h : Completes s q seq r := ⟨hfound, hstarted, hfin, hfree, hnarrow, hunheld⟩
    exact ⟨recordComplete_done h, fun _ => recordComplete_held h⟩

end Sys2Proof.Machine
end

section
/-! SUPPORT. Grant levels, liens and grants of the power arbiter (R297 to R305): what operations, returns, grants and revocations leave. -/

namespace Sys2Proof.Machine

set_option Elab.async false

open Sys2Proof

/-! ## Core operations leave the grant level (R117, R133) -/

/-- A core's grant level, and the level that it has lent. -/
def Core.levels (c : Core) : Nat × Option Nat := (c.level, c.lentLevel)

@[simp] theorem Core.levels_addSat (c : Core) (n : Nat) : (c.addSat n).levels = c.levels := rfl

/-- New accumulators and saturations leave the grant level. -/
theorem Core.levels_accs (c : Core) (n : Nat) (a : Tbl Word32) (p : Tbl Bool) :
    ({ c.addSat n with accs := a, accPoison := p } : Core).levels = c.levels := rfl

theorem Core.levels_mma (c : Core) (o : MmaOp) : (c.mma o).levels = c.levels := Core.levels_accs c _ _ _

theorem Core.levels_accClose (c : Core) (t : Nat) : (c.accClose t).levels = c.levels := Core.levels_accs c _ _ _

@[simp] theorem Core.levels_buildMask (c : Core) (u : MaskUse) : (c.buildMask u).levels = c.levels := by
  unfold Core.buildMask
  split
  · split <;> rfl
  · rfl

@[simp] theorem Core.levels_writeRef (c : Core) (r : CoreRef) (l : Lane) (es : List CElem) : (c.writeRef r l es).levels = c.levels := by
  cases r <;> rfl

@[simp] theorem Core.levels_chain (c : Core) (o : ChainOp) : (c.chain o).levels = c.levels := by simp [Core.chain]

@[simp] theorem Core.levels_drain (c : Core) (o : ChainOp) : (c.drain o).levels = c.levels := by
  unfold Core.drain
  split
  · exact Core.levels_chain c o
  · exact Core.levels_chain c o

@[simp] theorem Core.levels_reduce (c : Core) (o : ReduceOp) : (c.reduce o).levels = c.levels := by
  unfold Core.reduce
  extract_lets c1 rs es c2
  have hc2 : c2.levels = c.levels := by simp [c2, c1]
  exact hc2

/-- No core operation changes a grant level. -/
theorem Core.levels_perform (c : Core) (i : Instr) : (c.perform i).levels = c.levels := by
  unfold Core.perform
  split
  · exact Core.levels_mma _ _
  · exact Core.levels_accClose _ _
  · exact Core.levels_drain _ _
  · exact Core.levels_chain _ _
  · exact Core.levels_reduce _ _
  · exact Core.levels_writeRef _ _ _ _
  · exact Core.levels_writeRef _ _ _ _
  · exact Core.levels_writeRef _ _ _ _
  · exact Core.levels_writeRef _ _ _ _
  · rfl

theorem Core.levels_wake (c : Core) (now : Nat) : (c.wake now).levels = c.levels := by
  have hrun : ∀ (l : List Instr) (k : Core), (l.foldl Core.perform k).levels = k.levels := fun l k =>
    List.foldlRecOn (motive := fun k' : Core => k'.levels = k.levels) l _ rfl fun k' hk i _ => (Core.levels_perform k' i).trans hk
  unfold Core.wake
  split
  · exact hrun _ _
  · rfl

end Sys2Proof.Machine
end

section
/-! SUPPORT. The operations of the arbiter on grants and liens. -/

namespace Sys2Proof.Machine

set_option Elab.async false

open Sys2Proof

/-- `t` is `s` but for the arbiter's state and the cores. -/
def Arbiter (s t : State) : Prop := ∃ p cs, t = { s with power := p, cores := cs }

namespace Arbiter
variable {s t u : State}

theorem refl (s : State) : Arbiter s s := ⟨_, _, rfl⟩

theorem trans (h : Arbiter s t) (k : Arbiter t u) : Arbiter s u := by
  obtain ⟨_, _, rfl⟩ := h
  obtain ⟨_, _, rfl⟩ := k
  exact ⟨_, _, rfl⟩

/-- What the arbiter leaves alone. -/
theorem leaves (h : Arbiter s t) : SameModule s t ∧ t.mem = s.mem ∧ t.recs = s.recs := by
  obtain ⟨_, _, rfl⟩ := h
  exact ⟨⟨rfl, rfl, rfl, rfl, rfl, rfl, rfl, rfl, rfl, rfl, rfl, rfl, rfl⟩, rfl, rfl⟩

theorem lower (s : State) (h : Holder) (n : Nat) : Arbiter s (s.lower h n) := by
  cases h <;> exact ⟨_, _, rfl⟩

theorem raise (s : State) (h : Holder) (n : Nat) : Arbiter s (s.raise h n) := by
  cases h <;> exact ⟨_, _, rfl⟩

theorem setCore (s : State) (c : Nat) (v : Core) : Arbiter s (s.setCore c v) := ⟨_, _, rfl⟩

theorem setPower (s : State) (p : Power) : Arbiter s { s with power := p } := ⟨_, _, rfl⟩

theorem grant (s : State) (w : QReq) : Arbiter s (s.grant w) := (setPower s _).trans (raise _ _ _)

theorem revoke (s : State) (b : Grant) : Arbiter s (s.revoke b) := by
  unfold State.revoke
  dsimp only
  split
  · exact (setPower s _).trans (setCore _ _ _)
  · exact (setPower s _).trans (setPower _ _)
  · exact setPower s _

theorem revokeFor (c need : Nat) (l : List Grant) (s : State) : Arbiter s (revokeFor c need l s) := by
  induction l generalizing s with
  | nil => exact refl s
  | cons b r ih =>
    unfold Machine.revokeFor
    dsimp only
    split
    · exact refl s
    · split
      · exact (revoke s b).trans (ih _)
      · exact ih s

theorem regrant (s : State) (c : Fin 64) (lvl : Nat) : Arbiter s (s.regrant c lvl) := by
  have hgrant : ∀ (n : Nat) (w : QReq), Arbiter s (if n = 0 then s else s.grant w) := fun n w => by
    split
    · exact refl s
    · exact grant s w
  unfold State.regrant
  extract_lets n w t
  have ht : Arbiter s t := hgrant _ _
  split
  · exact ht
  · exact ht.trans (setPower _ _)

end Arbiter

/-! ## Cores that a return, a grant or a revocation names -/

theorem State.core_lower (s : State) (c : Fin 64) (n : Nat) :
    ((s.lower (.core c) n).core c).level = (s.core c).level - n ∧ ∀ d, d ≠ c.val → (s.lower (.core c) n).core d = s.core d :=
  ⟨congrArg Core.level (State.core_setCore _ _ _), fun _ hd => State.core_setCore_ne _ _ _ hd⟩

theorem State.core_raise (s : State) (c : Fin 64) (n : Nat) :
    ((s.raise (.core c) n).core c).levels = ((s.core c).level + n, (s.core c).lentLevel)
      ∧ ∀ d, d ≠ c.val → (s.raise (.core c) n).core d = s.core d :=
  ⟨(congrArg Core.levels (State.core_setCore _ _ _)).trans (Core.levels_wake _ _), fun _ hd => State.core_setCore_ne _ _ _ hd⟩

/-- R305: a core at level 0 stays there when a grant is revoked. -/
theorem State.level_revoke {s : State} {c : Nat} (h : (s.core c).level = 0) (b : Grant) : ((s.revoke b).core c).level = 0 := by
  unfold State.revoke
  dsimp only
  split
  · next d _ =>
    by_cases hd : c = d.val
    · subst hd
      refine (congrArg Core.level (State.core_setCore _ _ _)).trans ?_
      exact (congrArg (· - _) h).trans (Nat.zero_sub _)
    · exact (congrArg Core.level (State.core_setCore_ne _ _ _ hd)).trans h
  · exact h
  · exact h

theorem level_revokeFor {c : Nat} (d need : Nat) (l : List Grant) {s : State} (h : (s.core c).level = 0) :
    ((revokeFor d need l s).core c).level = 0 := by
  induction l generalizing s with
  | nil => exact h
  | cons b r ih =>
    unfold Machine.revokeFor
    dsimp only
    split
    · exact h
    · split
      · exact ih (State.level_revoke h b)
      · exact ih h

/-! ## Liens -/

/-- R304: what is taken from liens leaves each core its lien. -/
theorem takeReserved_cores (n : Nat) (l : List Lien) : (takeReserved n l).1.map Lien.core = l.map Lien.core := by
  induction l generalizing n with
  | nil => cases n <;> rfl
  | cons a r ih =>
    cases n with
    | zero => rfl
    | succ n => simp [takeReserved, ih]

theorem reserveMore_zero (l : List Lien) (c : Nat) : reserveMore l c 0 = l := by
  simp [reserveMore]

/-- Parts of no quanta leave the liens. -/
theorem reserveAll_of_zero (l : List Lien) {ps : List (Nat × Nat)} (h : ∀ p ∈ ps, p.2 = 0) : reserveAll l ps = l :=
  List.foldlRecOn (motive := fun l' => l' = l) ps _ rfl fun l' hl p hp => by rw [h p hp, reserveMore_zero, hl]

theorem splitParts_mem (n : Nat) {ps : List (Nat × Nat)} (h : ∀ p ∈ ps, p.2 = 0) : ∀ p ∈ (splitParts n ps).1, p.2 = 0 := by
  induction ps generalizing n with
  | nil => cases n <;> simp [splitParts]
  | cons a r ih =>
    cases n with
    | zero => simp [splitParts]
    | succ n =>
      have ha : a.2 = 0 := h a List.mem_cons_self
      simp only [splitParts, ha, Nat.zero_le, if_true, List.mem_cons, forall_eq_or_imp, true_and]
      exact ih _ fun p hp => h p (List.mem_cons_of_mem _ hp)

theorem sumNat_eq_zero_iff (l : List Nat) : sumNat l = 0 ↔ ∀ x ∈ l, x = 0 := by
  induction l with
  | nil => simp [sumNat]
  | cons a r ih => simp [sumNat, ih]

/-- R304: a holder that has borrowed nothing returns its quanta without a lien. -/
theorem takeBack_liens (h : Holder) (n : Nat) {gs : List Grant} (l : List Lien) (hz : ∀ g ∈ gs, g.holder = h → ∀ p ∈ g.parts, p.2 = 0) :
    (takeBack h n gs l).2 = l := by
  induction gs generalizing n l with
  | nil => cases n <;> rfl
  | cons g r ih =>
    have hr := fun n l => ih n l fun g hg => hz g (List.mem_cons_of_mem _ hg)
    unfold takeBack
    by_cases hg : g.holder = h
    · have hp := hz g List.mem_cons_self hg
      rw [if_neg (by simp [hg])]
      split
      · rw [hr, reserveAll_of_zero l hp]
      · exact reserveAll_of_zero l (splitParts_mem n hp)
    · rw [if_pos (by simpa using hg)]
      exact hr n l

theorem State.lower_liens {s : State} {h : Holder} (hz : s.borrowedBy h = 0) (n : Nat) : (s.lower h n).power.liens = s.power.liens := by
  have hparts : ∀ g ∈ s.power.grants, g.holder = h → ∀ p ∈ g.parts, p.2 = 0 := fun g hg hh p hp => by
    have hsum := (sumNat_eq_zero_iff _).1 hz (sumNat (g.parts.map (·.2)))
      (List.mem_map.2 ⟨g, List.mem_filter.2 ⟨hg, by simpa using hh⟩, rfl⟩)
    exact (sumNat_eq_zero_iff _).1 hsum _ (List.mem_map.2 ⟨p, hp, rfl⟩)
  have hback := takeBack_liens h (n * unitQ h) s.power.liens hparts
  cases h <;> exact hback

end Sys2Proof.Machine
end

section
/-! SUPPORT. Requests, returns, grants and lending (R235, R297 to R305): one lemma per clause. -/

namespace Sys2Proof.Machine

set_option Elab.async false

open Sys2Proof

/-! ## Requests and returns -/

theorem quantaRequest_ask (s : State) (h : Holder) (units : Nat) :
    let n := Nat.min units (s.headroom h)
    (0 < n → h ≠ .tokens → exec (.quantaRequest h (.ask units)) s = .next { s with power := { s.power with
        waiting := s.power.waiting ++ [{ holder := h, quanta := n * unitQ h, since := s.time.now }] } })
      ∧ (h = .tokens → exec (.quantaRequest h (.ask units)) s = .next { s with power := { s.power with
        waiting := s.power.waiting ++ List.replicate n { holder := .tokens, quanta := 1, since := s.time.now } } })
      ∧ (n = 0 → exec (.quantaRequest h (.ask units)) s = .next s) := by
  intro n
  have hexec : exec (.quantaRequest h (.ask units)) s = .next { s with power := { s.power with
      waiting := s.power.waiting ++ s.requests h n } } := rfl
  rw [hexec]
  refine ⟨fun hn ht => ?_, fun ht => ?_, fun hn => ?_⟩
  · have hreq : s.requests h n = [{ holder := h, quanta := n * unitQ h, since := s.time.now }] := by
      unfold State.requests
      split
      · exact absurd rfl ht
      · rw [if_neg (Nat.ne_of_gt hn)]
    rw [hreq]
  · subst ht
    rfl
  · have hreq : s.requests h n = [] := by
      unfold State.requests
      rw [hn]
      split <;> rfl
    rw [hreq, List.append_nil]

theorem quantaRequest_giveBack_core (s : State) (c : Fin 64) {n : Nat} (hn : n ≤ (s.core c).level) :
    ∃ t, exec (.quantaRequest (.core c) (.giveBack n)) s = .next t ∧ (t.core c).level = (s.core c).level - n
      ∧ (∀ d, d ≠ c.val → t.core d = s.core d)
      ∧ t.power.waiting = s.power.waiting ∧ t.power.stackEighths = s.power.stackEighths ∧ SameModule s t ∧ t.mem = s.mem ∧ t.recs = s.recs := by
  have hexec : exec (.quantaRequest (.core c) (.giveBack n)) s = .next (s.lower (.core c) n) :=
    congrArg (fun k => Host.Outcome.next (s.lower (.core c) k)) (Nat.min_eq_left hn)
  obtain ⟨hlevel, hothers⟩ := s.core_lower c n
  exact ⟨_, hexec, hlevel, hothers, rfl, rfl, (Arbiter.lower s _ n).leaves⟩

theorem quantaRequest_giveBack_stack (s : State) (k : Fin 32) {n : Nat} (hn : n < Tbl.get 1 s.power.stackEighths k) :
    ∃ t, exec (.quantaRequest (.stack k) (.giveBack n)) s = .next t
      ∧ Tbl.get 1 t.power.stackEighths k = Tbl.get 1 s.power.stackEighths k - n ∧ t.cores = s.cores ∧ SameModule s t ∧ t.mem = s.mem
      ∧ t.recs = s.recs := by
  have hexec : exec (.quantaRequest (.stack k) (.giveBack n)) s = .next (s.lower (.stack k) n) :=
    congrArg (fun k' => Host.Outcome.next (s.lower (.stack k) k')) (Nat.min_eq_left (Nat.le_sub_one_of_lt hn))
  exact ⟨_, hexec, Tbl.get_put_same _ _ _ _, rfl, (Arbiter.lower s _ n).leaves⟩

/-! ## Grants -/

/-- A state whose arbiter has booked a request as granted, borrowing `ps` and leaving the liens `ls`. -/
def State.booked (s : State) (w : QReq) (ls : List Lien) (ps : List (Nat × Nat)) : State :=
  { s with power := { s.power with
      waiting := s.power.waiting.erase w, liens := ls
      grants := { holder := w.holder, quanta := w.quanta, since := w.since, parts := ps } :: s.power.grants } }

/-- R299, R304: a grant is booked and its holder's units rise; free quanta that cover it leave the liens. -/
theorem State.grant_booked (s : State) (w : QReq) :
    ∃ ls ps, s.grant w = (s.booked w ls ps).raise w.holder (w.quanta / unitQ w.holder) ∧ ls.map Lien.core = s.power.liens.map Lien.core
      ∧ (w.quanta ≤ s.freeQ - s.reservedQ → ls = s.power.liens ∧ ps = []) := by
  refine ⟨_, _, rfl, ?_, fun h => ?_⟩
  · split
    · rfl
    · exact takeReserved_cores _ _
  · rw [if_pos h]
    exact ⟨rfl, rfl⟩

/-- What a grant raises, by its holder. -/
def Raised (s t : State) (h : Holder) (n : Nat) : Prop :=
  match h with
  | .core c => (t.core c).level = (s.core c).level + n ∧ (∀ d, d ≠ c.val → t.core d = s.core d)
      ∧ t.power.stackEighths = s.power.stackEighths ∧ t.power.rports = s.power.rports
  | .stack k => Tbl.get 1 t.power.stackEighths k = Tbl.get 1 s.power.stackEighths k + n ∧ t.cores = s.cores
  | .rport k => Tbl.get false t.power.rports k = true ∧ t.cores = s.cores ∧ t.power.stackEighths = s.power.stackEighths
  | _ => t.cores = s.cores ∧ t.power.stackEighths = s.power.stackEighths

theorem State.raise_raised (s : State) (h : Holder) (n : Nat) : Raised s (s.raise h n) h n := by
  cases h with
  | core c => exact ⟨congrArg Prod.fst (s.core_raise c n).1, (s.core_raise c n).2, rfl, rfl⟩
  | stack k => exact ⟨Tbl.get_put_same _ _ _ _, rfl⟩
  | rport k => exact ⟨Tbl.get_put_same false _ k.val true, rfl, rfl⟩
  | _ => exact ⟨rfl, rfl⟩

/-- A grant that rises leaves the arbiter's queue, liens, grants and tokens. -/
theorem State.raise_power (s : State) (h : Holder) (n : Nat) : (s.raise h n).power.waiting = s.power.waiting
    ∧ (s.raise h n).power.liens = s.power.liens ∧ (s.raise h n).power.grants = s.power.grants ∧ (s.raise h n).power.tokens = s.power.tokens := by
  cases h <;> exact ⟨rfl, rfl, rfl, rfl⟩

theorem quantaGrant_serves {s : State} {at_ : Nat} {w : QReq} (hg : (s.advance at_).granting = true) (hn : (s.advance at_).nextGrant = some w) :
    exec (.quantaGrant at_) s = .next (if w.holder = .tokens then s.advance at_ else (s.advance at_).grant w) := by
  change execQuantaGrant at_ s = _
  simp only [execQuantaGrant, hg, hn, if_true]

theorem quantaGrant_grants {s : State} {at_ : Nat} {w : QReq} (hg : (s.advance at_).granting = true) (hn : (s.advance at_).nextGrant = some w)
    (hw : w.holder ≠ .tokens) :
    ∃ t g, exec (.quantaGrant at_) s = .next t ∧ t.power.waiting = s.power.waiting.erase w
      ∧ t.power.grants = g :: s.power.grants ∧ g.holder = w.holder ∧ g.quanta = w.quanta ∧ g.since = w.since
      ∧ Raised s t w.holder (w.quanta / unitQ w.holder)
      ∧ (w.quanta ≤ s.freeQ - s.reservedQ → t.power.liens = s.power.liens ∧ g.parts = [])
      ∧ SameModule (s.advance at_) t ∧ t.mem = s.mem ∧ t.recs = s.recs ∧ t.power.tokens = s.power.tokens := by
  have hexec := quantaGrant_serves hg hn
  rw [if_neg hw] at hexec
  obtain ⟨ls, ps, hgrant, -, hfree⟩ := (s.advance at_).grant_booked w
  obtain ⟨hsame, hmem, hrecs⟩ := (Arbiter.grant (s.advance at_) w).leaves
  rw [hgrant] at hexec hsame hmem hrecs
  obtain ⟨hwaiting, hliens, hgrants, htokens⟩ := ((s.advance at_).booked w ls ps).raise_power w.holder (w.quanta / unitQ w.holder)
  have hraised := ((s.advance at_).booked w ls ps).raise_raised w.holder (w.quanta / unitQ w.holder)
  have hbooked : ∀ t h n, Raised ((s.advance at_).booked w ls ps) t h n → Raised s t h n := fun t h n hr => by
    cases h <;> exact hr
  exact ⟨_, _, hexec, hwaiting, hgrants, rfl, rfl, rfl, hbooked _ _ _ hraised, fun h => ⟨hliens.trans (hfree h).1, (hfree h).2⟩,
    hsame, hmem, hrecs, htokens⟩

end Sys2Proof.Machine
end

section
/-! SUPPORT. Lending and re-grants (R235, R304, R305). -/

namespace Sys2Proof.Machine

set_option Elab.async false

open Sys2Proof

/-! ## Lending -/

theorem coreLend_lends {s : State} {c : Fin 64} (hlevel : (s.core c).level ≠ 0) (hlent : (s.core c).lentLevel = none)
    (hidle : (s.core c).lastOp + 2000 ≤ s.time.now) :
    ∃ t, exec (.coreLend c) s = .next t ∧ (t.core c).level = 0 ∧ (t.core c).lentLevel = some (s.core c).level
      ∧ (s.borrowedBy (.core c) = 0 → t.power.liens = s.power.liens ++ [{ core := c.val, reserved := 30 * (s.core c).level }])
      ∧ (∀ w ∈ t.power.waiting, w.holder ≠ .core c) ∧ t.power.envelope = s.power.envelope ∧ t.power.tokens = s.power.tokens
      ∧ (∀ d, d ≠ c.val → t.core d = s.core d) ∧ SameModule s t ∧ t.mem = s.mem ∧ t.recs = s.recs := by
  obtain ⟨hlow, hothers⟩ := s.core_lower c (s.core c).level
  rw [Nat.sub_self] at hlow
  have hliens := fun hb => s.lower_liens (h := .core c) hb (s.core c).level
  have hexec : exec (.coreLend c) s = .next
      (let own := 30 * (s.core c).level - s.borrowedBy (.core c)
       let t := (s.lower (.core c) (s.core c).level).dropAsked (.core c)
       let u := t.setCore c { t.core c with lentLevel := some (s.core c).level }
       { u with power := { u.power with liens := u.power.liens ++ [{ core := c.val, reserved := own }] } }) := by
    exact congrArg Host.Outcome.next (if_neg (by simp [hlevel, hlent, hidle]))
  refine ⟨_, hexec, ?_, ?_, fun hb => ?_, fun w hw => ?_, rfl, rfl, fun d hd => ?_, Arbiter.leaves ?_⟩
  · exact (congrArg Core.level (State.core_setCore _ _ _)).trans hlow
  · exact congrArg Core.lentLevel (State.core_setCore _ _ _)
  · change (s.lower (.core c) (s.core c).level).power.liens ++ _ = _
    rw [hliens hb, hb, Nat.sub_zero]
  · simpa using (List.mem_filter.1 hw).2
  · exact (State.core_setCore_ne _ _ _ hd).trans (hothers d hd)
  · exact (((Arbiter.lower s _ _).trans (.setPower _ _)).trans (.setCore _ _ _)).trans (.setPower _ _)

/-! ## Quanta that a lender may count on -/

theorem sumNat_filter_add (p : Lien → Bool) (l : List Lien) :
    sumNat ((l.filter p).map (·.reserved)) + sumNat ((l.filter fun x => !p x).map (·.reserved)) = sumNat (l.map (·.reserved)) := by
  induction l with
  | nil => rfl
  | cons a r ih =>
    by_cases ha : p a = true
    · simp [ha, sumNat]; omega
    · simp [ha, sumNat]; omega

theorem sumNat_erase_le (m : Tbl Core) (c : Nat) : sumNat ((Tbl.erase m c).map (·.2.level)) ≤ sumNat (m.map (·.2.level)) := by
  induction m with
  | nil => exact Nat.le_refl _
  | cons e r ih =>
    obtain ⟨k, v⟩ := e
    by_cases hk : c = k
    · subst hk
      simp [Tbl.erase, sumNat]; omega
    · simp [Tbl.erase, hk, sumNat]; omega

theorem sumNat_insert (m : Tbl Core) (c : Nat) (v : Core) :
    sumNat ((Tbl.insert m c v).map (·.2.level)) = v.level + sumNat (m.map (·.2.level)) := by
  induction m with
  | nil => rfl
  | cons e r ih =>
    obtain ⟨k, w⟩ := e
    by_cases hk : c < k
    · simp [Tbl.insert, hk, sumNat]
    · simp [Tbl.insert, hk, sumNat, ih]; omega

/-- A core set to level 0 holds no quanta, so none become held. -/
theorem State.coreQ_setCore_le (s : State) (c : Nat) {v : Core} (hv : v.level = 0) : (s.setCore c v).coreQ ≤ s.coreQ := by
  have hput : sumNat ((Tbl.put {} s.cores c v).map (·.2.level)) ≤ sumNat (s.cores.map (·.2.level)) := by
    have herase := sumNat_erase_le s.cores c
    unfold Tbl.put Tbl.putKeep
    split
    · exact herase
    · rw [sumNat_insert, hv]; omega
  exact Nat.mul_le_mul_left 30 hput

theorem State.freeQ_le_setCore (s : State) (c : Nat) {v : Core} (hv : v.level = 0) : s.freeQ ≤ (s.setCore c v).freeQ := by
  have hcore := s.coreQ_setCore_le c hv
  have hheld : (s.setCore c v).heldQ ≤ s.heldQ :=
    Nat.add_le_add_right (Nat.add_le_add_right (Nat.add_le_add_left hcore _) _) _
  exact Nat.sub_le_sub_left hheld _

/-- The quanta reserved in a core's name. -/
def State.ownReserved (s : State) (c : Nat) : Nat := sumNat ((s.power.liens.filter fun l => l.core == c).map (·.reserved))

theorem State.reservedQ_endLien (s : State) (c : Nat) : s.ownReserved c + (s.endLien c).reservedQ = s.reservedQ :=
  sumNat_filter_add _ _

/-! ## Re-grants -/

theorem mem_insertByAge (w : QReq) (l : List QReq) : w ∈ insertByAge w l := by
  induction l with
  | nil => exact List.mem_singleton.2 rfl
  | cons x r ih =>
    unfold insertByAge
    split
    · exact List.mem_cons_self
    · exact List.mem_cons_of_mem _ ih

/-- R305: the request of a re-grant for `k` levels. -/
def State.again (s : State) (c : Fin 64) (k : Nat) : QReq := { holder := .core c, quanta := 30 * k, since := s.time.now, regrant := true }

/-- R305: the part of a re-grant that is granted at once. -/
def State.regrantNow (s : State) (c : Fin 64) (n : Nat) : State := if n = 0 then s else s.grant (s.again c n)

theorem State.regrantNow_levels {s : State} {c : Fin 64} (n : Nat) (h : (s.core c).levels = (0, none)) :
    ((s.regrantNow c n).core c).levels = (n, none) ∧ (s.regrantNow c n).power.liens.map Lien.core = s.power.liens.map Lien.core := by
  unfold State.regrantNow
  by_cases hn : n = 0
  · rw [if_pos hn, hn]
    exact ⟨h, rfl⟩
  · rw [if_neg hn]
    obtain ⟨ls, ps, hg, hcores, -⟩ := s.grant_booked (s.again c n)
    have hunits : (s.again c n).quanta / unitQ (s.again c n).holder = n := Nat.mul_div_cancel_left n (by decide)
    rw [hg, hunits]
    have hlevels := ((s.booked (s.again c n) ls ps).core_raise c n).1
    obtain ⟨-, hliens, -, -⟩ := (s.booked (s.again c n) ls ps).raise_power (.core c) n
    refine ⟨hlevels.trans ?_, (congrArg (List.map Lien.core) hliens).trans hcores⟩
    have h0 : (s.core c).level = 0 := congrArg Prod.fst h
    have hl : (s.core c).lentLevel = none := congrArg Prod.snd h
    change ((s.core c).level + n, (s.core c).lentLevel) = _
    rw [h0, hl, Nat.zero_add]

/-- R305: a re-grant gives the level as far as unreserved free quanta cover it, and asks again for the rest. -/
theorem State.regrant_grants {s : State} {c : Fin 64} (lvl : Nat) (h : (s.core c).levels = (0, none)) :
    let n := Nat.min lvl ((s.freeQ - s.reservedQ) / 30)
    let t := s.regrant c lvl
    (t.core c).levels = (n, none) ∧ t.power.liens.map Lien.core = s.power.liens.map Lien.core
      ∧ (n < lvl → ∃ w ∈ t.power.waiting, w.holder = .core c ∧ w.quanta = 30 * (lvl - n) ∧ w.regrant = true) := by
  intro n t
  obtain ⟨hlevels, hcores⟩ := State.regrantNow_levels n h
  generalize hu : s.regrantNow c n = u at hlevels hcores
  have ht : t = if lvl = n then u else { u with power := { u.power with waiting := insertByAge (s.again c (lvl - n)) u.power.waiting } } := by
    rw [← hu]
    rfl
  rw [ht]
  by_cases hn : lvl = n
  · rw [if_pos hn]
    exact ⟨hlevels, hcores, fun hlt => absurd hn (Nat.ne_of_gt hlt)⟩
  · rw [if_neg hn]
    exact ⟨hlevels, hcores, fun _ => ⟨_, mem_insertByAge _ _, rfl, rfl, rfl⟩⟩

/-- R305: grants borrowed from a core's lien are left when its own lien and the free quanta cover its level. -/
theorem revokeFor_of_covered {c need : Nat} (l : List Grant) {s : State} (h : need ≤ s.ownReserved c + (s.freeQ - s.reservedQ)) :
    revokeFor c need l s = s := by
  cases l with
  | nil => rfl
  | cons b r => exact if_pos h

/-- A lending core as it is about to be granted its level again: its lien has ended. -/
def State.unlent (s : State) (c : Fin 64) (lvl : Nat) : State :=
  let t := (revokeFor c.val (30 * lvl) s.power.grants s).endLien c
  t.setCore c { t.core c with lentLevel := none }

theorem State.unlent_levels {s : State} {c : Fin 64} (lvl : Nat) (h : (s.core c).level = 0) : ((s.unlent c lvl).core c).levels = (0, none) := by
  refine (congrArg Core.levels (State.core_setCore _ _ _)).trans ?_
  change (((revokeFor c.val (30 * lvl) s.power.grants s).core c).level, none) = _
  rw [level_revokeFor _ _ _ h]

theorem State.unlent_arbiter (s : State) (c : Fin 64) (lvl : Nat) : Arbiter s (s.unlent c lvl) :=
  ((Arbiter.revokeFor _ _ _ s).trans (.setPower _ _)).trans (.setCore _ _ _)

theorem State.unlent_liens (s : State) (c : Fin 64) (lvl : Nat) : c.val ∉ (s.unlent c lvl).power.liens.map Lien.core := by
  intro hc
  obtain ⟨l, hl, hlc⟩ := List.mem_map.1 hc
  exact absurd hlc (by simpa using (List.mem_filter.1 hl).2)

/-- R305: with its level covered, a lender's own lien becomes free quanta. -/
theorem State.unlent_covers {s : State} {c : Fin 64} {lvl : Nat} (h0 : (s.core c).level = 0) (hr : s.reservedQ ≤ s.freeQ)
    (h : 30 * lvl ≤ s.ownReserved c + (s.freeQ - s.reservedQ)) : 30 * lvl ≤ (s.unlent c lvl).freeQ - (s.unlent c lvl).reservedQ := by
  have hu : s.unlent c lvl = (s.endLien c).setCore c { (s.endLien c).core c with lentLevel := none } := by
    unfold State.unlent
    rw [revokeFor_of_covered _ h]
  have hfree : s.freeQ ≤ (s.unlent c lvl).freeQ := by
    rw [hu]
    exact (s.endLien c).freeQ_le_setCore c h0
  have hres : s.ownReserved c + (s.unlent c lvl).reservedQ = s.reservedQ := by
    rw [hu]
    exact s.reservedQ_endLien c
  omega

theorem coreRegrant_grants {s : State} {c : Fin 64} {g : Nat} (hlent : (s.core c).lentLevel = some g) (h0 : (s.core c).level = 0)
    (hg : s.granting = true) :
    let lvl := Nat.min g (s.coreCap c)
    ∃ t, exec (.coreRegrant c) s = .next t ∧ (t.core c).level ≤ lvl ∧ (t.core c).lentLevel = none
      ∧ (s.reservedQ ≤ s.freeQ → 30 * lvl ≤ s.ownReserved c + (s.freeQ - s.reservedQ) → (t.core c).level = lvl)
      ∧ ((t.core c).level < lvl → ∃ w ∈ t.power.waiting, w.holder = .core c ∧ w.quanta = 30 * (lvl - (t.core c).level) ∧ w.regrant = true)
      ∧ (∀ l ∈ t.power.liens, l.core ≠ c.val) ∧ SameModule s t ∧ t.mem = s.mem ∧ t.recs = s.recs := by
  intro lvl
  have hexec : exec (.coreRegrant c) s = .next ((s.unlent c lvl).regrant c lvl) := by
    change execCoreRegrant c s = _
    simp only [execCoreRegrant, hlent, hg, if_true]
    rfl
  obtain ⟨hlevels, hcores, hask⟩ := State.regrant_grants lvl (State.unlent_levels lvl h0)
  have hlevel := congrArg Prod.fst hlevels
  have hlien := s.unlent_liens c lvl
  rw [← hcores] at hlien
  refine ⟨_, hexec, ?_, congrArg Prod.snd hlevels, fun hr hcov => ?_, fun hlt => ?_, fun l hl hc => hlien (List.mem_map.2 ⟨l, hl, hc⟩),
    ((s.unlent_arbiter c lvl).trans (.regrant _ c lvl)).leaves⟩
  · exact hlevel.le.trans (Nat.min_le_left _ _)
  · refine hlevel.trans (Nat.min_eq_left ?_)
    rw [Nat.le_div_iff_mul_le (by decide), Nat.mul_comm]
    exact State.unlent_covers h0 hr hcov
  · have hl : (((s.unlent c lvl).regrant c lvl).core c).level = _ := hlevel
    rw [hl] at hlt ⊢
    exact hask hlt

end Sys2Proof.Machine
end

section
/-! SUPPORT. Quantities that do not balance (R31, R32, R298, R324, R349). -/

namespace Sys2Proof.Machine

set_option Elab.async false

open Sys2Proof

/-! ## The event log and the module error -/

theorem State.evlog_msix (s : State) (p : Fin 4) (v : Nat) : (s.msix p v).evlog = s.evlog := by
  obtain ⟨_, _, h⟩ := s.msix_eq p v
  rw [h]

theorem State.intrs_msix (s : State) (p : Fin 4) (v : Nat) : (s.msix p v).intrs = s.intrs := by
  obtain ⟨_, _, h⟩ := s.msix_eq p v
  rw [h]

/-- R362: an event-log entry takes the next number. -/
theorem State.nextSeq_ev (s : State) (k st u a b c d e : Nat) : (s.ev k st u a b c d e).evlog.nextSeq = s.evlog.nextSeq + 1 :=
  List.foldlRecOn (motive := fun t : State => t.evlog.nextSeq = s.evlog.nextSeq + 1) _ _ rfl fun t ht p _ => by
    split
    · exact ht
    · rw [State.evlog_msix, ht]

/-- The module error is reported: its status and every reader's cause (R32, R368). -/
def Alarmed (t : State) : Prop := t.evlog.errStatus = Status.internal ∧ ∀ i, i < 20 → (t.intr i).modErr = true

theorem intr_foldl_setIntr (f : Intr → Intr) (n : Nat) (s : State) (P : Intr → Prop) (hf : ∀ x, P (f x)) :
    ∀ i, i < n → P (((List.range n).foldl (fun t i => t.setIntr i (f (t.intr i))) s).intr i) := by
  induction n with
  | zero => intro i hi; exact absurd hi (Nat.not_lt_zero i)
  | succ n ih =>
    intro i hi
    rw [List.range_succ, List.foldl_append]
    by_cases h : i = n
    · subst h
      exact (State.intr_setIntr _ _ _).symm ▸ hf _
    · exact (State.intr_setIntr_ne _ _ _ h).symm ▸ ih i (by omega)

theorem State.eachIntr_evlog (s : State) (f : Intr → Intr) : (s.eachIntr f).evlog = s.evlog :=
  List.foldlRecOn (motive := fun t : State => t.evlog = s.evlog) _ _ rfl fun _ ht _ _ => ht

theorem State.moduleError_alarmed (s : State) : Alarmed (s.moduleError Status.internal) := by
  have key : ∀ t : State, t.evlog.errStatus = Status.internal → Alarmed ((t.eachIntr fun i => { i with modErr := true }).msixAll 0) :=
    fun t ht => by
      have hmod := intr_foldl_setIntr (fun i => { i with modErr := true }) 20 t (·.modErr = true) fun _ => rfl
      refine ⟨?_, fun i hi => ?_⟩
      · simpa only [State.msixAll, State.evlog_msix, State.eachIntr_evlog] using ht
      · unfold State.intr
        simp only [State.msixAll, State.intrs_msix]
        exact hmod i hi
  exact key _ rfl

theorem State.conservation_alarmed (s : State) (unit row : Nat) : Alarmed (s.conservation unit row) := State.moduleError_alarmed _

/-! ## Pools that stop -/

/-- A quantity whose pool stops when it does not balance (R32). -/
def Ordinary (q : Quantity) : Prop := q ≠ .packCharge ∧ ∀ n, q ≠ .rhizoidCredits n

/-- `t` is `s` but for what reports errors and the pools that have stopped. -/
def Pools (s t : State) : Prop :=
  ∃ ps is ev ig o st, t = { s with ports := ps, intrs := is, evlog := ev, integ := ig, out := o, stopped := st }

namespace Pools
variable {s t u : State}

theorem refl (s : State) : Pools s s := ⟨_, _, _, _, _, _, rfl⟩

theorem trans (h : Pools s t) (k : Pools t u) : Pools s u := by
  obtain ⟨_, _, _, _, _, _, rfl⟩ := h
  obtain ⟨_, _, _, _, _, _, rfl⟩ := k
  exact ⟨_, _, _, _, _, _, rfl⟩

theorem leaves (h : Pools s t) : SameModule s t ∧ t.mem = s.mem ∧ t.recs = s.recs ∧ t.cores = s.cores := by
  obtain ⟨_, _, _, _, _, _, rfl⟩ := h
  exact ⟨⟨rfl, rfl, rfl, rfl, rfl, rfl, rfl, rfl, rfl, rfl, rfl, rfl, rfl⟩, rfl, rfl, rfl⟩

theorem power (h : Pools s t) : t.power = s.power := by
  obtain ⟨_, _, _, _, _, _, rfl⟩ := h
  rfl

end Pools

/-- R32: a stopped pool joins the others. -/
def stopPool (q : Quantity) (l : List Quantity) : List Quantity := if l.contains q then l else q :: l

theorem mem_stopPool (q : Quantity) (l : List Quantity) : q ∈ stopPool q l ∧ ∀ p ∈ l, p ∈ stopPool q l := by
  unfold stopPool
  split
  · next h => exact ⟨List.contains_iff_mem.1 h, fun _ => id⟩
  · exact ⟨List.mem_cons_self, fun _ => List.mem_cons_of_mem _⟩

theorem State.outOfBalance_eq (s : State) {x : Quantity × Nat} (hx : Ordinary x.1) :
    s.outOfBalance x = { s.conservation x.2 (Quantity.row x.1) with stopped := stopPool x.1 (s.conservation x.2 (Quantity.row x.1)).stopped } := by
  obtain ⟨hpack, hport⟩ := hx
  unfold State.outOfBalance
  split
  · next n h => exact absurd h (hport n)
  · next h => exact absurd h hpack
  · rfl

/-- R31, R32: a quantity out of balance raises the module error and stops its pool, and no pool goes on that had stopped. -/
theorem State.outOfBalance_stops (s : State) {x : Quantity × Nat} (hx : Ordinary x.1) :
    Pools s (s.outOfBalance x) ∧ Alarmed (s.outOfBalance x) ∧ x.1 ∈ (s.outOfBalance x).stopped
      ∧ ∀ q ∈ s.stopped, q ∈ (s.outOfBalance x).stopped := by
  have halarmed := s.conservation_alarmed x.2 (Quantity.row x.1)
  have hnotice := (Notice.refl s).conservation x.2 (Quantity.row x.1)
  rw [s.outOfBalance_eq hx]
  generalize s.conservation x.2 (Quantity.row x.1) = t at halarmed hnotice
  obtain ⟨_, _, _, _, _, rfl⟩ := hnotice
  exact ⟨⟨_, _, _, _, _, _, rfl⟩, halarmed, mem_stopPool x.1 s.stopped⟩

/-- R31, R32: every quantity found out of balance stops its pool. -/
theorem foldl_outOfBalance {l : List (Quantity × Nat)} (hl : ∀ x ∈ l, Ordinary x.1) (s : State) :
    let t := l.foldl State.outOfBalance s
    Pools s t ∧ (Alarmed s → Alarmed t) ∧ (∀ q ∈ s.stopped, q ∈ t.stopped) ∧ ∀ x ∈ l, Alarmed t ∧ x.1 ∈ t.stopped := by
  induction l generalizing s with
  | nil => exact ⟨.refl s, id, fun _ => id, fun x hx => absurd hx List.not_mem_nil⟩
  | cons a r ih =>
    obtain ⟨hpools, halarm, hstop, hkeep⟩ := s.outOfBalance_stops (hl a List.mem_cons_self)
    obtain ⟨hpools', halarm', hkeep', hall⟩ := ih (fun x hx => hl x (List.mem_cons_of_mem _ hx)) (s.outOfBalance a)
    refine ⟨hpools.trans hpools', fun _ => halarm' halarm, fun q hq => hkeep' q (hkeep q hq), fun x hx => ?_⟩
    rcases List.mem_cons.1 hx with rfl | hx
    · exact ⟨halarm' halarm, hkeep' _ hstop⟩
    · exact hall x hx

/-! ## The ledger check -/

/-- R298: the state once the holders' counts have been compared with the ledger. -/
def State.heldChecked (s : State) (held : List (Holder × Nat)) : State :=
  match held.find? (fun c => s.ledger c.1 != c.2) with
  | none => s
  | some c => { s.conservation (Holder.unitId c.1) 0 with power := { (s.conservation (Holder.unitId c.1) 0).power with stopped := true } }

theorem execArbiterLedgerCheck_eq (s : State) (held : List (Holder × Nat)) (found : List (Quantity × Nat)) :
    exec (.arbiterLedgerCheck { held, found }) s = .next (found.foldl State.outOfBalance (s.heldChecked held)) := rfl

theorem State.heldChecked_of_agree {s : State} {held : List (Holder × Nat)} (h : ∀ x ∈ held, s.ledger x.1 = x.2) : s.heldChecked held = s := by
  unfold State.heldChecked
  rw [List.find?_eq_none.2 fun x hx => by simp [h x hx]]

/-- R32: a holder that disagrees raises the module error and stops the grants. -/
theorem State.heldChecked_of_disagree {s : State} {held : List (Holder × Nat)} {x : Holder × Nat} (hx : x ∈ held) (h : s.ledger x.1 ≠ x.2) :
    Alarmed (s.heldChecked held) ∧ (s.heldChecked held).power.stopped = true := by
  obtain ⟨c, hc⟩ := Option.isSome_iff_exists.1 (List.find?_isSome.2 ⟨x, hx, by simpa using h⟩ :
    (held.find? fun c => s.ledger c.1 != c.2).isSome = true)
  have halarmed := s.conservation_alarmed (Holder.unitId c.1) 0
  unfold State.heldChecked
  rw [hc]
  dsimp only
  generalize s.conservation (Holder.unitId c.1) 0 = t at halarmed ⊢
  exact ⟨halarmed, rfl⟩

theorem State.heldChecked_leaves (s : State) (held : List (Holder × Nat)) :
    SameModule s (s.heldChecked held) ∧ (s.heldChecked held).mem = s.mem ∧ (s.heldChecked held).recs = s.recs
      ∧ (s.heldChecked held).cores = s.cores := by
  have hsame : ∀ t, (∃ u p, Notice s u ∧ t = { u with power := p }) →
      SameModule s t ∧ t.mem = s.mem ∧ t.recs = s.recs ∧ t.cores = s.cores := by
    rintro t ⟨_, _, ⟨_, _, _, _, _, rfl⟩, rfl⟩
    exact ⟨⟨rfl, rfl, rfl, rfl, rfl, rfl, rfl, rfl, rfl, rfl, rfl, rfl, rfl⟩, rfl, rfl, rfl⟩
  refine hsame _ ?_
  unfold State.heldChecked
  split
  · exact ⟨s, s.power, .refl s, rfl⟩
  · next c _ => exact ⟨_, _, (Notice.refl s).conservation (Holder.unitId c.1) 0, rfl⟩

theorem arbiterLedgerCheck_leaves (s : State) (held : List (Holder × Nat)) {found : List (Quantity × Nat)} (hf : ∀ x ∈ found, Ordinary x.1) :
    let t := found.foldl State.outOfBalance (s.heldChecked held)
    SameModule s t ∧ t.mem = s.mem ∧ t.recs = s.recs ∧ t.cores = s.cores := by
  obtain ⟨hpools, -⟩ := foldl_outOfBalance hf (s.heldChecked held)
  obtain ⟨_, _, _, _, _, _, h⟩ := hpools
  dsimp only
  rw [h]
  exact s.heldChecked_leaves held

theorem arbiterLedgerCheck_held (s : State) {held : List (Holder × Nat)} {found : List (Quantity × Nat)} (hf : ∀ x ∈ found, Ordinary x.1)
    {x : Holder × Nat} (hx : x ∈ held) (h : s.ledger x.1 ≠ x.2) :
    ∃ t, exec (.arbiterLedgerCheck { held, found }) s = .next t ∧ t.granting = false ∧ t.evlog.errStatus = Status.internal
      ∧ (∀ i, i < 20 → (t.intr i).modErr = true) ∧ SameModule s t ∧ t.mem = s.mem ∧ t.recs = s.recs ∧ t.cores = s.cores := by
  obtain ⟨halarmed, hstopped⟩ := State.heldChecked_of_disagree hx h
  obtain ⟨hpools, halarm, -⟩ := foldl_outOfBalance hf (s.heldChecked held)
  obtain ⟨herr, hmod⟩ := halarm halarmed
  refine ⟨_, execArbiterLedgerCheck_eq s held found, ?_, herr, hmod, arbiterLedgerCheck_leaves s held hf⟩
  unfold State.granting
  rw [hpools.power, hstopped]
  rfl

theorem arbiterLedgerCheck_found (s : State) (held : List (Holder × Nat)) {found : List (Quantity × Nat)} (hf : ∀ x ∈ found, Ordinary x.1)
    {q : Quantity} {u : Nat} (hq : (q, u) ∈ found) :
    ∃ t, exec (.arbiterLedgerCheck { held, found }) s = .next t ∧ q ∈ t.stopped ∧ t.evlog.errStatus = Status.internal
      ∧ (∀ i, i < 20 → (t.intr i).modErr = true) ∧ SameModule s t ∧ t.mem = s.mem ∧ t.recs = s.recs ∧ t.cores = s.cores := by
  obtain ⟨-, -, -, hall⟩ := foldl_outOfBalance hf (s.heldChecked held)
  obtain ⟨⟨herr, hmod⟩, hstopped⟩ := hall _ hq
  exact ⟨_, execArbiterLedgerCheck_eq s held found, hstopped, herr, hmod, arbiterLedgerCheck_leaves s held hf⟩

/-! ## Rhizoid credits and the pack's charge -/

/-- A port has lost its credits, and what that leaves (R349). -/
structure PortLost (s : State) (n : Nat) (t : State) : Prop where
  up : (t.rport n).up = false
  mismatch : (t.rport n).mismatch = true
  stopped : t.stopped = s.stopped
  nextSeq : s.evlog.nextSeq ≤ t.evlog.nextSeq
  mem : t.mem = s.mem
  recs : t.recs = s.recs

theorem PortLost.ev {s t : State} {n : Nat} (h : PortLost s n t) (k st u a b c d e : Nat) : PortLost s n (t.ev k st u a b c d e) := by
  have hseq := t.nextSeq_ev k st u a b c d e
  obtain ⟨_, _, _, hev⟩ := t.ev_eq k st u a b c d e
  rw [hev] at hseq ⊢
  exact ⟨h.up, h.mismatch, h.stopped, h.nextSeq.trans (hseq ▸ Nat.le_succ _), h.mem, h.recs⟩

theorem PortLost.rerouteLog {s t : State} {n : Nat} (h : PortLost s n t) (k : Nat) : PortLost s n (t.rerouteLog k) := by
  unfold State.rerouteLog
  split
  · exact h
  · exact h.ev _ _ _ _ _ _ _ _

theorem State.rportDown_eq (s : State) (n : Nat) : ∃ p rp, s.rportDown n = { s with power := p, rports := rp } ∧ (Tbl.get {} rp n).up = false :=
  ⟨_, _, rfl, congrArg RPort.up (Tbl.get_put_same _ _ _ _)⟩

/-- A port as it goes down for credits that do not agree. -/
def State.portLost (s : State) (n : Nat) : State := (s.rportDown n).setRPort n { (s.rportDown n).rport n with mismatch := true }

theorem State.portLost_lost (s : State) (n : Nat) : PortLost s n (s.portLost n) := by
  unfold State.portLost
  obtain ⟨p, rp, hdown, hup⟩ := s.rportDown_eq n
  rw [hdown]
  have hget := State.rport_setRPort { s with power := p, rports := rp } n { Tbl.get ({} : RPort) rp n with mismatch := true }
  exact ⟨(congrArg RPort.up hget).trans hup, congrArg RPort.mismatch hget, rfl, Nat.le_refl _, rfl, rfl⟩

theorem State.creditLost_lost (s : State) (n : Nat) : PortLost s n (s.creditLost n) := by
  have h := (s.portLost_lost n).ev 0x0B Status.linkCredit (unitId 10 n) 3 0 0 0 0
  unfold State.creditLost
  exact iteInduction (fun _ => h.rerouteLog n) (fun _ => h)

/-- R324: a pack that is marked faulted is not ready. -/
theorem State.packSet_faulted (s : State) :
    let t := s.packSet { s.pack with faulted := true }
    t.pack.faulted = true ∧ t.pack.ready = false ∧ t.stopped = s.stopped ∧ s.evlog.nextSeq ≤ t.evlog.nextSeq ∧ t.mem = s.mem
      ∧ t.recs = s.recs := by
  have hfaulted : ∀ p : Pack, p.faulted = true → ∀ t : State, t = { s with pack := p } ∨ t = ({ s with pack := p } : State).ev 0x0C 0 0 p.word →
      t.pack.faulted = true ∧ t.pack.ready = false ∧ t.stopped = s.stopped ∧ s.evlog.nextSeq ≤ t.evlog.nextSeq ∧ t.mem = s.mem
        ∧ t.recs = s.recs := by
    intro p hp t ht
    have hready : p.ready = false := by simp [Pack.ready, hp]
    rcases ht with rfl | rfl
    · exact ⟨hp, hready, rfl, Nat.le_refl _, rfl, rfl⟩
    · have hseq := State.nextSeq_ev { s with pack := p } 0x0C 0 0 p.word 0 0 0 0
      obtain ⟨_, _, _, h⟩ := State.ev_eq { s with pack := p } 0x0C 0 0 p.word 0 0 0 0
      rw [h] at hseq ⊢
      exact ⟨hp, hready, rfl, hseq ▸ Nat.le_succ _, rfl, rfl⟩
  refine hfaulted { s.pack with faulted := true, charging := s.pack.charging && ({ s.pack with faulted := true } : Pack).mayCharge } rfl _ ?_
  exact iteInduction (motive := fun t => t = _ ∨ t = _) (fun _ => .inl rfl) (fun _ => .inr rfl)

theorem arbiterLedgerCheck_rhizoidCredits (s : State) (n : Fin 8) (u : Nat) :
    ∃ t, exec (.arbiterLedgerCheck { held := [], found := [(.rhizoidCredits n, u)] }) s = .next t ∧ (t.rport n).up = false
      ∧ (t.rport n).mismatch = true ∧ t.stopped = s.stopped ∧ s.evlog.nextSeq < t.evlog.nextSeq ∧ t.mem = s.mem ∧ t.recs = s.recs := by
  obtain ⟨hup, hmis, hstop, hle, hmem, hrecs⟩ := (s.ev 0x0F Status.internal u (Quantity.row (.rhizoidCredits n))).creditLost_lost n
  have hseq := s.nextSeq_ev 0x0F Status.internal u (Quantity.row (.rhizoidCredits n)) 0 0 0 0
  obtain ⟨_, _, _, hev⟩ := s.ev_eq 0x0F Status.internal u (Quantity.row (.rhizoidCredits n)) 0 0 0 0
  refine ⟨_, execArbiterLedgerCheck_eq s [] _, hup, hmis, hstop.trans (by rw [hev]), ?_, hmem.trans (by rw [hev]), hrecs.trans (by rw [hev])⟩
  exact Nat.lt_of_lt_of_le (hseq ▸ Nat.lt_succ_self _) hle

theorem arbiterLedgerCheck_packCharge (s : State) (u : Nat) :
    ∃ t, exec (.arbiterLedgerCheck { held := [], found := [(.packCharge, u)] }) s = .next t ∧ t.pack.faulted = true
      ∧ t.pack.ready = false ∧ t.stopped = s.stopped ∧ s.evlog.nextSeq < t.evlog.nextSeq ∧ t.mem = s.mem ∧ t.recs = s.recs := by
  obtain ⟨hfault, hready, hstop, hle, hmem, hrecs⟩ := (s.ev 0x0F Status.internal u (Quantity.row .packCharge)).packSet_faulted
  have hseq := s.nextSeq_ev 0x0F Status.internal u (Quantity.row .packCharge) 0 0 0 0
  obtain ⟨_, _, _, hev⟩ := s.ev_eq 0x0F Status.internal u (Quantity.row .packCharge) 0 0 0 0
  refine ⟨_, execArbiterLedgerCheck_eq s [] _, hfault, hready, hstop.trans (by rw [hev]), ?_, hmem.trans (by rw [hev]), hrecs.trans (by rw [hev])⟩
  exact Nat.lt_of_lt_of_le (hseq ▸ Nat.lt_succ_self _) hle

/-- Settles O21: one lemma per command of the arbiter. -/
theorem arbiterCommands : Obligations.ArbiterCommands := by
  intro s
  refine ⟨quantaRequest_ask s, fun c n => quantaRequest_giveBack_core s c, fun k n => quantaRequest_giveBack_stack s k,
    fun at_ w hg hn => ⟨fun hw => ?_, fun hw => ?_⟩, fun c => coreLend_lends, fun c g => coreRegrant_grants, fun held h => ?_,
    fun held found hf => ⟨fun x => arbiterLedgerCheck_held s hf, fun q u => arbiterLedgerCheck_found s held hf⟩,
    arbiterLedgerCheck_rhizoidCredits s, arbiterLedgerCheck_packCharge s⟩
  · rw [quantaGrant_serves hg hn, if_pos hw]
  · exact quantaGrant_grants hg hn hw
  · rw [execArbiterLedgerCheck_eq, State.heldChecked_of_agree h]
    rfl

end Sys2Proof.Machine
end

section
/-! SUPPORT. The layout over every command (R45 to R48). -/

namespace Sys2Proof.Machine

set_option Elab.async false

open Sys2Proof

/-- Settles O5: every command but `SET_LAYOUT` keeps what `Keeps` names (`Keeps.exec`), the layout among it. -/
theorem onlySetLayoutChangesTheLayout : Obligations.OnlySetLayoutChangesTheLayout := by
  intro c s t h hc
  obtain ⟨-, hlay, -, -⟩ := (Keeps.refl s).exec c hc t h
  exact hlay

end Sys2Proof.Machine
end

section
/-! SUPPORT. Address decode (R36 to R40): what each pool's decode gives, and how `Layout.dpaOf` takes it back. -/

namespace Sys2Proof.Machine

set_option Elab.async false

open Sys2Proof

theorem bits_eq_div_mod (x lo len : Nat) : bits x lo len = x / 2 ^ lo % 2 ^ len := by
  unfold bits
  rw [Nat.shiftRight_eq_div_pow]

/-! ## Places and their numbers (R12, R14) -/

theorem locOf_num {p : Loc} (hb : p.bank < 32) (hr : p.row < 32768) (hc : p.col < 32) : locOf p.num = p := by
  obtain ⟨g, b, r, c⟩ := p
  simp only at hb hr hc
  simp only [locOf, Loc.num, Loc.mk.injEq]
  omega

/-- R14: the frond, stack, channel and half of a pseudo-channel number that is put together of them. -/
theorem gpc_parts (f : Nat) {stack ch half : Nat} (hs : stack < 8) (hc : ch < 32) (hh : half < 2) :
    (2 * (32 * (8 * f + stack) + ch) + half) / 512 = f ∧ (2 * (32 * (8 * f + stack) + ch) + half) / 64 % 8 = stack
      ∧ (2 * (32 * (8 * f + stack) + ch) + half) / 2 % 32 = ch ∧ (2 * (32 * (8 * f + stack) + ch) + half) % 2 = half := by
  omega

/-! ## Channels by their place in a list -/

/-- In a list without repeats, an entry stands behind as many others as its index says. -/
theorem length_takeWhile_ne_getD {l : List Nat} (hl : l.Nodup) {i : Nat} (hi : i < l.length) :
    (l.takeWhile (· != l.getD i 0)).length = i := by
  induction l generalizing i with
  | nil => exact absurd hi (Nat.not_lt_zero i)
  | cons a l ih =>
    obtain ⟨ha, hl⟩ := List.nodup_cons.1 hl
    cases i with
    | zero => simp
    | succ i =>
      have hi : i < l.length := Nat.lt_of_succ_lt_succ hi
      have hne : a ≠ l.getD i 0 := fun h => ha (by rw [h, List.getD_eq_getElem _ _ hi]; exact List.getElem_mem hi)
      rw [List.getD_cons_succ, List.takeWhile_cons_of_pos (by simpa using hne), List.length_cons, ih hl hi]

theorem selectionOrder_nodup : selectionOrder.Nodup := by decide

theorem selectionOrder_getD_lt {i : Nat} (hi : i < 32) : selectionOrder.getD i 0 < 32 := by
  have h : ∀ i : Fin 32, selectionOrder.getD i 0 < 32 := by decide
  exact h ⟨i, hi⟩

theorem selectionOrder_take_contains {i m : Nat} (him : i < m) (hm : m ≤ 32) : (selectionOrder.take m).contains (selectionOrder.getD i 0) = true := by
  have hi : i < selectionOrder.length := Nat.lt_of_lt_of_le him hm
  rw [List.contains_iff_mem, List.getD_eq_getElem _ _ hi]
  exact List.mem_take_iff_getElem.2 ⟨i, by simp [him, hi], rfl⟩

/-- R36, R40: the channels of a stack that a selection of `m` leaves bank-local. -/
theorem length_unselected {m : Nat} (hm : m ≤ 32) : ((List.range 32).filter fun c => !((selectionOrder.take m).contains c)).length = 32 - m := by
  have h : ∀ m : Fin 33, ((List.range 32).filter fun c => !((selectionOrder.take m).contains c)).length = 32 - m := by decide +kernel
  exact h ⟨m, Nat.lt_succ_of_le hm⟩

/-! ## Layouts that may be applied (R44) -/

/-- R44: the counts of a layout are multiples of 16 of at most 512, and one count in module-wide mode. -/
structure Layout.Sound (l : Layout) : Prop where
  dvd : ∀ f, l.n f % 16 = 0
  le : ∀ f, l.n f ≤ 512
  wide : l.mode = 1 → ∀ f, l.n f = l.n0

theorem clampCount_sound (x : Nat) : clampCount x % 16 = 0 ∧ clampCount x ≤ 512 := by
  unfold clampCount
  split
  · decide
  · split <;> omega

theorem layoutApplied_sound (mode a b c d : Nat) : (layoutApplied mode a b c d).Sound := by
  have hn : ∀ f, ∃ x, (layoutApplied mode a b c d).n f = clampCount x := fun f => by
    unfold layoutApplied Layout.n
    dsimp only
    split <;> split <;> exact ⟨_, rfl⟩
  refine ⟨fun f => ?_, fun f => ?_, fun hm f => ?_⟩
  · obtain ⟨x, hx⟩ := hn f
    rw [hx]
    exact (clampCount_sound x).1
  · obtain ⟨x, hx⟩ := hn f
    rw [hx]
    exact (clampCount_sound x).2
  · unfold layoutApplied at hm ⊢
    by_cases h : mode = 1
    · simp only [h, if_true]
      unfold Layout.n
      split <;> rfl
    · simp only [h, if_false] at hm

/-! ## The interleaved pool (R36 to R38) -/

/-- R38: the granule of its set that a place of the interleaved pool holds, and the member that it is. -/
structure Interleaves (p : Loc) (f j q x : Nat) : Prop where
  frond : p.gpc / 512 = f
  channel : p.gpc / 2 % 32 = selectionOrder.getD (j / 16) 0
  member : 8 * (2 * (j / 16) + p.gpc % 2) + p.gpc / 64 % 8 = j
  granule : p.row * 128 + (p.bank ^^^ (p.row % 32)) * 4 + p.col / 8 = q
  column : p.col % 8 = x
  place : locOf p.num = p

/-- R38: the decode of an offset below the set's size names the granule of a member. -/
theorem interleaved_interleaves (wide : Bool) (frond members off : Nat) (hoff : off < members * 2 ^ 30)
    (hj : (if wide then off / 256 % members / 4 else off / 256 % members) < 512) :
    Interleaves (interleaved wide frond members off) (if wide then off / 256 % members % 4 else frond)
      (if wide then off / 256 % members / 4 else off / 256 % members) (off / 256 / members) (off / 32 % 8) := by
  unfold interleaved
  dsimp only
  have hq : off / 256 / members < 2 ^ 22 := Nat.div_lt_of_lt_mul (by omega)
  generalize (if wide then off / 256 % members % 4 else frond) = f
  generalize (if wide then off / 256 % members / 4 else off / 256 % members) = j at hj ⊢
  generalize off / 256 / members = q at hq ⊢
  simp only [bits_eq_div_mod]
  obtain ⟨hf, hstack, hch, hhalf⟩ := gpc_parts f (Nat.mod_lt j (by decide : 0 < 8)) (selectionOrder_getD_lt (by omega : j / 8 / 2 < 32))
    (Nat.mod_lt (j / 8) (by decide : 0 < 2))
  have hbank : q / 2 ^ 2 % 2 ^ 5 ^^^ q / 2 ^ 7 % 2 ^ 5 < 2 ^ 5 :=
    Nat.xor_lt_two_pow (Nat.mod_lt _ (by decide)) (Nat.mod_lt _ (by decide))
  have hrow : q / 2 ^ 7 % 2 ^ 15 % 32 = q / 2 ^ 7 % 2 ^ 5 := by omega
  refine ⟨hf, ?_, ?_, ?_, by dsimp only; omega, locOf_num hbank (Nat.mod_lt _ (by decide)) (by dsimp only; omega)⟩
  · rw [hch, Nat.div_div_eq_div_mul]
  · rw [hstack, hhalf]; omega
  · dsimp only
    rw [hrow, Nat.xor_xor_cancel_right]
    omega

/-- R282: what `Layout.dpaOf` gives for a column of the interleaved pool. -/
theorem Layout.dpaOf_interleaves {l : Layout} (hl : l.Sound) {p : Loc} {f j q x : Nat} (h : Interleaves p f j q x) (hj : j < l.n f) :
    l.dpaOf p.num = (if l.mode = 1 then 0 else l.base f * 2 ^ 30) + (if l.mode = 1 then q * (4 * l.n0) + (4 * j + f) else q * l.n f + j) * 256
      + x * 32 := by
  obtain ⟨hf, hch, hmem, hq, hx, hplace⟩ := h
  have hle := hl.le f
  have hdvd := hl.dvd f
  have hin : l.inPool p.gpc = true := by
    unfold Layout.inPool
    rw [hf, hch]
    exact selectionOrder_take_contains (by omega) (by omega)
  have hidx : (selectionOrder.takeWhile (· != p.gpc / 2 % 32)).length = j / 16 := by
    rw [hch]
    exact length_takeWhile_ne_getD selectionOrder_nodup (show j / 16 < 32 by omega)
  unfold Layout.dpaOf
  simp only [hplace, hin, if_true, hidx, hf, hmem, hq, hx]

/-- R37: the sets of the fronds follow each other. -/
theorem Layout.frondOfGiB_spec (l : Layout) {w : Nat} (h : w < l.first) :
    l.base (l.frondOfGiB w) ≤ w ∧ w < l.base (l.frondOfGiB w) + l.n (l.frondOfGiB w) := by
  have h0 : l.base 0 = 0 := rfl
  have h1 : l.base 1 = l.n0 := by simp [Layout.base, Layout.n, sumNat, List.range_succ]
  have h2 : l.base 2 = l.n0 + l.n1 := by simp [Layout.base, Layout.n, sumNat, List.range_succ]
  have h3 : l.base 3 = l.n0 + (l.n1 + l.n2) := by simp [Layout.base, Layout.n, sumNat, List.range_succ]
  unfold Layout.first at h
  unfold Layout.frondOfGiB
  split
  · exact ⟨Nat.zero_le w, by simp only [Layout.n]; omega⟩
  · split
    · simp only [Layout.n]; omega
    · split <;> simp only [Layout.n] <;> omega

/-- R38: module-wide mode. -/
theorem Layout.dpaOf_wide {l : Layout} (hl : l.Sound) (hm : l.mode = 1) {dpa : Nat} (h : dpa / 2 ^ 30 < l.first) :
    l.dpaOf (interleaved true 0 (4 * l.n0) dpa).num = dpa / 32 * 32 := by
  have hwide := hl.wide hm
  have hfirst : l.first = 4 * l.n0 := by
    have h1 : l.n1 = l.n0 := hwide 1
    have h2 : l.n2 = l.n0 := hwide 2
    have h3 : l.n3 = l.n0 := hwide 3
    unfold Layout.first
    omega
  have hle : l.n0 ≤ 512 := hl.le 0
  have hpos : 0 < 4 * l.n0 := by omega
  have hj0 := Nat.mod_lt (dpa / 256) hpos
  have hI := interleaved_interleaves true 0 (4 * l.n0) dpa (by omega) (show dpa / 256 % (4 * l.n0) / 4 < 512 by omega)
  simp only [if_true] at hI
  rw [Layout.dpaOf_interleaves hl hI (by rw [hwide]; omega), if_pos hm, if_pos hm, Nat.div_add_mod, Nat.mul_comm _ (4 * l.n0), Nat.div_add_mod]
  omega

/-- R37, R38: an address in a set of `n` GiB from GiB `b` on, by its offset in the set. -/
theorem offset_in_set {dpa b n : Nat} (hlo : b ≤ dpa / 2 ^ 30) (hhi : dpa / 2 ^ 30 < b + n) :
    dpa - b * 2 ^ 30 < n * 2 ^ 30 ∧ b * 2 ^ 30 + (dpa - b * 2 ^ 30) / 256 * 256 + (dpa - b * 2 ^ 30) / 32 % 8 * 32 = dpa / 32 * 32 := by
  constructor <;> omega

/-- R38: per-frond mode. -/
theorem Layout.dpaOf_perFrond {l : Layout} (hl : l.Sound) (hm : l.mode ≠ 1) {f off : Nat} (hoff : off < l.n f * 2 ^ 30) :
    l.dpaOf (interleaved false f (l.n f) off).num = l.base f * 2 ^ 30 + off / 256 * 256 + off / 32 % 8 * 32 := by
  have hle := hl.le f
  have hj := Nat.mod_lt (off / 256) (show 0 < l.n f by omega)
  have hI := interleaved_interleaves false f (l.n f) off hoff (Nat.lt_of_lt_of_le hj hle)
  simp only [Bool.false_eq_true, if_false] at hI
  rw [Layout.dpaOf_interleaves hl hI hj, if_neg hm, if_neg hm, Nat.mul_comm _ (l.n f), Nat.div_add_mod]

/-! ## The bank-local windows (R39, R40) -/

/-- R40: the bank-local pseudo-channels of the fronds below `f`. -/
def Layout.localsBelow (l : Layout) (f : Nat) : Nat := sumNat ((List.range f).map fun g => 512 - l.n g)

theorem sumNat_append (a b : List Nat) : sumNat (a ++ b) = sumNat a + sumNat b := by
  induction a with
  | nil => simp [sumNat]
  | cons x a ih => simp only [List.cons_append, sumNat, ih, Nat.add_assoc]

theorem Layout.localsBelow_succ (l : Layout) (f : Nat) : l.localsBelow (f + 1) = l.localsBelow f + (512 - l.n f) := by
  unfold Layout.localsBelow
  rw [List.range_succ, List.map_append, sumNat_append]
  rfl

/-- R40: the index that `Layout.localIndex` gives the pseudo-channel of a bank-local channel. -/
theorem Layout.local_of_channel {l : Layout} (hl : l.Sound) {f i : Nat} (hi : i < 512 - l.n f) :
    let per := (512 - l.n f) / 8
    let g := 2 * (32 * (8 * f + i / per) + (l.localChannels f).getD (i % per / 2) 0) + i % per % 2
    l.inPool g = false ∧ l.localIndex g = l.localsBelow f + i := by
  have hle := hl.le f
  have hdvd := hl.dvd f
  have hlen : (l.localChannels f).length = 32 - l.n f / 16 := length_unselected (by omega)
  have hper : (512 - l.n f) / 8 = 2 * (32 - l.n f / 16) := by omega
  have hmem : 8 * ((512 - l.n f) / 8) = 512 - l.n f := by omega
  have hnodup : (l.localChannels f).Nodup := List.nodup_range.filter _
  dsimp only
  generalize (512 - l.n f) / 8 = per at hper hmem ⊢
  have hr := Nat.mod_lt i (show 0 < per by omega)
  have hstack : i / per < 8 := Nat.div_lt_of_lt_mul (by omega)
  have hdiv := Nat.div_add_mod i per
  generalize hst : i / per = st at hstack hdiv ⊢
  generalize i % per = r at hr hdiv ⊢
  have hidx : r / 2 < (l.localChannels f).length := by omega
  have hch : (l.localChannels f).getD (r / 2) 0 ∈ l.localChannels f := by rw [List.getD_eq_getElem _ _ hidx]; exact List.getElem_mem hidx
  have htake := length_takeWhile_ne_getD hnodup hidx
  generalize (l.localChannels f).getD (r / 2) 0 = ch at hch htake ⊢
  obtain ⟨hch32, hsel⟩ := List.mem_filter.1 hch
  obtain ⟨hf, hs, hc, hh⟩ := gpc_parts f hstack (List.mem_range.1 hch32) (Nat.mod_lt r (by decide : 0 < 2))
  refine ⟨?_, ?_⟩
  · unfold Layout.inPool
    rw [hf, hc]
    simpa using hsel
  · unfold Layout.localIndex
    simp only [hf, hs, hc, hh, htake]
    show l.localsBelow f + st * ((512 - l.n f) / 8) + 2 * (r / 2) + r % 2 = _
    rw [show (512 - l.n f) / 8 = per by omega, Nat.mul_comm st]
    omega

/-- R40: the pseudo-channel of a bank-local window is not interleaved, and its index is the window's. -/
theorem Layout.localPc_spec {l : Layout} (hl : l.Sound) (fuel : Nat) {f i : Nat} (h : l.localsBelow f + i < l.localsBelow (f + fuel)) :
    l.inPool (l.localPc fuel f i) = false ∧ l.localIndex (l.localPc fuel f i) = l.localsBelow f + i := by
  induction fuel generalizing f i with
  | zero => exact absurd h (by simp)
  | succ n ih =>
    unfold Layout.localPc
    dsimp only
    split
    · next hi => exact Layout.local_of_channel hl hi
    · next hi =>
      have hsucc := l.localsBelow_succ f
      have hsum : l.localsBelow (f + 1) + (i - (512 - l.n f)) = l.localsBelow f + i := by omega
      rw [← hsum]
      exact ih (by rw [hsum, Nat.add_right_comm]; exact h)

theorem Layout.dpaOf_local {l : Layout} (hl : l.Sound) {dpa : Nat} (h : dpa < 2 ^ 41) (hw : l.first ≤ dpa / 2 ^ 30) :
    l.dpaOf ({ gpc := l.localPc 4 0 (dpa / 2 ^ 30 - l.first), bank := bits dpa 25 5, row := bits dpa 10 15, col := bits dpa 5 5 } : Loc).num
      = dpa / 32 * 32 := by
  have hbelow : l.localsBelow 4 + l.first = 2048 := by
    have h0 := hl.le 0
    have h1 := hl.le 1
    have h2 := hl.le 2
    have h3 := hl.le 3
    simp only [Layout.localsBelow_succ, Layout.first]
    simp only [Layout.n, show l.localsBelow 0 = 0 from rfl] at h0 h1 h2 h3 ⊢
    omega
  obtain ⟨hin, hidx⟩ := Layout.localPc_spec hl 4 (f := 0) (i := dpa / 2 ^ 30 - l.first)
    (by rw [show l.localsBelow 0 = 0 from rfl]; simp only [Nat.zero_add]; omega)
  have hlow : ∀ lo len, bits dpa lo len < 2 ^ len := fun lo len => by rw [bits_eq_div_mod]; exact Nat.mod_lt _ (Nat.two_pow_pos len)
  unfold Layout.dpaOf
  rw [locOf_num (hlow 25 5) (hlow 10 15) (hlow 5 5)]
  simp only [hin, hidx, Bool.false_eq_true, if_false, bits_eq_div_mod, show l.localsBelow 0 = 0 from rfl]
  omega

/-- Settles O60: the decode of each pool is taken back (`Layout.dpaOf_wide`, `Layout.dpaOf_perFrond`, `Layout.dpaOf_local`). -/
theorem addressDecodeIsOneToOne : Obligations.AddressDecodeIsOneToOne := by
  intro mode a b c d dpa _ hdpa
  have hl := layoutApplied_sound mode a b c d
  dsimp only
  generalize layoutApplied mode a b c d = l at hl ⊢
  unfold Layout.colOf Layout.loc
  dsimp only
  split
  · next hw =>
    split
    · next hm => exact Layout.dpaOf_wide hl hm hw
    · next hm =>
      obtain ⟨hlo, hhi⟩ := l.frondOfGiB_spec hw
      obtain ⟨hoff, hsum⟩ := offset_in_set hlo hhi
      exact (Layout.dpaOf_perFrond hl hm hoff).trans hsum
  · next hw => exact Layout.dpaOf_local hl hdpa (Nat.not_lt.1 hw)

end Sys2Proof.Machine
end

section
/-! SUPPORT. Commands that only read (R44, R283, R317, R319, R320, R364, R388 to R392). -/

namespace Sys2Proof.Machine

set_option Elab.async false

open Sys2Proof

/-- R270, R272, R388: an admitted request whose command has executed, in a state `u` that has the mailbox of `s`, is answered there, with the
command's body or with the ownership body. -/
theorem molian_done {s u : State} {mb : Fin 32} {op st bl body : Nat} {cl : List Clamp} {a : Auth} {len : Req → Nat}
    {fs : Req → List (Nat × Nat)} {run : Req → State → Ans} (h : Admitted s mb op a (len (s.req mb)) (fs (s.req mb)))
    (hrun : run (s.req mb) s = .done st bl body cl u) (hm : u.mbox mb = s.mbox mb) :
    Ends s u (molian mb op a len fs run s) mb (clampStatus st cl) (if returnsOwnership op then 24 else bl)
      (if returnsOwnership op then u.ownershipBody else body) := by
  have hreq : u.req mb = s.req mb := by unfold State.req; rw [hm]
  have ⟨_, _, hdiscard, hbehind, hop, _⟩ := h
  have hends := u.reply_ends mb st bl body cl (by rw [hm, hdiscard]) (by rw [hm, hbehind])
  rw [hreq, hop] at hends
  obtain ⟨hanswered, honly⟩ := hends
  rw [molian_run run h, hrun]
  exact ⟨hreq ▸ hanswered, honly⟩

theorem completed_of_ends {s u t : State} {mb : Fin 32} {st bl body : Nat} (h : Ends s u t mb st bl body) : Completed t mb st := by
  obtain ⟨⟨hst, hcur, -, hlast, -, -, -, hresp, -⟩, -⟩ := h
  exact ⟨hst, hcur, hlast, hresp⟩

theorem talk_of_ends {s u t : State} {mb : Fin 32} {st bl body : Nat} (h : Ends s u t mb st bl body) : Talk u t := by
  obtain ⟨-, htalk, -⟩ := h
  exact htalk

/-- R272: a command of a fixed layout that answers `OK` without a clamp. -/
theorem molianFixed_ok {s u : State} {mb : Fin 32} {op len bl body : Nat} {a : Auth} {fs : List (Nat × Nat)} {run : Req → State → Ans}
    (h : Admitted s mb op a len (bodyFields fs)) (hrun : run (s.req mb) s = .done 0 bl body [] u) (hm : u.mbox mb = s.mbox mb) :
    Ends s u (molianFixed mb op a len fs run s) mb 0 (if returnsOwnership op then 24 else bl) (if returnsOwnership op then u.ownershipBody else body) :=
  molian_done (len := fun _ => len) (fs := fun _ => bodyFields fs) h hrun hm

/-- R389: a command that reads the state as it stands. -/
theorem molianFixed_reads {s : State} {mb : Fin 32} {op len bl body : Nat} {a : Auth} {fs : List (Nat × Nat)} {run : Req → State → Ans}
    (h : Admitted s mb op a len (bodyFields fs)) (hop : returnsOwnership op = false) (hrun : run (s.req mb) s = .done 0 bl body [] s) :
    ∃ t, Host.Outcome.next (molianFixed mb op a len fs run s) = (.next t : Host.Outcome State Fault Refusal) ∧ Ends s s t mb 0 bl body := by
  have hends := molianFixed_ok h hrun rfl
  rw [hop] at hends
  exact ⟨_, rfl, hends⟩

/-! ## The logs (R283, R364, R392) -/

theorem clampNat_of_mem {lo hi x : Nat} (h1 : lo ≤ x) (h2 : x ≤ hi) : clampNat lo hi x = x := by
  unfold clampNat
  rw [if_neg (Nat.not_lt.2 h1), if_neg (Nat.not_lt.2 h2)]

theorem clampOf_self (off w x : Nat) : clampOf off w x x = [] := if_pos rfl

theorem getErrlog_answers {s : State} {mb : Fin 32} (h : Admitted s mb 0x0A02 .any 10 (bodyFields [(0x10, 64), (0x18, 16)]))
    (h1 : 1 ≤ (s.req mb).fld 0x18 16) (h2 : (s.req mb).fld 0x18 16 ≤ 95) :
    let es := (s.integ.log.reverse.filter fun e => decide ((s.req mb).fld 0x10 64 ≤ e.seq)).take ((s.req mb).fld 0x18 16)
    ∃ t, exec (.getErrlog mb) s = .next t ∧ Ends s s t mb 0 (16 + 32 * es.length)
      (logBody (overwritten ((s.req mb).fld 0x10 64) s.errOldest) (es.map ErrEntry.bits) 32
        ((es.getLast?.map fun e => e.seq + 1).getD s.integ.nextSeq)) := by
  refine molianFixed_reads h rfl ?_
  dsimp only
  rw [clampNat_of_mem h1 h2, clampOf_self]
  congr 2
  split <;> next hl => rw [hl]; rfl

theorem getEventLog_answers {s : State} {mb : Fin 32} (h : Admitted s mb 0x0E01 .any 10 (bodyFields [(0x10, 64), (0x18, 16)]))
    (h1 : 1 ≤ (s.req mb).fld 0x18 16) (h2 : (s.req mb).fld 0x18 16 ≤ 47) :
    let es := wholeGroups (s.evlog.log.reverse.filter fun e => decide ((s.req mb).fld 0x10 64 ≤ e.seq)) ((s.req mb).fld 0x18 16)
    ∃ t, exec (.getEventLog mb) s = .next t ∧ Ends s s t mb 0 (16 + 64 * es.length)
      (logBody (overwritten ((s.req mb).fld 0x10 64) s.evOldest) (es.map EvEntry.bits) 64
        ((es.getLast?.map fun e => e.seq + 1).getD s.evlog.nextSeq)) := by
  refine molianFixed_reads h rfl ?_
  dsimp only
  rw [clampNat_of_mem h1 h2, clampOf_self]
  congr 2
  split <;> next hl => rw [hl]; rfl

/-- R317: whether a mailbox's read of the shut-down record sets `SD_READ`. -/
theorem mbAgent_isPort (mb : Fin 32) (b : Bool) :
    (match mbAgent mb with
      | .port _ => b
      | .hcore _ => false) = (decide (mb.val < 16) && b) := by
  unfold mbAgent
  by_cases h : mb.val < 16
  · simp only [h, if_true, decide_true, Bool.true_and]
  · simp only [h, if_false, decide_false, Bool.false_and]

theorem getShutdownRecord_answers {s : State} {mb : Fin 32} (h : Admitted s mb 0x0E02 .any 0 []) :
    ∃ t, exec (.getShutdownRecord mb) s = .next t
      ∧ Ends s { s with shut := { s.shut with read := s.shut.read || (decide (mb.val < 16) && decide (s.shut.kind ≠ 0)) } } t mb 0 32
          s.recordBody := by
  refine ⟨_, rfl, molianFixed_ok h ?_ rfl⟩
  rw [← mbAgent_isPort]
  rfl

/-- Settles O9: each command reads the state as it stands (`molianFixed_reads`); `GET_OWNER` returns the ownership body as every request of
its kind does (R388); `GET_SHUTDOWN_RECORD` answers in the state with `SD_READ`. -/
theorem readCommandsAnswer : Obligations.ReadCommandsAnswer := by
  refine ⟨fun s mb => ⟨fun h => molianFixed_reads h rfl rfl, fun h => molianFixed_reads h rfl rfl, fun h => ⟨_, rfl, molianFixed_ok h rfl rfl⟩,
    fun h => molianFixed_reads h rfl rfl, fun h => molianFixed_reads h rfl rfl, fun h => molianFixed_reads h rfl rfl,
    fun h => molianFixed_reads h rfl rfl⟩, fun s mb => ⟨getErrlog_answers, getEventLog_answers, getShutdownRecord_answers⟩⟩

end Sys2Proof.Machine
end

section
/-! SUPPORT. What accesses and steps at the bank pairs may change of the module (R22, R23, R47, R59 to R101, R278 to R284). -/

namespace Sys2Proof.Machine

set_option Elab.async false

open Sys2Proof

/-- `t` is `s` but for device memory, bank pairs, channels, what the fabric carries, the tokens, the logs and what reports them. -/
def AtBanks (s t : State) : Prop :=
  ∃ m ig cs ps fl fh pw pt is ev o, t = { s with
    mem := m, integ := ig, chans := cs, pairs := ps, flinks := fl, fabricHeld := fh, power := pw, ports := pt, intrs := is, evlog := ev, out := o }

namespace AtBanks
variable {s t u : State}

theorem refl (s : State) : AtBanks s s := ⟨_, _, _, _, _, _, _, _, _, _, _, rfl⟩

theorem trans (h : AtBanks s t) (k : AtBanks t u) : AtBanks s u := by
  obtain ⟨_, _, _, _, _, _, _, _, _, _, _, rfl⟩ := h
  obtain ⟨_, _, _, _, _, _, _, _, _, _, _, rfl⟩ := k
  exact ⟨_, _, _, _, _, _, _, _, _, _, _, rfl⟩

theorem notice (h : AtBanks s t) (n : Notice t u) : AtBanks s u := by
  obtain ⟨_, _, _, _, _, rfl⟩ := n
  exact h.trans ⟨_, _, _, _, _, _, _, _, _, _, _, rfl⟩

theorem reads (h : AtBanks s t) {cols : List Nat} (k : Reads t u cols) : AtBanks s u := by
  obtain ⟨⟨_, _, _, _, _, _, rfl⟩, -⟩ := k
  exact h.trans ⟨_, _, _, _, _, _, _, _, _, _, _, rfl⟩

theorem ite {c : Prop} [Decidable c] {a b : State} (ha : AtBanks s a) (hb : AtBanks s b) : AtBanks s (if c then a else b) := by
  split <;> assumption

theorem foldl {α : Type} {f : State → α → State} (hf : ∀ t x, AtBanks s t → AtBanks s (f t x)) (l : List α) (h : AtBanks s t) :
    AtBanks s (l.foldl f t) :=
  List.foldlRecOn (motive := AtBanks s) l f h fun t ht x _ => hf t x ht

theorem setMem (h : AtBanks s t) (m : DMem) : AtBanks s { t with mem := m } := h.trans ⟨_, _, _, _, _, _, _, _, _, _, _, rfl⟩
theorem setPower (h : AtBanks s t) (p : Power) : AtBanks s { t with power := p } := h.trans ⟨_, _, _, _, _, _, _, _, _, _, _, rfl⟩
theorem setFabric (h : AtBanks s t) (fl : Tbl FLink) (fh : List (Nat × OrdAccess)) : AtBanks s { t with flinks := fl, fabricHeld := fh } :=
  h.trans ⟨_, _, _, _, _, _, _, _, _, _, _, rfl⟩
theorem setChan (h : AtBanks s t) (ch : Nat) (c : Chan) : AtBanks s (t.setChan ch c) := h.trans ⟨_, _, _, _, _, _, _, _, _, _, _, rfl⟩
theorem setPair (h : AtBanks s t) (su : Nat) (p : Pair) : AtBanks s (t.setPair su p) := h.trans ⟨_, _, _, _, _, _, _, _, _, _, _, rfl⟩

/-! ## Ordinary accesses -/

theorem writeFull (h : AtBanks s t) (req : Requester) (col : Nat) (d : BitVec 256) (p : Bool) : AtBanks s (t.writeFull req col d p) := by
  unfold State.writeFull
  dsimp only
  split
  · exact h.setMem _
  · exact (h.setMem _).notice ((Notice.refl _).err _ _ _ _ _)

theorem writeMasked (h : AtBanks s t) (req : Requester) (col : Nat) (d : BitVec 256) (be : Nat) (p : Bool) :
    AtBanks s (t.writeMasked req col d be p) := by
  unfold State.writeMasked
  dsimp only
  split
  · exact h.setMem _
  · exact (h.setMem _).notice ((Notice.refl _).err _ _ _ _ _)

theorem writeBytes (h : AtBanks s t) (req : Requester) (col : Nat) (d : BitVec 256) (be : Nat) (p : Bool) :
    AtBanks s (t.writeBytes req col d be p) := ite (ite (h.writeFull _ _ _ _) (ite h (h.writeMasked _ _ _ _ _))) h

theorem writePart (h : AtBanks s t) (req : Requester) (col : Nat) (d : BitVec 256) (be : Nat) (p : Bool) :
    AtBanks s (t.writePart req col d be p) := ite (h.writeMasked _ _ _ _ _) h

theorem writeHost (h : AtBanks s t) (a b : Nat) (l : BitVec 512) (be : Word64) (p : Bool) : AtBanks s (t.writeHost a b l be p) :=
  ite ((h.writeBytes _ _ _ _ _).writeBytes _ _ _ _ _) ((h.writePart _ _ _ _ _).writePart _ _ _ _ _)

theorem toHost (h : AtBanks s t) (p : Fin 4) (o : Out) : AtBanks s (t.toHost p o) := h.notice ((Notice.refl t).toHost p o)

theorem serveOne (h : AtBanks s t) (a : OrdAccess) : AtBanks s (t.serveOne a) := by
  cases a with
  | read req col => exact (h.reads (Reads.noteRead t req col)).notice ((Notice.refl _).emit _)
  | write => exact ite (h.writeFull _ _ _ _) h
  | lineRead p a b => exact (h.reads (Reads.noteReads t .host [a, b])).toHost _ _
  | lineWrite => exact (h.writeHost _ _ _ _ _).toHost _ _

theorem served (h : AtBanks s t) (su : Nat) (a : OrdAccess) (rest : List OrdAccess) : AtBanks s (t.served su a rest) :=
  ite (((h.setChan _ _).setPair _ _).serveOne _) ((h.setChan _ _).setPair _ _)

theorem serve (su : Nat) (fuel cols : Nat) (h : AtBanks s t) : AtBanks s (t.serve su fuel cols) := by
  induction fuel generalizing t cols with
  | zero => exact h
  | succ n ih =>
    unfold State.serve
    split
    · exact h
    · exact ite (ih _ (h.served _ _ _)) h

theorem refreshFirst (h : AtBanks s t) (su : Nat) : AtBanks s (t.refreshFirst su) := ite (h.setPair _ _) h

theorem boundary (h : AtBanks s t) (su : Nat) : AtBanks s (t.boundary su) := (h.refreshFirst su).serve su _ _

theorem serveNow (h : AtBanks s t) (su : Nat) : AtBanks s (t.serveNow su) :=
  ite h (ite ((h.boundary su).setPair _ _) ((h.refreshFirst su).serve su _ _))

/-! ## Requests on the fabric -/

theorem arrive (h : AtBanks s t) (a : OrdAccess) : AtBanks s (t.arrive a) := by
  unfold State.arrive
  split
  · exact (h.setPair _ _).serveNow _
  · exact h

theorem dispatch (h : AtBanks s t) (src : Nat) (a : OrdAccess) : AtBanks s (t.dispatch src a) := by
  unfold State.dispatch
  split
  · exact ite (h.setFabric _ _) (h.setFabric _ _)
  · exact h.arrive _

theorem send (h : AtBanks s t) (src : Nat) (a : OrdAccess) : AtBanks s (t.send src a) := ite (h.setFabric _ _) (h.dispatch _ _)

theorem deliver (h : AtBanks s t) (f : Nat × OrdAccess → Bool) : AtBanks s (t.deliver f) :=
  foldl (fun _ _ h => h.arrive _) _ (h.setFabric _ _)

/-! ## Steps of the units -/

theorem takeToken (h : AtBanks s t) (su : Nat) : AtBanks s (t.takeToken su) := ite h ((h.setPair _ _).setPower _)

theorem returnToken (h : AtBanks s t) (su : Nat) : AtBanks s (t.returnToken su) := ite ((h.setPair _ _).setPower _) h

theorem putStep (h : AtBanks s t) (su : Nat) (st : UStep) (r : StepRes) : AtBanks s (t.putStep su st r) :=
  foldl (fun _ _ h => h.writeFull _ _ _ _) _ (h.setPair _ _)

theorem endStep (h : AtBanks s t) (su : Nat) : AtBanks s (t.endStep su) := h.setPair _ _

theorem logBad (h : AtBanks s t) (req : Requester) (col : Nat) (p : Bool) : AtBanks s (t.logBad req col p) :=
  h.notice ((Notice.refl t).logBad _ _ _)

theorem logPoisoned (h : AtBanks s t) (view : Nat → RawCol) (cols : List Nat) : AtBanks s (t.logPoisoned view cols) :=
  foldl (fun _ _ h => ite (h.logBad _ _ _) h) _ h

theorem logUncorrectable (h : AtBanks s t) (view : Nat → RawCol) (cols : List Nat) : AtBanks s (t.logUncorrectable view cols) :=
  foldl (fun _ _ h => ite (h.logBad _ _ _) h) _ h

theorem stepOnce (h : AtBanks s t) (su : Nat) (view : State → Nat → RawCol) (used : Option Nat) (carry : Bool) (st : UStep)
    (rest : List UStep) : AtBanks s (t.stepOnce su view used carry st rest).1 := by
  have hrun := fun cols r => (h.logPoisoned (view t) cols).putStep su st r
  unfold State.stepOnce
  dsimp only
  split
  · exact (hrun _ _).endStep _
  · split
    · exact ((hrun _ _).logUncorrectable _ _).endStep _
    · exact (hrun _ _).setPair _ _

theorem correctRead (h : AtBanks s t) (c : Nat) (e : RawCol) (o : ReadOut) (d : BitVec 256) : AtBanks s (t.correctRead c e o d) :=
  ite (h.reads (Reads.correct t _ _ _ _)) (h.notice ((Notice.refl t).noteCorrected _ _ _))

theorem correctRows (su : Nat) (l : List Nat) (rows : List (Nat × RawCol)) (h : AtBanks s t) : AtBanks s (correctRows su t l rows).1 := by
  induction l generalizing t rows with
  | nil => exact h
  | cons c l ih =>
    unfold Machine.correctRows
    split
    · exact ih _ h
    · split
      · exact ih _ (h.logBad _ _ _)
      · exact ih _ h
      · exact ih _ (h.correctRead _ _ _ _)

theorem rerunStep (h : AtBanks s t) (su : Nat) (x : Rerun) (st : UStep) : AtBanks s (t.rerunStep su x st).1 := by
  have hrows := correctRows su x.bad x.rows h
  unfold State.rerunStep
  dsimp only
  split
  · exact (hrows.putStep _ _ _).endStep _
  · exact (hrows.setPair _ _).endStep _

theorem offerToken (h : AtBanks s t) (gpc : Nat) : AtBanks s (t.offerToken gpc) := ite h (by split; exacts [h.takeToken _, h])

theorem endCmd (h : AtBanks s t) (su : Nat) : AtBanks s (t.endCmd su) := (((h.setPair _ _).returnToken _).offerToken _).serveNow _

theorem park (h : AtBanks s t) (su : Nat) (rest : List UStep) : AtBanks s (t.park su rest) := (h.setPair _ _).endCmd _

theorem runSteps (h : AtBanks s t) (su : Nat) (view : State → Nat → RawCol) (now : Bool) (used : Option Nat) (carry : Bool)
    (l : List UStep) : AtBanks s (t.runSteps su view now used carry l) := by
  induction l generalizing t used carry with
  | nil => exact h.endCmd _
  | cons st rest ih =>
    have hstep := h.stepOnce su view used carry st rest
    unfold State.runSteps
    dsimp only
    split
    · next y _ =>
      have hrerun := hstep.rerunStep su y st
      exact ite (ite (hrerun.park _ _) (ih (ite hrerun (hrerun.boundary _)) _ _)) hstep
    · exact ite (hstep.park _ _) (ih (ite hstep (hstep.boundary _)) _ _)

theorem finishRerun (h : AtBanks s t) (su : Nat) : AtBanks s (t.finishRerun su) := by
  unfold State.finishRerun State.goOn
  dsimp only
  split
  · split
    · have hrerun := fun x st => h.rerunStep su x st
      exact ite ((hrerun _ _).park _ _) ((ite (hrerun _ _) ((hrerun _ _).boundary _)).runSteps _ _ _ _ _ _)
    · exact h.endCmd _
  · exact h

/-! ## The end of what is in progress (R47) -/

theorem settlePair (h : AtBanks s t) (su : Nat) : AtBanks s (t.settlePair su) := ((h.finishRerun su).refreshFirst su).serve su _ _

theorem quiesce (h : AtBanks s t) : AtBanks s t.quiesce := foldl (fun _ _ h => h.settlePair _) _ (h.deliver _)

end AtBanks

end Sys2Proof.Machine
end

section
/-! SUPPORT. A change of layout (R45 to R48): what is in progress ends, and content is kept or becomes undefined. -/

namespace Sys2Proof.Machine

set_option Elab.async false

open Sys2Proof

/-! ## Nothing in progress (R47 step 3) -/

theorem State.deliver_of_underway_nil {s : State} (h : s.underway = []) (f : Nat × OrdAccess → Bool) : s.deliver f = s := by
  obtain ⟨hreplay, hheld⟩ := List.append_eq_nil_iff.1 h
  have hlinks : s.flinks.map (fun e => (e.1, { e.2 with replay := e.2.replay.filter fun h => !f h })) = s.flinks := by
    refine (List.map_congr_left fun e he => ?_).trans (List.map_id _)
    have hnil : e.2.replay = [] := List.flatten_eq_nil_iff.1 hreplay _ (List.mem_map_of_mem he)
    obtain ⟨k, svc, retraining, replay⟩ := e
    obtain rfl : replay = [] := hnil
    rfl
  unfold State.deliver
  rw [h, hlinks, hheld, List.filter_nil]
  show { s with fabricHeld := [] } = s
  rw [← hheld]

theorem State.finishRerun_of_none {s : State} {su : Nat} (h : (s.pair su).rerun = none) : s.finishRerun su = s := by
  unfold State.finishRerun State.goOn
  dsimp only
  rw [h]

theorem State.refreshFirst_of_owed_lt {s : State} {su : Nat} (h : (s.pair su).owed < 4) : s.refreshFirst su = s :=
  if_neg (Int.not_le.2 h)

/-- R47: a pair that has begun nothing and that nothing waits for is left as it is. -/
theorem State.settlePair_of_idle {s : State} {su : Nat} (hq : (s.pair su).ordQ = []) (hr : (s.pair su).rerun = none)
    (ho : (s.pair su).owed < 4) : s.settlePair su = s := by
  have hbegun : s.endBegun su = s := by unfold State.endBegun; rw [State.finishRerun_of_none hr, State.refreshFirst_of_owed_lt ho]
  unfold State.settlePair
  dsimp only
  rw [hbegun, hq]
  rfl

theorem State.quiesce_of_idle {s : State} (h : ∀ su, (s.pair su).ordQ = [] ∧ (s.pair su).rerun = none ∧ (s.pair su).owed < 4)
    (hu : s.underway = []) : s.quiesce = s := by
  unfold State.quiesce
  rw [State.deliver_of_underway_nil hu]
  refine List.foldlRecOn (motive := fun t => t = s) _ _ rfl fun t ht su _ => ?_
  obtain ⟨hq, hr, ho⟩ := h su
  rw [ht, State.settlePair_of_idle hq hr ho]

/-! ## Content that a layout keeps (R8, R48) -/

theorem DMem.tag_undefine (m : DMem) {f : Nat → Bool} (tag : Nat) {col : Nat} (h : f (locOf col).gpc = false) :
    (m.undefine f tag).tag col = m.tag col := by
  have hm : (locOf col).gpc ∉ (List.range 2048).filter f := fun hm => Bool.false_ne_true (h.symm.trans (List.mem_filter.1 hm).2)
  simpa only [DMem.tag, DMem.undefine] using Tbl.get_foldl_put_of_notMem 0 tag hm m.undef

/-- R8: the columns of a pseudo-channel that is not made undefined stand. -/
theorem DMem.undefine_kept (m : DMem) {f : Nat → Bool} (tag : Nat) {col : Nat} (h : f (locOf col).gpc = false) :
    (m.undefine f tag).data col = m.data col ∧ (m.undefine f tag).chk col = m.chk col := by
  have htag := m.tag_undefine tag h
  have hcells : (m.undefine f tag).cells col = m.cells col := by
    unfold DMem.cells DMem.undefine
    rw [List.filter_filter]
    refine List.filter_congr fun c _ => ?_
    by_cases hc : c.1 / 32 = col <;> simp [hc, h]
  constructor
  · unfold DMem.data DMem.unlisted
    rw [hcells]
    refine congrArg (fun l => BitVec.ofNat 256 (natOf l)) (List.map_congr_left fun i hi => ?_)
    have hcol : (32 * col + i) / 32 = col := by rw [List.mem_range] at hi; omega
    simp only [hcol, htag]
  · unfold DMem.chk
    rw [htag]
    exact Tbl.get_filter _ (fun c => !f (locOf c).gpc) m.check (by simp [h])

theorem State.sameCol_loadLayout (s : State) (l : Layout) {col : Nat} (h : s.lay.losesContent l (locOf col).gpc = false) :
    SameCol s (s.loadLayout l) col := s.mem.undefine_kept _ h

/-! ## The command -/

theorem clampStatus_lt_two (cl : List Clamp) : clampStatus 0 cl < 2 := by
  unfold clampStatus
  split <;> decide

theorem clampStatus_of_ne_zero {st : Nat} (h : st ≠ 0) (cl : List Clamp) : clampStatus st cl = st := if_neg fun hc => h hc.1

/-- R44: the clamps that a `SET_LAYOUT` request meets. -/
def Req.layoutClamps (r : Req) (l : Layout) : List Clamp :=
  clampOf 0x14 16 (r.fld 0x14 16) l.n0 ++ clampOf 0x16 16 (r.fld 0x16 16) l.n1
    ++ clampOf 0x18 16 (r.fld 0x18 16) l.n2 ++ clampOf 0x1A 16 (r.fld 0x1A 16) l.n3

/-- The steps of `SET_LAYOUT` (R44 to R48). -/
def setLayoutRun (ok : Bool) (r : Req) (s : State) : Ans :=
  let l := layoutApplied (bits r.img 0x80 2) (r.fld 0x14 16) (r.fld 0x16 16) (r.fld 0x18 16) (r.fld 0x1A 16)
  if 2 ≤ bits r.img 0x80 2 then .fail Status.fieldRange
  else if s.queueOrCore then .fail Status.contextState
  else if { l with gen := s.lay.gen } = s.lay then .done 0 0 0 (r.layoutClamps l) s
  else if ok then .done 0 0 0 (r.layoutClamps l) (s.quiesce.loadLayout l)
  else .done Status.internal 0 0 (r.layoutClamps l) s.quiesce

theorem exec_setLayout (mb : Fin 32) (ok : Bool) (s : State) :
    exec (.setLayout mb ok) s = .next (molian mb 0x0301 .ownerPort (fun _ => 0x20) (fun _ => setLayoutFields) (setLayoutRun ok) s) := rfl

section
variable {s : State} {mb : Fin 32} (h : Admitted s mb 0x0301 .ownerPort 0x20 setLayoutFields) (hmode : bits (s.req mb).img 0x80 2 < 2)
  (hq : s.queueOrCore = false)
include h hmode hq

/-- R45 to R48: an admitted `SET_LAYOUT` of a module with no queue and no running core ends as the NVM write and the layout in force say. -/
theorem setLayout_ends (ok : Bool) {u : State} {st : Nat} (hm : u.mbox mb = s.mbox mb) :
    let r := s.req mb
    let l := layoutApplied (bits r.img 0x80 2) (r.fld 0x14 16) (r.fld 0x16 16) (r.fld 0x18 16) (r.fld 0x1A 16)
    ((if { l with gen := s.lay.gen } = s.lay then .done 0 0 0 (r.layoutClamps l) s
        else if ok then .done 0 0 0 (r.layoutClamps l) (s.quiesce.loadLayout l)
        else .done Status.internal 0 0 (r.layoutClamps l) s.quiesce : Ans) = .done st 0 0 (r.layoutClamps l) u) →
      ∃ t, exec (.setLayout mb ok) s = .next t ∧ Completed t mb (clampStatus st (r.layoutClamps l)) ∧ Talk u t := by
  intro r l hrun
  have hends := molian_done (len := fun _ => 0x20) (fs := fun _ => setLayoutFields) (run := setLayoutRun ok) h
    (by unfold setLayoutRun; rw [if_neg (Nat.not_le.2 hmode), hq, if_neg Bool.false_ne_true]; exact hrun) hm
  exact ⟨_, exec_setLayout mb ok s, completed_of_ends hends, talk_of_ends hends⟩

theorem setLayout_loads :
    let r := s.req mb
    let l := layoutApplied (bits r.img 0x80 2) (r.fld 0x14 16) (r.fld 0x16 16) (r.fld 0x18 16) (r.fld 0x1A 16)
    { l with gen := s.lay.gen } ≠ s.lay →
      ∃ t, exec (.setLayout mb true) s = .next t ∧ t.lay = { l with gen := s.lay.gen + 1 } ∧ (t.mbox mb).st = .complete
        ∧ (t.mbox mb).lastStatus < 2 ∧ (∀ col, s.lay.losesContent l (locOf col).gpc = false → SameCol s.quiesce t col)
        ∧ t.ctxs = s.ctxs ∧ t.flags = s.flags ∧ t.streams = s.streams ∧ t.power = s.quiesce.power := by
  intro r l hne
  obtain ⟨_, _, _, _, _, _, _, _, _, _, _, hquiet⟩ := (AtBanks.refl s).quiesce
  have hlay : s.quiesce.lay = s.lay := by rw [hquiet]
  have hmbox : (s.quiesce.loadLayout l).mbox mb = s.mbox mb := by
    show s.quiesce.mbox mb = _
    rw [hquiet]
    rfl
  obtain ⟨t, ht, ⟨hst, -, hlast, -⟩, _, _, _, _, _, rfl⟩ := setLayout_ends h hmode hq true hmbox (by rw [if_neg hne, if_pos rfl])
  refine ⟨_, ht, congrArg (fun x : Layout => { l with gen := x.gen + 1 }) hlay, hst, hlast ▸ clampStatus_lt_two _,
    fun col hc => s.quiesce.sameCol_loadLayout l (hlay ▸ hc), ?_⟩
  show s.quiesce.ctxs = _ ∧ s.quiesce.flags = _ ∧ s.quiesce.streams = _ ∧ s.quiesce.power = _
  exact ⟨by rw [hquiet], by rw [hquiet], by rw [hquiet], rfl⟩

theorem setLayout_fails :
    let r := s.req mb
    let l := layoutApplied (bits r.img 0x80 2) (r.fld 0x14 16) (r.fld 0x16 16) (r.fld 0x18 16) (r.fld 0x1A 16)
    { l with gen := s.lay.gen } ≠ s.lay →
      ∃ t, exec (.setLayout mb false) s = .next t ∧ t.lay = s.lay ∧ t.mem = s.quiesce.mem ∧ Completed t mb Status.internal := by
  intro r l hne
  obtain ⟨_, _, _, _, _, _, _, _, _, _, _, hquiet⟩ := (AtBanks.refl s).quiesce
  obtain ⟨t, ht, hdone, _, _, _, _, _, rfl⟩ := setLayout_ends h hmode hq false (u := s.quiesce) (by rw [hquiet]; rfl)
    (by rw [if_neg hne, if_neg Bool.false_ne_true])
  exact ⟨_, ht, show s.quiesce.lay = s.lay by rw [hquiet], rfl, clampStatus_of_ne_zero (st := Status.internal) (by decide) _ ▸ hdone⟩

theorem setLayout_loaded :
    let r := s.req mb
    let l := layoutApplied (bits r.img 0x80 2) (r.fld 0x14 16) (r.fld 0x16 16) (r.fld 0x18 16) (r.fld 0x1A 16)
    { l with gen := s.lay.gen } = s.lay → ∀ ok, ∃ t, exec (.setLayout mb ok) s = .next t ∧ t.lay = s.lay ∧ t.mem = s.mem
      ∧ t.pairs = s.pairs ∧ (t.mbox mb).st = .complete ∧ (t.mbox mb).lastStatus < 2 := by
  intro r l he ok
  obtain ⟨t, ht, ⟨hst, -, hlast, -⟩, _, _, _, _, _, rfl⟩ := setLayout_ends h hmode hq ok (u := s) rfl (by rw [if_pos he])
  exact ⟨_, ht, rfl, rfl, rfl, hst, hlast ▸ clampStatus_lt_two _⟩

end

/-- Settles O14: an admitted request ends in one of three ways (`setLayout_ends`); `State.loadLayout` changes memory only where R48 does not
keep it. -/
theorem setLayoutLoadsTheLayout : Obligations.SetLayoutLoadsTheLayout := by
  intro s mb h r l hmode hq
  exact ⟨fun hne => ⟨setLayout_loads h hmode hq hne, setLayout_fails h hmode hq hne⟩, setLayout_loaded h hmode hq, State.quiesce_of_idle⟩

end Sys2Proof.Machine
end

section
/-! SUPPORT. What a store leaves in the column that it writes, and the numbers that bytes spell. -/

namespace Sys2Proof.Machine

set_option Elab.async false

open Sys2Proof

/-! ## Entries of tables in order -/

theorem Tbl.get_of_mem {α : Type} (d : α) {m : Tbl α} (hm : Tbl.Rising m) {i : Nat} {x : α} (h : (i, x) ∈ m) : Tbl.get d m i = x := by
  induction m with
  | nil => exact absurd h List.not_mem_nil
  | cons e r ih =>
    obtain ⟨k, v⟩ := e
    obtain ⟨hlt, hr⟩ := List.pairwise_cons.1 hm
    rcases List.mem_cons.1 h with he | he
    · cases he
      exact if_pos rfl
    · exact (if_neg (Nat.ne_of_gt (hlt _ he))).trans (ih hr he)

theorem Tbl.get_of_notMem {α : Type} (d : α) {m : Tbl α} {i : Nat} (h : ∀ x, (i, x) ∉ m) : Tbl.get d m i = d := by
  induction m with
  | nil => rfl
  | cons e r ih =>
    obtain ⟨k, v⟩ := e
    have hk : i ≠ k := fun hk => h v (hk ▸ List.mem_cons_self)
    exact (if_neg hk).trans (ih fun x hx => h x (List.mem_cons_of_mem _ hx))

/-! ## Bytes (R4) -/

theorem natOf_append_singleton (l : List Byte) (b : Byte) : natOf (l ++ [b]) = natOf l + 256 ^ l.length * b.toNat := by
  induction l with
  | nil => simp [natOf]
  | cons a l ih =>
    simp only [List.cons_append, natOf, ih, List.length_cons]
    ring

/-- The lowest `n` bytes of a word spell what it holds there. -/
theorem natOf_bytes {w : Nat} (x : BitVec w) (n : Nat) :
    natOf ((List.range n).map fun i => x.extractLsb' (8 * i) 8) = x.toNat % 2 ^ (8 * n) := by
  induction n with
  | zero => simp [natOf, Nat.mod_one]
  | succ n ih =>
    have hpow : (2 : Nat) ^ (8 * (n + 1)) = 2 ^ (8 * n) * 2 ^ 8 := by rw [← Nat.pow_add, Nat.mul_succ]
    rw [List.range_succ, List.map_append, List.map_singleton, natOf_append_singleton, ih, List.length_map, List.length_range,
      BitVec.extractLsb'_toNat, Nat.shiftRight_eq_div_pow, hpow, Nat.mod_mul, show 256 ^ n = 2 ^ (8 * n) by rw [Nat.pow_mul]]

/-! ## Columns -/

/-- The cells that a store lists of its column are the ones it writes. -/
theorem storeBytes_filter_same (keep : Bool) (l : List Host.Cell) (col : Nat) (d : BitVec 256) :
    (storeBytes keep l col d).filter (fun c => c.1 / 32 == col) = colCells keep col d := by
  unfold storeBytes
  rw [List.filter_append, List.filter_append, List.filter_filter, List.filter_filter,
    List.filter_eq_nil_iff.2 fun c _ => by simp only [Bool.and_eq_true, beq_iff_eq, decide_eq_true_eq]; omega,
    List.filter_eq_self.2 fun c hc => by obtain ⟨hlo, hhi, -⟩ := colCells_mem hc; simp only [beq_iff_eq]; omega,
    List.filter_eq_nil_iff.2 fun c _ => by simp only [Bool.and_eq_true, beq_iff_eq, decide_eq_true_eq]; omega,
    List.nil_append, List.append_nil]

/-- A byte of a column in its listed cells: one that need not be listed reads as zero. -/
theorem get_colCells {keep : Bool} {z : Byte} (hz : keep = false → z = 0) (col : Nat) (d : BitVec 256) {i : Nat} (hi : i < 32) :
    Tbl.get z (colCells keep col d) (32 * col + i) = colByte d i := by
  have hcell : ∀ x, (32 * col + i, x) ∈ colCells keep col d ↔ x = colByte d i ∧ (keep = true ∨ x ≠ 0) := fun x => by
    simp only [colCells, List.mem_filter, List.mem_map, List.mem_range, Prod.mk.injEq, Bool.or_eq_true, bne_iff_ne]
    refine and_congr_left fun _ => ⟨fun ⟨j, _, hj, hx⟩ => ?_, fun hx => ⟨i, hi, rfl, hx.symm⟩⟩
    rw [← hx, Nat.add_left_cancel hj]
  by_cases hk : keep = true ∨ colByte d i ≠ 0
  · exact Tbl.get_of_mem _ (colCells_rising keep col d) ((hcell _).2 ⟨rfl, hk⟩)
  · rw [not_or, Bool.not_eq_true, not_not] at hk
    obtain ⟨hkeep, hbyte⟩ := hk
    rw [Tbl.get_of_notMem _ fun x hx => ?_, hz hkeep, hbyte]
    obtain ⟨rfl, hx⟩ := (hcell x).1 hx
    exact hx.elim (fun h => absurd h (by simp [hkeep])) (fun h => h hbyte)

@[simp] theorem DMem.data_store (m : DMem) (col : Nat) (d : BitVec 256) (k : BitVec 48) : (m.store col d k).data col = d := by
  have hcells : (m.store col d k).cells col = colCells (m.tag col != 0) col d := storeBytes_filter_same _ m.bytes col d
  have hbyte : ∀ i, i < 32 → Tbl.get ((m.store col d k).unlisted (32 * col + i)) ((m.store col d k).cells col) (32 * col + i)
      = d.extractLsb' (8 * i) 8 := fun i hi => by
    rw [hcells]
    refine get_colCells (fun hkeep => ?_) col d hi
    have hcol : (32 * col + i) / 32 = col := by omega
    have htag : m.tag col = 0 := by simpa using hkeep
    unfold DMem.unlisted
    rw [hcol, show (m.store col d k).tag col = m.tag col from rfl, if_pos htag]
  unfold DMem.data
  dsimp only
  rw [List.map_congr_left fun i hi => hbyte i (List.mem_range.1 hi), natOf_bytes, Nat.mod_eq_of_lt d.isLt, BitVec.ofNat_toNat, BitVec.setWidth_eq]

end Sys2Proof.Machine
end

section
/-! SUPPORT. A write that nothing holds (R22, R23, R91 to R100): it is served at once, and a line's two columns one after the other. -/

namespace Sys2Proof.Machine

set_option Elab.async false

open Sys2Proof

/-! ## The two columns of a line (R38, R40) -/

/-- R38, R40: the halves of a line of 64 bytes are neighbouring columns, whatever the layout. -/
theorem Layout.colOf_add_32 (l : Layout) {dpa : Nat} (h : dpa % 64 = 0) : l.colOf (dpa + 32) = l.colOf dpa + 1 := by
  have hgib : (dpa + 32) / 2 ^ 30 = dpa / 2 ^ 30 := by omega
  have hinter : ∀ wide f m off, off % 64 = 0 → (interleaved wide f m (off + 32)).num = (interleaved wide f m off).num + 1 := fun wide f m off ho => by
    have hgran : (off + 32) / 256 = off / 256 := by omega
    have hcol : (off + 32) / 2 ^ 5 % 2 ^ 3 = off / 2 ^ 5 % 2 ^ 3 + 1 := by omega
    unfold interleaved Loc.num
    simp only [hgran, bits_eq_div_mod off 5 3, bits_eq_div_mod (off + 32) 5 3, hcol, Nat.add_assoc]
  unfold Layout.colOf Layout.loc
  dsimp only
  rw [hgib]
  split
  · split
    · exact hinter _ _ _ _ h
    · have hbase : l.base (l.frondOfGiB (dpa / 2 ^ 30)) * 2 ^ 30 ≤ dpa := by
        obtain ⟨hlo, -⟩ := l.frondOfGiB_spec (by assumption)
        omega
      rw [Nat.sub_add_comm hbase]
      exact hinter _ _ _ _ (by omega)
  · have hbank : (dpa + 32) / 2 ^ 25 = dpa / 2 ^ 25 := by omega
    have hrow : (dpa + 32) / 2 ^ 10 = dpa / 2 ^ 10 := by omega
    have hcol : (dpa + 32) / 2 ^ 5 % 2 ^ 5 = dpa / 2 ^ 5 % 2 ^ 5 + 1 := by omega
    unfold Loc.num
    simp only [bits_eq_div_mod, hbank, hrow, hcol, Nat.add_assoc]

/-! ## One access at a pair that lets it in -/

theorem ordPort_cases (a : OrdAccess) : ordPort a = 8 ∨ ordPort a = 12 ∨ ordPort a = 16 := by
  unfold ordPort
  split
  all_goals simp

/-- R93: the port of the one access that waits is served next. -/
theorem nextPort_singleton (prio : Word32) (last : Nat) (a : OrdAccess) : nextPort prio last [a] = some (ordPort a) := by
  unfold nextPort
  have hturn : (([8, 12, 16].filter (fun k => decide (last < k)) ++ [8, 12, 16].filter (fun k => decide (k ≤ last))).filter
      fun k => [a].any fun b => ordPort b == k) = [ordPort a] := by
    have hmem : [8, 12, 16].filter (fun k => [a].any fun b => ordPort b == k) = [ordPort a] := by
      rcases ordPort_cases a with h | h | h <;> simp [h]
    rw [List.filter_append, List.filter_comm, List.filter_comm _ (fun k => decide (k ≤ last)), hmem]
    by_cases h : last < ordPort a
    · simp [h]
    · simp [h, Nat.not_lt.1 h]
  dsimp only
  rw [hturn]
  rfl

theorem State.nextAccess_singleton {s : State} {su : Nat} {a : OrdAccess} (h : (s.pair su).ordQ = [a]) : s.nextAccess su = some (a, []) := by
  unfold State.nextAccess
  rw [h, nextPort_singleton]
  exact if_pos rfl

/-- R94: a pair that does not compute and has no refresh at its limit serves the one access of one column that waits. -/
theorem State.serveNow_singleton {s : State} {su : Nat} {a : OrdAccess} (hq : (s.pair su).ordQ = [a]) (hc : (ordCols a).length ≤ 2)
    (hr : (s.pair su).rerun = none) (ht : (s.pair su).token = false) (ho : (s.pair su).owed < 4) : s.serveNow su = s.served su a [] := by
  unfold State.serveNow
  dsimp only
  rw [if_neg (by simp [hq, hr, ht]), if_neg (by simp [ht]), show s.refreshFirst su = s from if_neg (Int.not_le.2 ho), hq]
  show State.serve s su 1 2 = _
  unfold State.serve
  rw [State.nextAccess_singleton hq]
  exact if_pos hc

/-! ## One write -/

/-- `t` is `s` with its memory changed and what serving a waiting access leaves at channels and pairs: the port served, the open rows. -/
structure Served (s t : State) (m : DMem) : Prop where
  eq : ∃ cs ps, t = { s with mem := m, chans := cs, pairs := ps }
  chan : ∀ c, ∃ last, t.chan c = { s.chan c with lastPort := last }
  pair : ∀ k, ∃ rows, t.pair k = { s.pair k with rows := rows }

namespace Served
variable {s t : State} {m : DMem}

theorem mem (h : Served s t m) : t.mem = m := by
  obtain ⟨_, _, rfl⟩ := h.eq
  rfl

theorem trans {u : State} {m' : DMem} (h : Served s t m) (k : Served t u m') : Served s u m' := by
  refine ⟨?_, fun c => ?_, fun j => ?_⟩
  · obtain ⟨_, _, rfl⟩ := h.eq
    obtain ⟨_, _, rfl⟩ := k.eq
    exact ⟨_, _, rfl⟩
  · obtain ⟨_, hc⟩ := h.chan c
    obtain ⟨_, kc⟩ := k.chan c
    exact ⟨_, by rw [kc, hc]⟩
  · obtain ⟨_, hp⟩ := h.pair j
    obtain ⟨_, kp⟩ := k.pair j
    exact ⟨_, by rw [kp, hp]⟩

theorem colUp (h : Served s t m) (col : Nat) : t.colUp col = s.colUp col := by
  obtain ⟨_, hc⟩ := h.chan ((locOf col).gpc / 2)
  obtain ⟨_, _, rfl⟩ := h.eq
  unfold State.colUp State.pcUp
  rw [hc]
  rfl

theorem token (h : Served s t m) (su : Nat) : (t.pair su).token = (s.pair su).token := by
  obtain ⟨_, hp⟩ := h.pair su
  rw [hp]

theorem clearCol (h : Served s t m) (src col : Nat) : t.clearCol src col = s.clearCol src col := by
  obtain ⟨_, hp⟩ := h.pair (colUnit col)
  obtain ⟨_, _, rfl⟩ := h.eq
  unfold State.clearCol
  dsimp only
  rw [hp]
  rfl

end Served

/-- The pair and the channel of a column as the only access that waits there is taken, before it is done. -/
def State.opened (s : State) (a : OrdAccess) (col : Nat) : State :=
  let su := colUnit col
  let t := s.setPair su { s.pair su with ordQ := [a] }
  (t.setChan (su / 32) { s.chan (su / 32) with lastPort := ordPort a }).setPair su (({ t.pair su with ordQ := [] } : Pair).openRows [col])

theorem State.opened_served {s : State} {a : OrdAccess} {col : Nat} (hq : (s.pair (colUnit col)).ordQ = []) : Served s (s.opened a col) s.mem := by
  refine ⟨⟨_, _, rfl⟩, fun c => ?_, fun k => ?_⟩
  · by_cases hc : c = colUnit col / 32
    · exact ⟨_, by rw [hc]; exact State.chan_setChan _ _ _⟩
    · exact ⟨(s.chan c).lastPort, State.chan_setChan_ne _ _ _ hc⟩
  · by_cases hk : k = colUnit col
    · refine ⟨((s.pair (colUnit col)).openRows [col]).rows, ?_⟩
      rw [hk]
      unfold State.opened
      dsimp only
      rw [State.pair_setPair, State.pair_setPair]
      unfold Pair.openRows
      rw [← hq]
    · exact ⟨(s.pair k).rows, (State.pair_setPair_ne _ _ _ hk).trans (State.pair_setPair_ne s _ _ hk)⟩

/-- R22, R94: a write of a column that is clear goes to its pair at once. -/
theorem State.send_of_clear {s : State} {src col : Nat} (hclear : s.clearCol src col = true) (req : Requester) (d : BitVec 256) (p : Bool) :
    s.send src (.write req col d p) = s.arrive (.write req col d p) := by
  simp only [State.clearCol, Bool.and_eq_true, Bool.not_eq_true'] at hclear
  obtain ⟨⟨-, hheld⟩, hroute⟩ := hclear
  have hheld' : s.held src (ordFrond (.write req col d p)) (s.ordGranule (.write req col d p)) = false := hheld
  have hfree : ((s.route src (ordFrond (.write req col d p)) (s.ordGranule (.write req col d p))).bind fun r =>
      r.find? fun l => (s.flink l).retraining) = none := by
    rw [Option.bind_eq_none_iff]
    intro r hr
    rw [show s.route src ((locOf col).gpc / 512) (s.lay.dpaOf col / 256) = some r from hr] at hroute
    rw [List.find?_eq_none]
    simpa using hroute
  unfold State.send State.dispatch
  rw [hheld', hfree]
  rfl

theorem State.arrive_write {s : State} {src col : Nat} (hclear : s.clearCol src col = true) (htok : (s.pair (colUnit col)).token = false)
    (req : Requester) (d : BitVec 256) (p : Bool) :
    s.arrive (.write req col d p)
      = (s.setPair (colUnit col) { s.pair (colUnit col) with ordQ := [.write req col d p] }).served (colUnit col) (.write req col d p) [] := by
  simp only [State.clearCol, Bool.and_eq_true, Option.isNone_iff_eq_none, List.isEmpty_iff, decide_eq_true_eq] at hclear
  obtain ⟨⟨⟨⟨⟨hrerun, -⟩, hq⟩, howed⟩, -⟩, -⟩ := hclear
  unfold State.arrive
  dsimp only [ordCols]
  rw [hq, List.nil_append]
  exact State.serveNow_singleton (by simp) (by decide : 1 ≤ 2) (by simpa using hrerun) (by simpa using htok) (by simpa using howed)

/-- R94, R276: a host core's write of a column that is clear, in service and without an armed flip mask is in memory at once. -/
theorem State.send_write {s : State} {src col : Nat} (hclear : s.clearCol src col = true) (htok : (s.pair (colUnit col)).token = false)
    (hup : s.colUp col = true) (hf : ∀ ch, Tbl.get none s.mem.flips ch = none) (req : Requester) (d : BitVec 256) (p : Bool) :
    Served s (s.send src (.write req col d p)) (s.mem.store col d (freshCheck d p)) := by
  have hq : (s.pair (colUnit col)).ordQ = [] := by
    simp only [State.clearCol, Bool.and_eq_true, List.isEmpty_iff] at hclear
    obtain ⟨⟨⟨⟨-, hq⟩, -⟩, -⟩, -⟩ := hclear
    exact hq
  have hopened : Served s (s.opened (.write req col d p) col) s.mem := State.opened_served hq
  have hserved : (s.setPair (colUnit col) { s.pair (colUnit col) with ordQ := [.write req col d p] }).served (colUnit col) (.write req col d p) []
      = (s.opened (.write req col d p) col).serveOne (.write req col d p) := if_pos (by simp [ordCols])
  have hwrite : (s.opened (.write req col d p) col).serveOne (.write req col d p)
      = { s.opened (.write req col d p) col with mem := s.mem.store col d (freshCheck d p) } := by
    unfold State.serveOne State.writeFull
    dsimp only
    rw [hopened.colUp, hup, if_pos rfl, hopened.mem, hf]
  rw [State.send_of_clear hclear, State.arrive_write hclear htok, hserved, hwrite]
  obtain ⟨_, _, h⟩ := hopened.eq
  exact ⟨⟨_, _, by rw [h]⟩, hopened.chan, hopened.pair⟩

end Sys2Proof.Machine
end

section
/-! SUPPORT. The lines of the host cores' caches (R249, R252 to R254, R285): what writing them back leaves. -/

namespace Sys2Proof.Machine

set_option Elab.async false

open Sys2Proof

/-! ## Writing one line back (R252) -/

theorem AtBanks.writeLine {s t : State} (h : AtBanks s t) (i : Nat) (l : Line) : AtBanks s (t.writeLine i l) :=
  foldl (fun _ _ h => h.send _ _) _ h

theorem State.writeLine_lines (s : State) (i : Nat) (l : Line) : (s.writeLine i l).lines = s.lines := by
  obtain ⟨_, _, _, _, _, _, _, _, _, _, _, h⟩ := (AtBanks.refl s).writeLine i l
  rw [h]

/-- R252: a line whose two columns are clear and in service is in memory at once. -/
theorem State.writeLine_clear {s : State} {i : Nat} (hclear : s.clearLine (64 * i) = true) (hf : ∀ ch, Tbl.get none s.mem.flips ch = none)
    (hua : s.colUp (s.lay.colOf (64 * i)) = true) (hub : s.colUp (s.lay.colOf (64 * i + 32)) = true)
    (hta : (s.pair (colUnit (s.lay.colOf (64 * i)))).token = false) (htb : (s.pair (colUnit (s.lay.colOf (64 * i + 32)))).token = false) (l : Line) :
    let a := s.lay.colOf (64 * i)
    let b := s.lay.colOf (64 * i + 32)
    (s.writeLine i l).mem.data a = l.data.extractLsb' 0 256 ∧ (s.writeLine i l).mem.data b = l.data.extractLsb' 256 256
      ∧ ∀ col, col ≠ a → col ≠ b → SameCol s (s.writeLine i l) col := by
  intro a b
  have hab : a ≠ b := by
    have := s.lay.colOf_add_32 (dpa := 64 * i) (Nat.mul_mod_right 64 i)
    omega
  simp only [State.clearLine, State.lineCols, List.all_cons, List.all_nil, Bool.and_true, Bool.and_eq_true] at hclear
  obtain ⟨hca, hcb⟩ := hclear
  have ha := State.send_write hca hta hua hf .hostCore (lineHalf l.data 0) (l.poison && l.written != BitVec.allOnes 64)
  have hlay : ∀ t m, Served s t m → t.lay = s.lay := fun t m h => by
    obtain ⟨_, _, rfl⟩ := h.eq
    rfl
  have hb := State.send_write (col := b) ((ha.clearCol _ _).trans hcb) ((ha.token _).trans htb) ((ha.colUp _).trans hub)
    (by rw [ha.mem]; exact hf) .hostCore (lineHalf l.data 1) (l.poison && l.written != BitVec.allOnes 64)
  have hline : s.writeLine i l = (s.send rachis (.write .hostCore a (lineHalf l.data 0) (l.poison && l.written != BitVec.allOnes 64))).send rachis
      (.write .hostCore b (lineHalf l.data 1) (l.poison && l.written != BitVec.allOnes 64)) := by
    unfold State.writeLine
    simp only [List.foldl_cons, List.foldl_nil, Nat.mul_zero, Nat.mul_one, Nat.add_zero]
    rw [hlay _ _ ha]
  rw [hline]
  have hmem := hb.mem
  rw [ha.mem] at hmem
  unfold SameCol
  rw [hmem]
  refine ⟨?_, DMem.data_store _ _ _ _, fun col hka hkb => ?_⟩
  · rw [DMem.data_store_ne _ _ _ hab, DMem.data_store]
    rfl
  · rw [DMem.data_store_ne _ _ _ hkb, DMem.chk_store_ne _ _ _ hkb, DMem.data_store_ne _ _ _ hka, DMem.chk_store_ne _ _ _ hka]
    exact ⟨rfl, rfl⟩

/-! ## Cleaning a line (R252) -/

theorem State.cleanLine_clean {s : State} {i : Nat} {l : Line} (h : Tbl.get none s.lines i = some l) (hd : l.dirty = false) (keep : Bool) :
    s.cleanLine i keep = { s with lines := Tbl.put none s.lines i (if keep then some { l with dirty := false } else none) } := by
  unfold State.cleanLine
  rw [h]
  dsimp only
  rw [if_neg (by simp [hd])]

theorem State.cleanLine_dirty {s : State} {i : Nat} {l : Line} (h : Tbl.get none s.lines i = some l) (hd : l.dirty = true) (keep : Bool) :
    s.cleanLine i keep
      = { s.writeLine i l with lines := Tbl.put none s.lines i (if keep then some { l with dirty := false } else none) } := by
  unfold State.cleanLine
  rw [h]
  dsimp only
  rw [if_pos hd, State.writeLine_lines]

/-! ## Writing back the lines of a host core (R253, R254) -/

/-- A line written back: it is dirty no more. -/
def cleaned (m : Tbl (Option Line)) (e : Nat × Option Line) : Tbl (Option Line) :=
  match e.2 with
  | some l => Tbl.put none m e.1 (some { l with dirty := false })
  | none => m

/-- The lines that a host core has stored to and not written back. -/
def State.dirtyOf (s : State) (n : Nat) : List (Nat × Option Line) :=
  s.lines.filter fun e => match e.2 with
    | some l => l.dirty && l.by_ == n
    | none => false

/-- A line of the caches written back. -/
def State.writeBack (s : State) (e : Nat × Option Line) : State :=
  match e.2 with
  | some l => { s.writeLine e.1 l with lines := Tbl.put none (s.writeLine e.1 l).lines e.1 (some { l with dirty := false }) }
  | none => s

theorem State.writeBackCore_eq (s : State) (n : Nat) : s.writeBackCore n = (s.dirtyOf n).foldl State.writeBack s := rfl

theorem AtBanks.writeBack {s t : State} {ls : Tbl (Option Line)} (h : AtBanks { s with lines := ls } t) (e : Nat × Option Line) :
    AtBanks { s with lines := cleaned ls e } (t.writeBack e) := by
  obtain ⟨i, l | l⟩ := e
  · exact h
  · have hline := h.writeLine i l
    unfold State.writeBack
    dsimp only
    obtain ⟨_, _, _, _, _, _, _, _, _, _, _, hline⟩ := hline
    rw [hline]
    exact ⟨_, _, _, _, _, _, _, _, _, _, _, rfl⟩

/-- R253: to write a core's lines back is to clean them, and to reach the banks. -/
theorem State.writeBackCore_atBanks (s : State) (n : Nat) :
    AtBanks { s with lines := (s.dirtyOf n).foldl cleaned s.lines } (s.writeBackCore n) := by
  have key : ∀ (es : List (Nat × Option Line)) (ls : Tbl (Option Line)) (t : State), AtBanks { s with lines := ls } t →
      AtBanks { s with lines := es.foldl cleaned ls } (es.foldl State.writeBack t) := fun es => by
    induction es with
    | nil => exact fun _ _ h => h
    | cons e es ih => exact fun ls t h => ih _ _ (h.writeBack e)
  rw [State.writeBackCore_eq]
  exact key _ _ _ (.refl s)

theorem get_foldl_cleaned {es : List (Nat × Option Line)} {m : Tbl (Option Line)} {i : Nat} {l : Line}
    (h : Tbl.get none (es.foldl cleaned m) i = some l) : l.dirty = false ∨ (Tbl.get none m i = some l ∧ (i, some l) ∉ es) := by
  induction es generalizing m with
  | nil => exact .inr ⟨h, List.not_mem_nil⟩
  | cons e es ih =>
    rcases ih h with hd | ⟨hget, hes⟩
    · exact .inl hd
    · obtain ⟨k, x | x⟩ := e
      · exact .inr ⟨hget, by simp [hes]⟩
      · by_cases hk : i = k
        · subst hk
          have hx := (Tbl.get_put_same _ _ _ _).symm.trans hget
          cases hx
          exact .inl rfl
        · exact .inr ⟨(Tbl.get_put_ne _ _ _ _ hk).symm.trans hget, by simp [hk, hes]⟩

theorem Tbl.mem_of_get {α : Type} {m : Tbl (Option α)} {i : Nat} {x : α} (h : Tbl.get none m i = some x) : (i, some x) ∈ m := by
  induction m with
  | nil => exact absurd h (Option.some_ne_none x).symm
  | cons e m ih =>
    obtain ⟨k, v⟩ := e
    by_cases hk : i = k
    · have hv : v = some x := (if_pos hk).symm.trans h
      rw [hk, hv]
      exact List.mem_cons_self
    · exact List.mem_cons_of_mem _ (ih ((if_neg hk).symm.trans h))

/-- R253: no line that the core has stored to stays dirty. -/
theorem State.writeBackCore_clean {s : State} {n i : Nat} {l : Line} (h : Tbl.get none (s.writeBackCore n).lines i = some l) (hl : l.by_ = n) :
    l.dirty = false := by
  obtain ⟨_, _, _, _, _, _, _, _, _, _, _, hb⟩ := s.writeBackCore_atBanks n
  rw [hb] at h
  rcases get_foldl_cleaned h with hd | ⟨hget, hes⟩
  · exact hd
  · by_contra hd
    exact hes (List.mem_filter.2 ⟨Tbl.mem_of_get hget, by simp [hl, hd]⟩)

/-! ## A reset of a host core (R253) -/

/-- What resetting a host core leaves: its registers and instruction L1 clear, no line of it dirty, the banks reached by its lines. -/
structure CoreReset (s t : State) (n : Nat) : Prop where
  same : SameBut s t
  ctxs : t.ctxs = s.ctxs
  queues : t.queues = s.queues
  core : t.hcore n = { s.hcore n with regs := {}, il1 := [] }
  others : ∀ k, k ≠ n → t.hcore k = s.hcore k
  clean : ∀ i l, Tbl.get none t.lines i = some l → l.by_ = n → l.dirty = false

theorem State.resetHCore_reset (s : State) (n : Nat) : CoreReset s (s.resetHCore n) n := by
  have hclean := fun i l => State.writeBackCore_clean (s := s) (n := n) (i := i) (l := l)
  obtain ⟨_, _, _, _, _, _, _, _, _, _, _, hb⟩ := s.writeBackCore_atBanks n
  unfold State.resetHCore
  dsimp only
  rw [hb] at hclean ⊢
  exact ⟨⟨rfl, rfl, rfl, rfl, rfl, rfl, rfl, rfl, rfl, rfl, rfl, rfl⟩, rfl, rfl, State.hcore_setHCore _ _ _,
    fun k hk => State.hcore_setHCore_ne _ _ _ hk, hclean⟩

end Sys2Proof.Machine
end

section
/-! SUPPORT. The control blocks of host cores (R253): what a write of the first word does. -/

namespace Sys2Proof.Machine

set_option Elab.async false

open Sys2Proof

/-! ## The words that the three commands write -/

theorem bits_congr {x y lo len : Nat} (h : ∀ i, i < len → x.testBit (lo + i) = y.testBit (lo + i)) : bits x lo len = bits y lo len := by
  refine Nat.eq_of_testBit_eq fun i => ?_
  unfold bits
  rw [Nat.testBit_mod_two_pow, Nat.testBit_mod_two_pow, Nat.testBit_shiftRight, Nat.testBit_shiftRight]
  by_cases hi : i < len
  · rw [h i hi]
  · simp [hi]

/-- `RUN` 1: `CTX` and `RESET` as they are written. -/
theorem runWord_bits (w : Word32) : (w ||| 1#32).toNat.testBit 0 = true ∧ (w ||| 1#32).toNat.testBit 1 = w.getLsbD 1
    ∧ bits (w ||| 1#32).toNat 8 8 = bits w.toNat 8 8 := by
  have hones : ∀ i, i < 8 → Nat.testBit 1 (8 + i) = false := by decide
  have hreset : Nat.testBit 1 1 = false := by decide
  refine ⟨by simp, by simp [BitVec.getLsbD, hreset], bits_congr fun i hi => ?_⟩
  simp [hones i hi]

/-- `RUN` 0. -/
theorem stopWord_bits (w : Word32) : (w &&& 0xFFFFFFFE#32).toNat.testBit 0 = false
    ∧ (w &&& 0xFFFFFFFE#32).toNat.testBit 1 = w.getLsbD 1 ∧ bits (w &&& 0xFFFFFFFE#32).toNat 8 8 = bits w.toNat 8 8 := by
  have hones : ∀ i, i < 8 → Nat.testBit 0xFFFFFFFE (8 + i) = true := by decide
  have hreset : Nat.testBit 0xFFFFFFFE 1 = true := by decide
  refine ⟨by simp, by simp [BitVec.getLsbD, hreset], bits_congr fun i hi => ?_⟩
  simp [hones i hi]

/-- `RESET` 1. -/
theorem resetWord_bits (w : Word32) : (w ||| 2#32).toNat.testBit 0 = w.getLsbD 0 ∧ (w ||| 2#32).toNat.testBit 1 = true := by
  have hreset : Nat.testBit 2 1 = true := by decide
  exact ⟨by simp [BitVec.getLsbD], by simp [hreset]⟩

/-! ## One write of the first word -/

/-- The block of a core that does not run, once a word is written. -/
def HCore.bound (h : HCore) (v : Nat) : HCore := { h with ctrlErr := h.ctrlErr && !v.testBit 3, ctx := bits v 8 8 }

/-- R253: a control block once the word's `CTX` and `CTRL_ERR` are taken: a running core keeps its context, and errs at another one. -/
def HCore.written (h : HCore) (v : Nat) : HCore :=
  if h.run then { h with ctrlErr := (h.ctrlErr && !v.testBit 3) || bits v 8 8 != h.ctx }
  else h.bound v

/-- R253: `RUN` of the word, `h` being the block as written. -/
def State.takeRun (s : State) (n : Nat) (h : HCore) (run : Bool) : State :=
  if run then
    if h.run then s
    else if !s.mayStart h then s.setHCore n { h with ctrlErr := true }
    else if h.svc = .inService then s.startCore n else s
  else if h.run then s.setHCore n { h with run := false, stopped := true } else s

/-- R253: `RESET` of the word. -/
def State.takeReset (s : State) (n : Nat) : State :=
  if (s.hcore n).run then s.setHCore n { s.hcore n with ctrlErr := true } else s.resetHCore n

theorem coreCtrl_word (n v : Nat) (s : State) :
    let h := (s.hcore n).written v
    let t := (s.setHCore n h).takeRun n h (v.testBit 0)
    coreCtrl n (some v) none s = if v.testBit 1 then t.takeReset n else t := by
  unfold coreCtrl HCore.written HCore.bound State.takeRun State.takeReset
  simp

theorem HCore.written_stopped {h : HCore} (hr : h.run = false) (v : Nat) :
    h.written v = h.bound v := if_neg (by simp [hr])

theorem State.mayStart_bound (s : State) (n v : Nat) (x h : HCore) :
    (s.setHCore n x).mayStart (h.bound v) = s.mayStart { h with ctx := bits v 8 8 } := rfl

theorem HCore.written_running {h : HCore} (hr : h.run = true) (v : Nat) :
    h.written v = { h with ctrlErr := (h.ctrlErr && !v.testBit 3) || bits v 8 8 != h.ctx } := if_pos hr

/-- A host core's control block alone has changed. -/
theorem State.setHCore_sameModule (s : State) (n : Nat) (h : HCore) : SameModule s (s.setHCore n h) :=
  ⟨rfl, rfl, rfl, rfl, rfl, rfl, rfl, rfl, rfl, rfl, rfl, rfl, rfl⟩

theorem State.setHCore_setHCore_ne (s : State) {n k : Nat} (x y : HCore) (hk : k ≠ n) : ((s.setHCore n x).setHCore n y).hcore k = s.hcore k :=
  (State.hcore_setHCore_ne _ _ _ hk).trans (State.hcore_setHCore_ne _ _ _ hk)

/-! ## The cases of `RUN` -/

section
variable {s : State} {n : Nat} {h : HCore}

theorem State.takeRun_running (hr : h.run = true) : s.takeRun n h true = s := (if_pos rfl).trans (if_pos hr)

theorem State.takeRun_refused (hr : h.run = false) (hm : s.mayStart h = false) : s.takeRun n h true = s.setHCore n { h with ctrlErr := true } :=
  (if_pos rfl).trans ((if_neg (by simp [hr])).trans (if_pos (by simp [hm])))

theorem State.takeRun_mayStart (hr : h.run = false) (hm : s.mayStart h = true) :
    s.takeRun n h true = if h.svc = .inService then s.startCore n else s :=
  (if_pos rfl).trans ((if_neg (by simp [hr])).trans (if_neg (by simp [hm])))

theorem State.takeRun_stop (hr : h.run = true) : s.takeRun n h false = s.setHCore n { h with run := false, stopped := true } :=
  (if_neg Bool.false_ne_true).trans (if_pos hr)

theorem State.takeRun_stopped (hr : h.run = false) : s.takeRun n h false = s :=
  (if_neg Bool.false_ne_true).trans (if_neg (by simp [hr]))

/-- R253: a start of a core: it runs at its `ENTRY`, reset first under another context than its last. -/
theorem State.startCore_starts (s : State) (n : Nat) :
    let h := s.hcore n
    let t := s.startCore n
    (∃ x, t.hcore n = { x with run := true, stopped := false, lastCtx := some h.ctx, regs := { x.regs with pc := h.entry } }
        ∧ x.ctx = h.ctx ∧ x.entry = h.entry
        ∧ (h.lastCtx = some h.ctx → x = h ∧ t.lines = s.lines) ∧ (h.lastCtx ≠ some h.ctx → x = { h with regs := {}, il1 := [] }))
      ∧ (∀ k, k ≠ n → t.hcore k = s.hcore k) ∧ SameBut s t ∧ t.ctxs = s.ctxs ∧ t.queues = s.queues := by
  intro h t
  by_cases hl : h.lastCtx = some h.ctx
  · have ht : t = s.setHCore n { h with run := true, stopped := false, lastCtx := some h.ctx, regs := { h.regs with pc := h.entry } } := by
      show s.startCore n = _
      unfold State.startCore
      dsimp only
      rw [if_pos hl]
    rw [ht]
    exact ⟨⟨h, State.hcore_setHCore _ _ _, rfl, rfl, fun _ => ⟨rfl, rfl⟩, fun hn => absurd hl hn⟩,
      fun k hk => State.hcore_setHCore_ne _ _ _ hk,
      ⟨rfl, rfl, rfl, rfl, rfl, rfl, rfl, rfl, rfl, rfl, rfl, rfl⟩, rfl, rfl⟩
  · obtain ⟨hsame, hctxs, hqueues, hcore, hothers, -⟩ := s.resetHCore_reset n
    have ht : t = (s.resetHCore n).setHCore n { (s.resetHCore n).hcore n with
        run := true, stopped := false, lastCtx := some h.ctx, regs := { ((s.resetHCore n).hcore n).regs with pc := h.entry } } := by
      show s.startCore n = _
      unfold State.startCore
      dsimp only
      rw [if_neg hl]
    rw [ht]
    exact ⟨⟨_, State.hcore_setHCore _ _ _, (congrArg HCore.ctx hcore :), (congrArg HCore.entry hcore :), fun hp => absurd hp hl, fun _ => hcore⟩,
      fun k hk => (State.hcore_setHCore_ne _ _ _ hk).trans (hothers k hk), hsame, hctxs, hqueues⟩

end

/-! ## `HOST_CORE_RUN` -/

section
variable {s : State} {p : Fin 4} {n : Fin 16} {w : Word32}

theorem coreBlock_owner (ho : s.isOwner p = true) (act : State → State) : coreBlock p s act = act s := if_pos ho

theorem coreBlock_other (ho : s.isOwner p = false) (act : State → State) : coreBlock p s act = s := if_neg (by simp [ho])

theorem hostCoreRun_eq (ho : s.isOwner p = true) (hw : w.getLsbD 1 = false) :
    exec (.hostCoreRun p n w) s = .next ((s.setHCore n ((s.hcore n).written (w ||| 1#32).toNat)).takeRun n
      ((s.hcore n).written (w ||| 1#32).toNat) true) := by
  obtain ⟨hrun, hreset, -⟩ := runWord_bits w
  refine congrArg Host.Outcome.next ((coreBlock_owner ho _).trans ?_)
  rw [coreCtrl_word, hrun, hreset, hw, if_neg Bool.false_ne_true]

theorem hostCoreStop_eq (ho : s.isOwner p = true) (hw : w.getLsbD 1 = false) :
    exec (.hostCoreStop p n w) s = .next ((s.setHCore n ((s.hcore n).written (w &&& 0xFFFFFFFE#32).toNat)).takeRun n
      ((s.hcore n).written (w &&& 0xFFFFFFFE#32).toNat) false) := by
  obtain ⟨hrun, hreset, -⟩ := stopWord_bits w
  refine congrArg Host.Outcome.next ((coreBlock_owner ho _).trans ?_)
  rw [coreCtrl_word, hrun, hreset, hw, if_neg Bool.false_ne_true]

theorem hostCoreReset_eq (ho : s.isOwner p = true) :
    exec (.hostCoreReset p n w) s = .next (((s.setHCore n ((s.hcore n).written (w ||| 2#32).toNat)).takeRun n
      ((s.hcore n).written (w ||| 2#32).toNat) (w.getLsbD 0)).takeReset n) := by
  obtain ⟨hrun, hreset⟩ := resetWord_bits w
  refine congrArg Host.Outcome.next ((coreBlock_owner ho _).trans ?_)
  rw [coreCtrl_word, hrun, hreset, if_pos rfl]

variable (ho : s.isOwner p = true)
include ho

/-- A core that may start, with `RUN` written 1. -/
theorem hostCoreRun_mayStart (hw : w.getLsbD 1 = false) (hr : (s.hcore n).run = false)
    (hm : s.mayStart { s.hcore n with ctx := bits w.toNat 8 8 } = true) :
    exec (.hostCoreRun p n w) s = .next (if (s.hcore n).svc = .inService
      then (s.setHCore n ((s.hcore n).bound (w ||| 1#32).toNat)).startCore n else s.setHCore n ((s.hcore n).bound (w ||| 1#32).toNat)) := by
  obtain ⟨-, -, hctx⟩ := runWord_bits w
  rw [hostCoreRun_eq ho hw, HCore.written_stopped hr, State.takeRun_mayStart (by exact hr) (by rw [State.mayStart_bound, hctx, hm])]
  rfl

/-- R339: a core out of service does not run. -/
theorem hostCoreRun_outOfService (hw : w.getLsbD 1 = false) (hr : (s.hcore n).run = false)
    (hm : s.mayStart { s.hcore n with ctx := bits w.toNat 8 8 } = true) (hs : (s.hcore n).svc ≠ .inService) :
    ∃ t, exec (.hostCoreRun p n w) s = .next t ∧ (t.hcore n).run = false ∧ (t.hcore n).ctx = bits w.toNat 8 8
      ∧ (t.hcore n).regs = (s.hcore n).regs
      ∧ (∀ k, k ≠ n.val → t.hcore k = s.hcore k) ∧ t.mem = s.mem ∧ SameModule s t := by
  obtain ⟨-, -, hctx⟩ := runWord_bits w
  rw [hostCoreRun_mayStart ho hw hr hm, if_neg hs]
  refine ⟨_, rfl, ?_⟩
  rw [State.hcore_setHCore]
  exact ⟨hr, hctx, rfl, fun k hk => State.hcore_setHCore_ne _ _ _ hk, rfl, State.setHCore_sameModule _ _ _⟩

theorem hostCoreRun_refused (hw : w.getLsbD 1 = false) (hr : (s.hcore n).run = false)
    (hm : s.mayStart { s.hcore n with ctx := bits w.toNat 8 8 } = false) :
    ∃ t, exec (.hostCoreRun p n w) s = .next t ∧ (t.hcore n).run = false ∧ (t.hcore n).ctrlErr = true ∧ t.mem = s.mem ∧ SameModule s t := by
  obtain ⟨-, -, hctx⟩ := runWord_bits w
  rw [hostCoreRun_eq ho hw, HCore.written_stopped hr, State.takeRun_refused (by exact hr) (by rw [State.mayStart_bound, hctx, hm])]
  refine ⟨_, rfl, ?_⟩
  rw [State.hcore_setHCore]
  exact ⟨hr, rfl, rfl, State.setHCore_sameModule _ _ _⟩

theorem hostCoreRun_starts (hw : w.getLsbD 1 = false) (hr : (s.hcore n).run = false)
    (hm : s.mayStart { s.hcore n with ctx := bits w.toNat 8 8 } = true) (hs : (s.hcore n).svc = .inService) :
    let h := s.hcore n
    let c := bits w.toNat 8 8
    ∃ t, exec (.hostCoreRun p n w) s = .next t ∧ (t.hcore n).run = true ∧ (t.hcore n).stopped = false ∧ (t.hcore n).ctx = c
      ∧ (t.hcore n).entry = h.entry ∧ (t.hcore n).lastCtx = some c ∧ (t.hcore n).regs.pc = h.entry
      ∧ (h.lastCtx = some c → (t.hcore n).regs = { h.regs with pc := h.entry } ∧ (t.hcore n).il1 = h.il1 ∧ t.lines = s.lines)
      ∧ (h.lastCtx ≠ some c → (t.hcore n).regs = { pc := h.entry } ∧ (t.hcore n).il1 = [])
      ∧ (∀ k, k ≠ n.val → t.hcore k = s.hcore k) ∧ SameBut s t ∧ t.ctxs = s.ctxs ∧ t.queues = s.queues := by
  intro h c
  obtain ⟨-, -, hctx⟩ := runWord_bits w
  rw [hostCoreRun_mayStart ho hw hr hm, if_pos hs]
  obtain ⟨⟨x, hcore, hxctx, hentry, hsame, hother⟩, hothers, hbut, hctxs, hqueues⟩ :=
    (s.setHCore n ((s.hcore n).bound (w ||| 1#32).toNat)).startCore_starts n
  rw [State.hcore_setHCore] at hcore hxctx hentry hsame hother
  have hc : ((s.hcore n).bound (w ||| 1#32).toNat).ctx = c := hctx
  rw [hc] at hcore hsame hother
  refine ⟨_, rfl, ?_⟩
  rw [hcore]
  refine ⟨rfl, rfl, hxctx.trans hc, hentry, rfl, rfl, fun hl => ?_, fun hl => ?_,
    fun k hk => (hothers k hk).trans (State.hcore_setHCore_ne _ _ _ hk), hbut, hctxs, hqueues⟩
  · obtain ⟨hx, hlines⟩ := hsame hl
    rw [hx]
    exact ⟨rfl, rfl, hlines⟩
  · rw [hother hl]
    exact ⟨rfl, rfl⟩

/-! ## `HOST_CORE_STOP` and `HOST_CORE_RESET` -/

theorem hostCoreStop_stops (hw : w.getLsbD 1 = false) (hr : (s.hcore n).run = true) :
    ∃ t, exec (.hostCoreStop p n w) s = .next t ∧ (t.hcore n).run = false ∧ (t.hcore n).stopped = true ∧ (t.hcore n).ctx = (s.hcore n).ctx
      ∧ (t.hcore n).lastCtx = (s.hcore n).lastCtx ∧ (t.hcore n).regs = (s.hcore n).regs ∧ (∀ k, k ≠ n.val → t.hcore k = s.hcore k) ∧ t.mem = s.mem
      ∧ t.lines = s.lines := by
  rw [hostCoreStop_eq ho hw, HCore.written_running hr, State.takeRun_stop (by exact hr)]
  refine ⟨_, rfl, ?_⟩
  rw [State.hcore_setHCore]
  exact ⟨rfl, rfl, rfl, rfl, rfl, fun k hk => State.setHCore_setHCore_ne _ _ _ hk, rfl, rfl⟩

theorem hostCoreReset_refused (hw : w.getLsbD 0 = true) (hr : (s.hcore n).run = true) :
    ∃ t, exec (.hostCoreReset p n w) s = .next t ∧ (t.hcore n).run = true ∧ (t.hcore n).ctrlErr = true ∧ (t.hcore n).regs = (s.hcore n).regs
      ∧ t.mem = s.mem := by
  rw [hostCoreReset_eq ho, hw, HCore.written_running hr, State.takeRun_running (by exact hr)]
  unfold State.takeReset
  rw [State.hcore_setHCore, if_pos (by exact hr)]
  refine ⟨_, rfl, ?_⟩
  rw [State.hcore_setHCore]
  exact ⟨hr, rfl, rfl, rfl⟩

omit ho in
/-- R253: `RUN` 0 leaves the core at rest, and the rest of the module as it was. -/
theorem State.takeRun_rests (s : State) (n v : Nat) :
    let t := (s.setHCore n ((s.hcore n).written v)).takeRun n ((s.hcore n).written v) false
    (∃ hs, t = { s with hcores := hs }) ∧ (t.hcore n).run = false ∧ ∀ k, k ≠ n → t.hcore k = s.hcore k := by
  by_cases hr : ((s.hcore n).written v).run = true
  · rw [State.takeRun_stop hr]
    exact ⟨⟨_, rfl⟩, congrArg HCore.run (State.hcore_setHCore _ _ _), fun k hk => State.setHCore_setHCore_ne _ _ _ hk⟩
  · rw [Bool.not_eq_true] at hr
    rw [State.takeRun_stopped hr]
    exact ⟨⟨_, rfl⟩, (congrArg HCore.run (State.hcore_setHCore _ _ _)).trans hr, fun k hk => State.hcore_setHCore_ne _ _ _ hk⟩

theorem hostCoreReset_resets (hw : w.getLsbD 0 = false) :
    ∃ t, exec (.hostCoreReset p n w) s = .next t ∧ (t.hcore n).run = false ∧ (t.hcore n).regs = {} ∧ (t.hcore n).il1 = []
      ∧ (∀ i l, Tbl.get none t.lines i = some l → l.by_ = n.val → l.dirty = false) ∧ (∀ k, k ≠ n.val → t.hcore k = s.hcore k)
      ∧ SameBut s t ∧ t.ctxs = s.ctxs := by
  rw [hostCoreReset_eq ho, hw]
  have hrests := s.takeRun_rests n (w ||| 2#32).toNat
  generalize (s.setHCore n ((s.hcore n).written (w ||| 2#32).toNat)).takeRun n ((s.hcore n).written (w ||| 2#32).toNat) false = t at hrests ⊢
  obtain ⟨⟨hs, rfl⟩, hrun, hk⟩ := hrests
  obtain ⟨hsame, hctxs, -, hcore, hothers, hclean⟩ := { s with hcores := hs }.resetHCore_reset n
  unfold State.takeReset
  rw [if_neg (by simp [hrun])]
  refine ⟨_, rfl, ?_⟩
  rw [hcore]
  exact ⟨hrun, rfl, rfl, hclean, fun k hkn => (hothers k hkn).trans (hk k hkn), hsame, hctxs⟩

end

end Sys2Proof.Machine
end

section
/-! SUPPORT. The accesses of a host core that executes: to lines that its caches hold, and outside its windows (R249 to R251, R285). -/

namespace Sys2Proof.Machine

set_option Elab.async false

open Sys2Proof

/-! ## Access faults (R250, R251) -/

/-- What an access fault leaves: it is raised and logged, memory, caches and module stay. -/
structure Faulted (s t : State) (n : Fin 16) (kind : Trap) (addr : Nat) : Prop where
  out : ∃ o, t.out = .coreFault n kind addr :: o
  seq : t.evlog.nextSeq = s.evlog.nextSeq + 1
  mem : t.mem = s.mem
  lines : t.lines = s.lines
  same : SameModule s t

theorem State.accessFault_faults (s : State) (n : Fin 16) (kind : Trap) (addr value : Nat) :
    Faulted s (s.accessFault n kind addr value) n kind addr := by
  have hseq := s.nextSeq_ev 0x0E Status.outOfBounds (unitId 9 n.val) addr value (0x10 + n.val) 0 0
  obtain ⟨ps, ev, o, he⟩ := s.ev_eq 0x0E Status.outOfBounds (unitId 9 n.val) addr value (0x10 + n.val) 0 0
  unfold State.accessFault
  rw [he] at hseq ⊢
  exact ⟨⟨_, rfl⟩, hseq, rfl, rfl, rfl, rfl, rfl, rfl, rfl, rfl, rfl, rfl, rfl, rfl, rfl, rfl, rfl⟩

/-! ## The one line of an access -/

theorem dedup_replicate {α : Type} [DecidableEq α] (n : Nat) (a : α) : dedup (List.replicate (n + 1) a) = [a] := by
  have hrest : ∀ k, (List.replicate k a).foldl (fun acc x => if x ∈ acc then acc else x :: acc) [a] = [a] := fun k => by
    induction k with
    | zero => rfl
    | succ k ih => rw [List.replicate_succ, List.foldl_cons, if_pos (List.mem_singleton_self a), ih]
  unfold dedup
  rw [List.replicate_succ, List.foldl_cons, if_neg List.not_mem_nil, hrest]
  rfl

/-- R250: no access is of 0 bytes. -/
theorem size_pos {size : Nat} (hs : [1, 2, 4, 8].contains size = true) : 0 < size := by
  refine Nat.pos_of_ne_zero fun h0 => ?_
  subst h0
  exact absurd hs (by decide)

/-- The lines of an access that lies in one: that one. -/
theorem linesOf_within {addr size : Nat} (h0 : 0 < size) (h : addr % 64 + size ≤ 64) : linesOf addr size = [addr / 64] := by
  obtain ⟨m, rfl⟩ : ∃ m, size = m + 1 := ⟨size - 1, by omega⟩
  have hline : ∀ k ∈ List.range (m + 1), (addr + k) / 64 = addr / 64 := fun k hk => by
    have := List.mem_range.1 hk
    omega
  unfold linesOf
  rw [List.map_congr_left hline, List.map_const', List.length_range, dedup_replicate]

theorem State.fillLine_present {s : State} {i : Nat} {l : Line} (h : Tbl.get none s.lines i = some l) (used : List Nat) : s.fillLine used i = s := by
  unfold State.fillLine
  rw [h]

theorem State.fillInstr_present {s : State} {n i : Nat} {x : BitVec 512 × Bool} (h : Tbl.get none (s.hcore n).il1 i = some x) (used : List Nat) :
    s.fillInstr n used i = s := by
  unfold State.fillInstr
  rw [h]

theorem State.line_present {s : State} {i : Nat} {l : Line} (h : Tbl.get none s.lines i = some l) : s.line i = l := by
  unfold State.line
  rw [h]
  rfl

/-- The bytes of an access within one line, taken from what each line holds. -/
theorem bytes_within (data : Nat → BitVec 512) {addr size : Nat} (h : addr % 64 + size ≤ 64) :
    (List.range size).map (fun k => (data ((addr + k) / 64)).extractLsb' (8 * ((addr + k) % 64)) 8)
      = (List.range size).map fun k => (data (addr / 64)).extractLsb' (8 * (addr % 64 + k)) 8 := by
  refine List.map_congr_left fun k hk => ?_
  have hlt := List.mem_range.1 hk
  rw [show (addr + k) / 64 = addr / 64 by omega, show (addr + k) % 64 = addr % 64 + k by omega]

/-! ## One byte stored in a line (R249) -/

theorem Line.store_byte (l : Line) (n : Nat) {i : Nat} (hi : i < 64) (b : Byte) {j : Nat} (hj : j < 64) :
    (l.store n i b).data.extractLsb' (8 * j) 8 = if j = i then b else l.data.extractLsb' (8 * j) 8 := by
  have hmask : ∀ k, Nat.testBit 255 k = decide (k < 8) := Nat.testBit_two_pow_sub_one 8
  ext k hk
  have hbit : 8 * j + k < 512 := by omega
  unfold Line.store
  simp only [BitVec.getElem_extractLsb', BitVec.getLsbD_or, BitVec.getLsbD_and, BitVec.getLsbD_not, BitVec.getLsbD_ofNat, Nat.testBit_shiftLeft,
    hmask, hbit, decide_true, Bool.true_and]
  by_cases hji : j = i
  · subst hji
    simp [hk, BitVec.getLsbD, ← BitVec.getLsbD_eq_getElem]
  · rw [if_neg hji, BitVec.getElem_extractLsb']
    by_cases hlt : 8 * j + k < 8 * i
    · simp [Nat.not_le.2 hlt]
    · have hge : 8 ≤ 8 * j + k - 8 * i := by omega
      have hb : b.toNat.testBit (8 * j + k - 8 * i) = false := BitVec.getLsbD_of_ge b _ hge
      simp [hb, Nat.not_lt.2 hge]

/-- The bytes that a store takes from its value. -/
theorem storeByte_value (d : BitVec 64) (k : Nat) : BitVec.ofNat 8 (d.toNat >>> (8 * k)) = d.extractLsb' (8 * k) 8 := by
  refine BitVec.eq_of_toNat_eq ?_
  rw [BitVec.toNat_ofNat, BitVec.extractLsb'_toNat]

theorem State.storeByte_lines (s : State) (n a : Nat) (b : Byte) :
    (s.storeByte n a b).lines = Tbl.put none s.lines (a / 64) (some ((s.line (a / 64)).store n (a % 64) b)) := rfl

theorem State.storeByte_same (s : State) (n a : Nat) (b : Byte) :
    Tbl.get none (s.storeByte n a b).lines (a / 64) = some ((s.line (a / 64)).store n (a % 64) b) := by
  rw [State.storeByte_lines, Tbl.get_put_same]

theorem State.storeByte_ne (s : State) (n a : Nat) (b : Byte) {i : Nat} (hi : i ≠ a / 64) :
    Tbl.get none (s.storeByte n a b).lines i = Tbl.get none s.lines i := by
  rw [State.storeByte_lines, Tbl.get_put_ne _ _ _ _ hi]

/-- The caches after the first `m` bytes of a store within one line. -/
structure Stored (s t : State) (l : Line) (addr : Nat) (d : BitVec 64) (m : Nat) (l' : Line) : Prop where
  line : Tbl.get none t.lines (addr / 64) = some l'
  dirty : 0 < m → l'.dirty = true
  bytes : ∀ i, i < 64 → l'.data.extractLsb' (8 * i) 8
    = if addr % 64 ≤ i ∧ i < addr % 64 + m then d.extractLsb' (8 * (i - addr % 64)) 8 else l.data.extractLsb' (8 * i) 8
  others : ∀ i, i ≠ addr / 64 → Tbl.get none t.lines i = Tbl.get none s.lines i
  frame : ∃ ls, t = { s with lines := ls }

section
variable {s t : State} {l l' : Line} {addr m : Nat} {d : BitVec 64}

theorem Stored.refl (h : Tbl.get none s.lines (addr / 64) = some l) : Stored s s l addr d 0 l where
  line := h
  dirty h0 := absurd h0 (Nat.lt_irrefl 0)
  bytes i _ := (if_neg (by omega)).symm
  others _ _ := rfl
  frame := ⟨s.lines, rfl⟩

theorem Stored.storeByte (h : Stored s t l addr d m l') (hm : addr % 64 + m < 64) (n : Nat) :
    Stored s (t.storeByte n (addr + m) (BitVec.ofNat 8 (d.toNat >>> (8 * m)))) l addr d (m + 1)
      (l'.store n (addr % 64 + m) (d.extractLsb' (8 * m) 8)) := by
  have hrow : (addr + m) / 64 = addr / 64 := by omega
  have hat : (addr + m) % 64 = addr % 64 + m := by omega
  have hsame := t.storeByte_same n (addr + m) (d.extractLsb' (8 * m) 8)
  have hne := fun i => t.storeByte_ne n (addr + m) (d.extractLsb' (8 * m) 8) (i := i)
  rw [hrow, hat, State.line_present h.line] at hsame
  rw [hrow] at hne
  rw [storeByte_value]
  refine ⟨hsame, fun _ => rfl, fun i hi => ?_, fun i hi => (hne i hi).trans (h.others i hi), ?_⟩
  · rw [Line.store_byte _ _ hm _ hi, h.bytes i hi]
    by_cases him : i = addr % 64 + m
    · rw [if_pos him, if_pos (by omega), show i - addr % 64 = m by omega]
    · rw [if_neg him]
      exact if_congr (by omega) rfl rfl
  · obtain ⟨ls, rfl⟩ := h.frame
    exact ⟨_, rfl⟩

theorem Stored.foldl (h : Tbl.get none s.lines (addr / 64) = some l) (n : Nat) (hm : addr % 64 + m ≤ 64) :
    ∃ l', Stored s ((List.range m).foldl (fun s k => s.storeByte n (addr + k) (BitVec.ofNat 8 (d.toNat >>> (8 * k)))) s) l addr d m l' := by
  induction m with
  | zero => exact ⟨l, .refl h⟩
  | succ m ih =>
    obtain ⟨l', hl⟩ := ih (by omega)
    rw [List.range_succ, List.foldl_append]
    exact ⟨_, hl.storeByte (by omega) n⟩

end

/-! ## `HOST_CORE_ACCESS` -/

section
variable {s : State} {n : Fin 16} {addr size : Nat}

theorem hostCoreAccess_stopped (he : s.executes n = false) (kind : AccKind) : exec (.hostCoreAccess n addr size kind) s = .next s :=
  congrArg Host.Outcome.next (if_pos (by simp [he]))

/-- R284: `fence.i`: the instruction L1 is emptied. -/
theorem hostCoreAccess_fenceI (he : s.executes n = true) :
    exec (.hostCoreAccess n addr size .fenceI) s = .next (s.setHCore n { s.hcore n with il1 := [] }) :=
  congrArg Host.Outcome.next ((if_neg (by simp [he])).trans (if_pos rfl))

/-- R252: a `fence` with no write of a host core on its way. -/
theorem hostCoreAccess_fence (he : s.executes n = true) (hw : ∀ w ∈ s.underway, ordReq w.2 ≠ .hostCore) :
    exec (.hostCoreAccess n addr size .fence) s = .next s := by
  have hfence : s.coreFence = s := if_neg (by simpa using hw)
  exact congrArg Host.Outcome.next ((if_neg (by simp [he])).trans ((if_neg nofun).trans ((if_pos rfl).trans hfence)))

variable (he : s.executes n = true) (hs : [1, 2, 4, 8].contains size = true) (ha : addr + size ≤ 2 ^ 41)
include he hs ha

theorem hostCoreAccess_eq {kind : AccKind} (hi : kind ≠ .fenceI) (hf : kind ≠ .fence) :
    exec (.hostCoreAccess n addr size kind) s
      = .next (if s.inWindows (s.hcore n).ctx addr (addr + size - 1) (AccKind.writes kind) then s.memAccess n addr size kind
        else s.accessFault n (AccKind.trap kind) addr (storeValue kind)) :=
  congrArg Host.Outcome.next ((if_neg (by simp [he])).trans ((if_neg hi).trans ((if_neg hf).trans ((if_pos hs).trans (if_pos ha)))))

theorem hostCoreAccess_inside {kind : AccKind} (hi : kind ≠ .fenceI) (hf : kind ≠ .fence)
    (hw : s.inWindows (s.hcore n).ctx addr (addr + size - 1) (AccKind.writes kind) = true) :
    exec (.hostCoreAccess n addr size kind) s = .next (s.memAccess n addr size kind) := by
  rw [hostCoreAccess_eq he hs ha hi hf, if_pos hw]

/-- R251: an access outside the windows. -/
theorem hostCoreAccess_outside {kind : AccKind} (hi : kind ≠ .fenceI) (hf : kind ≠ .fence)
    (hw : s.inWindows (s.hcore n).ctx addr (addr + size - 1) (AccKind.writes kind) = false) :
    ∃ t, exec (.hostCoreAccess n addr size kind) s = .next t ∧ Faulted s t n (AccKind.trap kind) addr := by
  rw [hostCoreAccess_eq he hs ha hi hf, if_neg (by simp [hw])]
  exact ⟨_, rfl, s.accessFault_faults _ _ _ _⟩

variable {l : Line} (h64 : addr % 64 + size ≤ 64) (hl : Tbl.get none s.lines (addr / 64) = some l)
include h64 hl

omit he ha hl in
theorem linesOf_access : linesOf addr size = [addr / 64] := linesOf_within (size_pos hs) h64

omit he ha in
theorem State.fillLines_access : (linesOf addr size).foldl (State.fillLine (linesOf addr size)) s = s := by
  rw [linesOf_access hs h64]
  exact State.fillLine_present hl _

/-- R249, R285: a load of bytes of a line that the caches hold. -/
theorem hostCoreAccess_load (hw : s.inWindows (s.hcore n).ctx addr (addr + size - 1) false = true) :
    exec (.hostCoreAccess n addr size .load) s = .next (s.emit (if l.bad then .coreFault n .load addr
      else .coreData n (BitVec.ofNat 64 (natOf ((List.range size).map fun k => l.data.extractLsb' (8 * (addr % 64 + k)) 8))))) := by
  rw [hostCoreAccess_inside he hs ha (kind := .load) nofun nofun hw]
  unfold State.memAccess
  rw [if_neg nofun, State.fillLines_access hs h64 hl]
  unfold State.cachedByte
  dsimp only
  rw [bytes_within (fun i => (s.line i).data) h64, linesOf_access hs h64, List.any_cons, List.any_nil, Bool.or_false, State.line_present hl]
  exact congrArg Host.Outcome.next (apply_ite s.emit _ _ _).symm

omit hl in
/-- R249, R284: a fetch of bytes that the instruction L1 holds. -/
theorem hostCoreAccess_fetch {x : BitVec 512} {bad : Bool} (hx : Tbl.get none (s.hcore n).il1 (addr / 64) = some (x, bad))
    (hw : s.inWindows (s.hcore n).ctx addr (addr + size - 1) false = true) :
    exec (.hostCoreAccess n addr size .fetch) s = .next (s.emit (if bad = true then .coreFault n .fetch addr
      else .coreData n (BitVec.ofNat 64 (natOf ((List.range size).map fun k => x.extractLsb' (8 * (addr % 64 + k)) 8))))) := by
  rw [hostCoreAccess_inside he hs ha (kind := .fetch) nofun nofun hw]
  unfold State.memAccess State.fetch
  rw [if_pos rfl, linesOf_access hs h64]
  dsimp only
  rw [show [addr / 64].foldl (State.fillInstr n [addr / 64]) s = s from State.fillInstr_present hx _,
    bytes_within (fun i => ((Tbl.get none (s.hcore n).il1 i).getD (0, false)).1) h64, List.any_cons, List.any_nil, Bool.or_false, hx]
  exact congrArg Host.Outcome.next (apply_ite s.emit _ _ _).symm

/-- R249: a store into a line that the caches hold. -/
theorem hostCoreAccess_store (d : BitVec 64) (hw : s.inWindows (s.hcore n).ctx addr (addr + size - 1) true = true) :
    ∃ t l', exec (.hostCoreAccess n addr size (.store d)) s = .next t ∧ Stored s t l addr d size l' := by
  obtain ⟨l', h⟩ := Stored.foldl (d := d) hl n h64
  refine ⟨_, l', ?_, h⟩
  rw [hostCoreAccess_inside he hs ha (kind := (.store d)) nofun nofun hw]
  unfold State.memAccess
  rw [if_neg nofun, State.fillLines_access hs h64 hl]

end

end Sys2Proof.Machine
end

section
/-! SUPPORT. The cache-block operations (R34, R250, R252), and all that host cores do. -/

namespace Sys2Proof.Machine

set_option Elab.async false

open Sys2Proof

/-! ## Where a cache-block operation acts (R34, R250) -/

theorem coreOffset_none {ctx addr : Nat} (h : addr < 2 ^ 44 ∨ 2 ^ 44 + 2 ^ 26 ≤ addr) : coreOffset ctx addr = none := by
  unfold coreOffset
  dsimp only
  rcases h with h | h
  · exact if_pos h
  · rw [if_neg (by omega), if_neg (by omega), if_neg (by omega)]

theorem coreOffset_low (ctx : Nat) {o : Nat} (h : o < 0x4000) : coreOffset ctx (2 ^ 44 + o) = some o := by
  have ho : 2 ^ 44 + o - 0x100000000000 = o := Nat.add_sub_cancel_left _ _
  unfold coreOffset
  dsimp only
  rw [if_neg (by omega), ho, if_pos (.inl h)]

section
variable {s : State} {n : Fin 16} {addr : Nat}

theorem onLine_stopped (he : s.executes n = false) (f : Nat → State) : onLine n addr s f = .next s :=
  congrArg Host.Outcome.next (if_pos (by simp [he]))

theorem onLine_memory (he : s.executes n = true) (ha : addr < 2 ^ 41) (f : Nat → State) : onLine n addr s f = .next (f (addr / 64)) :=
  congrArg Host.Outcome.next ((if_neg (by simp [he])).trans (if_pos ha))

theorem onLine_register (he : s.executes n = true) (ha : 2 ^ 41 ≤ addr) (ho : (coreOffset (s.hcore n).ctx addr).isSome = true) (f : Nat → State) :
    onLine n addr s f = .next s :=
  congrArg Host.Outcome.next ((if_neg (by simp [he])).trans ((if_neg (Nat.not_lt.2 ha)).trans (if_pos ho)))

theorem onLine_nothing (he : s.executes n = true) (ha : 2 ^ 41 ≤ addr) (ho : coreOffset (s.hcore n).ctx addr = none) (f : Nat → State) :
    onLine n addr s f = .next (s.accessFault n .store addr 0) :=
  congrArg Host.Outcome.next ((if_neg (by simp [he])).trans ((if_neg (Nat.not_lt.2 ha)).trans (if_neg (by simp [ho]))))

theorem exec_cboClean : exec (.cboClean n addr) s = onLine n addr s fun i => s.cleanLine i true := rfl

theorem exec_cboFlush : exec (.cboFlush n addr) s = onLine n addr s fun i => s.cleanLine i false := rfl

theorem exec_cboInval : exec (.cboInval n addr) s = onLine n addr s fun i => { s with lines := Tbl.put none s.lines i none } := rfl

theorem cbo_onLine {c : Instr} (hc : c ∈ [Instr.cboClean n addr, .cboFlush n addr, .cboInval n addr]) : ∃ f, exec c s = onLine n addr s f := by
  simp only [List.mem_cons, List.not_mem_nil, or_false] at hc
  rcases hc with rfl | rfl | rfl
  · exact ⟨_, exec_cboClean⟩
  · exact ⟨_, exec_cboFlush⟩
  · exact ⟨_, exec_cboInval⟩

/-- R34: a cache-block operation outside device memory and device registers. -/
theorem cbo_faults (he : s.executes n = true) (ha : 2 ^ 41 ≤ addr) (hout : addr < 2 ^ 44 ∨ 2 ^ 44 + 2 ^ 26 ≤ addr) {c : Instr}
    (hc : c ∈ [Instr.cboClean n addr, .cboFlush n addr, .cboInval n addr]) : ∃ t, exec c s = .next t ∧ Faulted s t n .store addr := by
  obtain ⟨f, hf⟩ := cbo_onLine (s := s) hc
  exact ⟨_, hf.trans (onLine_nothing he ha (coreOffset_none hout) f), s.accessFault_faults _ _ _ _⟩

end

/-! ## Cache-block operations on device memory (R252) -/

section
variable {s : State} {n : Fin 16} {addr : Nat} (he : s.executes n = true) (ha : addr < 2 ^ 41)
include he ha

theorem cboInval_discards :
    ∃ t, exec (.cboInval n addr) s = .next t ∧ Tbl.get none t.lines (addr / 64) = none ∧ t.mem = s.mem ∧ ∃ ls, t = { s with lines := ls } := by
  rw [exec_cboInval, onLine_memory he ha]
  exact ⟨_, rfl, Tbl.get_put_same none s.lines _ none, rfl, _, rfl⟩

theorem cboFlush_clean {l : Line} (hl : Tbl.get none s.lines (addr / 64) = some l) (hd : l.dirty = false) :
    exec (.cboFlush n addr) s = .next { s with lines := Tbl.put none s.lines (addr / 64) none } := by
  rw [exec_cboFlush, onLine_memory he ha, State.cleanLine_clean hl hd, if_neg Bool.false_ne_true]

theorem cboClean_dirty {l : Line} (hl : Tbl.get none s.lines (addr / 64) = some l) (hd : l.dirty = true) :
    ∃ t, exec (.cboClean n addr) s = .next t ∧ t.mem = (s.writeLine (addr / 64) l).mem
      ∧ t.lines = Tbl.put none s.lines (addr / 64) (some { l with dirty := false }) := by
  rw [exec_cboClean, onLine_memory he ha, State.cleanLine_dirty hl hd, if_pos rfl]
  exact ⟨_, rfl, rfl, rfl⟩

theorem cboFlush_dirty {l : Line} (hl : Tbl.get none s.lines (addr / 64) = some l) (hd : l.dirty = true) :
    ∃ t, exec (.cboFlush n addr) s = .next t ∧ t.mem = (s.writeLine (addr / 64) l).mem
      ∧ t.lines = Tbl.put none s.lines (addr / 64) none := by
  rw [exec_cboFlush, onLine_memory he ha, State.cleanLine_dirty hl hd, if_neg Bool.false_ne_true]
  exact ⟨_, rfl, rfl, rfl⟩

end

/-- Settles O53: control blocks by the cases of `RUN` and `RESET`, accesses by the one line that they touch, cache-block operations by
what writing a line back leaves. -/
theorem hostCores : Obligations.HostCores := by
  intro s p n h
  refine ⟨fun ho w => ?_, fun ho w hw => ?_, fun ho w => ?_, fun he addr size kind => ?_, fun he addr size hs ha => ?_, fun he addr size => ?_,
    fun he addr ha => ?_, fun he addr ha => ?_⟩
  · exact ⟨congrArg _ (coreBlock_other ho _), congrArg _ (coreBlock_other ho _), congrArg _ (coreBlock_other ho _)⟩
  · exact ⟨hostCoreRun_outOfService ho hw, hostCoreRun_starts ho hw, hostCoreRun_refused ho hw, fun hr _ => hostCoreStop_stops ho hw hr⟩
  · exact ⟨hostCoreReset_resets ho, hostCoreReset_refused ho⟩
  · exact ⟨hostCoreAccess_stopped he kind, exec_cboClean.trans (onLine_stopped he _), exec_cboFlush.trans (onLine_stopped he _),
      exec_cboInval.trans (onLine_stopped he _)⟩
  · refine ⟨fun kind hi hf hw => ?_, fun l h64 hl => ⟨hostCoreAccess_load he hs ha h64 hl, fun x bad hw hx => hostCoreAccess_fetch he hs ha h64 hx hw,
      fun d hw => ?_⟩⟩
    · obtain ⟨t, ht, ⟨o, hout⟩, hseq, hmem, hlines, hsame⟩ := hostCoreAccess_outside he hs ha hi hf hw
      exact ⟨t, o, ht, hout, hseq, hmem, hlines, hsame⟩
    · obtain ⟨t, l', ht, hline, hdirty, hbytes, hothers, hframe⟩ := hostCoreAccess_store he hs ha h64 hl d hw
      exact ⟨t, l', ht, hline, hdirty (size_pos hs), hbytes, hothers, hframe⟩
  · exact ⟨hostCoreAccess_fenceI he, hostCoreAccess_fence he⟩
  · refine ⟨fun hout c hc => ?_, fun o ho hlow => ?_⟩
    · obtain ⟨t, ht, ⟨o, hout⟩, hseq, hmem, hlines, hsame⟩ := cbo_faults he ha hout hc
      exact ⟨t, o, ht, hout, hseq, hmem, hlines, hsame⟩
    · have hsome : (coreOffset (s.hcore n).ctx addr).isSome = true := by rw [ho, coreOffset_low _ hlow]; rfl
      exact ⟨exec_cboClean.trans (onLine_register he ha hsome _), exec_cboFlush.trans (onLine_register he ha hsome _),
        exec_cboInval.trans (onLine_register he ha hsome _)⟩
  · refine ⟨cboInval_discards he ha, fun l hl => ⟨?_, cboFlush_clean he ha hl⟩⟩
    intro hd hclear hf a b hua hub hta htb
    obtain ⟨hda, hdb, hcols⟩ := State.writeLine_clear hclear hf hua hub hta htb l
    obtain ⟨t, ht, hmem, hlines⟩ := cboClean_dirty he ha hl hd
    obtain ⟨t', ht', hmem', hlines'⟩ := cboFlush_dirty he ha hl hd
    refine ⟨⟨t, ht, ?_⟩, t', ht', ?_⟩
    · unfold SameCol
      rw [hmem, hlines, Tbl.get_put_same]
      exact ⟨hda, hdb, rfl, hcols⟩
    · unfold SameCol
      rw [hmem', hlines', Tbl.get_put_same]
      exact ⟨hda, hdb, rfl, hcols⟩

end Sys2Proof.Machine
end

section
/-! SUPPORT. Where rows and weights lie (R62, R80): the places of a row operand's columns, and the fields of a column that weights are. -/

namespace Sys2Proof.Machine

set_option Elab.async false

open Sys2Proof

/-- R182: a number read as two's complement is the signed value of the word that it spells. -/
theorem toSigned_eq_toInt (w x : Nat) : toSigned w x = (BitVec.ofNat w x).toInt := by
  unfold toSigned
  rw [BitVec.toInt_eq_toNat_cond, BitVec.toNat_ofNat]
  rcases w with _ | w
  · simp [Nat.mod_one]
  · have hpow : 2 ^ (w + 1) = 2 * 2 ^ w := Nat.pow_succ'
    simp only [Nat.add_sub_cancel]
    generalize x % 2 ^ (w + 1) = y
    split <;> split <;> omega

/-- A field of a column's number, as a word. -/
theorem ofNat_bits (d : BitVec 256) (lo len : Nat) : BitVec.ofNat len (bits d.toNat lo len) = d.extractLsb' lo len := by
  apply BitVec.eq_of_toNat_eq
  simp [bits]

theorem toSigned_bits (d : BitVec 256) (lo len : Nat) : toSigned len (bits d.toNat lo len) = (d.extractLsb' lo len).toInt := by
  rw [toSigned_eq_toInt, ofNat_bits]

/-- A row operand names a row of its unit's pair: the column's number is put together of its place. -/
theorem rowCol_eq_num (su : Nat) (r : BitVec 16) (c : Nat) : rowCol su r c
    = Loc.num { gpc := su / 16, bank := 2 * (su % 16) + (if r.getLsbD 15 then 1 else 0), row := rowNum r, col := c } := by
  simp only [rowCol, rowBank, Loc.num]
  omega

theorem rowNum_lt (r : BitVec 16) : rowNum r < 32768 := (r.extractLsb' 0 15).isLt

/-- R80: where a row operand of a unit lies. -/
theorem locOf_rowCol (su : Nat) (r : BitVec 16) {c : Nat} (hc : c < 32) : locOf (rowCol su r c)
    = { gpc := su / 16, bank := 2 * (su % 16) + (if r.getLsbD 15 then 1 else 0), row := rowNum r, col := c } := by
  rw [rowCol_eq_num]
  refine locOf_num ?_ (rowNum_lt r) hc
  show 2 * (su % 16) + (if r.getLsbD 15 then 1 else 0) < 32
  split <;> omega

/-- A half of a byte of a column. -/
theorem extractLsb'_colByte (d : BitVec 256) (i : Nat) {lo len : Nat} (h : lo + len ≤ 8) :
    (colByte d i).extractLsb' lo len = d.extractLsb' (8 * i + lo) len := by
  unfold colByte
  ext j hj
  simp only [BitVec.getElem_extractLsb', BitVec.getLsbD_extractLsb', Nat.add_assoc]
  simp; omega

/-- R62: an int8 row holds weight `q` in byte `q`. -/
theorem rowWeight_int8 (row : Nat → BitVec 256) (q : Nat) : rowWeight true row q = (colByte (row (q / 32)) (q % 32)).toInt :=
  toSigned_bits _ _ _

/-- R62: an int4 row holds weight `q` in a half of byte `q / 2`, the lower half first. -/
theorem rowWeight_int4 (row : Nat → BitVec 256) (q : Nat) : rowWeight false row q
    = ((colByte (row (q / 2 / 32)) (q / 2 % 32)).extractLsb' (if q % 2 = 0 then 0 else 4) 4).toInt := by
  have hcol : q / 64 = q / 2 / 32 := by omega
  have hbit : 4 * (q % 64) = 8 * (q / 2 % 32) + (if q % 2 = 0 then 0 else 4) := by split <;> omega
  rw [extractLsb'_colByte _ _ (by split <;> omega), ← hbit, ← hcol]
  exact toSigned_bits _ _ _

/-- Settles O59: the column of a row operand is the number of its place (`locOf_rowCol`), and a weight is a field of its column, read signed
(`rowWeight_int8`, `rowWeight_int4`). -/
theorem rowsAndWeightsLieWhereTheSpecSays : Obligations.RowsAndWeightsLieWhereTheSpecSays := by
  refine ⟨fun su r c hc => locOf_rowCol su r hc, fun row q => ⟨fun _ => rowWeight_int8 row q, fun _ => ⟨rowWeight_int4 row q, ?_, ?_, ?_⟩, fun c hc => ⟨fun k hk => ?_, fun k hk => ?_⟩⟩⟩
  · rw [rowWeight_int4]
    exact BitVec.le_toInt _
  · rw [rowWeight_int4]
    exact Int.le_sub_one_of_lt (BitVec.toInt_lt)
  · omega
  · show (32 * c + k) / 32 = c
    omega
  · show (64 * c + k) / 64 = c
    omega
end Sys2Proof.Machine
end

section
/-! SUPPORT. A record in the banks whose unit's token serves a request (R299, R300): a state at which the grants do not stand. -/

namespace Sys2Proof.Machine

set_option Elab.async false

open Sys2Proof

/-- A `MEM_ROWOP` in flight that initialises one row, in the first bank-local window, with the pattern of its spore. -/
def Rec.rowInit : Rec :=
  { q := 0, seq := 0, ctx := 0, raw := BitVec.ofNat 1024 (0x11 + 1 * 2 ^ 8 + 2 ^ 12), started := true
    rowE := [{ d := 1, x := 0, y := 0, nrows := 1, window := State.reset.lay.first, unit := 0, vec := 0 }] }

/-- The module after reset with that record in flight, and one request for a token at the arbiter. -/
def State.tokenAskedRow : State := { State.tokenAsked with recs := [Rec.rowInit] }

theorem State.tokenAskedRow_runs : Runs State.tokenAskedRow 0 0 0x11 Rec.rowInit := by
  refine ⟨?_, ?_, rfl, rfl, rfl⟩ <;> decide +kernel

/-- The pattern of a spore is read from no column, and nothing is on its way: the record meets the state as it stands. -/
theorem State.tokenAskedRow_reachRec :
    State.tokenAskedRow.reachRec Rec.rowInit (State.tokenAskedRow.patternCols Rec.rowInit) = State.tokenAskedRow := by
  have hcols : State.tokenAskedRow.patternCols Rec.rowInit = [] := by decide +kernel
  rw [hcols]
  exact State.deliver_of_underway_nil rfl _

/-- R299: the token that the row's unit takes serves the request that waits. -/
theorem State.tokenAskedRow_memRowop : ∃ t, exec (.memRowop 0 0) State.tokenAskedRow = .next t ∧ t.power.waiting = [] :=
  ⟨_, rfl, by decide +kernel⟩

/-- Refutes O29: with no access waiting it leaves the grants as they are, the requests at the arbiter among them, but a token that a row's unit
takes at `State.tokenAskedRow` serves one. -/
theorem not_bankRecordsDoTheirWork : ¬ Obligations.BankRecordsDoTheirWork := by
  intro h
  obtain ⟨hrow, -⟩ := h State.tokenAskedRow 0 0 Rec.rowInit (by decide +kernel)
  obtain ⟨t, ht, -, -, hframe⟩ := hrow State.tokenAskedRow_runs (by decide +kernel)
  rw [State.tokenAskedRow_reachRec] at hframe
  obtain ⟨⟨-, -, hpower, -⟩, -⟩ := hframe fun _ => rfl
  obtain ⟨t', ht', hserved⟩ := State.tokenAskedRow_memRowop
  obtain rfl : t' = t := by
    rw [ht'] at ht
    exact Host.Outcome.next.inj ht
  rw [hpower] at hserved
  exact absurd hserved (List.cons_ne_nil _ _)

end Sys2Proof.Machine
end

section
/-! SUPPORT. What loads a unit (R54, R55, R59, R77, R81) and what fetches from it (R57, R58, R78): registers as they are loaded, entries as they
leave. -/

namespace Sys2Proof.Machine

set_option Elab.async false

open Sys2Proof

/-! ## Ranges of a table -/

theorem Tbl.get_append_of_notMem {α : Type} (d : α) {a : Tbl α} {i : Nat} (h : ∀ x, (i, x) ∉ a) (b : Tbl α) :
    Tbl.get d (a ++ b) i = Tbl.get d b i := by
  induction a with
  | nil => rfl
  | cons e a ih =>
    obtain ⟨k, v⟩ := e
    have hk : i ≠ k := fun hk => h v (hk ▸ List.mem_cons_self)
    exact (if_neg hk).trans (ih fun x hx => h x (List.mem_cons_of_mem _ hx))

theorem Tbl.get_append_notMem {α : Type} (d : α) (a : Tbl α) {b : Tbl α} {i : Nat} (h : ∀ x, (i, x) ∉ b) :
    Tbl.get d (a ++ b) i = Tbl.get d a i := by
  induction a with
  | nil => exact Tbl.get_of_notMem d h
  | cons e a ih => simp only [List.cons_append, Tbl.get, ih]

/-- A range that has been put reads as the values put. -/
theorem Tbl.get_putRange {α : Type} [DecidableEq α] (d : α) (m : Tbl α) (base : Nat) (xs : List α) {i : Nat} {x : α} (h : xs[i]? = some x) :
    Tbl.get d (Tbl.putRange d m base xs) (base + i) = x := by
  obtain ⟨hi, -⟩ := List.getElem?_eq_some_iff.1 h
  have hmem : ∀ y, (base + i, y) ∈ (xs.zipIdx.map fun e => (base + e.2, e.1)).filter (fun e => decide (e.2 ≠ d))
      ↔ y = x ∧ y ≠ d := fun y => by
    simp only [List.mem_filter, List.mem_map, Prod.exists, List.mem_zipIdx_iff_getElem?, Prod.mk.injEq, decide_eq_true_eq]
    refine and_congr_left fun _ => ⟨fun ⟨a, k, hk, hb, ha⟩ => ?_, fun hy => ⟨x, i, h, rfl, hy.symm⟩⟩
    obtain rfl : k = i := Nat.add_left_cancel hb
    exact ha.symm.trans (Option.some.inj (hk.symm.trans h))
  have hrise : Tbl.Rising ((xs.zipIdx.map fun e => (base + e.2, e.1)).filter fun e => decide (e.2 ≠ d)) := by
    refine List.Pairwise.filter _ (List.pairwise_map.2 ?_)
    have hidx : (xs.zipIdx.map Prod.snd).Pairwise (· < ·) := by
      rw [List.zipIdx_map_snd]
      exact List.pairwise_lt_range'
    exact (List.pairwise_map.1 hidx).imp fun h => Nat.add_lt_add_left h base
  unfold Tbl.putRange
  rw [Tbl.get_append_notMem d _ fun y hy => ?_, Tbl.get_append_of_notMem d fun y hy => ?_]
  · by_cases hx : x = d
    · rw [hx, Tbl.get_of_notMem d fun y hy => ?_]
      obtain ⟨rfl, hne⟩ := (hmem y).1 hy
      exact hne hx
    · exact Tbl.get_of_mem d hrise ((hmem x).2 ⟨rfl, hx⟩)
  · simp only [List.mem_filter, decide_eq_true_eq] at hy
    omega
  · simp only [List.mem_filter, decide_eq_true_eq] at hy
    omega

/-! ## Payloads (R77, R81) -/

/-- The bytes of a payload, burst by burst. -/
def payloadBytes (p : List Burst) : List Byte := (p.map fun b => (List.range 32).map fun i => colByte b.data i).flatten

theorem payloadBytes_getElem? {p : List Burst} {j i : Nat} (hj : j < p.length) (hi : i < 32) :
    (payloadBytes p)[32 * j + i]? = some (colByte (p.getD j noBurst).data i) := by
  induction p generalizing j with
  | nil => exact absurd hj (Nat.not_lt_zero _)
  | cons b p ih =>
    have hcons : payloadBytes (b :: p) = (List.range 32).map (fun i => colByte b.data i) ++ payloadBytes p := rfl
    rw [hcons]
    cases j with
    | zero => rw [List.getElem?_append_left (by simpa using hi)]; simp [hi]
    | succ j =>
      rw [List.getElem?_append_right (by simp; omega), List.length_map, List.length_range,
        show 32 * (j + 1) + i - 32 = 32 * j + i by omega, ih (Nat.lt_of_succ_lt_succ hj), List.getD_cons_succ]

theorem Sorus.loadVec_act (u : Sorus) (c : SldOp) {j i : Nat} (hj : j < c.payload.length) (hi : i < 32) :
    Tbl.get 0 (u.loadVec c).act (c.vec.val * partLen u.vecs + 32 * c.colOff + 32 * j + i) = colByte (c.payload.getD j noBurst).data i := by
  rw [Nat.add_assoc]
  exact Tbl.get_putRange 0 u.act _ _ (payloadBytes_getElem? hj hi)

theorem Sorus.table_loadLut (u : Sorus) {p : List Burst} {i : Nat} (h : i < 32 * p.length) :
    (u.loadLut p).table i = colByte (p.getD (i / 32) noBurst).data (i % 32) := by
  have hget := payloadBytes_getElem? (p := p) (j := i / 32) (i := i % 32) (by omega) (by omega)
  rw [Nat.div_add_mod] at hget
  show (payloadBytes p).getD i 0 = _
  rw [List.getD_eq_getElem?_getD, hget]
  rfl

/-! ## The configuration (R55, R81) -/

/-- R55: V lies in the half of the word that is loaded. -/
theorem bits_config (c : Word32) : bits (c &&& 0xFFFF#32).toNat 1 3 = bits c.toNat 1 3 := bits_congr fun i hi => by
  have hmask : Nat.testBit 0xFFFF (1 + i) = true := by
    have h : i = 0 ∨ i = 1 ∨ i = 2 := by omega
    rcases h with rfl | rfl | rfl <;> decide
  rw [BitVec.toNat_and, Nat.testBit_and]
  simp [hmask]

theorem ofNat_append (a b : BitVec 256) : BitVec.ofNat 512 (a.toNat + b.toNat * 2 ^ 256) = b ++ a := by
  apply BitVec.eq_of_toNat_eq
  rw [BitVec.toNat_append, ← Nat.shiftLeft_add_eq_or_of_lt a.isLt, BitVec.toNat_ofNat, Nat.shiftLeft_eq]
  omega

/-- R55, R56, R63: what a configuration loads; the activation buffer is kept while its partitions are. -/
theorem Sorus.loadCfg_eq (u : Sorus) (c : ScfgOp) : u.loadCfg c = { u with
    cfg := if c.loadCfg then c.config &&& 0xFFFF#32 else u.cfg
    act := if c.loadCfg = true ∧ partsOf (bits c.config.toNat 1 3 + 1) ≠ partsOf u.vecs then [] else u.act
    actPoison := if c.loadCfg = true ∧ partsOf (bits c.config.toNat 1 3 + 1) ≠ partsOf u.vecs then 0 else u.actPoison
    scale := if c.loadScale then c.scale.data else u.scale
    scalePoison := if c.loadScale then burstBad c.scale else u.scalePoison
    pat := if c.loadPat then c.pat1.data ++ c.pat0.data else u.pat
    patPoison := if c.loadPat then burstBad c.pat0 || burstBad c.pat1 else u.patPoison } := by
  have hcfg : (if c.loadCfg then
        if partsOf (bits (c.config &&& 0xFFFF#32).toNat 1 3 + 1) = partsOf u.vecs then { u with cfg := c.config &&& 0xFFFF#32 }
        else { u with cfg := c.config &&& 0xFFFF#32, act := [], actPoison := 0 }
      else u) = { u with
        cfg := if c.loadCfg then c.config &&& 0xFFFF#32 else u.cfg
        act := if c.loadCfg = true ∧ partsOf (bits c.config.toNat 1 3 + 1) ≠ partsOf u.vecs then [] else u.act
        actPoison := if c.loadCfg = true ∧ partsOf (bits c.config.toNat 1 3 + 1) ≠ partsOf u.vecs then 0 else u.actPoison } := by
    rw [bits_config]
    by_cases hload : c.loadCfg = true
    · by_cases hparts : partsOf (bits c.config.toNat 1 3 + 1) = partsOf u.vecs <;> simp [hload, hparts]
    · simp [hload]
  unfold Sorus.loadCfg
  dsimp only
  rw [hcfg, ofNat_append]
  cases c.loadScale <;> cases c.loadPat <;> rfl

/-! ## Loads (R54, R59) -/

theorem Pair.ready_lastCtx (p : Pair) (ctx : Nat) : (p.ready ctx).lastCtx = some ctx := by
  unfold Pair.ready
  dsimp only
  split
  · assumption
  · rfl

/-- R59: what a pair is once a loading command has reached its unit. -/
def Pair.putLoad (p : Pair) (ctx : Nat) (mid : Bool) (c : LoadCmd) : Pair :=
  if p.holds mid then { p with held := some c } else { p.ready ctx with unit := (p.ready ctx).unit.load c }

theorem State.putLoad_eq_setPair (s : State) (su ctx : Nat) (mid : Bool) (c : LoadCmd) :
    s.putLoad su ctx mid c = s.setPair su ((s.pair su).putLoad ctx mid c) := by
  unfold State.putLoad Pair.putLoad
  dsimp only
  split <;> rfl

/-- A load outside a step takes effect at once. -/
theorem Pair.putLoad_now (p : Pair) (ctx : Nat) (c : LoadCmd) :
    p.putLoad ctx false c = { p.ready ctx with unit := (p.ready ctx).unit.load c } := rfl

/-- A load during a step of a unit that computes is held. -/
theorem Pair.putLoad_mid (p : Pair) (ctx : Nat) (c : LoadCmd) : p.putLoad ctx true c
    = if p.token = true then { p with held := some c } else { p.ready ctx with unit := (p.ready ctx).unit.load c } := rfl

/-- What a change of one pair leaves. -/
theorem State.setPair_frame (s : State) (su : Nat) (p : Pair) :
    (∀ k, k ≠ su → (s.setPair su p).pair k = s.pair k) ∧ SameModule s (s.setPair su p) ∧ (s.setPair su p).mem = s.mem
      ∧ (s.setPair su p).power = s.power ∧ (s.setPair su p).recs = s.recs ∧ (s.setPair su p).out = s.out :=
  ⟨fun _ hk => s.pair_setPair_ne su p hk, ⟨rfl, rfl, rfl, rfl, rfl, rfl, rfl, rfl, rfl, rfl, rfl, rfl, rfl⟩, rfl, rfl, rfl, rfl⟩

theorem exec_scfg {s : State} {su ctx : Nat} {mid : Bool} {c : ScfgOp} (h : s.canLoad su ctx mid (.cfg c) = true) :
    exec (.scfg su ctx mid c) s = .next (s.setPair su ((s.pair su).putLoad ctx mid (.cfg c))) := by
  show Host.Outcome.next (if _ then _ else s) = _
  rw [if_pos h, State.putLoad_eq_setPair]

theorem exec_slut {s : State} {su ctx : Nat} {mid : Bool} {p : List Burst} (h : s.canLoad su ctx mid (.lut p) = true) :
    exec (.slut su ctx mid p) s = .next (s.setPair su ((s.pair su).putLoad ctx mid (.lut p))) := by
  show Host.Outcome.next (if _ then _ else s) = _
  rw [if_pos h, State.putLoad_eq_setPair]

/-- R59, R81: a load that may go to a unit outside a step keeps the rules of its payload. -/
theorem State.loadOk_of_canLoad {s : State} {su ctx : Nat} {c : LoadCmd} (h : s.canLoad su ctx false c = true) :
    ((s.pair su).ready ctx).unit.loadOk c = true := by
  have h' : (s.canIssue su && ((s.pair su).ready ctx).unit.loadOk c) = true := h
  exact ((Bool.and_eq_true _ _).mp h').2

/-! ## `SLD` -/

/-- A change of the pairs of a list, each for itself. -/
theorem State.foldl_setPair (f : Pair → Pair) {l : List Nat} (hl : l.Nodup) (s : State) :
    ∃ ps, l.foldl (fun s k => s.setPair k (f (s.pair k))) s = { s with pairs := ps }
      ∧ ∀ k, Tbl.get {} ps k = if k ∈ l then f (s.pair k) else s.pair k := by
  induction l generalizing s with
  | nil => exact ⟨s.pairs, rfl, fun _ => rfl⟩
  | cons a l ih =>
    obtain ⟨ha, hl⟩ := List.nodup_cons.1 hl
    obtain ⟨ps, hps, hget⟩ := ih hl (s.setPair a (f (s.pair a)))
    refine ⟨ps, hps, fun k => ?_⟩
    rw [hget]
    by_cases hk : k = a
    · subst hk
      rw [if_neg ha, if_pos List.mem_cons_self, State.pair_setPair]
    · simp only [State.pair_setPair_ne _ _ _ hk, List.mem_cons, hk, false_or]

theorem maskUnits_nodup (gpc : Nat) (umask : BitVec 16) : (maskUnits gpc umask).Nodup :=
  (List.nodup_range.filter _).map fun _ _ h => Nat.add_left_cancel h

/-- R81: `SLD` reaches each unit of the mask for itself, and no other. -/
theorem exec_sld {s : State} {gpc ctx : Nat} {mid : Bool} {umask : BitVec 16} {c : SldOp}
    (h : ∀ k ∈ maskUnits gpc umask, s.canLoad k ctx mid (.vec c) = true) :
    ∃ t, exec (.sld gpc ctx mid umask c) s = .next t ∧ SameModule s t ∧ t.mem = s.mem ∧ t.recs = s.recs
      ∧ ∀ k, t.pair k = if k ∈ maskUnits gpc umask then (s.pair k).putLoad ctx mid (.vec c) else s.pair k := by
  obtain ⟨ps, hps, hget⟩ := State.foldl_setPair (·.putLoad ctx mid (.vec c)) (maskUnits_nodup gpc umask) s
  refine ⟨{ s with pairs := ps }, ?_, ⟨rfl, rfl, rfl, rfl, rfl, rfl, rfl, rfl, rfl, rfl, rfl, rfl, rfl⟩, rfl, rfl, hget⟩
  show Host.Outcome.next (if _ then _ else s) = _
  rw [if_pos (List.all_eq_true.2 h), State.loadVecs, ← hps]
  simp only [State.putLoad_eq_setPair]

/-! ## Held commands (R59) -/

theorem Pair.applyHeld_held (p : Pair) : p.applyHeld.held = none := by
  unfold Pair.applyHeld
  split
  · rfl
  · assumption

theorem Pair.applyHeld_token (p : Pair) : p.applyHeld.token = p.token := by
  unfold Pair.applyHeld
  split <;> rfl

theorem Pair.applyHeld_unit (p : Pair) : p.applyHeld.unit = (match p.held with
    | some c => p.unit.load c
    | none => p.unit) := by
  unfold Pair.applyHeld
  split <;> simp_all

/-! ## Fetches (R57, R58, R78) -/

/-- R58, R78: what the `n` entries that a fetch asks for leave the module as. -/
def fetched (su : Nat) (fifo : List FifoEntry) (n : Nat) : List Out :=
  ((List.range n).map fun i => Out.entry su (entryBurst (match fifo[i]? with
    | some e => e.bits
    | none => emptyEntry))).reverse

theorem fetched_succ (su : Nat) (fifo : List FifoEntry) (n : Nat) : fetched su fifo (n + 1)
    = .entry su (entryBurst (match fifo[n]? with
      | some e => e.bits
      | none => emptyEntry)) :: fetched su fifo n := by
  simp [fetched, List.range_succ]

/-- R58: a fetch of one entry, of a FIFO that holds some or none. -/
theorem State.fetchOne_eq (s : State) (su : Nat) : ∃ ps, s.fetchOne su
      = { s with pairs := ps, out := .entry su (entryBurst (match (s.pair su).unit.fifo[0]? with
          | some e => e.bits
          | none => emptyEntry)) :: s.out }
    ∧ (∀ k, k ≠ su → Tbl.get {} ps k = s.pair k)
    ∧ Tbl.get {} ps su = { s.pair su with unit := { (s.pair su).unit with fifo := (s.pair su).unit.fifo.drop 1 } } := by
  unfold State.fetchOne
  dsimp only
  cases hf : (s.pair su).unit.fifo with
  | nil => exact ⟨s.pairs, rfl, fun _ _ => rfl, by
      show s.pair su = { s.pair su with unit := { (s.pair su).unit with fifo := [] } }
      rw [← hf]⟩
  | cons e r => exact ⟨_, rfl, fun _ hk => s.pair_setPair_ne su _ hk, s.pair_setPair su _⟩

/-- R58: entries are fetched in turn. -/
theorem State.fetchMany_eq (s : State) (su n : Nat) : ∃ ps, (List.range n).foldl (fun s _ => s.fetchOne su) s
      = { s with pairs := ps, out := fetched su (s.pair su).unit.fifo n ++ s.out }
    ∧ (∀ k, k ≠ su → Tbl.get {} ps k = s.pair k)
    ∧ Tbl.get {} ps su = { s.pair su with unit := { (s.pair su).unit with fifo := (s.pair su).unit.fifo.drop n } } := by
  induction n with
  | zero => exact ⟨s.pairs, rfl, fun _ _ => rfl, rfl⟩
  | succ n ih =>
    obtain ⟨ps, hps, hothers, hsu⟩ := ih
    obtain ⟨ps', hps', hothers', hsu'⟩ := State.fetchOne_eq { s with pairs := ps, out := fetched su (s.pair su).unit.fifo n ++ s.out } su
    have hpair : ({ s with pairs := ps, out := fetched su (s.pair su).unit.fifo n ++ s.out } : State).pair su = Tbl.get {} ps su := rfl
    rw [hpair, hsu] at hps' hsu'
    refine ⟨ps', ?_, fun k hk => (hothers' k hk).trans (hothers k hk), ?_⟩
    · rw [List.range_succ, List.foldl_append, hps, List.foldl_cons, List.foldl_nil, hps', fetched_succ]
      simp
    · rw [hsu']
      simp

/-- R57: the status is read, and its RC fields clear. -/
theorem State.fetchStatus_eq (s : State) (su : Nat) : ∃ ps, s.fetchStatus su
      = { s with pairs := ps, out := .status su (s.pair su).unit.statusBurst :: s.out }
    ∧ (∀ k, k ≠ su → Tbl.get {} ps k = s.pair k)
    ∧ Tbl.get {} ps su = { s.pair su with unit := { (s.pair su).unit with resultPoison := false, satCount := 0 } } :=
  ⟨_, rfl, fun _ hk => s.pair_setPair_ne su _ hk, s.pair_setPair su _⟩

theorem exec_sfet {s : State} {su : Nat} (h : s.canIssue su = true) (ctx : Nat) (status : Bool) (n : Nat) :
    exec (.sfet su ctx status n) s = .next (
      let t := s.setPair su ((s.pair su).ready ctx)
      if status then t.fetchStatus su else (List.range n).foldl (fun s _ => s.fetchOne su) t) := congrArg Host.Outcome.next (if_pos h)

/-- Settles O37: a load is its registers' new values, put at once or held; a fetch takes the FIFO's entries in turn, by induction on their
number. -/
theorem sorusLoadsAndFetches : Obligations.SorusLoadsAndFetches := by
  refine ⟨fun s su ctx => ⟨fun c h => ?_, fun p h => ?_, fun gpc umask c h => ?_, fun c h ht => ?_, fun p h ht => ?_, fun gpc umask c h => ?_,
    fun h => ?_, fun h => ?_⟩, fun s su ctx n h => ⟨?_, ?_⟩⟩
  · refine ⟨_, exec_scfg h, s.setPair_frame su _, ?_⟩
    rw [State.pair_setPair, Pair.putLoad_now]
    refine ⟨Pair.ready_lastCtx _ _, ?_⟩
    show (Sorus.loadCfg _ c).cfg = _ ∧ (Sorus.loadCfg _ c).scale = _ ∧ (Sorus.loadCfg _ c).pat = _ ∧ (Sorus.loadCfg _ c).fifo = _
      ∧ (Sorus.loadCfg _ c).lut = _ ∧ (_ → (Sorus.loadCfg _ c).act = _) ∧ (_ → _ → (Sorus.loadCfg _ c).act = _)
    rw [Sorus.loadCfg_eq]
    refine ⟨rfl, rfl, rfl, rfl, rfl, fun hkeep => if_neg fun ⟨hload, hparts⟩ => ?_, fun hload hparts => if_pos ⟨hload, hparts⟩⟩
    exact hkeep.elim (fun h => Bool.false_ne_true (h.symm.trans hload)) hparts
  · have hp : p.length = 8 := by simpa [Sorus.loadOk] using State.loadOk_of_canLoad h
    refine ⟨_, exec_slut h, s.setPair_frame su _, ?_⟩
    rw [State.pair_setPair, Pair.putLoad_now]
    exact ⟨fun i hi => Sorus.table_loadLut _ (by omega), rfl, rfl, rfl⟩
  · obtain ⟨t, ht, hsame, hmem, hrecs, hpair⟩ := exec_sld h
    refine ⟨t, ht, hsame, hmem, hrecs, fun k hk => (hpair k).trans (if_neg hk), fun k hk j i hi hj => ?_⟩
    rw [hpair, if_pos hk, Pair.putLoad_now]
    exact Sorus.loadVec_act _ c hj hi
  · refine ⟨_, exec_scfg h, ?_, s.setPair_frame su _⟩
    rw [State.pair_setPair, Pair.putLoad_mid, if_pos ht]
  · refine ⟨_, exec_slut h, ?_, s.setPair_frame su _⟩
    rw [State.pair_setPair, Pair.putLoad_mid, if_pos ht]
  · obtain ⟨t, ht, hsame, hmem, hrecs, hpair⟩ := exec_sld h
    refine ⟨t, ht, hsame, hmem, hrecs, fun k hk => ?_⟩
    rw [hpair, if_pos hk, Pair.putLoad_mid]
  · show Host.Outcome.next (if _ then s else _) = _
    rw [if_pos (Option.isSome_iff_ne_none.2 h)]
  · refine ⟨s.setPair su (s.pair su).applyHeld, ?_, s.setPair_frame su _, ?_⟩
    · show Host.Outcome.next (if _ then s else _) = _
      rw [if_neg (by simp [h])]
    · rw [State.pair_setPair]
      exact ⟨Pair.applyHeld_held _, Pair.applyHeld_token _, Pair.applyHeld_unit _⟩
  · obtain ⟨ps, hps, hothers, hsu⟩ := (s.setPair su ((s.pair su).ready ctx)).fetchMany_eq su n
    rw [State.pair_setPair] at hps hsu
    refine ⟨{ s with pairs := ps, out := fetched su ((s.pair su).ready ctx).unit.fifo n ++ s.out }, ?_, congrArg Pair.unit hsu, rfl,
      fun k hk => (hothers k hk).trans (s.pair_setPair_ne su _ hk), ⟨rfl, rfl, rfl, rfl, rfl, rfl, rfl, rfl, rfl, rfl, rfl, rfl, rfl⟩, rfl, rfl⟩
    rw [exec_sfet h]
    exact congrArg _ hps
  · obtain ⟨ps, hps, hothers, hsu⟩ := (s.setPair su ((s.pair su).ready ctx)).fetchStatus_eq su
    rw [State.pair_setPair] at hps hsu
    refine ⟨{ s with pairs := ps, out := .status su ((s.pair su).ready ctx).unit.statusBurst :: s.out }, ?_, rfl, congrArg Pair.unit hsu,
      fun k hk => (hothers k hk).trans (s.pair_setPair_ne su _ hk), ⟨rfl, rfl, rfl, rfl, rfl, rfl, rfl, rfl, rfl, rfl, rfl, rfl, rfl⟩, rfl, rfl⟩
    rw [exec_sfet h]
    exact congrArg _ hps

end Sys2Proof.Machine
end

section
/-! SUPPORT. A unit at work (R59, R71, R73, R88, R94 to R100, R284): what one step, and a command of steps, leave. -/

namespace Sys2Proof.Machine

set_option Elab.async false

open Sys2Proof

/-! ## The log of poisoned columns (R282, R284) -/

/-- R282, R283: an entry joins the log, or is counted by the newest one: every entry is an old one or of its kind. -/
theorem State.err_eq (s : State) (kind dpa byte requester unit : Nat) : ∃ lg n,
    s.err kind dpa byte requester unit = { s with integ := { s.integ with log := lg, nextSeq := n } }
      ∧ ∀ e ∈ lg, e ∈ s.integ.log ∨ e.kind = kind := by
  unfold State.err
  dsimp only
  split
  · next e r hlog =>
    split
    · next hsame =>
      refine ⟨_, s.integ.nextSeq, rfl, fun x hx => ?_⟩
      rw [hlog]
      rcases List.mem_cons.1 hx with rfl | hx
      · exact .inr hsame.2.1
      · exact .inl (List.mem_cons_of_mem _ hx)
    · refine ⟨_, _, rfl, fun x hx => ?_⟩
      rcases List.mem_cons.1 (List.mem_of_mem_take hx) with rfl | hx
      · exact .inr rfl
      · exact .inl hx
  · refine ⟨_, _, rfl, fun x hx => ?_⟩
    obtain rfl := List.mem_singleton.1 hx
    exact .inr rfl

/-- Among the newest `n` entries of a log is one of kind 8 for a DPA at a unit. -/
def PoisonIn (log : List ErrEntry) (n dpa unit : Nat) : Prop := ∃ e ∈ log.take n, e.kind = 8 ∧ e.dpa = dpa ∧ e.unit = unit

theorem PoisonIn.mono {log : List ErrEntry} {n m dpa unit : Nat} (h : PoisonIn log n dpa unit) (hm : n ≤ m) : PoisonIn log m dpa unit := by
  obtain ⟨e, he, hk⟩ := h
  exact ⟨e, (List.take_subset_take_left _ hm) he, hk⟩

/-- The newest entry after an entry is made is the one made. -/
theorem State.err_poisonIn (s : State) (dpa byte requester unit : Nat) : PoisonIn (s.err 8 dpa byte requester unit).integ.log 1 dpa unit := by
  unfold State.err
  dsimp only
  split
  · split
    · next hsame =>
      obtain ⟨hdpa, hkind, hunit, -⟩ := hsame
      exact ⟨_, List.mem_cons_self, hkind, hdpa, hunit⟩
    · exact ⟨_, List.mem_cons_self, rfl, rfl, rfl⟩
  · exact ⟨_, List.mem_cons_self, rfl, rfl, rfl⟩

/-- R283: making an entry drops none of the newest ones. -/
theorem PoisonIn.err {s : State} {n dpa unit : Nat} (h : PoisonIn s.integ.log n dpa unit) (hn : n < 16384) (kind d b r u : Nat) :
    PoisonIn (s.err kind d b r u).integ.log (n + 1) dpa unit := by
  obtain ⟨e, he, hk⟩ := h
  unfold State.err
  dsimp only
  split
  · next x l hlog =>
    rw [hlog] at he
    split
    · cases n with
      | zero => exact absurd he List.not_mem_nil
      | succ n =>
        rcases List.mem_cons.1 he with rfl | he
        · exact ⟨_, List.mem_cons_self, hk⟩
        · exact ⟨e, List.mem_cons_of_mem _ (List.take_subset_take_left l (Nat.le_succ n) he), hk⟩
    · refine ⟨e, ?_, hk⟩
      dsimp only
      rw [List.take_take, Nat.min_eq_left hn, hlog]
      exact List.mem_cons_of_mem _ he
  · next hlog =>
    rw [hlog, List.take_nil] at he
    exact absurd he List.not_mem_nil

/-- The state in which a column's poison has been logged at this instant. -/
def State.seePoison (s : State) (c : Nat) : State :=
  { s with integ := { s.integ with poisonSeen := Tbl.put none s.integ.poisonSeen c (some s.time.now) } }

/-- R284: a poisoned column is logged, once a second. -/
theorem State.logBad_cases (s : State) (req : Requester) (c : Nat) :
    s.logBad req c true = (s.seePoison c).err 8 (s.lay.dpaOf c) 0 (reqCode req) (unitId 5 (colBank c))
      ∨ (s.logBad req c true = s ∧ Tbl.get none s.integ.poisonSeen c ≠ none) := by
  unfold State.logBad
  dsimp only
  rw [if_pos rfl]
  cases hseen : Tbl.get none s.integ.poisonSeen c with
  | none => exact .inl (if_pos rfl)
  | some n =>
    dsimp only
    split
    · exact .inl rfl
    · exact .inr ⟨rfl, Option.some_ne_none n⟩

/-! ## One unit at work -/

/-- `t` is `s` but for memory, the log of poisoned columns and what a unit at work changes of its pair; no command waits there any more than it
did. -/
structure AtUnit (s t : State) (su : Nat) : Prop where
  eq : ∃ m ps ig, t = { s with mem := m, pairs := ps, integ := ig }
  others : ∀ k, k ≠ su → t.pair k = s.pair k
  token : (t.pair su).token = (s.pair su).token
  todo : (t.pair su).todo = (s.pair su).todo
  ordQ : (t.pair su).ordQ = (s.pair su).ordQ
  held : (s.pair su).held = none → (t.pair su).held = none
  flips : t.mem.flips = s.mem.flips
  buckets : t.integ.buckets = s.integ.buckets
  nvm : t.integ.nvm = s.integ.nvm
  log : ∀ e ∈ t.integ.log, e ∈ s.integ.log ∨ e.kind = 8

namespace AtUnit
variable {s t v : State} {su : Nat}

theorem refl (s : State) (su : Nat) : AtUnit s s su := ⟨⟨_, _, _, rfl⟩, fun _ _ => rfl, rfl, rfl, rfl, id, rfl, rfl, rfl, fun _ => .inl⟩

theorem trans (h : AtUnit s t su) (k : AtUnit t v su) : AtUnit s v su where
  eq := by
    obtain ⟨_, _, _, rfl⟩ := h.eq
    obtain ⟨_, _, _, rfl⟩ := k.eq
    exact ⟨_, _, _, rfl⟩
  others i hi := (k.others i hi).trans (h.others i hi)
  token := k.token.trans h.token
  todo := k.todo.trans h.todo
  ordQ := k.ordQ.trans h.ordQ
  held := k.held ∘ h.held
  flips := k.flips.trans h.flips
  buckets := k.buckets.trans h.buckets
  nvm := k.nvm.trans h.nvm
  log e he := (k.log e he).elim (h.log e) .inr

/-- A change of what a unit's work changes of its pair. -/
theorem setPair (s : State) (su : Nat) {p : Pair} (htoken : p.token = (s.pair su).token) (htodo : p.todo = (s.pair su).todo)
    (hq : p.ordQ = (s.pair su).ordQ) (hheld : (s.pair su).held = none → p.held = none) : AtUnit s (s.setPair su p) su :=
  have hp := s.pair_setPair su p
  ⟨⟨_, _, _, rfl⟩, fun _ hk => s.pair_setPair_ne su p hk, (congrArg Pair.token hp).trans htoken,
    (congrArg Pair.todo hp).trans htodo, (congrArg Pair.ordQ hp).trans hq,
    fun h => (congrArg Pair.held hp).trans (hheld h), rfl, rfl, rfl, fun _ => .inl⟩

theorem setMem (s : State) (su : Nat) {m : DMem} (h : m.flips = s.mem.flips) : AtUnit s { s with mem := m } su :=
  ⟨⟨_, _, _, rfl⟩, fun _ _ => rfl, rfl, rfl, rfl, id, h, rfl, rfl, fun _ => .inl⟩

theorem logBad (s : State) (su : Nat) (req : Requester) (c : Nat) : AtUnit s (s.logBad req c true) su := by
  rcases s.logBad_cases req c with h | ⟨h, -⟩
  · obtain ⟨lg, n, he, hlog⟩ := (s.seePoison c).err_eq 8 (s.lay.dpaOf c) 0 (reqCode req) (unitId 5 (colBank c))
    rw [h, he]
    exact ⟨⟨_, _, _, rfl⟩, fun _ _ => rfl, rfl, rfl, rfl, id, rfl, rfl, rfl, hlog⟩
  · rw [h]
    exact refl s su

theorem logPoisoned (s : State) (su : Nat) (view : Nat → RawCol) (cols : List Nat) : AtUnit s (s.logPoisoned view cols) su := by
  refine List.foldlRecOn (motive := fun t => AtUnit s t su) cols _ (refl s su) fun t ht c _ => ?_
  split
  · exact ht.trans (logBad t su _ c)
  · exact ht

theorem refreshFirst (s : State) (su : Nat) : AtUnit s (s.refreshFirst su) su := by
  unfold State.refreshFirst
  dsimp only
  split
  · exact setPair s su rfl rfl rfl id
  · exact refl s su

end AtUnit

theorem State.refreshFirst_unit (s : State) (su : Nat) :
    ((s.refreshFirst su).pair su).unit = (s.pair su).unit ∧ (s.refreshFirst su).mem = s.mem ∧ (s.refreshFirst su).integ = s.integ := by
  unfold State.refreshFirst
  dsimp only
  split
  · exact ⟨by rw [State.pair_setPair], rfl, rfl⟩
  · exact ⟨rfl, rfl, rfl⟩

/-- R284: the poisoned columns of a list that have not been logged for a second are logged. -/
def PoisonLogged (s t : State) (cols : List Nat) : Prop :=
  ∀ c ∈ cols, (s.mem.chk c).getLsbD 41 = true → Tbl.get none s.integ.poisonSeen c = none →
    ∃ e ∈ t.integ.log, e.kind = 8 ∧ e.dpa = s.lay.dpaOf c ∧ e.unit = unitId 5 (colBank c)

/-- Logging a column leaves it open whether another one has been logged. -/
theorem State.logBad_poisonSeen_ne (s : State) (req : Requester) {c k : Nat} (h : k ≠ c) :
    Tbl.get none (s.logBad req c true).integ.poisonSeen k = Tbl.get none s.integ.poisonSeen k := by
  rcases s.logBad_cases req c with hlog | ⟨hlog, -⟩
  · obtain ⟨_, _, he, -⟩ := (s.seePoison c).err_eq 8 (s.lay.dpaOf c) 0 (reqCode req) (unitId 5 (colBank c))
    rw [hlog, he]
    exact Tbl.get_put_ne none none s.integ.poisonSeen (some s.time.now) h
  · rw [hlog]

theorem PoisonIn.logBad {s : State} {n dpa unit : Nat} (h : PoisonIn s.integ.log n dpa unit) (hn : n < 16384) (req : Requester) (c : Nat) :
    PoisonIn (s.logBad req c true).integ.log (n + 1) dpa unit := by
  rcases s.logBad_cases req c with hlog | ⟨hlog, -⟩
  · rw [hlog]
    exact PoisonIn.err (s := s.seePoison c) h hn _ _ _ _ _
  · rw [hlog]
    exact h.mono (Nat.le_succ n)

theorem State.logBad_poisonIn (s : State) (req : Requester) {c : Nat} (h : Tbl.get none s.integ.poisonSeen c = none) :
    PoisonIn (s.logBad req c true).integ.log 1 (s.lay.dpaOf c) (unitId 5 (colBank c)) := by
  rcases s.logBad_cases req c with hlog | ⟨-, hseen⟩
  · rw [hlog]
    exact State.err_poisonIn _ _ _ _ _
  · exact absurd h hseen

theorem PoisonIn.logPoisoned {view : Nat → RawCol} {cols : List Nat} {s : State} {n dpa unit : Nat} (h : PoisonIn s.integ.log n dpa unit)
    (hn : n + cols.length ≤ 16384) : PoisonIn (s.logPoisoned view cols).integ.log (n + cols.length) dpa unit := by
  induction cols generalizing s n with
  | nil => exact h
  | cons c cols ih =>
    rw [List.length_cons] at hn ⊢
    have hstep : PoisonIn (if (view c).2.getLsbD 41 then s.logBad .sequencer c true else s).integ.log (n + 1) dpa unit := by
      split
      · exact h.logBad (by omega) _ c
      · exact h.mono (Nat.le_succ n)
    have hrest := ih hstep (by omega)
    rwa [Nat.add_assoc, Nat.add_comm 1] at hrest

/-- R284: what a step logs of the columns that it reads. -/
theorem State.logPoisoned_logs {view : Nat → RawCol} {cols : List Nat} (hlen : cols.length ≤ 16384) (s : State) {c : Nat} (hc : c ∈ cols)
    (hbit : (view c).2.getLsbD 41 = true) (hseen : Tbl.get none s.integ.poisonSeen c = none) :
    PoisonIn (s.logPoisoned view cols).integ.log cols.length (s.lay.dpaOf c) (unitId 5 (colBank c)) := by
  induction cols generalizing s with
  | nil => exact absurd hc List.not_mem_nil
  | cons a cols ih =>
    rw [List.length_cons] at hlen ⊢
    by_cases ha : c = a
    · subst ha
      have hfirst := PoisonIn.logPoisoned (view := view) (cols := cols) (s.logBad_poisonIn .sequencer hseen) (by omega)
      rw [Nat.add_comm] at hfirst
      show PoisonIn (State.logPoisoned (if _ then _ else s) view cols).integ.log _ _ _
      rwa [if_pos hbit]
    · have hc : c ∈ cols := (List.mem_cons.1 hc).resolve_left ha
      have hrest : ∀ t : State, t.lay = s.lay → Tbl.get none t.integ.poisonSeen c = none →
          PoisonIn (t.logPoisoned view cols).integ.log (cols.length + 1) (s.lay.dpaOf c) (unitId 5 (colBank c)) := fun t hlay ht => by
        rw [← hlay]
        exact (ih (by omega) t hc ht).mono (Nat.le_succ _)
      refine hrest _ ?_ ?_ <;> dsimp only
      · split
        · obtain ⟨_, _, _, he⟩ := (AtUnit.logBad s 0 .sequencer a).eq
          rw [he]
        · rfl
      · split
        · rw [State.logBad_poisonSeen_ne s _ ha, hseen]
        · exact hseen

/-! ## Columns written (R71, R73) -/

/-- Device memory with whole columns stored in turn, with fresh check bits. -/
def DMem.writes (m : DMem) (ws : List (Nat × BitVec 256 × Bool)) : DMem :=
  ws.foldl (fun m w => m.store w.1 w.2.1 (freshCheck w.2.1 w.2.2)) m

/-- R288: with no flip mask armed, whole columns are stored as they are given. -/
theorem State.foldl_writeFull {s : State} (hf : ∀ ch, Tbl.get none s.mem.flips ch = none) (req : Requester)
    (ws : List (Nat × BitVec 256 × Bool)) :
    ws.foldl (fun s w => s.writeFull req w.1 w.2.1 w.2.2) s = { s with mem := s.mem.writes ws } := by
  induction ws generalizing s with
  | nil => rfl
  | cons w ws ih =>
    have hw : s.writeFull req w.1 w.2.1 w.2.2 = { s with mem := s.mem.store w.1 w.2.1 (freshCheck w.2.1 w.2.2) } := by
      unfold State.writeFull
      rw [hf]
    rw [List.foldl_cons, hw]
    exact ih hf

theorem DMem.writes_flips (m : DMem) (ws : List (Nat × BitVec 256 × Bool)) : (m.writes ws).flips = m.flips :=
  List.foldlRecOn (motive := fun m' : DMem => m'.flips = m.flips) ws _ rfl fun _ hm _ _ => hm

theorem DMem.chk_store (m : DMem) (col : Nat) (d : BitVec 256) (k : BitVec 48) : (m.store col d k).chk col = k := by
  have htag : (m.store col d k).tag col = m.tag col := rfl
  unfold DMem.chk
  rw [htag]
  by_cases h : m.tag col = 0
  · rw [if_pos h]
    exact Tbl.get_putKeep_same _ _ _ _ _
  · have hput : (m.store col d k).check = Tbl.insert (Tbl.erase m.check col) col k := if_neg fun hk => by simp [h] at hk
    rw [hput]
    exact Tbl.get_insert_same _ _ _ _ (Tbl.erase_erase _ _)

theorem rowCol_inj {su : Nat} {r : BitVec 16} {c k : Nat} (h : rowCol su r c = rowCol su r k) : c = k := Nat.add_left_cancel h

/-- The first `n` columns of a row, written. -/
theorem DMem.writes_row (m : DMem) (su : Nat) (d : BitVec 16) (f : Nat → BitVec 256) (p : Nat → Bool) (n : Nat) :
    (∀ c, c < n → (m.writes ((List.range n).map fun c => (rowCol su d c, f c, p c))).data (rowCol su d c) = f c
        ∧ (m.writes ((List.range n).map fun c => (rowCol su d c, f c, p c))).chk (rowCol su d c) = freshCheck (f c) (p c))
      ∧ ∀ col, (∀ c, c < n → col ≠ rowCol su d c) →
        (m.writes ((List.range n).map fun c => (rowCol su d c, f c, p c))).data col = m.data col
          ∧ (m.writes ((List.range n).map fun c => (rowCol su d c, f c, p c))).chk col = m.chk col := by
  induction n with
  | zero => exact ⟨fun _ hc => absurd hc (Nat.not_lt_zero _), fun _ _ => ⟨rfl, rfl⟩⟩
  | succ n ih =>
    obtain ⟨hrow, hother⟩ := ih
    have hlast : m.writes ((List.range (n + 1)).map fun c => (rowCol su d c, f c, p c))
        = (m.writes ((List.range n).map fun c => (rowCol su d c, f c, p c))).store (rowCol su d n) (f n) (freshCheck (f n) (p n)) := by
      simp [DMem.writes, List.range_succ]
    rw [hlast]
    refine ⟨fun c hc => ?_, fun col hcol => ?_⟩
    · rcases Nat.lt_succ_iff_lt_or_eq.1 hc with hc | rfl
      · have hne : rowCol su d c ≠ rowCol su d n := fun h => Nat.ne_of_lt hc (rowCol_inj h)
        rw [DMem.data_store_ne _ _ _ hne, DMem.chk_store_ne _ _ _ hne]
        exact hrow c hc
      · exact ⟨DMem.data_store _ _ _ _, DMem.chk_store _ _ _ _⟩
    · have hne := hcol n (Nat.lt_succ_self n)
      rw [DMem.data_store_ne _ _ _ hne, DMem.chk_store_ne _ _ _ hne]
      exact hother col fun c hc => hcol c (Nat.lt_succ_of_lt hc)

/-! ## Steps (R59, R88, R94 to R100) -/

/-- What a step that reports no column leaves: it logs what it reads poisoned, and puts its results. -/
def State.stepDone (s : State) (su : Nat) (st : UStep) (r : StepRes) : State :=
  ((s.logPoisoned s.rawCol r.reads).putStep su st r).endStep su

/-- R100: a step none of whose columns is reported is not run again. -/
theorem State.stepOnce_clear {s : State} {su : Nat} {carry : Bool} {st : UStep} {r : StepRes}
    (hr : r = (s.pair su).unit.step su s.rawCol st carry) (hclear : ∀ c ∈ r.reads, colMasked (s.mem.data c) (s.mem.chk c) = false)
    (used : Option Nat) (rest : List UStep) : s.stepOnce su rawView used carry st rest = (s.stepDone su st r, r.carry) := by
  have hbad : (r.reads.filter fun c => colMasked (s.rawCol c).1 (s.rawCol c).2) = [] :=
    List.filter_eq_nil_iff.2 fun c hc => by simp [State.rawCol, hclear c hc]
  unfold State.stepOnce
  dsimp only
  rw [show rawView s = s.rawCol from rfl, ← hr, hbad]
  rfl

/-- What a step puts: its unit, its rows as they stand open, its columns. -/
theorem State.putStep_eq (s : State) (su : Nat) (st : UStep) (r : StepRes) : ∃ rows, s.putStep su st r
    = r.writes.foldl (fun s w => s.writeFull .sequencer w.1 w.2.1 w.2.2)
        (s.setPair su { s.pair su with unit := r.unit, mustStep := false, rerun := none, rows }) := by
  unfold State.putStep
  dsimp only
  split
  · exact ⟨_, rfl⟩
  · exact ⟨_, rfl⟩

theorem State.logPoisoned_mem (s : State) (view : Nat → RawCol) (cols : List Nat) : (s.logPoisoned view cols).mem = s.mem := by
  refine List.foldlRecOn (motive := fun t : State => t.mem = s.mem) cols _ rfl fun t ht c _ => ?_
  split
  · obtain ⟨_, _, _, _, _, he⟩ := (Notice.refl t).logBad .sequencer c true
    rw [he]
    exact ht
  · exact ht

/-- What a step leaves of its pair and of memory. -/
theorem State.stepDone_spec {s : State} {su : Nat} (hheld : (s.pair su).held = none) (hf : ∀ ch, Tbl.get none s.mem.flips ch = none)
    (st : UStep) (r : StepRes) :
    AtUnit s (s.stepDone su st r) su ∧ ((s.stepDone su st r).pair su).unit = r.unit ∧ ((s.stepDone su st r).pair su).rerun = none
      ∧ (s.stepDone su st r).mem = s.mem.writes r.writes ∧ (s.stepDone su st r).integ = (s.logPoisoned s.rawCol r.reads).integ := by
  have hlog := AtUnit.logPoisoned s su s.rawCol r.reads
  have hmem := s.logPoisoned_mem s.rawCol r.reads
  unfold State.stepDone
  generalize s.logPoisoned s.rawCol r.reads = t at hlog hmem
  have hnone : (t.pair su).held = none := hlog.held hheld
  obtain ⟨rows, hput⟩ := t.putStep_eq su st r
  generalize hp : ({ t.pair su with unit := r.unit, mustStep := false, rerun := none, rows } : Pair) = p at hput
  have hset : AtUnit t (t.setPair su p) su := AtUnit.setPair t su (hp ▸ rfl) (hp ▸ rfl) (hp ▸ rfl) fun h => hp ▸ h
  have hpair : (t.setPair su p).pair su = p := t.pair_setPair su p
  have hwrite : t.putStep su st r = { t.setPair su p with mem := t.mem.writes r.writes } :=
    hput.trans (State.foldl_writeFull (s := t.setPair su p) (fun ch => hmem ▸ hf ch) .sequencer r.writes)
  have hat : AtUnit (t.setPair su p) { t.setPair su p with mem := t.mem.writes r.writes } su := AtUnit.setMem _ su (DMem.writes_flips _ _)
  have happly : p.applyHeld = p := by unfold Pair.applyHeld; rw [show p.held = none from hp ▸ hnone]
  have hend : (t.putStep su st r).endStep su = ({ t.setPair su p with mem := t.mem.writes r.writes } : State).setPair su p := by
    rw [hwrite]
    unfold State.endStep
    rw [show ({ t.setPair su p with mem := t.mem.writes r.writes } : State).pair su = p from hpair, happly]
  rw [hend]
  have hlast : AtUnit { t.setPair su p with mem := t.mem.writes r.writes }
      (({ t.setPair su p with mem := t.mem.writes r.writes } : State).setPair su p) su :=
    AtUnit.setPair _ su (congrArg Pair.token hpair.symm) (congrArg Pair.todo hpair.symm) (congrArg Pair.ordQ hpair.symm)
      fun _ => hp ▸ hnone
  refine ⟨((hlog.trans hset).trans hat).trans hlast, ?_, ?_, congrArg (DMem.writes · r.writes) hmem, rfl⟩
  · rw [State.pair_setPair, ← hp]
  · rw [State.pair_setPair, ← hp]

theorem nextPort_nil (prio : Word32) (last : Nat) : nextPort prio last [] = none := by
  unfold nextPort
  simp

/-- R95: at a boundary where nothing waits, a refresh that is at its limit is issued, and no more. -/
theorem State.boundary_of_ordQ_nil {s : State} {su : Nat} (h : (s.pair su).ordQ = []) : s.boundary su = s.refreshFirst su := by
  have hq : ((s.refreshFirst su).pair su).ordQ = [] := (AtUnit.refreshFirst s su).ordQ.trans h
  unfold State.boundary State.serve State.nextAccess
  rw [hq, nextPort_nil]

/-- One step of a command that reports no column, at a unit where nothing waits, and what follows it. -/
theorem State.runSteps_cons {s : State} {su : Nat} {carry : Bool} {st : UStep} {r : StepRes}
    (hr : r = (s.pair su).unit.step su s.rawCol st carry) (hclear : ∀ c ∈ r.reads, colMasked (s.mem.data c) (s.mem.chk c) = false)
    (hheld : (s.pair su).held = none) (hf : ∀ ch, Tbl.get none s.mem.flips ch = none) {rest : List UStep} (hop : ∀ x ∈ rest, x.op = st.op) :
    s.runSteps su rawView false none carry (st :: rest)
      = (if rest.isEmpty then s.stepDone su st r else (s.stepDone su st r).boundary su).runSteps su rawView false none r.carry rest := by
  obtain ⟨-, -, hrerun, -, -⟩ := State.stepDone_spec hheld hf st r
  have hgives : (s.stepDone su st r).givesUp su st rest = false := by
    unfold State.givesUp
    cases rest with
    | nil => exact Bool.and_false _
    | cons x rest => simp [hop x List.mem_cons_self]
  rw [State.runSteps]
  dsimp only
  rw [State.stepOnce_clear hr hclear, hrerun]
  dsimp only
  rw [hgives]
  rfl

/-! ## The end of a command (R88, R106, R300) -/

/-- R88: a command ends at a unit where no access waits, in a pseudo-channel where no unit waits for a token: its token returns, and no more. -/
theorem State.endCmd_eq {s : State} {su : Nat} (htoken : (s.pair su).token = true) (hq : (s.pair su).ordQ = [])
    (htodo : ∀ k, k / 16 = su / 16 → (s.pair k).todo = []) :
    ∃ ps, s.endCmd su = { s with pairs := ps, power := { s.power with tokens := s.power.tokens - 1 } }
      ∧ Tbl.get {} ps su = { s.pair su with rerun := none, token := false } ∧ ∀ k, k ≠ su → Tbl.get {} ps k = s.pair k := by
  obtain ⟨t, ht⟩ : ∃ t, t = (s.setPair su { s.pair su with rerun := none }).returnToken su := ⟨_, rfl⟩
  have hback : ∃ ps, t = { s with pairs := ps, power := { s.power with tokens := s.power.tokens - 1 } }
      ∧ Tbl.get {} ps su = { s.pair su with rerun := none, token := false } ∧ ∀ k, k ≠ su → Tbl.get {} ps k = s.pair k := by
    unfold State.returnToken at ht
    dsimp only at ht
    rw [State.pair_setPair, if_pos htoken] at ht
    exact ⟨_, ht, State.pair_setPair _ su _, fun k hk => (State.pair_setPair_ne _ su _ hk).trans (s.pair_setPair_ne su _ hk)⟩
  obtain ⟨ps, hps, hsu, hothers⟩ := hback
  have hpair : ∀ k, t.pair k = Tbl.get {} ps k := fun k => by rw [hps]; rfl
  have hnone : ∀ k, k / 16 = su / 16 → (t.pair k).todo = [] := fun k hk => by
    rw [hpair]
    by_cases hks : k = su
    · rw [hks, hsu]
      exact htodo su rfl
    · rw [hothers k hks, htodo k hk]
  have hoffer : t.offerToken (su / 16) = t := by
    have hfind : ((List.range 16).map (16 * (su / 16) + ·)).find?
        (fun k => !(t.pair k).todo.isEmpty && !(t.pair k).token && t.tokenFree k) = none := by
      refine List.find?_eq_none.2 fun k hk => ?_
      obtain ⟨i, hi, rfl⟩ := List.mem_map.1 hk
      have hi : i < 16 := List.mem_range.1 hi
      simp [hnone (16 * (su / 16) + i) (by omega)]
    unfold State.offerToken
    rw [hfind]
    exact ite_self t
  have hserve : t.serveNow su = t := by
    have hordQ : (t.pair su).ordQ = [] := by rw [hpair, hsu]; exact hq
    unfold State.serveNow
    dsimp only
    rw [hordQ]
    rfl
  refine ⟨ps, ?_, hsu, hothers⟩
  unfold State.endCmd
  rw [← ht, hoffer, hserve, hps]

/-- R340: with no `UNIT_DISABLE` waiting, none is completed. -/
theorem State.settleUnits_of_noDisableWaits {s : State} (h : NoDisableWaits s) : s.settleUnits = s :=
  List.foldlRecOn (motive := fun t => t = s) _ _ rfl fun t ht i _ => by
    subst ht
    have hwait := h (Fin.ofNat 32 i)
    unfold settleUnit
    dsimp only
    refine if_neg fun hc => ?_
    simp only [Bool.and_eq_true, beq_iff_eq] at hc
    exact hwait hc.1.1.2 hc.1.2

/-! ## A command that is issued -/

/-- The state in which the steps of an issued command begin. -/
def State.issued (s : State) (su ctx : Nat) : State := (s.setPair su ((s.pair su).ready ctx)).refreshFirst su

theorem Pair.ready_keeps (p : Pair) (ctx : Nat) : (p.ready ctx).token = p.token ∧ (p.ready ctx).todo = p.todo ∧ (p.ready ctx).ordQ = p.ordQ
    ∧ (p.ready ctx).rerun = p.rerun ∧ (p.ready ctx).held = none := by
  have happly : p.applyHeld.token = p.token ∧ p.applyHeld.todo = p.todo ∧ p.applyHeld.ordQ = p.ordQ ∧ p.applyHeld.rerun = p.rerun
      ∧ p.applyHeld.held = none := by
    unfold Pair.applyHeld
    split
    · exact ⟨rfl, rfl, rfl, rfl, rfl⟩
    · exact ⟨rfl, rfl, rfl, rfl, by assumption⟩
  unfold Pair.ready
  dsimp only
  split <;> exact happly

theorem State.issued_spec (s : State) (su ctx : Nat) :
    AtUnit s (s.issued su ctx) su ∧ ((s.issued su ctx).pair su).held = none ∧ ((s.issued su ctx).pair su).unit = ((s.pair su).ready ctx).unit
      ∧ (s.issued su ctx).mem = s.mem ∧ (s.issued su ctx).integ = s.integ := by
  obtain ⟨htoken, htodo, hq, -, hheld⟩ := (s.pair su).ready_keeps ctx
  have hready := AtUnit.setPair s su htoken htodo hq fun _ => hheld
  have hfirst := AtUnit.refreshFirst (s.setPair su ((s.pair su).ready ctx)) su
  obtain ⟨hunit, hmem, hinteg⟩ := (s.setPair su ((s.pair su).ready ctx)).refreshFirst_unit su
  refine ⟨hready.trans hfirst, hfirst.held ?_, hunit.trans ?_, hmem, hinteg⟩ <;> rw [State.pair_setPair]
  exact hheld

/-- An issued command whose steps come to the end of the command at a state `t`, there changing nothing but their unit, memory and the log. -/
theorem runCmd_done {s t : State} {su ctx : Nat} {cmd : RowCmd} {u : Sorus} (h : Issues s su ctx cmd u) (ht : AtUnit (s.issued su ctx) t su)
    (hrun : (s.issued su ctx).runSteps su rawView false none false (u.stepsOf cmd 1) = t.endCmd su) :
    UnitDone s (s.runCmd su ctx cmd) su ∧ ((s.runCmd su ctx cmd).pair su).unit = (t.pair su).unit ∧ (s.runCmd su ctx cmd).mem = t.mem
      ∧ (s.runCmd su ctx cmd).integ = t.integ := by
  obtain ⟨hissue, hpath, hdis, htoken, hu, hok, hq, htodo, -, -⟩ := h
  obtain ⟨hst, -⟩ := s.issued_spec su ctx
  have hst := hst.trans ht
  have hcmd : s.runCmd su ctx cmd = ((s.issued su ctx).runSteps su rawView false none false (u.stepsOf cmd 1)).settleUnits := by
    subst hu
    unfold State.runCmd
    dsimp only
    rw [if_pos (by simp [hissue, hpath, hok, ((s.pair su).ready_keeps ctx).1, htoken])]
    rfl
  obtain ⟨ps, hend, hsu, hothers⟩ := State.endCmd_eq (s := t) (su := su) (hst.token.trans htoken) (hst.ordQ.trans hq) fun k hk => by
    by_cases hks : k = su
    · rw [hks, hst.todo, htodo su rfl]
    · rw [hst.others k hks, htodo k hk]
  obtain ⟨m, ps', ig, rfl⟩ := hst.eq
  rw [hrun, hend, State.settleUnits_of_noDisableWaits (by exact hdis)] at hcmd
  have hpair : ∀ k, (s.runCmd su ctx cmd).pair k = Tbl.get {} ps k := fun k => by rw [hcmd]; rfl
  have hsu := (hpair su).trans hsu
  have hothers : ∀ k, k ≠ su → (s.runCmd su ctx cmd).pair k = s.pair k := fun k hk => ((hpair k).trans (hothers k hk)).trans (hst.others k hk)
  refine ⟨⟨by rw [hsu], by rw [hsu], ?_, hothers, ?_⟩, by rw [hsu], ?_⟩ <;> rw [hcmd]
  · exact ⟨⟨rfl, rfl, rfl, rfl, rfl, rfl, rfl, rfl, rfl, rfl, rfl, rfl, rfl⟩, rfl, rfl, rfl, rfl, rfl, rfl, rfl, rfl, hst.buckets,
      hst.nvm, hst.log⟩
  · exact ⟨rfl, rfl⟩

/-- A command of one step that reports no column. -/
theorem runCmd_single {s : State} {su ctx : Nat} {cmd : RowCmd} {u : Sorus} (h : Issues s su ctx cmd u) {st : UStep} (hsteps : u.stepsOf cmd 1 = [st])
    {r : StepRes} (hr : r = u.step su s.rawCol st false) (hclear : ∀ c ∈ r.reads, colMasked (s.mem.data c) (s.mem.chk c) = false)
    (hlen : r.reads.length ≤ 16384) :
    UnitDone s (s.runCmd su ctx cmd) su ∧ ((s.runCmd su ctx cmd).pair su).unit = r.unit ∧ (s.runCmd su ctx cmd).mem = s.mem.writes r.writes
      ∧ PoisonLogged s (s.runCmd su ctx cmd) r.reads := by
  obtain ⟨-, -, -, -, hu, -, -, -, hf, -⟩ := id h
  obtain ⟨hat, hheld, hunit, hmem, hinteg⟩ := s.issued_spec su ctx
  have hraw : (s.issued su ctx).rawCol = s.rawCol := by unfold State.rawCol; rw [hmem]
  have hr' : r = ((s.issued su ctx).pair su).unit.step su (s.issued su ctx).rawCol st false := by rw [hr, hunit, hraw, hu]
  have hclear' : ∀ c ∈ r.reads, colMasked ((s.issued su ctx).mem.data c) ((s.issued su ctx).mem.chk c) = false := by rwa [hmem]
  have hf' : ∀ ch, Tbl.get none (s.issued su ctx).mem.flips ch = none := by rwa [hmem]
  obtain ⟨hdone, hdunit, -, hdmem, hdinteg⟩ := State.stepDone_spec hheld hf' st r
  have hrun : (s.issued su ctx).runSteps su rawView false none false (u.stepsOf cmd 1) = ((s.issued su ctx).stepDone su st r).endCmd su := by
    rw [hsteps, State.runSteps_cons hr' hclear' hheld hf' fun _ hx => absurd hx List.not_mem_nil]
    rfl
  obtain ⟨hunitdone, hu', hm', hi'⟩ := runCmd_done h hdone hrun
  refine ⟨hunitdone, hu'.trans hdunit, ?_, fun c hc hbit hseen => ?_⟩
  · rw [hm', hdmem, hmem]
  · obtain ⟨_, _, _, he⟩ := hat.eq
    have hlay : (s.issued su ctx).lay = s.lay := by rw [he]
    obtain ⟨e, hin, hkind⟩ := State.logPoisoned_logs (view := (s.issued su ctx).rawCol) hlen (s.issued su ctx) hc
      (by rw [hraw]; exact hbit) (by rw [hinteg]; exact hseen)
    rw [hlay] at hkind
    refine ⟨e, ?_, hkind⟩
    rw [hi', hdinteg]
    exact List.mem_of_mem_take hin

end Sys2Proof.Machine
end

section
/-! SUPPORT. The commands that write a row (R71): copy, initialisation, logic. -/

namespace Sys2Proof.Machine

set_option Elab.async false

open Sys2Proof

/-! ## A command that writes one row (R71) -/

/-- R84: the row operand advanced by none is the row operand. -/
theorem advanceRow_zero (r : BitVec 16) : advanceRow r 0 = r := by
  have hrow : rowNum r = r.toNat % 2 ^ 15 := by simp [rowNum]
  have hbit : r.getLsbD 15 = r.toNat.testBit 15 := rfl
  have hlt : r.toNat < 2 ^ 16 := r.isLt
  refine BitVec.eq_of_toNat_eq ?_
  unfold advanceRow ofPairLinear pairLinear
  rw [hrow, hbit, Nat.testBit_eq_decide_div_mod_eq, BitVec.toNat_ofNat]
  simp only [decide_eq_true_eq]
  split <;> omega

theorem cmdRows_src_length (cmd : RowCmd) : (cmdRows cmd).2.length ≤ 2 := by
  have hpair : ∀ (b : Prop) [Decidable b] (x y : BitVec 16), (if b then [x] else [x, y]).length ≤ 2 := fun b _ x y => by split <;> simp
  cases cmd with
  | log fn d x y => exact hpair _ x y
  | elt op d x y => exact hpair _ x y
  | mac | copy | init | nrm => exact Nat.le_of_ble_eq_true rfl

/-- Column `c` of source `i` of a command, as a unit reads it. -/
def State.srcCol (s : State) (su : Nat) (src : List (BitVec 16)) (i c : Nat) : RawCol :=
  match src[i]? with
  | some r => s.rawCol (rowCol su r c)
  | none => (0, 0)

/-- Column `c` that a command writes into its destination: data, poison, saturated lanes. -/
def State.putCol (s : State) (su : Nat) (u : Sorus) (cmd : RowCmd) (c : Nat) : BitVec 256 × Bool × Nat :=
  u.destCol cmd (s.srcCol su (cmdRows cmd).2 0 c) (s.srcCol su (cmdRows cmd).2 1 c) c

theorem Sorus.step_row {u : Sorus} {su : Nat} {s : State} {cmd : RowCmd} {d : BitVec 16} (h : (cmdRows cmd).1 = some d) (carry : Bool) :
    u.step su s.rawCol { cmd, part := 0, op := 0 } carry = u.rowStep su s.rawCol cmd d (cmdRows cmd).2 := by
  cases cmd <;> cases h <;> rfl

/-- R71: a command that runs one step at a row leaves the row and the unit's count of saturated lanes, and logs what it reads poisoned. -/
theorem runCmd_row {s : State} {su ctx : Nat} {cmd : RowCmd} {u : Sorus} (h : Issues s su ctx cmd u) {d : BitVec 16}
    (hd : (cmdRows cmd).1 = some d) (hsteps : u.stepsOf cmd 1 = [{ cmd, part := 0, op := 0 }]) :
    UnitDone s (s.runCmd su ctx cmd) su
      ∧ RowWritten s (s.runCmd su ctx cmd) su d (fun c => (s.putCol su u cmd c).1) (fun c => (s.putCol su u cmd c).2.1)
      ∧ ((s.runCmd su ctx cmd).pair su).unit.satCount
          = Nat.min 0xFFFF (u.satCount + sumNat ((List.range 32).map fun c => (s.putCol su u cmd c).2.2))
      ∧ PoisonLogged s (s.runCmd su ctx cmd) ((cmdRows cmd).2.map (rowCols su)).flatten := by
  obtain ⟨-, -, -, -, -, -, -, -, -, hclear⟩ := id h
  have hreads : ∀ c ∈ ((cmdRows cmd).2.map (rowCols su)).flatten, colMasked (s.mem.data c) (s.mem.chk c) = false := fun c hc => by
    simp only [List.mem_flatten, List.mem_map, rowCols] at hc
    obtain ⟨_, ⟨r, hr, rfl⟩, hc⟩ := hc
    obtain ⟨k, hk, rfl⟩ := List.mem_map.1 hc
    exact hclear r hr k (List.mem_range.1 hk)
  have hlen : ((cmdRows cmd).2.map (rowCols su)).flatten.length ≤ 16384 := by
    have := cmdRows_src_length cmd
    simp [List.length_flatten, Function.comp_def, rowCols]
    omega
  obtain ⟨hdone, hunit, hmem, hlog⟩ := runCmd_single h hsteps (Sorus.step_row hd false).symm hreads hlen
  have hwrites : (u.rowStep su s.rawCol cmd d (cmdRows cmd).2).writes
      = (List.range 32).map fun c => (rowCol su d c, (s.putCol su u cmd c).1, (s.putCol su u cmd c).2.1) := List.map_map
  rw [hwrites] at hmem
  obtain ⟨hrow, hother⟩ := DMem.writes_row s.mem su d (fun c => (s.putCol su u cmd c).1) (fun c => (s.putCol su u cmd c).2.1) 32
  refine ⟨hdone, ⟨fun c hc => ?_, fun col hcol => ?_⟩, ?_, hlog⟩
  · rw [hmem]
    exact hrow c hc
  · show _ = _ ∧ _ = _
    rw [hmem]
    exact hother col hcol
  · rw [hunit]
    have hsat : ((List.range 32).map fun c => (s.putCol su u cmd c).2.2)
        = ((List.range 32).map fun c => (rowCol su d c, s.putCol su u cmd c)).map fun e => e.2.2.2 := List.map_map.symm
    rw [hsat]
    rfl

/-! ## The commands that move no lanes (R71) -/

/-- R57: a command that saturates no lane leaves the count. -/
theorem satCount_of_none {n : Nat} (h : n ≤ 0xFFFF) {f : Nat → Nat} (hf : ∀ c, f c = 0) :
    Nat.min 0xFFFF (n + sumNat ((List.range 32).map f)) = n := by
  have hsum : sumNat ((List.range 32).map f) = 0 := (sumNat_eq_zero_iff _).2 fun x hx => by
    obtain ⟨c, -, rfl⟩ := List.mem_map.1 hx
    exact hf c
  rw [hsum]
  exact Nat.min_eq_right h

/-- Settles O38: each command is one step that writes its row. -/
theorem sorusRowOperations : Obligations.SorusRowOperations := by
  refine fun s su ctx u hsat => ⟨fun d x h => ?_, fun d h => ?_, fun fn d x y h => ?_⟩
  · have hsteps : u.stepsOf (.copy d x) 1 = [{ cmd := .copy d x, part := 0, op := 0 }] := by simp [Sorus.stepsOf, advanceRow_zero]
    obtain ⟨hdone, hrow, hcount, hlog⟩ := runCmd_row h rfl hsteps
    refine ⟨_, rfl, hdone, hrow, hcount.trans (satCount_of_none hsat fun _ => rfl), fun c hc => ?_⟩
    exact hlog (rowCol su x c) (List.mem_flatten.2 ⟨_, List.mem_singleton_self _, List.mem_map.2 ⟨c, List.mem_range.2 hc, rfl⟩⟩)
  · have hsteps : u.stepsOf (.init d) 1 = [{ cmd := .init d, part := 0, op := 0 }] := by simp [Sorus.stepsOf, advanceRow_zero]
    obtain ⟨hdone, hrow, hcount, -⟩ := runCmd_row h rfl hsteps
    exact ⟨_, rfl, hdone, hrow, hcount.trans (satCount_of_none hsat fun _ => rfl)⟩
  · have hsteps : u.stepsOf (.log fn d x y) 1 = [{ cmd := .log fn d x y, part := 0, op := 0 }] := by simp [Sorus.stepsOf, advanceRow_zero]
    obtain ⟨hdone, hrow, hcount, -⟩ := runCmd_row h rfl hsteps
    refine ⟨_, rfl, hdone, ?_, hcount.trans (satCount_of_none hsat fun _ => rfl)⟩
    cases fn with
    | and | or | xor | andn => exact hrow
    | not =>
      have hone : ∀ c, (s.putCol su u (.log .not d x y) c).2.1 = (rawBad (s.rawCol (rowCol su x c)) || false) := fun _ => rfl
      simp only [hone] at hrow
      exact hrow

end Sys2Proof.Machine
end

section
/-! SUPPORT. Normalising partials (R72) and element-wise operations (R69, R70): one step each, over the lanes of columns. -/

namespace Sys2Proof.Machine

set_option Elab.async false

open Sys2Proof

/-! ## `SNRM` (R72) -/

/-- R72: the two words of a sum are its lowest 64 bits. -/
theorem ofInt_words (z : Int) : (BitVec.ofInt 32 (z / 2 ^ 32) ++ BitVec.ofInt 32 z : BitVec 64) = BitVec.ofInt 64 z := by
  refine BitVec.eq_of_toNat_eq ?_
  rw [BitVec.toNat_append, BitVec.toNat_ofInt, BitVec.toNat_ofInt, BitVec.toNat_ofInt, ← Nat.shiftLeft_add_eq_or_of_lt (by omega), Nat.shiftLeft_eq]
  omega

theorem exec_snrm {s : State} {su ctx : Nat} {u : Sorus} {x : BitVec 16} {cf cl : Nat} (h : Issues s su ctx (.nrm x cf cl) u) :
    let zs : List Int := ((List.range (cl + 1 - cf)).map fun i => colLanes (laneBits u.lane) (s.mem.data (rowCol su x (cf + i)))).flatten
    ∃ t e, exec (.snrm su ctx x cf cl) s = .next t ∧ UnitDone s t su ∧ t.mem = s.mem ∧ (t.pair su).unit.fifo = u.fifo ++ [e]
      ∧ e.snrm = true ∧ e.count = 4 ∧ e.words.length = 8
      ∧ (e.words.getD 1 0 ++ e.words.getD 0 0 : BitVec 64) = BitVec.ofInt 64 zs.sum
      ∧ (e.words.getD 3 0 ++ e.words.getD 2 0 : BitVec 64) = BitVec.ofInt 64 (zs.map fun z => z * z).sum := by
  intro zs
  obtain ⟨-, -, -, -, -, hok, -, -, -, hclear⟩ := id h
  have hcl : cl ≤ 31 := by
    simp only [Sorus.cmdOk, Bool.and_eq_true, decide_eq_true_eq] at hok
    exact hok.1.2
  have hreads : ∀ c ∈ (u.nrmStep su s.rawCol x cf cl).reads, colMasked (s.mem.data c) (s.mem.chk c) = false := fun c hc => by
    obtain ⟨i, hi, rfl⟩ := List.mem_map.1 hc
    have hi := List.mem_range.1 hi
    exact hclear x (List.mem_singleton_self x) (cf + i) (by omega)
  have hlen : (u.nrmStep su s.rawCol x cf cl).reads.length ≤ 16384 := by
    simp [Sorus.nrmStep]
    omega
  obtain ⟨hdone, hunit, hmem, -⟩ := runCmd_single h (st := { cmd := .nrm x cf cl, part := 0, op := 0 }) rfl rfl hreads hlen
  have hcols : (((List.range (cl + 1 - cf)).map fun i => rowCol su x (cf + i)).map fun c => (s.rawCol c).1).map (colLanes (laneBits u.lane))
      = (List.range (cl + 1 - cf)).map fun i => colLanes (laneBits u.lane) (s.mem.data (rowCol su x (cf + i))) := by
    rw [List.map_map, List.map_map]
    rfl
  have hsum : nrmSums u.lane (((List.range (cl + 1 - cf)).map fun i => rowCol su x (cf + i)).map fun c => (s.rawCol c).1)
      = (zs.sum, (zs.map fun z => z * z).sum) := by
    unfold nrmSums
    rw [hcols]
  refine ⟨_, _, rfl, hdone, hmem, congrArg Sorus.fifo hunit, rfl, rfl, rfl, ?_, ?_⟩
  · rw [hsum]
    exact ofInt_words _
  · rw [hsum]
    exact ofInt_words _

/-! ## Lanes (R69, R70) -/

/-- R69: an integer within the range of a signed format of `w` bits. -/
def InLane (w : Nat) (z : Int) : Prop := -((2 ^ (w - 1) : Nat) : Int) ≤ z ∧ z < ((2 ^ (w - 1) : Nat) : Int)

theorem two_pow_pred {w : Nat} (h : 0 < w) : 2 ^ w = 2 * 2 ^ (w - 1) := by
  rw [← Nat.pow_succ', Nat.succ_eq_add_one, Nat.sub_add_cancel h]

theorem toSigned_inLane {w : Nat} (hw : 0 < w) (x : Nat) : InLane w (toSigned w x) := by
  have hpow := two_pow_pred hw
  have hlt : x % 2 ^ w < 2 ^ w := Nat.mod_lt _ (Nat.two_pow_pos w)
  unfold InLane toSigned
  split <;> omega

theorem satS_inLane (w : Nat) (z : Int) : InLane w (satS w z).1 := by
  have hpos := Nat.two_pow_pos (w - 1)
  unfold InLane satS satTo
  split
  · exact ⟨by omega, by omega⟩
  · split <;> constructor <;> dsimp only <;> omega

theorem inLane_ite {w : Nat} {b : Prop} [Decidable b] {x y : Int} (hx : InLane w x) (hy : InLane w y) : InLane w (if b then x else y) := by
  split
  · exact hx
  · exact hy

theorem toSigned_ofSigned {w : Nat} (hw : 0 < w) {z : Int} (hz : InLane w z) : toSigned w (ofSigned w z) = z := by
  have hpow := two_pow_pred hw
  obtain ⟨hlo, hhi⟩ := hz
  have hmod : ofSigned w z % 2 ^ w = ofSigned w z := Nat.mod_eq_of_lt (by
    have := Int.emod_lt_of_pos z (b := ((2 ^ w : Nat) : Int)) (by omega)
    unfold ofSigned
    omega)
  have hval : (ofSigned w z : Int) = if z < 0 then z + (2 ^ w : Nat) else z := by
    unfold ofSigned
    rw [Int.toNat_of_nonneg (Int.emod_nonneg _ (by omega))]
    split
    · rw [← Int.add_emod_right, Int.emod_eq_of_lt (by omega) (by omega)]
    · exact Int.emod_eq_of_lt (by omega) (by omega)
  unfold toSigned
  rw [hmod]
  split at hval <;> split <;> omega

/-- R70: an element-wise operation of lanes is a lane. -/
theorem eltLane_inLane {op : EltOp} {e : EltEnv} {x y : Int} (hx : InLane (laneBits e.lane) x) (hy : InLane (laneBits e.lane) y)
    (hlut : op = .lut → e.lane = 0) : InLane (laneBits e.lane) (eltLane op e x y).1 := by
  cases op with
  | add | sub | mul | sadd => exact satS_inLane _ _
  | min | max => exact inLane_ite hy hx
  | clamp => exact inLane_ite (satS_inLane _ _) (inLane_ite (satS_inLane _ _) hx)
  | lut =>
    rw [hlut rfl]
    exact toSigned_inLane (by decide) _

/-- The number that lanes of `w` bits make. -/
def lanesNum (w : Nat) (zs : List Int) : Nat := zs.foldr (fun z acc => ofSigned w z + 2 ^ w * acc) 0

theorem lanesCol_eq (w : Nat) (zs : List Int) : lanesCol w zs = BitVec.ofNat 256 (lanesNum w zs) := rfl

theorem ofSigned_lt (w : Nat) (z : Int) : ofSigned w z < 2 ^ w := by
  have hpos : (0 : Int) < ((2 ^ w : Nat) : Int) := Int.natCast_pos.2 (Nat.two_pow_pos w)
  have := Int.emod_lt_of_pos z hpos
  have := Int.emod_nonneg z (Int.ne_of_gt hpos)
  unfold ofSigned
  omega

theorem lanesNum_lt (w : Nat) (zs : List Int) : lanesNum w zs < 2 ^ (w * zs.length) := by
  induction zs with
  | nil => exact Nat.one_pos
  | cons z zs ih =>
    have hz := ofSigned_lt w z
    have hpow : 2 ^ (w * (z :: zs).length) = 2 ^ w * 2 ^ (w * zs.length) := by rw [List.length_cons, Nat.mul_succ, Nat.pow_add, Nat.mul_comm]
    have hle : 2 ^ w * (lanesNum w zs + 1) ≤ 2 ^ w * 2 ^ (w * zs.length) := Nat.mul_le_mul_left _ ih
    rw [hpow]
    show ofSigned w z + 2 ^ w * lanesNum w zs < _
    rw [Nat.mul_succ] at hle
    omega

theorem bits_lanesNum (w : Nat) {zs : List Int} {i : Nat} (hi : i < zs.length) : bits (lanesNum w zs) (w * i) w = ofSigned w zs[i] := by
  unfold bits
  rw [Nat.shiftRight_eq_div_pow]
  induction zs generalizing i with
  | nil => exact absurd hi (Nat.not_lt_zero i)
  | cons z zs ih =>
    have hz := ofSigned_lt w z
    show (ofSigned w z + 2 ^ w * lanesNum w zs) / _ % _ = _
    cases i with
    | zero =>
      rw [Nat.mul_zero, Nat.pow_zero, Nat.div_one, Nat.add_mul_mod_self_left, Nat.mod_eq_of_lt hz]
      rfl
    | succ i =>
      rw [Nat.mul_succ, Nat.add_comm (w * i), Nat.pow_add, ← Nat.div_div_eq_div_mul, Nat.add_mul_div_left _ _ (Nat.two_pow_pos w),
        Nat.div_eq_of_lt hz, Nat.zero_add]
      exact ih (Nat.lt_of_succ_lt_succ hi)

/-- Each lane of a column is the one that it was made of. -/
theorem toSigned_lanesCol {w : Nat} (hw : 0 < w) {zs : List Int} (hlen : w * zs.length ≤ 256) {i : Nat} (hi : i < zs.length)
    (hz : InLane w zs[i]) : toSigned w (bits (lanesCol w zs).toNat (w * i) w) = zs[i] := by
  have hlt : lanesNum w zs < 2 ^ 256 := Nat.lt_of_lt_of_le (lanesNum_lt w zs) (Nat.pow_le_pow_right (by omega) hlen)
  rw [lanesCol_eq, BitVec.toNat_ofNat, Nat.mod_eq_of_lt hlt, bits_lanesNum w hi, toSigned_ofSigned hw hz]

theorem laneBits_pos (lane : Nat) : 0 < laneBits lane := by
  unfold laneBits
  split
  · omega
  · split <;> omega

/-- R70: an element-wise operation of columns, lane by lane. -/
theorem toSigned_eltCol {op : EltOp} {e : EltEnv} (hlut : op = .lut → e.lane = 0) (x y : BitVec 256) {i : Nat} (hi : i < 256 / laneBits e.lane) :
    toSigned (laneBits e.lane) (bits (eltCol op e x y).1.toNat (laneBits e.lane * i) (laneBits e.lane))
      = (eltLane op e (toSigned (laneBits e.lane) (bits x.toNat (laneBits e.lane * i) (laneBits e.lane)))
          (toSigned (laneBits e.lane) (bits y.toNat (laneBits e.lane * i) (laneBits e.lane)))).1 := by
  have hw := laneBits_pos e.lane
  obtain ⟨zs, hzs⟩ : ∃ zs, zs = ((List.zip (colLanes (laneBits e.lane) x) (colLanes (laneBits e.lane) y)).map
    fun p => eltLane op e p.1 p.2).map (·.1) := ⟨_, rfl⟩
  have hlen : zs.length = 256 / laneBits e.lane := by simp [hzs, colLanes]
  have hlane : zs[i]'(by omega) = (eltLane op e (toSigned (laneBits e.lane) (bits x.toNat (laneBits e.lane * i) (laneBits e.lane)))
      (toSigned (laneBits e.lane) (bits y.toNat (laneBits e.lane * i) (laneBits e.lane)))).1 := by simp [hzs, colLanes]
  have hin : InLane (laneBits e.lane) (zs[i]'(by omega)) := by
    rw [hlane]
    exact eltLane_inLane (toSigned_inLane hw _) (toSigned_inLane hw _) hlut
  have hcol : (eltCol op e x y).1 = lanesCol (laneBits e.lane) zs := by rw [hzs]; rfl
  rw [hcol, toSigned_lanesCol hw (by rw [hlen]; exact Nat.mul_div_le 256 _) (by omega) hin, hlane]

theorem toSigned_zero (w i : Nat) : toSigned w (bits (0 : BitVec 256).toNat (w * i) w) = 0 := by
  have hpos := Nat.two_pow_pos (w - 1)
  simp [toSigned, bits]

/-- What is asked of the second source only where there is one. -/
theorem not_and_ite (b : Bool) (f : RawCol → Bool) (x y : RawCol) : (!b && f (if b then x else y)) = (!b && f y) := by
  cases b
  · rfl
  · rfl

/-- R71, R74: the column that an element-wise operation writes. -/
theorem State.putCol_elt (s : State) (su : Nat) (u : Sorus) (op : EltOp) (d x y : BitVec 16) (c : Nat) :
    s.putCol su u (.elt op d x y) c = u.destCol (.elt op d x y) (s.rawCol (rowCol su x c))
      (if eltUnary op then (0, 0) else s.rawCol (rowCol su y c)) c := by
  have hsrc : (cmdRows (.elt op d x y)).2 = if eltUnary op then [x] else [x, y] := rfl
  have hfirst : s.srcCol su (cmdRows (.elt op d x y)).2 0 c = s.rawCol (rowCol su x c) := by
    rw [hsrc]
    cases eltUnary op <;> rfl
  have hsecond : s.srcCol su (cmdRows (.elt op d x y)).2 1 c = if eltUnary op then (0, 0) else s.rawCol (rowCol su y c) := by
    rw [hsrc]
    cases eltUnary op <;> rfl
  unfold State.putCol
  rw [hfirst, hsecond]

/-- R70, R74: the destination of an element-wise operation. -/
theorem exec_selt {s : State} {su ctx : Nat} {u : Sorus} {op : EltOp} {d x y : BitVec 16} (h : Issues s su ctx (.elt op d x y) u) :
    let w := laneBits u.lane
    let at_ (r : BitVec 16) (c : Nat) : BitVec 256 := s.mem.data (rowCol su r c)
    let bad (r : BitVec 16) (c : Nat) : Bool := colBad (s.mem.data (rowCol su r c)) (s.mem.chk (rowCol su r c))
    ∃ t f p, exec (.selt su ctx op d x y) s = .next t ∧ UnitDone s t su ∧ RowWritten s t su d f p
      ∧ (∀ c, c < 32 → p c = (bad x c || (!eltUnary op && bad y c) || (eltScaled op && u.scalePoison) || (op == .lut && u.lutPoison)))
      ∧ ∀ c i, c < 32 → i < 256 / w →
          let xi := toSigned w (bits (at_ x c).toNat (w * i) w)
          let yi := if eltUnary op then 0 else toSigned w (bits (at_ y c).toNat (w * i) w)
          toSigned w (bits (f c).toNat (w * i) w) = (eltLane op u.eltEnv xi yi).1 := by
  intro w at_ bad
  obtain ⟨-, -, -, -, -, hok, -, -, -, -⟩ := id h
  have hlut : op = .lut → u.eltEnv.lane = 0 := fun hop => by
    simp only [Sorus.cmdOk, Bool.and_eq_true, hop] at hok
    exact beq_iff_eq.1 hok.2
  obtain ⟨hdone, hrow, -, -⟩ := runCmd_row h rfl rfl
  refine ⟨_, _, _, rfl, hdone, hrow, fun c _ => ?_, fun c i _ hi => ?_⟩
  · have hbad := not_and_ite (eltUnary op) rawBad (0, 0) (s.rawCol (rowCol su y c))
    rw [State.putCol_elt]
    unfold Sorus.destCol
    dsimp only
    rw [hbad]
    rfl
  · have hy : toSigned (laneBits u.lane) (bits (if eltUnary op then (0, 0) else s.rawCol (rowCol su y c) : RawCol).1.toNat
        (laneBits u.lane * i) (laneBits u.lane))
        = if eltUnary op then 0 else toSigned (laneBits u.lane)
          (bits (s.mem.data (rowCol su y c)).toNat (laneBits u.lane * i) (laneBits u.lane)) := by
      split
      · exact toSigned_zero _ _
      · rfl
    rw [State.putCol_elt]
    unfold Sorus.destCol
    dsimp only
    rw [← hy]
    exact toSigned_eltCol hlut _ _ hi

end Sys2Proof.Machine
end

section
/-! SUPPORT. Sweeps of weight rows (R62 to R68, R82): steps that write no memory, the sums of a row, and all that the arithmetic commands do. -/

namespace Sys2Proof.Machine

set_option Elab.async false

open Sys2Proof

/-! ## Commands of many steps that write no memory (R66, R82) -/

/-- One step of a sweep: the unit, and the poison that it carries on. -/
def Sorus.sweepStep (su : Nat) (rd : Nat → RawCol) (x : Sorus × Bool) (st : UStep) : Sorus × Bool :=
  ((x.1.step su rd st x.2).unit, (x.1.step su rd st x.2).carry)

/-- A list of steps, at whatever unit of a configuration, writes nothing, keeps the configuration and reads no column that is reported. -/
def State.Sweepable (s : State) (su : Nat) (cfg : Word32) (sts : List UStep) : Prop :=
  ∀ st ∈ sts, ∀ (v : Sorus) (carry : Bool), v.cfg = cfg →
    (v.step su s.rawCol st carry).writes = [] ∧ (v.step su s.rawCol st carry).unit.cfg = cfg
    ∧ ∀ c ∈ (v.step su s.rawCol st carry).reads, colMasked (s.mem.data c) (s.mem.chk c) = false

/-- R66, R82: the steps of a sweep, run at a unit where nothing waits, come to the command's end. -/
theorem State.runSteps_sweep {su : Nat} {sts : List UStep} (hop : ∀ st ∈ sts, st.op = 0) {s : State} (hheld : (s.pair su).held = none)
    (hf : ∀ ch, Tbl.get none s.mem.flips ch = none) (hq : (s.pair su).ordQ = []) (hsweep : s.Sweepable su (s.pair su).unit.cfg sts)
    (carry : Bool) :
    ∃ t, AtUnit s t su ∧ s.runSteps su rawView false none carry sts = t.endCmd su ∧ t.mem = s.mem
      ∧ (t.pair su).unit = (sts.foldl (Sorus.sweepStep su s.rawCol) ((s.pair su).unit, carry)).1 := by
  induction sts generalizing s carry with
  | nil => exact ⟨s, AtUnit.refl s su, rfl, rfl, rfl⟩
  | cons st rest ih =>
    obtain ⟨hwrites, hcfg, hclear⟩ := hsweep st List.mem_cons_self (s.pair su).unit carry rfl
    obtain ⟨r, hr⟩ : ∃ r, r = (s.pair su).unit.step su s.rawCol st carry := ⟨_, rfl⟩
    rw [← hr] at hwrites hcfg hclear
    obtain ⟨hdone, hunit, -, hmem, -⟩ := State.stepDone_spec hheld hf st r
    rw [hwrites] at hmem
    have hfirst : ∀ x ∈ rest, x.op = st.op := fun x hx => (hop x (List.mem_cons_of_mem _ hx)).trans (hop st List.mem_cons_self).symm
    obtain ⟨t, ht⟩ : ∃ t, t = if rest.isEmpty then s.stepDone su st r else (s.stepDone su st r).boundary su := ⟨_, rfl⟩
    have hnext : AtUnit s t su ∧ t.mem = s.mem ∧ (t.pair su).unit = r.unit := by
      rw [ht]
      split
      · exact ⟨hdone, hmem, hunit⟩
      · rw [State.boundary_of_ordQ_nil (hdone.ordQ.trans hq)]
        obtain ⟨hsame, hkeep, -⟩ := (s.stepDone su st r).refreshFirst_unit su
        exact ⟨hdone.trans (AtUnit.refreshFirst _ su), hkeep.trans hmem, hsame.trans hunit⟩
    obtain ⟨hat, htmem, htunit⟩ := hnext
    have hraw : t.rawCol = s.rawCol := by unfold State.rawCol; rw [htmem]
    have hrest : t.Sweepable su (t.pair su).unit.cfg rest := by
      unfold State.Sweepable
      rw [hraw, htmem, htunit, hcfg]
      exact fun x hx => hsweep x (List.mem_cons_of_mem _ hx)
    obtain ⟨v, hv, hrun, hvmem, hvunit⟩ := ih (fun x hx => hop x (List.mem_cons_of_mem _ hx)) (hat.held hheld) (by rwa [htmem])
      (hat.ordQ.trans hq) hrest r.carry
    refine ⟨v, hat.trans hv, ?_, hvmem.trans htmem, ?_⟩
    · rw [State.runSteps_cons hr hclear hheld hf hfirst, ← ht, hrun]
    · rw [hvunit, hraw, htunit, List.foldl_cons, hr]
      rfl

/-! ## What a span of a weight row adds (R62 to R68, R74) -/

/-- R67: the column of the scales of a weight row. -/
def State.scaleOf (s : State) (su : Nat) (w : BitVec 16) : RawCol := s.rawCol (rowCol su (scaleRowOf w).1 (scaleRowOf w).2)

/-- R67: the unit with a scale column taken, if it scales. -/
def Sorus.withScale (u : Sorus) (x : RawCol) : Sorus := if u.scaled then { u with scale := x.1, scalePoison := rawBad x } else u

/-- R64, R67: the sum, for vector `v`, over `n` positions of weight row `w` from `first` on, of factor × weight × activation. -/
def State.sweptSum (s : State) (u : Sorus) (su : Nat) (w : BitVec 16) (a seg first n v : Nat) : Int :=
  smacSum (fun q => if u.scaled then scaleLane (s.scaleOf su w).1 (laneOf (groupSize u.group) (segLen u.w8 u.vecs) q) else 1)
    (rowWeight u.w8 fun c => (s.rawCol (rowCol su w c)).1) (fun i => u.actAt v (a + i)) seg first n

/-- R74: whether one of the columns of those positions is bad. -/
def State.sweptBad (s : State) (u : Sorus) (su : Nat) (w : BitVec 16) (first n : Nat) : Bool :=
  (List.range (n / colWeights u.w8)).any fun c => rawBad (s.rawCol (rowCol su w (first / colWeights u.w8 + c)))

/-- R66: the entry of the sums of `vecs` vectors. -/
def sumsEntry (vecs : Nat) (sum : Nat → Int) (poison : Bool) : FifoEntry :=
  { words := ((List.range vecs).map fun v => BitVec.ofInt 32 (satS 32 (BitVec.ofInt 48 (sum v)).toInt).1) ++ List.replicate (8 - vecs) 0
    count := vecs, snrm := false, poison }

/-- R66: the accumulators of the first vectors hold sums modulo 2^48. -/
def HoldSums (accs : List (BitVec 48)) (vecs : Nat) (f : Nat → Int) : Prop := ∀ v, v < vecs → accs.getD v 0 = BitVec.ofInt 48 (f v)

theorem holdSums_zero (vecs : Nat) : HoldSums (List.replicate 8 0) vecs fun _ => 0 := fun v _ =>
  (List.getD_eq_getElem?_getD ..).trans (List.getElem?_getD_replicate_default_eq (d := (0 : BitVec 48)) 8 v)

theorem Sorus.vecs_le (u : Sorus) : u.vecs ≤ 8 := by
  have : bits u.cfg.toNat 1 3 < 2 ^ 3 := Nat.mod_lt _ (by omega)
  unfold Sorus.vecs
  omega

/-- R66: an accumulator adds modulo 2^48. -/
theorem ofInt_toInt_add (x y : Int) : BitVec.ofInt 48 ((BitVec.ofInt 48 x).toInt + y) = BitVec.ofInt 48 (x + y) := by
  rw [BitVec.ofInt_add, BitVec.ofInt_toInt, ← BitVec.ofInt_add]

/-- R60: the columns of a weight row that a part of it reads. -/
def partCols (part : Nat) : List Nat :=
  match part with
  | 0 => List.range 32
  | 1 => List.range 16
  | _ => (List.range 16).map (16 + ·)

theorem partCols_lt {part c : Nat} (h : c ∈ partCols part) : c < 32 := by
  unfold partCols at h
  split at h
  · exact List.mem_range.1 h
  · have := List.mem_range.1 h
    omega
  · obtain ⟨i, hi, rfl⟩ := List.mem_map.1 h
    have := List.mem_range.1 hi
    omega

/-- Column `c` of a weight row as a part's step meets it. -/
def State.macCol (s : State) (su : Nat) (w : BitVec 16) (part c : Nat) : RawCol :=
  ((List.range 32).map fun c => if (partCols part).contains c then s.rawCol (rowCol su w c) else (0, 0)).getD c (0, 0)

theorem State.macCol_of_mem (s : State) (su : Nat) (w : BitVec 16) {part c : Nat} (h : c ∈ partCols part) :
    s.macCol su w part c = s.rawCol (rowCol su w c) := by
  have hlt := partCols_lt h
  simp [State.macCol, List.getD_eq_getElem?_getD, hlt, h]

/-- R64 to R68: a step of a sweep at a unit that has taken its scales, or takes them now. -/
theorem Sorus.macStep_eq {u : Sorus} {s : State} {su : Nat} {w : BitVec 16} {part : Nat} (hsc : part = 2 → u.withScale (s.scaleOf su w) = u)
    (a : Nat) (carry : Bool) :
    let v := u.withScale (s.scaleOf su w)
    let r := v.sweepSpan (fun c => (s.macCol su w part c).1) (fun c => rawBad (s.macCol su w part c))
      (carry || (v.scaled && v.scalePoison) || v.actPoison != 0) a (v.span part)
    u.macStep su s.rawCol w a part carry = { unit := r.1, carry := r.2
                                             reads := (if u.scaled && part != 2 then [rowCol su (scaleRowOf w).1 (scaleRowOf w).2] else [])
                                               ++ (partCols part).map fun c => rowCol su w c } := by
  have htake : (if u.scaled && part != 2 then
      { u with scale := (s.scaleOf su w).1, scalePoison := rawBad (s.scaleOf su w) } else u) = u.withScale (s.scaleOf su w) := by
    by_cases hpart : part = 2
    · rw [hsc hpart, hpart, Bool.and_comm]
      rfl
    · unfold Sorus.withScale
      simp [hpart]
  dsimp only
  rw [← htake]
  rfl

theorem Sorus.withScale_keeps (u : Sorus) (x : RawCol) : (u.withScale x).cfg = u.cfg ∧ (u.withScale x).act = u.act
    ∧ (u.withScale x).actPoison = u.actPoison ∧ (u.withScale x).accs = u.accs ∧ (u.withScale x).fifo = u.fifo
    ∧ (u.withScale x).withScale x = u.withScale x := by
  unfold Sorus.withScale
  cases hu : u.scaled with
  | false => simp [hu]
  | true => exact ⟨rfl, rfl, rfl, rfl, rfl, if_pos hu⟩

theorem smacSum_congr {scale scale' w w' : Nat → Int} (act : Nat → Int) (seg : Nat) {first n : Nat}
    (hscale : ∀ q, scale q = scale' q) (hw : ∀ k, k < n → w (first + k) = w' (first + k)) :
    smacSum scale w act seg first n = smacSum scale' w' act seg first n :=
  congrArg List.sum (List.map_congr_left fun k hk => by rw [hscale, hw k (List.mem_range.1 hk)])

theorem Sorus.scale_of_withScale {u : Sorus} {x : RawCol} (h : u.withScale x = u) (hu : u.scaled = true) :
    u.scale = x.1 ∧ u.scalePoison = rawBad x := by
  rw [Sorus.withScale, if_pos hu] at h
  exact ⟨(congrArg Sorus.scale h).symm, (congrArg Sorus.scalePoison h).symm⟩

/-- A unit that has taken a scale column has it taken while its configuration and scale register stand. -/
theorem Sorus.withScale_of_same {u v : Sorus} {x : RawCol} (h : u.withScale x = u) (hcfg : v.cfg = u.cfg) (hscale : v.scale = u.scale)
    (hpoison : v.scalePoison = u.scalePoison) : v.withScale x = v := by
  by_cases hv : v.scaled = true
  · have hu : u.scaled = true := by
      unfold Sorus.scaled at hv ⊢
      rwa [← hcfg]
    obtain ⟨hx, hbad⟩ := Sorus.scale_of_withScale h hu
    rw [Sorus.withScale, if_pos hv, ← hx, ← hbad, ← hscale, ← hpoison]
  · rw [Sorus.withScale, if_neg hv]

/-- The accumulators after a span. -/
def Sorus.sweptAccs (u : Sorus) (row : Nat → BitVec 256) (a seg first n : Nat) : List (BitVec 48) :=
  (List.range 8).map fun v =>
    if v < u.vecs then
      BitVec.ofInt 48 ((u.accs.getD v 0).toInt
        + smacSum (fun q => if u.scaled then scaleLane u.scale (laneOf (groupSize u.group) (segLen u.w8 u.vecs) q) else 1)
            (rowWeight u.w8 row) (fun i => u.actAt v (a + i)) seg first n)
    else u.accs.getD v 0

/-- R60, R63: the columns of a span of positions are among those that a part of a row reads. -/
def SpanIn (w8 : Bool) (part first n : Nat) : Prop := ∀ q, first ≤ q → q < first + n → q / colWeights w8 ∈ partCols part

/-- R64, R66: a span adds its sums. -/
theorem Sorus.sweptAccs_hold {u : Sorus} {s : State} {su : Nat} {w : BitVec 16} (hsc : u.withScale (s.scaleOf su w) = u) {part first n : Nat}
    (hspan : SpanIn u.w8 part first n) {f : Nat → Int} (hacc : HoldSums u.accs u.vecs f) (a seg : Nat) :
    HoldSums (u.sweptAccs (fun c => (s.macCol su w part c).1) a seg first n) u.vecs fun v => f v + s.sweptSum u su w a seg first n v := by
  intro v hv
  have hlt : v < 8 := Nat.lt_of_lt_of_le hv u.vecs_le
  have hscale : ∀ q, (if u.scaled then scaleLane u.scale (laneOf (groupSize u.group) (segLen u.w8 u.vecs) q) else 1)
      = if u.scaled then scaleLane (s.scaleOf su w).1 (laneOf (groupSize u.group) (segLen u.w8 u.vecs) q) else 1 := fun q =>
    ite_congr rfl (fun hu => by rw [(Sorus.scale_of_withScale hsc hu).1]) fun _ => rfl
  have hrow : ∀ k, k < n → rowWeight u.w8 (fun c => (s.macCol su w part c).1) (first + k)
      = rowWeight u.w8 (fun c => (s.rawCol (rowCol su w c)).1) (first + k) := fun k hk => by
    unfold rowWeight
    dsimp only
    rw [s.macCol_of_mem su w (hspan (first + k) (by omega) (by omega))]
  have hget : (u.sweptAccs (fun c => (s.macCol su w part c).1) a seg first n).getD v 0
      = BitVec.ofInt 48 ((u.accs.getD v 0).toInt + smacSum
        (fun q => if u.scaled then scaleLane u.scale (laneOf (groupSize u.group) (segLen u.w8 u.vecs) q) else 1)
        (rowWeight u.w8 fun c => (s.macCol su w part c).1) (fun i => u.actAt v (a + i)) seg first n) := by
    simp [Sorus.sweptAccs, List.getD_eq_getElem?_getD, hlt, hv]
  rw [hget, smacSum_congr _ _ hscale hrow, hacc v hv, ofInt_toInt_add]
  rfl

/-- R74: whether a bad column is among those of a span. -/
theorem State.any_macCol (s : State) (u : Sorus) (su : Nat) (w : BitVec 16) {part first n : Nat} (hspan : SpanIn u.w8 part first n) :
    ((List.range (n / colWeights u.w8)).any fun c => rawBad (s.macCol su w part (first / colWeights u.w8 + c))) = s.sweptBad u su w first n := by
  have hpos : 0 < colWeights u.w8 := by
    unfold colWeights
    split <;> omega
  rw [Bool.eq_iff_iff, State.sweptBad, List.any_eq_true, List.any_eq_true]
  refine exists_congr fun c => and_congr_right fun hc => ?_
  have hlt : c < n / colWeights u.w8 := List.mem_range.1 hc
  have hcol := hspan (first + colWeights u.w8 * c) (Nat.le_add_right _ _)
    (Nat.add_lt_add_left (Nat.lt_of_lt_of_le (Nat.mul_lt_mul_of_pos_left hlt hpos) (Nat.mul_div_le _ _)) _)
  rw [Nat.add_mul_div_left _ _ hpos] at hcol
  rw [s.macCol_of_mem su w hcol]

theorem HoldSums.words {accs : List (BitVec 48)} {vecs : Nat} {f : Nat → Int} (h : HoldSums accs vecs f) :
    (((List.range vecs).map fun v => satS 32 (accs.getD v 0).toInt).map fun w => BitVec.ofInt 32 w.1)
      = (List.range vecs).map fun v => BitVec.ofInt 32 (satS 32 (BitVec.ofInt 48 (f v)).toInt).1 := by
  rw [List.map_map]
  exact List.map_congr_left fun v hv => by
    show BitVec.ofInt 32 (satS 32 (accs.getD v 0).toInt).1 = _
    rw [h v (List.mem_range.1 hv)]

/-- R74: what a step of a weight row adds to the poison carried into it. -/
def State.macBad (s : State) (u : Sorus) (su : Nat) (w : BitVec 16) (first n : Nat) (carry : Bool) : Bool :=
  carry || (u.scaled && rawBad (s.scaleOf su w)) || u.actPoison != 0 || s.sweptBad u su w first n

/-- R64, R66: the first part of an int8 row adds its sums. -/
theorem Sorus.sweepSpan_goes_on (u : Sorus) (row : Nat → BitVec 256) (bad : Nat → Bool) (poison : Bool) (a seg first n : Nat) :
    u.sweepSpan row bad poison a (seg, first, n, false)
      = ({ u with accs := u.sweptAccs row a seg first n },
          poison || (List.range (n / colWeights u.w8)).any fun c => bad (first / colWeights u.w8 + c)) := rfl

/-- R66: the sums of a segment that ends are pushed. -/
theorem Sorus.sweepSpan_ends {u : Sorus} {row : Nat → BitVec 256} {a seg first n : Nat} {f : Nat → Int}
    (h : HoldSums (u.sweptAccs row a seg first n) u.vecs f) (bad : Nat → Bool) (poison : Bool) :
    ∃ v, u.sweepSpan row bad poison a (seg, first, n, true) = (v, false) ∧ v.cfg = u.cfg ∧ v.act = u.act ∧ v.actPoison = u.actPoison
      ∧ v.scale = u.scale ∧ v.scalePoison = u.scalePoison ∧ v.accs = List.replicate 8 0
      ∧ v.fifo = u.fifo ++ [sumsEntry u.vecs f (poison || (List.range (n / colWeights u.w8)).any fun c => bad (first / colWeights u.w8 + c))] := by
  refine ⟨_, rfl, rfl, rfl, rfl, rfl, rfl, rfl, congrArg (u.fifo ++ [·]) ?_⟩
  have hwords := h.words
  have hentry : ∀ (ws : List Word32) (p : Bool),
      ws = (List.range u.vecs).map (fun v => BitVec.ofInt 32 (satS 32 (BitVec.ofInt 48 (f v)).toInt).1) →
      ({ words := ws ++ List.replicate (8 - ws.length) 0, count := ws.length, snrm := false, poison := p } : FifoEntry) = sumsEntry u.vecs f p := by
    rintro _ p rfl
    simp [sumsEntry]
  exact hentry _ _ hwords

/-- The registers that a sweep reads and keeps are those of a unit. -/
structure SameRegs (u v : Sorus) : Prop where
  cfg : v.cfg = u.cfg
  act : v.act = u.act
  actPoison : v.actPoison = u.actPoison

namespace SameRegs
variable {u v w : Sorus}

theorem trans (h : SameRegs u v) (k : SameRegs v w) : SameRegs u w := ⟨k.cfg.trans h.cfg, k.act.trans h.act, k.actPoison.trans h.actPoison⟩

theorem withScale (u : Sorus) (x : RawCol) : SameRegs u (u.withScale x) := by
  obtain ⟨hcfg, hact, hpoison, -⟩ := u.withScale_keeps x
  exact ⟨hcfg, hact, hpoison⟩

theorem fields (h : SameRegs u v) : v.w8 = u.w8 ∧ v.vecs = u.vecs ∧ v.scaled = u.scaled ∧ v.group = u.group ∧ v.actAt = u.actAt := by
  obtain ⟨hcfg, hact, -⟩ := h
  unfold Sorus.actAt Sorus.w8 Sorus.vecs Sorus.scaled Sorus.group Sorus.unsigned
  rw [hcfg, hact]
  exact ⟨rfl, rfl, rfl, rfl, rfl⟩

theorem span (h : SameRegs u v) : v.span = u.span := by
  obtain ⟨hw8, hvecs, -⟩ := h.fields
  unfold Sorus.span
  rw [hw8, hvecs]

theorem sweptSum (h : SameRegs u v) (s : State) : s.sweptSum v = s.sweptSum u := by
  obtain ⟨hw8, hvecs, hscaled, hgroup, hact⟩ := h.fields
  unfold State.sweptSum
  rw [hw8, hvecs, hscaled, hgroup, hact]

theorem macBad (h : SameRegs u v) (s : State) : s.macBad v = s.macBad u := by
  obtain ⟨hw8, -, hscaled, -⟩ := h.fields
  unfold State.macBad State.sweptBad
  rw [hw8, hscaled, h.actPoison]

end SameRegs

theorem State.macBad_eq {s : State} {u : Sorus} {su : Nat} {w : BitVec 16} (hsc : u.withScale (s.scaleOf su w) = u) {part first n : Nat}
    (hspan : SpanIn u.w8 part first n) (carry : Bool) :
    (carry || (u.scaled && u.scalePoison) || u.actPoison != 0
      || (List.range (n / colWeights u.w8)).any fun c => rawBad (s.macCol su w part (first / colWeights u.w8 + c)))
      = s.macBad u su w first n carry := by
  have hscale : (u.scaled && u.scalePoison) = (u.scaled && rawBad (s.scaleOf su w)) := by
    by_cases hu : u.scaled = true
    · rw [(Sorus.scale_of_withScale hsc hu).2]
    · rw [Bool.eq_false_iff.2 hu]
      rfl
  rw [s.any_macCol u su w hspan, hscale]
  rfl

section
variable {s : State} {su : Nat} {w : BitVec 16} {u v : Sorus} {part seg first n : Nat} {f : Nat → Int}

/-- R64 to R68: a step of a sweep sweeps its span, the scales taken. -/
theorem Sorus.sweepStep_eq (hregs : SameRegs u v) (hsc : part = 2 → v.withScale (s.scaleOf su w) = v)
    (hspan : SpanIn u.w8 part first n) (a : Nat) (carry : Bool) :
    ∃ x p, Sorus.sweepStep su s.rawCol (v, carry) { cmd := .mac 1 w a, part, op := 0 }
        = x.sweepSpan (fun c => (s.macCol su w part c).1) (fun c => rawBad (s.macCol su w part c)) p (32 * a) (u.span part)
      ∧ (p || (List.range (n / colWeights x.w8)).any fun c => rawBad (s.macCol su w part (first / colWeights x.w8 + c)))
        = s.macBad u su w first n carry
      ∧ SameRegs u x ∧ x.withScale (s.scaleOf su w) = x ∧ x.accs = v.accs ∧ x.fifo = v.fifo := by
  obtain ⟨-, -, -, haccs, hfifo, hagain⟩ := v.withScale_keeps (s.scaleOf su w)
  have hx : SameRegs u (v.withScale (s.scaleOf su w)) := hregs.trans (.withScale v _)
  refine ⟨v.withScale (s.scaleOf su w), carry || ((v.withScale (s.scaleOf su w)).scaled && (v.withScale (s.scaleOf su w)).scalePoison)
    || (v.withScale (s.scaleOf su w)).actPoison != 0, ?_, ?_, hx, hagain, haccs, hfifo⟩
  · rw [← hx.span]
    show ((v.macStep su s.rawCol w (32 * a) part carry).unit, (v.macStep su s.rawCol w (32 * a) part carry).carry) = _
    rw [Sorus.macStep_eq hsc]
  · rw [← hx.macBad]
    exact State.macBad_eq hagain (by rw [hx.fields.1]; exact hspan) carry

/-- R64 to R68, R74: a step in which a segment ends pushes its sums. -/
theorem Sorus.sweepStep_ends (hregs : SameRegs u v) (hsc : part = 2 → v.withScale (s.scaleOf su w) = v)
    (hpart : u.span part = (seg, first, n, true))
    (hspan : SpanIn u.w8 part first n) (hacc : HoldSums v.accs u.vecs f) (a : Nat) (carry : Bool) :
    ∃ v', Sorus.sweepStep su s.rawCol (v, carry) { cmd := .mac 1 w a, part, op := 0 } = (v', false) ∧ SameRegs u v'
      ∧ v'.withScale (s.scaleOf su w) = v' ∧ v'.accs = List.replicate 8 0
      ∧ v'.fifo = v.fifo ++ [sumsEntry u.vecs (fun i => f i + s.sweptSum u su w (32 * a) seg first n i) (s.macBad u su w first n carry)] := by
  obtain ⟨x, p, hstep, hbad, hx, hxsc, haccs, hfifo⟩ := sweepStep_eq hregs hsc hspan a carry
  obtain ⟨hw8, hvecs, -⟩ := hx.fields
  have hsums := sweptAccs_hold hxsc (hw8 ▸ hspan) (f := f) (by rwa [haccs, hvecs]) (32 * a) seg
  obtain ⟨v', hv', hcfg, hact, hpoison, hscale, hsp, hzero, hpush⟩ := sweepSpan_ends hsums (fun c => rawBad (s.macCol su w part c)) p
  refine ⟨v', by rw [hstep, hpart, hv'], hx.trans ⟨hcfg, hact, hpoison⟩, withScale_of_same hxsc hcfg hscale hsp, hzero, ?_⟩
  rw [hpush, hbad, hfifo, hvecs, hx.sweptSum]

/-- R64 to R68, R74: a step in which no segment ends keeps its sums, and its poison is carried on. -/
theorem Sorus.sweepStep_goes_on (hregs : SameRegs u v) (hsc : part = 2 → v.withScale (s.scaleOf su w) = v)
    (hpart : u.span part = (seg, first, n, false)) (hspan : SpanIn u.w8 part first n) (hacc : HoldSums v.accs u.vecs f) (a : Nat) (carry : Bool) :
    ∃ v', Sorus.sweepStep su s.rawCol (v, carry) { cmd := .mac 1 w a, part, op := 0 } = (v', s.macBad u su w first n carry) ∧ SameRegs u v'
      ∧ v'.withScale (s.scaleOf su w) = v' ∧ v'.fifo = v.fifo
      ∧ HoldSums v'.accs u.vecs fun i => f i + s.sweptSum u su w (32 * a) seg first n i := by
  obtain ⟨x, p, hstep, hbad, hx, hxsc, haccs, hfifo⟩ := sweepStep_eq hregs hsc hspan a carry
  obtain ⟨hw8, hvecs, -⟩ := hx.fields
  have hsums := sweptAccs_hold hxsc (hw8 ▸ hspan) (f := f) (by rwa [haccs, hvecs]) (32 * a) seg
  rw [hvecs, hx.sweptSum] at hsums
  refine ⟨{ x with accs := x.sweptAccs (fun c => (s.macCol su w part c).1) (32 * a) seg first n }, ?_, hx.trans ⟨rfl, rfl, rfl⟩,
    withScale_of_same hxsc rfl rfl rfl, hfifo, hsums⟩
  rw [hstep, hpart, sweepSpan_goes_on, hbad]

end

/-! ## A weight row, and a sweep of rows (R60, R63, R66, R82) -/

/-- R66: the entry of a segment is that of its span's sums. -/
theorem sweptEntry_eq_sums (s : State) (u : Sorus) (su : Nat) (w : BitVec 16) (a i : Nat) :
    sweptEntry s u su w a i = sumsEntry u.vecs
      (fun v => s.sweptSum u su w (32 * a) (i * segLen u.w8 u.vecs) (i * segLen u.w8 u.vecs) (segLen u.w8 u.vecs) v)
      (s.macBad u su w (i * segLen u.w8 u.vecs) (segLen u.w8 u.vecs) false) := by
  have hsum : ∀ v, s.sweptSum u su w (32 * a) (i * segLen u.w8 u.vecs) (i * segLen u.w8 u.vecs) (segLen u.w8 u.vecs) v
      = ((List.range (segLen u.w8 u.vecs)).map fun k =>
          (if u.scaled then scaleLane (s.scaleOf su w).1 (laneOf (groupSize u.group) (segLen u.w8 u.vecs) (i * segLen u.w8 u.vecs + k)) else 1)
            * rowWeight u.w8 (fun c => (s.rawCol (rowCol su w c)).1) (i * segLen u.w8 u.vecs + k) * u.actAt v (32 * a + k)).sum := fun v => by
    unfold State.sweptSum smacSum
    simp only [Nat.add_sub_cancel_left]
  simp only [hsum, State.macBad, Bool.false_or]
  rfl

theorem sumsEntry_congr {vecs : Nat} {f g : Nat → Int} (h : ∀ v, f v = g v) {p q : Bool} (hp : p = q) :
    sumsEntry vecs f p = sumsEntry vecs g q := by
  rw [funext h, hp]

theorem State.sweptSum_add (s : State) (u : Sorus) (su : Nat) (w : BitVec 16) (a seg first n m v : Nat) :
    s.sweptSum u su w a seg first (n + m) v = s.sweptSum u su w a seg first n v + s.sweptSum u su w a seg (first + n) m v := by
  unfold State.sweptSum smacSum
  rw [List.range_add, List.map_append, List.sum_append, List.map_map]
  simp only [Function.comp_def, Nat.add_assoc]

/-- R74: the poison of the two halves of an int8 row. -/
theorem State.macBad_halves (s : State) (u : Sorus) (su : Nat) (w : BitVec 16) (hw8 : u.w8 = true) :
    s.macBad u su w 512 512 (s.macBad u su w 0 512 false) = s.macBad u su w 0 1024 false := by
  have hhalves : s.sweptBad u su w 0 1024 = (s.sweptBad u su w 0 512 || s.sweptBad u su w 512 512) := by
    have hrange : List.range 32 = List.range 16 ++ (List.range 16).map (16 + ·) := rfl
    have hall : (List.range 32).any (fun c => rawBad (s.rawCol (rowCol su w (0 + c))))
        = ((List.range 16).any (fun c => rawBad (s.rawCol (rowCol su w (0 + c))))
            || (List.range 16).any fun c => rawBad (s.rawCol (rowCol su w (16 + c)))) := by
      rw [hrange, List.any_append, List.any_map]
      simp only [Function.comp_def, Nat.zero_add]
    unfold State.sweptBad
    rw [hw8]
    exact hall
  unfold State.macBad
  rw [hhalves]
  cases u.scaled && rawBad (s.scaleOf su w) <;> cases u.actPoison != 0 <;> simp

theorem spanIn_whole {vecs : Nat} (h : ¬ 5 ≤ vecs) (w8 : Bool) : SpanIn w8 0 0 (segLen w8 vecs) := fun q _ hq => by
  refine List.mem_range.2 ?_
  cases w8 <;> simp only [segLen, colWeights, h, if_false, if_true, Bool.false_eq_true] at hq ⊢ <;> omega

theorem spanIn_first (w8 : Bool) : SpanIn w8 1 0 (if w8 then 512 else 1024) := fun q _ hq => by
  refine List.mem_range.2 ?_
  cases w8 <;> simp only [colWeights, if_true, if_false, Bool.false_eq_true] at hq ⊢ <;> omega

theorem spanIn_second (w8 : Bool) : SpanIn w8 2 (if w8 then 512 else 1024) (if w8 then 512 else 1024) := fun q hlo hq => by
  refine List.mem_map.2 ⟨q / colWeights w8 - 16, List.mem_range.2 ?_, ?_⟩ <;>
    cases w8 <;> simp only [colWeights, if_true, if_false, Bool.false_eq_true] at hlo hq ⊢ <;> omega

section
variable {s : State} {su : Nat} {u v : Sorus}

/-- The steps of one weight row. -/
def rowSteps (vecs : Nat) (w : BitVec 16) (a : Nat) : List UStep :=
  (if 5 ≤ vecs then [1, 2] else [0]).map fun part => { cmd := .mac 1 w a, part, op := 0 }

/-- A row swept: registers as before, accumulators cleared, an entry pushed for each segment. -/
def RowSwept (s : State) (su : Nat) (u v : Sorus) (w : BitVec 16) (a : Nat) (v' : Sorus) : Prop :=
  (rowSteps u.vecs w a).foldl (Sorus.sweepStep su s.rawCol) (v, false) = (v', false) ∧ SameRegs u v' ∧ v'.accs = List.replicate 8 0
    ∧ v'.fifo = v.fifo ++ (List.range (segCount u.w8 u.vecs)).map (sweptEntry s u su w a)

/-- R60: at V up to 4 a row is one step, which ends its one segment. -/
theorem rowSwept_whole (hregs : SameRegs u v) (haccs : v.accs = List.replicate 8 0) (hv : ¬ 5 ≤ u.vecs) (w : BitVec 16) (a : Nat) :
    ∃ v', RowSwept s su u v w a v' := by
  obtain ⟨v', hstep, hregs', -, hzero, hfifo⟩ := Sorus.sweepStep_ends (s := s) (su := su) (w := w) (part := 0) hregs
    (fun h => absurd h (by decide)) rfl (spanIn_whole hv u.w8) (haccs ▸ holdSums_zero u.vecs) a false
  refine ⟨v', ?_, hregs', hzero, hfifo.trans (congrArg (v.fifo ++ ·) ?_)⟩
  · rw [rowSteps, if_neg hv]
    exact hstep
  · have hone : segCount u.w8 u.vecs = 1 := by
      unfold segCount
      simp [hv]
    rw [hone]
    refine congrArg ([·]) (Eq.trans ?_ (sweptEntry_eq_sums s u su w a 0).symm)
    rw [Nat.zero_mul]
    exact sumsEntry_congr (fun _ => Int.zero_add _) rfl

/-- R60: at V from 5 on an int8 row is two steps, the halves of its one segment. -/
theorem rowSwept_halves (hregs : SameRegs u v) (haccs : v.accs = List.replicate 8 0) (hv : 5 ≤ u.vecs) (hw8 : u.w8 = true) (w : BitVec 16)
    (a : Nat) : ∃ v', RowSwept s su u v w a v' := by
  have hspan₁ : u.span 1 = (0, 0, 512, false) := if_pos hw8
  have hspan₂ : u.span 2 = (0, 512, 512, true) := if_pos hw8
  have hin₁ := spanIn_first u.w8
  have hin₂ := spanIn_second u.w8
  rw [if_pos hw8] at hin₁ hin₂
  obtain ⟨x, hstep₁, hx, hscale, hfifo₁, hsums⟩ := Sorus.sweepStep_goes_on (s := s) (su := su) (w := w) hregs
    (fun h => absurd h (by decide)) hspan₁ hin₁ (haccs ▸ holdSums_zero u.vecs) a false
  obtain ⟨v', hstep₂, hregs', -, hzero, hfifo₂⟩ := Sorus.sweepStep_ends hx (fun _ => hscale) hspan₂ hin₂ hsums a
    (s.macBad u su w 0 512 false)
  refine ⟨v', ?_, hregs', hzero, hfifo₂.trans ?_⟩
  · rw [rowSteps, if_pos hv]
    show Sorus.sweepStep _ _ (Sorus.sweepStep _ _ _ _) _ = _
    rw [hstep₁, hstep₂]
  · have hone : segCount u.w8 u.vecs = 1 := if_pos hw8
    have hlen : segLen u.w8 u.vecs = 512 + 512 := if_pos hw8
    rw [hone, hfifo₁]
    refine congrArg (v.fifo ++ [·]) (Eq.trans ?_ (sweptEntry_eq_sums s u su w a 0).symm)
    rw [Nat.zero_mul, hlen]
    exact sumsEntry_congr (fun i => by rw [State.sweptSum_add, Int.zero_add]) (s.macBad_halves u su w hw8)

/-- R60: at V from 5 on an int4 row is two steps, each a segment. -/
theorem rowSwept_segments (hregs : SameRegs u v) (haccs : v.accs = List.replicate 8 0) (hv : 5 ≤ u.vecs) (hw8 : u.w8 = false) (w : BitVec 16)
    (a : Nat) : ∃ v', RowSwept s su u v w a v' := by
  have hw8' : ¬ u.w8 = true := by simp [hw8]
  have hlen : segLen u.w8 u.vecs = 1024 := (if_neg hw8').trans (if_pos hv)
  have hspan₁ : u.span 1 = (0, 0, 1024, true) := (if_neg hw8').trans (by rw [hlen])
  have hspan₂ : u.span 2 = (1024, 1024, 1024, true) := (if_neg hw8').trans (by rw [hlen])
  have hin₁ := spanIn_first u.w8
  have hin₂ := spanIn_second u.w8
  rw [if_neg hw8'] at hin₁ hin₂
  obtain ⟨x, hstep₁, hx, hscale, hzero₁, hfifo₁⟩ := Sorus.sweepStep_ends (s := s) (su := su) (w := w) hregs
    (fun h => absurd h (by decide)) hspan₁ hin₁ (haccs ▸ holdSums_zero u.vecs) a false
  obtain ⟨v', hstep₂, hregs', -, hzero₂, hfifo₂⟩ := Sorus.sweepStep_ends hx (fun _ => hscale) hspan₂ hin₂
    (hzero₁ ▸ holdSums_zero u.vecs) a false
  refine ⟨v', ?_, hregs', hzero₂, ?_⟩
  · rw [rowSteps, if_pos hv]
    show Sorus.sweepStep _ _ (Sorus.sweepStep _ _ _ _) _ = _
    rw [hstep₁, hstep₂]
  · have htwo : segCount u.w8 u.vecs = 2 := (if_neg hw8').trans (if_pos hv)
    have hentry : ∀ i first, first = i * 1024 → sumsEntry u.vecs (fun k => 0 + s.sweptSum u su w (32 * a) first first 1024 k)
        (s.macBad u su w first 1024 false) = sweptEntry s u su w a i := fun i _ hfirst => by
      rw [sweptEntry_eq_sums, hlen, ← hfirst]
      exact sumsEntry_congr (fun _ => Int.zero_add _) rfl
    rw [htwo, hfifo₂, hfifo₁, hentry 0 0 rfl, hentry 1 1024 rfl, List.append_assoc]
    rfl

/-- R66: what sweeping one weight row leaves of the unit. -/
theorem rowSwept (hregs : SameRegs u v) (haccs : v.accs = List.replicate 8 0) (w : BitVec 16) (a : Nat) : ∃ v', RowSwept s su u v w a v' := by
  by_cases hv : 5 ≤ u.vecs
  · cases hw8 : u.w8 with
    | true => exact rowSwept_halves hregs haccs hv hw8 w a
    | false => exact rowSwept_segments hregs haccs hv hw8 w a
  · exact rowSwept_whole hregs haccs hv w a

/-- R66, R82: the rows of a sweep push their entries in turn. -/
theorem rowsSwept (rows : List (BitVec 16)) (a : Nat) (hregs : SameRegs u v) (haccs : v.accs = List.replicate 8 0) :
    ∃ v', (rows.map fun w => rowSteps u.vecs w a).flatten.foldl (Sorus.sweepStep su s.rawCol) (v, false) = (v', false)
      ∧ v'.accs = List.replicate 8 0
      ∧ v'.fifo = v.fifo ++ (rows.map fun w => (List.range (segCount u.w8 u.vecs)).map (sweptEntry s u su w a)).flatten := by
  induction rows generalizing v with
  | nil => exact ⟨v, rfl, haccs, (List.append_nil _).symm⟩
  | cons w rows ih =>
    obtain ⟨x, hrow, hx, hzero, hfifo⟩ := rowSwept (s := s) (su := su) hregs haccs w a
    obtain ⟨v', hrest, hzero', hfifo'⟩ := ih hx hzero
    refine ⟨v', ?_, hzero', ?_⟩
    · rw [List.map_cons, List.flatten_cons, List.foldl_append, hrow, hrest]
    · rw [hfifo', hfifo, List.map_cons, List.flatten_cons, List.append_assoc]

end

/-! ## `SMAC` (R62 to R68, R82) -/

theorem stepsOf_mac (u : Sorus) (n : Nat) (w : BitVec 16) (a reps : Nat) :
    u.stepsOf (.mac n w a) reps = (((List.range n).map (sweepRow w)).map fun r => rowSteps u.vecs r a).flatten := by
  rw [List.map_map]
  rfl

theorem Sorus.sweepSpan_cfg (u : Sorus) (row : Nat → BitVec 256) (bad : Nat → Bool) (poison : Bool) (a : Nat) (sp : Nat × Nat × Nat × Bool) :
    (u.sweepSpan row bad poison a sp).1.cfg = u.cfg := by
  obtain ⟨seg, first, n, ends⟩ := sp
  cases ends <;> rfl

theorem Sorus.macStep_cfg (u : Sorus) (su : Nat) (rd : Nat → RawCol) (w : BitVec 16) (a part : Nat) (carry : Bool) :
    (u.macStep su rd w a part carry).unit.cfg = u.cfg := by
  refine (Sorus.sweepSpan_cfg ..).trans ?_
  split <;> rfl

theorem Sorus.macStep_reads (u : Sorus) (su : Nat) (rd : Nat → RawCol) (w : BitVec 16) (a part : Nat) (carry : Bool) :
    (u.macStep su rd w a part carry).reads = (if u.scaled && part != 2 then [rowCol su (scaleRowOf w).1 (scaleRowOf w).2] else [])
      ++ (partCols part).map fun c => rowCol su w c := rfl

/-- R67, R100: the steps of rows none of whose columns is reported, nor their scales when they are read. -/
theorem sweepable_rows {s : State} {su : Nat} {u : Sorus} {rows : List (BitVec 16)}
    (hrows : ∀ r ∈ rows, ∀ c, c < 32 → colMasked (s.mem.data (rowCol su r c)) (s.mem.chk (rowCol su r c)) = false)
    (hscales : u.scaled = true → ∀ r ∈ rows, colMasked (s.scaleOf su r).1 (s.scaleOf su r).2 = false) (a : Nat) :
    s.Sweepable su u.cfg (rows.map fun r => rowSteps u.vecs r a).flatten := by
  intro st hst v carry hcfg
  simp only [List.mem_flatten, List.mem_map] at hst
  obtain ⟨_, ⟨r, hr, rfl⟩, hst⟩ := hst
  obtain ⟨part, -, rfl⟩ := List.mem_map.1 hst
  have hscaled : v.scaled = u.scaled := by
    unfold Sorus.scaled
    rw [hcfg]
  refine ⟨rfl, (v.macStep_cfg ..).trans hcfg, fun c hc => ?_⟩
  rcases List.mem_append.1 (v.macStep_reads .. ▸ hc) with hc | hc
  · split at hc
    · next htake =>
      obtain rfl := List.mem_singleton.1 hc
      exact hscales (hscaled.symm.trans (Bool.and_eq_true_iff.1 htake).1) r hr
    · exact absurd hc List.not_mem_nil
  · obtain ⟨k, hk, rfl⟩ := List.mem_map.1 hc
    exact hrows r hr k (partCols_lt hk)

theorem exec_smac {s : State} {su ctx n a : Nat} {w : BitVec 16} {u : Sorus} (h : Issues s su ctx (.mac n w a) u)
    (haccs : u.accs = List.replicate 8 0)
    (hrows : ∀ k, k < n → ∀ c, c < 32 → colMasked (s.mem.data (rowCol su (sweepRow w k) c)) (s.mem.chk (rowCol su (sweepRow w k) c)) = false)
    (hscales : u.scaled = true → ∀ k, k < n → colMasked (s.scaleOf su (sweepRow w k)).1 (s.scaleOf su (sweepRow w k)).2 = false) :
    ∃ t, exec (.smac su ctx n w a) s = .next t ∧ UnitDone s t su ∧ t.mem = s.mem ∧ (t.pair su).unit.accs = List.replicate 8 0
      ∧ (t.pair su).unit.fifo = u.fifo
          ++ ((List.range n).map fun k => (List.range (segCount u.w8 u.vecs)).map (sweptEntry s u su (sweepRow w k) a)).flatten := by
  obtain ⟨-, -, -, -, hu, -, hq, -, hf, -⟩ := id h
  obtain ⟨hat, hheld, hunit, hmem, -⟩ := s.issued_spec su ctx
  rw [← hu] at hunit
  have hraw : (s.issued su ctx).rawCol = s.rawCol := by unfold State.rawCol; rw [hmem]
  obtain ⟨rows, hlist⟩ : ∃ rows, rows = (List.range n).map (sweepRow w) := ⟨_, rfl⟩
  have hof : ∀ r ∈ rows, ∃ k, k < n ∧ sweepRow w k = r := fun r hr => by
    obtain ⟨k, hk, rfl⟩ := List.mem_map.1 (hlist ▸ hr)
    exact ⟨k, List.mem_range.1 hk, rfl⟩
  have hsweep : s.Sweepable su u.cfg (u.stepsOf (.mac n w a) 1) := by
    rw [stepsOf_mac, ← hlist]
    refine sweepable_rows (fun r hr => ?_) (fun hsc r hr => ?_) a <;> obtain ⟨k, hk, rfl⟩ := hof r hr
    · exact hrows k hk
    · exact hscales hsc k hk
  have hop : ∀ st ∈ u.stepsOf (.mac n w a) 1, st.op = 0 := fun st hst => by
    rw [stepsOf_mac, List.mem_flatten] at hst
    obtain ⟨_, hsteps, hst⟩ := hst
    obtain ⟨r, -, rfl⟩ := List.mem_map.1 hsteps
    obtain ⟨part, -, rfl⟩ := List.mem_map.1 hst
    rfl
  obtain ⟨t, ht, hrun, htmem, htunit⟩ := State.runSteps_sweep hop hheld (by rwa [hmem]) (hat.ordQ.trans hq)
    (by unfold State.Sweepable; rw [hraw, hmem, hunit]; exact hsweep) false
  obtain ⟨hdone, hsame, hkeep, -⟩ := runCmd_done h ht hrun
  obtain ⟨v, hv, hzero, hfifo⟩ := rowsSwept (s := s) (su := su) rows a (SameRegs.mk (u := u) rfl rfl rfl) haccs
  have hend : ((s.runCmd su ctx (.mac n w a)).pair su).unit = v := by
    rw [hsame, htunit, hraw, hunit, stepsOf_mac, ← hlist, hv]
  refine ⟨_, rfl, hdone, hkeep.trans (htmem.trans hmem), ?_, ?_⟩ <;> rw [hend]
  · exact hzero
  · rw [hfifo, hlist, List.map_map]
    rfl

/-- Settles O39: a norm and an element-wise operation are one step; a sweep is its rows in turn, by induction, and a row its one or two steps. -/
theorem sorusArithmetic : Obligations.SorusArithmetic := fun _ _ _ _ =>
  ⟨fun _ _ _ h haccs hrows hscales => exec_smac h haccs hrows hscales, fun _ _ _ h => exec_snrm h, fun _ _ _ _ h => exec_selt h⟩

end Sys2Proof.Machine
end

section
/-! SUPPORT. The 64-bit sorus command words (R79 to R84): the places of their fields, and what the fields spell. -/

namespace Sys2Proof.Machine

set_option Elab.async false

open Sys2Proof

theorem getLsbD_bitOf (b : Bool) : (bitOf b).getLsbD 0 = b := by cases b <;> rfl

/-- R79: each field of a word lies where the decoder reads it. -/
theorem SWord.word_fields (c : SWord) (pc : BitVec 1) (unit : BitVec 4) :
    (c.word pc unit).getLsbD 63 = true ∧ (c.word pc unit).extractLsb' 59 4 = BitVec.ofNat 4 c.sop ∧ (c.word pc unit).extractLsb' 58 1 = pc
      ∧ (c.word pc unit).extractLsb' 54 4 = unit ∧ (c.word pc unit).extractLsb' 48 6 = c.var
      ∧ (c.word pc unit).extractLsb' 0 48 = c.operands := by
  unfold SWord.word
  refine ⟨?_, ?_⟩
  · simp only [BitVec.getLsbD_append]
    rfl
  · simp (disch := decide) only [BitVec.extractLsb'_append_eq_of_le, BitVec.extractLsb'_append_eq_of_add_le, BitVec.extractLsb'_eq_self,
      Nat.reduceSub, and_self]

theorem SWord.sop_toNat (c : SWord) : (BitVec.ofNat 4 c.sop).toNat = c.sop := by cases c <;> rfl

theorem logFnOf_logCode (fn : LogFn) :
    ((BitVec.ofNat 6 (logCode fn)).extractLsb' 0 3).toNat ≤ 4 ∧ logFnOf ((BitVec.ofNat 6 (logCode fn)).extractLsb' 0 3).toNat = fn := by
  cases fn <;> decide

theorem eltOpOf_eltCode (op : EltOp) : eltOpOf ((BitVec.ofNat 6 (eltCode op)).extractLsb' 0 3).toNat = op := by
  cases op <;> decide

/-- R81: the fields of a command spell it. -/
theorem SWord.parse_fields (c : SWord) : SWord.parse c.sop c.var c.operands = some c := by
  cases c with
  | slut => rfl
  | slog fn d x y =>
    obtain ⟨hcode, hfn⟩ := logFnOf_logCode fn
    simp (disch := decide) only [SWord.parse, SWord.sop, SWord.var, SWord.operands, hcode, hfn, if_true, BitVec.extractLsb'_append_eq_of_le,
      BitVec.extractLsb'_append_eq_of_add_le, BitVec.extractLsb'_eq_self, Nat.reduceSub]
  | selt op d x y =>
    simp (disch := decide) only [SWord.parse, SWord.sop, SWord.var, SWord.operands, eltOpOf_eltCode, BitVec.extractLsb'_append_eq_of_le,
      BitVec.extractLsb'_append_eq_of_add_le, BitVec.extractLsb'_eq_self, Nat.reduceSub]
  | scfg | sld | smac | sfet | scpy | sini | snrm | sbrd =>
    simp (disch := decide) only [SWord.parse, SWord.sop, SWord.var, SWord.operands, BitVec.extractLsb'_append_eq_of_le,
      BitVec.extractLsb'_append_eq_of_add_le, BitVec.extractLsb'_eq_self, BitVec.getLsbD_append, getLsbD_bitOf, Nat.reduceSub, Nat.reduceLT,
      if_true, if_false]

/-- Settles O42: the decoder reads each field where the word has it (`SWord.word_fields`), and the fields spell the command
(`SWord.parse_fields`). -/
theorem sorusWordsReadBack : Obligations.SorusWordsReadBack := by
  intro c pc unit hok
  obtain ⟨htop, hsop, hpc, hunit, hvar, hoperands⟩ := c.word_fields pc unit
  unfold SWord.decode
  simp only [htop, hsop, hpc, hunit, hvar, hoperands, c.sop_toNat, c.parse_fields, hok, and_self, if_true]

/-- Settles O43: the decoder runs on each word. -/
theorem sorusWordsOfTheTable : Obligations.SorusWordsOfTheTable := by
  refine ⟨?_, ?_, ?_, ?_, ?_, ?_, ?_, ?_, ?_, ?_, ?_, ?_, ?_, ?_⟩ <;> decide

end Sys2Proof.Machine
end

section
/-! SUPPORT. The envelope and the sorus limits (R93, R296, R300, R303): grants lowered without liens, and requests that wait for an edge. -/

namespace Sys2Proof.Machine

set_option Elab.async false

open Sys2Proof

/-! ## Grants lowered without liens (R303) -/

/-- `t` is `s` with no lien, nothing borrowed and no core's level higher; tokens and envelope stand. -/
structure NoLiens (s t : State) : Prop where
  arbiter : Arbiter s t
  liens : t.power.liens = []
  parts : ∀ g ∈ t.power.grants, g.parts = []
  level : ∀ c, (t.core c).level ≤ (s.core c).level
  tokens : t.power.tokens = s.power.tokens
  envelope : t.power.envelope = s.power.envelope

/-- R304: with no lien and nothing borrowed, a return reserves nothing again. -/
theorem takeBack_noLiens (h : Holder) (n : Nat) {gs : List Grant} (hz : ∀ g ∈ gs, g.parts = []) :
    (takeBack h n gs []).2 = [] ∧ ∀ g ∈ (takeBack h n gs []).1, g.parts = [] := by
  refine ⟨takeBack_liens h n [] fun g hg _ p hp => absurd (hz g hg ▸ hp) List.not_mem_nil, ?_⟩
  induction gs generalizing n with
  | nil =>
    unfold takeBack
    exact fun g hg => absurd hg List.not_mem_nil
  | cons a r ih =>
    obtain ⟨ha, hr⟩ := List.forall_mem_cons.1 hz
    have hsplit : (splitParts n a.parts).2 = [] := by rw [ha]; unfold splitParts; rfl
    have hback : reserveAll [] a.parts = [] := by rw [ha]; rfl
    unfold takeBack
    split
    · exact List.forall_mem_cons.2 ⟨ha, ih n hr⟩
    · split
      · rw [hback]
        exact ih _ hr
      · exact List.forall_mem_cons.2 ⟨hsplit, hr⟩

/-- R303: what a list of cores has lent is forgotten, and no level changes. -/
theorem foldl_forgetLent (s : State) (l : List Lien) :
    ∃ cs, l.foldl (fun s l => s.setCore l.core { s.core l.core with lentLevel := none }) s = { s with cores := cs }
      ∧ ∀ c, (Tbl.get {} cs c).level = (s.core c).level := by
  refine List.foldlRecOn (motive := fun t : State => ∃ cs, t = { s with cores := cs } ∧ ∀ c, (Tbl.get {} cs c).level = (s.core c).level) l _
    ⟨_, rfl, fun _ => rfl⟩ fun t ht x _ => ?_
  obtain ⟨cs, rfl, hlevel⟩ := ht
  refine ⟨_, rfl, fun c => ?_⟩
  by_cases hc : c = x.core
  · subst hc
    exact (congrArg Core.level (Tbl.get_put_same _ _ _ _)).trans (hlevel _)
  · exact (congrArg Core.level (Tbl.get_put_ne _ _ _ _ hc)).trans (hlevel c)

theorem NoLiens.dropLiens (s : State) : NoLiens s s.dropLiens := by
  obtain ⟨cs, hcs, hlevel⟩ := foldl_forgetLent s s.power.liens
  unfold State.dropLiens
  rw [hcs]
  refine ⟨⟨_, _, rfl⟩, rfl, fun g hg => ?_, fun c => (hlevel c).le, rfl, rfl⟩
  obtain ⟨_, -, rfl⟩ := List.mem_map.1 hg
  rfl

theorem NoLiens.lower {s t : State} (h : NoLiens s t) (x : Holder) (n : Nat) : NoLiens s (t.lower x n) := by
  obtain ⟨hliens, hparts⟩ := takeBack_noLiens x (n * unitQ x) h.parts
  rw [← h.liens] at hliens hparts
  have harbiter := h.arbiter.trans (.lower t x n)
  cases x with
  | core d =>
    obtain ⟨hd, hothers⟩ := t.core_lower d n
    refine ⟨harbiter, hliens.trans h.liens, hparts, fun c => ?_, h.tokens, h.envelope⟩
    by_cases hc : c = d.val
    · subst hc
      exact (hd.trans_le (Nat.sub_le _ _)).trans (h.level _)
    · rw [hothers c hc]
      exact h.level c
  | stack | rport | tokens | token | rachis | uncore => exact ⟨harbiter, hliens.trans h.liens, hparts, h.level, h.tokens, h.envelope⟩

theorem NoLiens.lowerUntil {s t : State} (h : NoLiens s t) (x : Holder) (e n : Nat) : NoLiens s (lowerUntil x e n t) := by
  induction n generalizing t with
  | zero => exact h
  | succ n ih =>
    unfold Machine.lowerUntil
    split
    · exact h
    · exact ih (h.lower x 1)

theorem NoLiens.lowerGrants (s : State) (e : Nat) : NoLiens s (s.dropLiens.lowerGrants e) :=
  List.foldlRecOn (motive := NoLiens s) _ _ (.dropLiens s) fun _ ht _ _ => ht.lowerUntil _ _ _

/-! ## `SET_ENVELOPE` (R296, R303) -/

theorem execSetEnvelope_eq (mb : Fin 32) (s : State) :
    exec (.setEnvelope mb) s = .next (molianFixed mb 0x0801 .ownerPort 4 [(0x10, 32)] setEnvelopeRun s) := rfl

section
variable {s : State} {mb : Fin 32} (h : Admitted s mb 0x0801 .ownerPort 4 (bodyFields [(0x10, 32)]))
include h

theorem setEnvelope_fits :
    let q := (s.req mb).fld 0x10 32
    let e := clampNat 8000 24000 q
    s.heldQ + s.reservedQ ≤ e → ∃ t, exec (.setEnvelope mb) s = .next t
      ∧ Ends s { s with power := { s.power with envelope := e } } t mb (clampStatus 0 (clampOf 0x10 32 q e)) 0 0 := by
  intro q e hfit
  have hrun : setEnvelopeRun (s.req mb) s = .done 0 0 0 (clampOf 0x10 32 q e) { s with power := { s.power with envelope := e } } := if_pos hfit
  exact ⟨_, rfl, molian_done (len := fun _ => 4) (fs := fun _ => bodyFields [(0x10, 32)]) h hrun rfl⟩

theorem setEnvelope_lowers :
    let e := clampNat 8000 24000 ((s.req mb).fld 0x10 32)
    e < s.heldQ + s.reservedQ → (s.dropLiens.lowerGrants e).heldQ ≤ e → ∃ t, exec (.setEnvelope mb) s = .next t ∧ t.power.envelope = e
      ∧ t.heldQ ≤ e ∧ t.power.liens = [] ∧ (∀ g ∈ t.power.grants, g.parts = []) ∧ (t.mbox mb).st = .complete
      ∧ (t.mbox mb).lastStatus < 2 ∧ (∀ c, (t.core c).level ≤ (s.core c).level) ∧ t.power.tokens = s.power.tokens ∧ SameModule s t
      ∧ t.mem = s.mem ∧ t.recs = s.recs := by
  intro e hover hfit
  have hu := NoLiens.lowerGrants s e
  generalize hlow : s.dropLiens.lowerGrants e = u at hfit hu
  have hrun : setEnvelopeRun (s.req mb) s
      = .done 0 0 0 (clampOf 0x10 32 ((s.req mb).fld 0x10 32) e) { u with power := { u.power with envelope := e } } := by
    subst hlow
    exact (if_neg (Nat.not_le.2 hover)).trans (if_pos hfit)
  obtain ⟨harbiter, hliens, hparts, hlevel, htokens, -⟩ := hu
  have hmbox : u.mbox mb = s.mbox mb := by
    obtain ⟨_, _, rfl⟩ := harbiter
    rfl
  have hends := molian_done (len := fun _ => 4) (fs := fun _ => bodyFields [(0x10, 32)]) h hrun hmbox
  obtain ⟨hst, -, hlast, -⟩ := completed_of_ends hends
  obtain ⟨mbs, ps, is, ev, o, ht⟩ := talk_of_ends hends
  rw [ht] at hst hlast
  exact ⟨_, congrArg Host.Outcome.next ht, rfl, hfit, hliens, hparts, hst, hlast ▸ clampStatus_lt_two _, hlevel, htokens, harbiter.leaves⟩

theorem setEnvelope_waits :
    let e := clampNat 8000 24000 ((s.req mb).fld 0x10 32)
    e < s.heldQ + s.reservedQ → e < (s.dropLiens.lowerGrants e).heldQ → ∃ t, exec (.setEnvelope mb) s = .next t
      ∧ t.power.envelope = s.power.envelope ∧ t.power.lowerTo = some e ∧ (t.mbox mb).begun = true
      ∧ ∀ c, (t.core c).level ≤ (s.core c).level := by
  intro e hover hheld
  obtain ⟨-, -, -, hlevel, -, henvelope⟩ := NoLiens.lowerGrants s e
  have hrun : ∃ dl cl, setEnvelopeRun (s.req mb) s = .wait dl cl { s.dropLiens.lowerGrants e with
      power := { (s.dropLiens.lowerGrants e).power with lowerTo := some e } } :=
    ⟨_, _, (if_neg (Nat.not_le.2 hover)).trans (if_neg (Nat.not_le.2 hheld))⟩
  obtain ⟨dl, cl, hrun⟩ := hrun
  have hexec := (execSetEnvelope_eq mb s).trans (congrArg Host.Outcome.next (molian_admitted setEnvelopeRun h))
  rw [hrun] at hexec
  exact ⟨_, hexec, henvelope, rfl, congrArg Mbox.begun (State.mbox_setMbox _ _ _), hlevel⟩

end

/-! ## A mailbox beside one that is answered (R268, R273) -/

/-- A mailbox holds no request that waits to begin. -/
def Mbox.unwaiting (b : Mbox) : Prop := b.cur = false ∨ b.begun = true

section
variable {mb : Fin 32} {k : Nat} (hk : k ≠ mb.val)
include hk

theorem State.finish_mbox_ne (s : State) (st bl body : Nat) (cl : List Clamp) : (s.finish mb st bl body cl).mbox k = s.mbox k := by
  unfold State.finish
  extract_lets r st' s1 b done s2 resp s3
  have h1 : s1.mbox k = s.mbox k := by
    unfold s1
    split
    · rfl
    · exact s.ev_mbox ..
  split
  · exact (s2.ev_mbox ..).trans ((State.mbox_setMbox_ne _ _ _ hk).trans h1)
  · obtain ⟨_, _, _, he⟩ := s3.mbIrq_eq mb
    rw [he]
    exact (State.mbox_setMbox_ne _ _ _ hk).trans h1

theorem State.accept_mbox_ne (s : State) (img : BitVec 32768) (d : Bool) (rung : Nat) : (s.accept mb img d rung).mbox k = s.mbox k := by
  unfold State.accept
  dsimp only
  split
  · exact (State.finish_mbox_ne hk _ _ _ _ _).trans (State.mbox_setMbox_ne _ _ _ hk)
  · exact State.mbox_setMbox_ne _ _ _ hk

theorem State.acceptNext_mbox_ne (l : List (BitVec 32768 × Bool × Nat)) (s : State) : (State.acceptNext mb l s).mbox k = s.mbox k := by
  induction l generalizing s with
  | nil => exact State.mbox_setMbox_ne _ _ _ hk
  | cons a l ih =>
    obtain ⟨img, d, rung⟩ := a
    have hnext : ((s.setMbox mb { s.mbox mb with behind := l }).accept mb img d rung).mbox k = s.mbox k :=
      (State.accept_mbox_ne hk _ _ _ _).trans (State.mbox_setMbox_ne _ _ _ hk)
    unfold State.acceptNext
    dsimp only
    split
    · exact hnext
    · exact (ih _).trans hnext

/-- R273: an answer starts no request in a mailbox where none waits to begin. -/
theorem State.reply_mbox_ne {s : State} (hs : (s.mbox k).unwaiting) (st bl body : Nat) (cl : List Clamp) :
    (s.reply mb st bl body cl).mbox k = s.mbox k := by
  have hfinish := s.finish_mbox_ne hk st bl body cl
  unfold State.reply
  dsimp only
  rw [State.acceptNext_mbox_ne hk]
  rcases (s.finish mb st bl body cl).startWaiting_mbox s k with h | ⟨hcur, hbegun, -⟩
  · exact h.trans hfinish
  · rw [hfinish] at hcur hbegun
    rcases hs with hs | hs
    · exact absurd (hs.symm.trans hcur) Bool.false_ne_true
    · exact absurd (hbegun.symm.trans hs) Bool.false_ne_true

end

/-! ## `ENVELOPE_LOWER_EDGE` (R303) -/

theorem finishEnvelope_talk (s : State) (i : Nat) : Talk s (finishEnvelope s i) := .ite ((Talk.refl s).reply _ _ _ _ _) (.refl s)

theorem finishEnvelope_ne {s : State} {i k : Nat} (hi : i < 32) (hk : k ≠ i) (hs : (s.mbox k).unwaiting) :
    (finishEnvelope s i).mbox k = s.mbox k := by
  have hval : (Fin.ofNat 32 i).val = i := Nat.mod_eq_of_lt hi
  unfold finishEnvelope
  dsimp only
  split
  · exact State.reply_mbox_ne (hval.symm ▸ hk) hs _ _ _ _
  · rfl

theorem finishEnvelope_completes {s : State} {mb : Fin 32} (hcur : (s.mbox mb).cur = true) (hbegun : (s.mbox mb).begun = true)
    (hop : (s.req mb).opcode = 0x0801) (hd : (s.mbox mb).discard = false) (hb : (s.mbox mb).behind = []) :
    Completed (finishEnvelope s mb) mb (clampStatus 0 (s.mbox mb).clamps) := by
  have hmb : Fin.ofNat 32 mb.val = mb := Fin.ofNat_val_eq_self mb
  have hreply : finishEnvelope s mb = s.reply mb 0 0 0 (s.mbox mb).clamps := by
    unfold finishEnvelope
    rw [hmb]
    exact if_pos (by simp [hcur, hbegun, hop])
  rw [hreply]
  exact completed_of_ends (s.reply_ends mb 0 0 0 _ hd hb)

/-- R303: a mailbox that is not in a list stands while those of the list complete. -/
theorem foldl_finishEnvelope_notMem {l : List Nat} (hl : ∀ i ∈ l, i < 32) {k : Nat} (hk : k ∉ l) {s : State} (hs : (s.mbox k).unwaiting) :
    (l.foldl finishEnvelope s).mbox k = s.mbox k :=
  List.foldlRecOn (motive := fun t : State => t.mbox k = s.mbox k) l _ rfl fun t ht i hi => by
    have hki : k ≠ i := fun he => hk (he ▸ hi)
    exact (finishEnvelope_ne (hl i hi) hki (ht ▸ hs)).trans ht

theorem foldl_finishEnvelope_completes {s : State} {mb : Fin 32} (hcur : (s.mbox mb).cur = true) (hbegun : (s.mbox mb).begun = true)
    (hop : (s.req mb).opcode = 0x0801) (hd : (s.mbox mb).discard = false) (hb : (s.mbox mb).behind = []) :
    Completed ((List.range 32).foldl finishEnvelope s) mb (clampStatus 0 (s.mbox mb).clamps) := by
  obtain ⟨before, after, hrange⟩ := List.append_of_mem (List.mem_range.2 mb.isLt)
  have hlt : ∀ i ∈ before ++ mb.val :: after, i < 32 := fun i hi => List.mem_range.1 (hrange ▸ hi)
  obtain ⟨-, hnotAfter, hnotBefore⟩ := List.nodup_append'.1 (hrange ▸ List.nodup_range (n := 32))
  rw [hrange, List.foldl_append, List.foldl_cons]
  have hbefore : (before.foldl finishEnvelope s).mbox mb = s.mbox mb :=
    foldl_finishEnvelope_notMem (fun i hi => hlt i (List.mem_append_left _ hi)) (fun h => hnotBefore h List.mem_cons_self) (.inr hbegun)
  generalize before.foldl finishEnvelope s = u at hbefore
  have hreq : u.req mb = s.req mb := by unfold State.req; rw [hbefore]
  rw [← hbefore] at hcur hbegun hd hb ⊢
  rw [← hreq] at hop
  obtain ⟨hst, hdone, hlast, hresp⟩ := finishEnvelope_completes hcur hbegun hop hd hb
  unfold Completed
  rw [foldl_finishEnvelope_notMem (fun i hi => hlt i (List.mem_append_right _ (List.mem_cons_of_mem _ hi))) (List.nodup_cons.1 hnotAfter).1
    (.inl hdone)]
  exact ⟨hst, hdone, hlast, hresp⟩

/-- R303: the state at the edge, the lower envelope loaded and no request answered yet. -/
def State.atEdge (s : State) (l : Nat) : State := { s with power := { s.power with envelope := l, lowerTo := none } }

theorem execEnvelopeLowerEdge_eq {s : State} {l : Nat} (hto : s.power.lowerTo = some l) (hfit : s.heldQ ≤ l) :
    exec .envelopeLowerEdge s = .next ((List.range 32).foldl finishEnvelope (s.atEdge l)) := by
  show execEnvelopeLowerEdge s = _
  unfold execEnvelopeLowerEdge
  rw [hto]
  exact congrArg Host.Outcome.next (if_pos hfit)

theorem envelopeLowerEdge_loads {s : State} {l : Nat} (hto : s.power.lowerTo = some l) (hfit : s.heldQ ≤ l) (mb : Fin 32) :
    ∃ t, exec .envelopeLowerEdge s = .next t ∧ t.power = { s.power with envelope := l, lowerTo := none } ∧ SameModule s t ∧ t.mem = s.mem
      ∧ t.recs = s.recs ∧ t.cores = s.cores
      ∧ ((s.mbox mb).cur = true → (s.mbox mb).begun = true → (s.req mb).opcode = 0x0801 → (s.mbox mb).discard = false →
        (s.mbox mb).behind = [] → Completed t mb (clampStatus 0 (s.mbox mb).clamps)) := by
  have hdone := foldl_finishEnvelope_completes (s := s.atEdge l) (mb := mb)
  obtain ⟨_, _, _, _, _, ht⟩ : Talk (s.atEdge l) ((List.range 32).foldl finishEnvelope (s.atEdge l)) :=
    Talk.foldl (fun _ i h => h.trans (finishEnvelope_talk _ i)) _ (.refl _)
  refine ⟨_, execEnvelopeLowerEdge_eq hto hfit, ?_⟩
  rw [ht] at hdone ⊢
  exact ⟨rfl, ⟨rfl, rfl, rfl, rfl, rfl, rfl, rfl, rfl, rfl, rfl, rfl, rfl, rfl⟩, rfl, rfl, rfl, hdone⟩

/-! ## `SET_SORUS_LIMIT` (R93, R300, R302) -/

theorem State.poolStopped_eq (s : State) : ∃ rs, s.poolStopped = { s with recs := rs } ∧ (s.pool ≠ 0 → rs = s.recs) := by
  unfold State.poolStopped
  split
  · next h => exact ⟨_, rfl, fun hne => absurd h hne⟩
  · exact ⟨_, rfl, fun _ => rfl⟩

theorem setSorusLimit_loads {s : State} {mb : Fin 32} (h : Admitted s mb 0x0803 .ownerPort 8 sorusLimitFields) :
    let r := s.req mb
    let a (i : Nat) : Nat := Nat.min 6 (bits r.img (0x80 + i) 3)
    ∃ t, exec (.setSorusLimit mb) s = .next t ∧ (t.mbox mb).st = .complete ∧ (t.mbox mb).lastStatus < 2
      ∧ t.power = { s.power with
          prio := BitVec.ofNat 32 (7 + a 4 * 2 ^ 4 + a 8 * 2 ^ 8 + a 12 * 2 ^ 12 + a 16 * 2 ^ 16)
          inbankBatch := Nat.min 8 (r.fld 0x14 8), tokenLimit := Nat.min 8192 (r.fld 0x16 16) }
      ∧ SameModule s t ∧ t.mem = s.mem ∧ t.cores = s.cores ∧ t.queues = s.queues
      ∧ (Nat.min s.bandFigure (Nat.min 8192 (r.fld 0x16 16)) ≠ 0 → t.recs = s.recs) := by
  intro r a
  obtain ⟨u, hu⟩ : ∃ u : State, u = { s with power := { s.power with
      prio := BitVec.ofNat 32 (7 + a 4 * 2 ^ 4 + a 8 * 2 ^ 8 + a 12 * 2 ^ 12 + a 16 * 2 ^ 16)
      inbankBatch := Nat.min 8 (r.fld 0x14 8), tokenLimit := Nat.min 8192 (r.fld 0x16 16) } } := ⟨_, rfl⟩
  obtain ⟨rs, hstopped, hrecs⟩ := u.poolStopped_eq
  have hmbox : u.poolStopped.mbox mb = s.mbox mb := by rw [hstopped, hu]; rfl
  obtain ⟨t, cl, hexec, hends⟩ : ∃ t cl, exec (.setSorusLimit mb) s = .next t ∧ Ends s u.poolStopped t mb (clampStatus 0 cl) 0 0 := by
    subst hu
    exact ⟨_, _, rfl, molian_done (len := fun _ => 8) (fs := fun _ => sorusLimitFields) h rfl hmbox⟩
  obtain ⟨hst, -, hlast, -⟩ := completed_of_ends hends
  refine ⟨t, hexec, hst, hlast ▸ clampStatus_lt_two _, ?_⟩
  obtain ⟨_, _, _, _, _, rfl⟩ := talk_of_ends hends
  rw [hstopped]
  subst hu
  exact ⟨rfl, ⟨rfl, rfl, rfl, rfl, rfl, rfl, rfl, rfl, rfl, rfl, rfl, rfl, rfl⟩, rfl, rfl, rfl, hrecs⟩

/-- Settles O20: an admitted `SET_ENVELOPE` ends in one of three ways; the edge completes what waits for it; a new pool of 0 alone stops
records. -/
theorem powerCommands : Obligations.PowerCommands := fun _ mb =>
  ⟨fun h => ⟨setEnvelope_fits h, setEnvelope_lowers h, setEnvelope_waits h⟩, fun _ hto hfit => envelopeLowerEdge_loads hto hfit mb,
    setSorusLimit_loads⟩

end Sys2Proof.Machine
end

section
/-! SUPPORT. A broadcast to two units of which the first takes the only token whose turn it is (R84, R86, R299). -/

namespace Sys2Proof.Machine

set_option Elab.async false

open Sys2Proof

/-- The module after reset, its memory zero. At the arbiter a request for a token waits, and behind it one of core 0 for its first
level; unit 1 serves context 256, and its pattern register holds 1. -/
def State.tokenThenCore : State :=
  { State.reset with
    mem := {}
    power := { waiting := [{ holder := .tokens, quanta := 1, since := 0 }, { holder := .core 0, quanta := 30, since := 0 }] }
    pairs := [(1, { lastCtx := some 256, unit := { pat := 1 } })] }

/-- R299: each of units 0 and 1 by itself is free to take a token there, and nothing waits for either. -/
theorem State.tokenThenCore_free : ∀ k ∈ (bcastUnits 0 1#2 3#16).filter (fun su => State.tokenThenCore.pcUp (su / 16)),
    State.tokenThenCore.tokenFree k = true ∧ State.tokenThenCore.unitPath k = true ∧ (State.tokenThenCore.pair k).rerun = none
      ∧ (State.tokenThenCore.pair k).ordQ = [] := by decide +kernel

/-- R86, R299: the token of unit 0 serves the one request for a token, the turn is then the core's, and the broadcast of an `SINI` writes no row
of unit 1. -/
theorem State.tokenThenCore_sbrd : ∃ t, exec (.sbrd 0 256 1#2 3#16 1 (.init 0)) State.tokenThenCore = .next t ∧ t.mem.data (rowCol 1 0 0) = 0 :=
  ⟨_, rfl, by decide +kernel⟩

/-- Refutes O40: of units that are each free to take a token, it has every one write its row, but at `State.tokenThenCore` the second unit
is left to wait for a token when the first has taken one. -/
theorem not_sorusBroadcast : ¬ Obligations.SorusBroadcast := by
  intro h
  obtain ⟨-, h⟩ := h State.tokenThenCore 0 256 1#2 3#16 1 (by decide) (by decide)
  obtain ⟨-, -, h⟩ := h (.inl rfl)
  have hidle : State.tokenThenCore.idleUnits (bcastUnits 0 3#2 0xFFFF#16) = true := by decide +kernel
  have hwaits : NoDisableWaits State.tokenThenCore := fun _ hbegun => absurd hbegun Bool.false_ne_true
  obtain ⟨hinit, -⟩ := h hidle State.tokenThenCore_free hwaits fun _ => rfl
  obtain ⟨t, ht, -, hwritten, -⟩ := hinit 0 (by decide +kernel)
  obtain ⟨t', ht', hdata⟩ := State.tokenThenCore_sbrd
  obtain rfl : t' = t := by
    rw [ht'] at ht
    exact Host.Outcome.next.inj ht
  have hone := hwritten 1 (by decide +kernel) 0 0 Nat.one_pos (by decide)
  rw [advanceRow_zero, hdata] at hone
  exact absurd hone (by decide +kernel)

end Sys2Proof.Machine
end

section
/-! SUPPORT. Folds that write tables element by element, and the elements of the operands of a core's operations (R114, R117): what a read of
an operand gives after a write. -/

namespace Sys2Proof.Machine

set_option Elab.async false

open Sys2Proof

/-! ## Folds -/

section
variable {α β γ : Type} {f : β → α → β} {R : β → γ} {v : γ} {l : List α}

/-- A read that each step of a fold leaves at a value, or leaves alone, stays at that value. -/
theorem foldl_read_stays (hl : ∀ y ∈ l, (∀ t, R (f t y) = v) ∨ ∀ t, R (f t y) = R t) {t : β} (ht : R t = v) : R (l.foldl f t) = v :=
  List.foldlRecOn (motive := fun t => R t = v) l f ht fun t ht y hy =>
    (hl y hy).elim (fun h => h t) fun h => (h t).trans ht

/-- A read that no step of a fold changes. -/
theorem foldl_read_same (hl : ∀ y ∈ l, ∀ t, R (f t y) = R t) (t : β) : R (l.foldl f t) = R t :=
  foldl_read_stays (fun y hy => .inr (hl y hy)) rfl

/-- A read that one step of a fold sets to a value, and the others leave there or leave alone, gives that value. -/
theorem foldl_read_set (hl : ∀ y ∈ l, (∀ t, R (f t y) = v) ∨ ∀ t, R (f t y) = R t) {x : α} (hx : x ∈ l) (hv : ∀ t, R (f t x) = v)
    (t : β) : R (l.foldl f t) = v := by
  obtain ⟨pre, post, rfl⟩ := List.append_of_mem hx
  rw [List.foldl_append, List.foldl_cons]
  exact foldl_read_stays (fun y hy => hl y (List.mem_append_right _ (List.mem_cons_of_mem _ hy))) (hv _)

end

section
variable {α β : Type} [DecidableEq β] {d : β} {key : α → Nat} {val : α → β} {l : List α} (m : Tbl β)

/-- An index that a fold of puts writes holds the value put, when every put there puts the same. -/
theorem Tbl.get_foldl_put_of_mem {x : α} (hx : x ∈ l) (h : ∀ y ∈ l, key y = key x → val y = val x) :
    Tbl.get d (l.foldl (fun t y => Tbl.put d t (key y) (val y)) m) (key x) = val x := by
  refine foldl_read_set (R := (Tbl.get d · (key x))) (fun y hy => ?_) hx (fun t => Tbl.get_put_same _ _ _ _) m
  by_cases hk : key y = key x
  · exact .inl fun t => by rw [← hk, Tbl.get_put_same, h y hy hk]
  · exact .inr fun t => Tbl.get_put_ne _ _ _ _ (Ne.symm hk)

/-- An index that no put of a fold writes stands. -/
theorem Tbl.get_foldl_put_of_ne {i : Nat} (h : ∀ y ∈ l, key y ≠ i) :
    Tbl.get d (l.foldl (fun t y => Tbl.put d t (key y) (val y)) m) i = Tbl.get d m i :=
  foldl_read_same (R := (Tbl.get d · i)) (fun y hy _ => Tbl.get_put_ne _ _ _ _ (h y hy).symm) m

end

/-! ## Bytes of a number -/

/-- Byte `i` of a number. -/
def byteNum (x i : Nat) : Byte := BitVec.ofNat 8 (x / 256 ^ i)

theorem getElem?_bytesOf (n x i : Nat) : (bytesOf n x)[i]? = if i < n then some (byteNum x i) else none := by
  induction n generalizing x i with
  | zero => rfl
  | succ n ih =>
    cases i with
    | zero => simp [bytesOf, byteNum]
    | succ i => simp [bytesOf, byteNum, ih, Nat.pow_succ', Nat.div_div_eq_div_mul]

theorem mem_zipIdx_bytesOf {n x : Nat} {y : Byte × Nat} : y ∈ (bytesOf n x).zipIdx ↔ y.2 < n ∧ y.1 = byteNum x y.2 := by
  rw [List.mem_zipIdx_iff_getElem?, getElem?_bytesOf]
  split <;> simp_all [eq_comm]

theorem natOf_byteNum (x n : Nat) : natOf ((List.range n).map (byteNum x)) = x % 256 ^ n := by
  induction n with
  | zero => simp [natOf, Nat.mod_one]
  | succ n ih =>
    rw [List.range_succ, List.map_append, List.map_singleton, natOf_append_singleton, ih, List.length_map, List.length_range, Nat.pow_succ,
      Nat.mod_mul]
    rfl

theorem natOf_lt (l : List Byte) : natOf l < 256 ^ l.length := by
  induction l with
  | nil => exact Nat.one_pos
  | cons b l ih =>
    have hb := b.isLt
    simp only [natOf, List.length_cons, Nat.pow_succ]
    omega

/-! ## Places of elements -/

/-- The bytes that elements of a width take, by their place. -/
def elemBytes (w : Nat) (es : List CElem) : List (Nat × Byte) :=
  (es.map fun x => (bytesOf w x.pat).zipIdx.map fun b => (w * x.e + b.2, b.1)).flatten

theorem mem_elemBytes {w : Nat} {es : List CElem} {y : Nat × Byte} :
    y ∈ elemBytes w es ↔ ∃ x ∈ es, ∃ i, i < w ∧ y = (w * x.e + i, byteNum x.pat i) := by
  simp only [elemBytes, List.mem_flatten, List.mem_map, exists_exists_and_eq_and, mem_zipIdx_bytesOf, Prod.exists]
  refine exists_congr fun x => and_congr_right fun _ => ⟨?_, ?_⟩
  · rintro ⟨b, i, ⟨hi, rfl⟩, rfl⟩
    exact ⟨i, hi, rfl⟩
  · rintro ⟨i, hi, rfl⟩
    exact ⟨_, i, ⟨hi, rfl⟩, rfl⟩

/-- R117: `n` elements of a lane type fit an operand. -/
def Fits (r : CoreRef) (l : Lane) (n : Nat) : Prop :=
  match r with
  | .vreg _ => regBytes l * n ≤ 1024
  | .mem _ => l ≠ .int4 ∧ regBytes l * n ≤ 2 ^ 22
  | _ => (l = .int32 ∨ l = .fp32) ∧ n ≤ 4096

@[simp] theorem regBytes_int32 : regBytes .int32 = 4 := rfl
@[simp] theorem regBytes_fp32 : regBytes .fp32 = 4 := rfl
@[simp] theorem regBytes_uint8 : regBytes .uint8 = 1 := rfl

/-- A lane of a run in core memory has the bytes that it has in a register; int4 alone is packed there (R62). -/
theorem fmtBits_eq_regBytes {l : Lane} (h : l ≠ .int4) : fmtBits (laneFmt l) / 8 = regBytes l ∧ laneFmt l ≠ 0 := by
  cases l with
  | int4 => exact absurd rfl h
  | _ => decide

/-- R114: a tile element holds the pattern of a lane of 32 bits. -/
theorem tilePat_toNat {l : Lane} (h : l = .int32 ∨ l = .fp32) (p : Nat) : (tilePat (laneFmt l) p).toNat = p % 256 ^ regBytes l := by
  rcases h with rfl | rfl
  · show (BitVec.ofInt 32 (toSigned 32 p)).toNat = p % 2 ^ 32
    rw [toSigned_eq_toInt, BitVec.ofInt_toInt, BitVec.toNat_ofNat]
  · exact BitVec.toNat_ofNat _ _

/-- Places below a bound differ by element and by byte. -/
theorem place_inj {w e e' i i' : Nat} (hi : i < w) (hi' : i' < w) (h : w * e + i = w * e' + i') : e = e' ∧ i = i' := by
  have hdiv := congrArg (· / w) h
  have hw : 0 < w := by omega
  simp only [Nat.mul_add_div hw, Nat.div_eq_of_lt hi, Nat.div_eq_of_lt hi', Nat.add_zero] at hdiv
  subst hdiv
  exact ⟨rfl, by omega⟩

theorem place_lt {w e i n : Nat} (he : e < n) (hi : i < w) : w * e + i < w * n :=
  calc w * e + i < w * (e + 1) := by rw [Nat.mul_succ]; omega
    _ ≤ w * n := Nat.mul_le_mul_left w he

/-- R116: addresses of core memory within its size of each other are its bytes one to one. -/
theorem cmAddr_inj {a i j : Nat} (hi : i < 2 ^ 22) (hj : j < 2 ^ 22) (h : cmAddr (a + i) = cmAddr (a + j)) : i = j := by
  simp only [cmAddr] at h
  omega

/-! ## What a write of an operand leaves alone -/

section
variable (c : Core) (l : Lane) (es : List CElem)

@[simp] theorem Core.writeRef_tile_cmem (t : Nat) : (c.writeRef (.tile t) l es).cmem = c.cmem := rfl
@[simp] theorem Core.writeRef_tile_accs (t : Nat) : (c.writeRef (.tile t) l es).accs = c.accs := rfl
@[simp] theorem Core.writeRef_tile_vregs (t : Nat) : (c.writeRef (.tile t) l es).vregs = c.vregs := rfl
@[simp] theorem Core.writeRef_mem_tiles (a : Nat) : (c.writeRef (.mem a) l es).tiles = c.tiles := rfl
@[simp] theorem Core.writeRef_mem_accs (a : Nat) : (c.writeRef (.mem a) l es).accs = c.accs := rfl
@[simp] theorem Core.writeRef_mem_vregs (a : Nat) : (c.writeRef (.mem a) l es).vregs = c.vregs := rfl
@[simp] theorem Core.writeRef_vreg_tiles (v : Nat) : (c.writeRef (.vreg v) l es).tiles = c.tiles := rfl
@[simp] theorem Core.writeRef_vreg_accs (v : Nat) : (c.writeRef (.vreg v) l es).accs = c.accs := rfl
@[simp] theorem Core.writeRef_vreg_cmem (v : Nat) : (c.writeRef (.vreg v) l es).cmem = c.cmem := rfl
@[simp] theorem Core.writeRef_svc (r : CoreRef) : (c.writeRef r l es).svc = c.svc := by cases r <;> rfl
@[simp] theorem Core.writeRef_level (r : CoreRef) : (c.writeRef r l es).level = c.level := by cases r <;> rfl
@[simp] theorem Core.writeRef_empty (r : CoreRef) : (c.writeRef r l es).empty = c.empty := by cases r <;> rfl

end

/-! ## Writes of operands -/

section
variable {c : Core} {l : Lane} {es : List CElem}

theorem writeRef_vregs (v : Nat) : (c.writeRef (.vreg v) l es).vregs
    = (elemBytes (regBytes l) es).foldl (fun t b => Tbl.put 0 t (1024 * (v % 32) + b.1) b.2) c.vregs := by
  simp only [Core.writeRef, elemBytes, List.foldl_flatten, List.foldl_map, Nat.add_assoc]

theorem writeRef_cmem (hl : l ≠ .int4) (a : Nat) : (c.writeRef (.mem a) l es).cmem
    = (elemBytes (regBytes l) es).foldl (fun t b => Tbl.put 0 t (cmAddr (a + b.1)) b.2) c.cmem := by
  obtain ⟨hw, h0⟩ := fmtBits_eq_regBytes hl
  simp only [Core.writeRef, Core.storeBytes, Core.runBytes, if_neg h0, hw, elemBytes, List.foldl_flatten, List.foldl_map, Nat.add_assoc]

theorem refElem_vreg (c : Core) (v : Nat) (l : Lane) (e : Nat) : c.refElem (.vreg v) l e
    = natOf ((List.range (regBytes l)).map fun i => Tbl.get 0 c.vregs (1024 * (v % 32) + (regBytes l * e + i))) := by
  simp only [Core.refElem, Nat.add_assoc]

theorem refElem_mem (c : Core) (hl : l ≠ .int4) (a e : Nat) : c.refElem (.mem a) l e
    = natOf ((List.range (regBytes l)).map fun i => Tbl.get 0 c.cmem (cmAddr (a + (regBytes l * e + i)))) := by
  obtain ⟨hw, h0⟩ := fmtBits_eq_regBytes hl
  simp only [Core.refElem, Core.memElem, if_neg h0, hw, Nat.add_assoc, Core.byteAt]

/-- What a table of bytes holds at the places of element `x.e` after elements are written to it: the bytes of its pattern. -/
theorem get_elemBytes_of_mem {key : Nat → Nat} {w n : Nat} (m : Tbl Byte)
    (hkey : ∀ p q, p < w * n → q < w * n → key p = key q → p = q) (hn : ∀ y ∈ es, y.e < n) {x : CElem} (hx : x ∈ es)
    (hone : ∀ y ∈ es, y.e = x.e → y.pat = x.pat) {i : Nat} (hi : i < w) :
    Tbl.get 0 ((elemBytes w es).foldl (fun t b => Tbl.put 0 t (key b.1) b.2) m) (key (w * x.e + i)) = byteNum x.pat i := by
  refine Tbl.get_foldl_put_of_mem (key := fun b : Nat × Byte => key b.1) (val := Prod.snd) m (mem_elemBytes.2 ⟨x, hx, i, hi, rfl⟩)
    fun b hb hk => ?_
  obtain ⟨y, hy, j, hj, rfl⟩ := mem_elemBytes.1 hb
  obtain ⟨he, rfl⟩ := place_inj hj hi (hkey _ _ (place_lt (hn y hy) hj) (place_lt (hn x hx) hi) hk)
  exact congrArg (byteNum · j) (hone y hy he)

theorem get_elemBytes_of_ne {key : Nat → Nat} {w a : Nat} (m : Tbl Byte) (h : ∀ y ∈ es, ∀ j, j < w → key (w * y.e + j) ≠ a) :
    Tbl.get 0 ((elemBytes w es).foldl (fun t b => Tbl.put 0 t (key b.1) b.2) m) a = Tbl.get 0 m a := by
  refine Tbl.get_foldl_put_of_ne (key := fun b : Nat × Byte => key b.1) (val := Prod.snd) m fun b hb => ?_
  obtain ⟨y, hy, j, hj, rfl⟩ := mem_elemBytes.1 hb
  exact h y hy j hj

theorem get_elemBytes_of_notMem {key : Nat → Nat} {w n : Nat} (m : Tbl Byte)
    (hkey : ∀ p q, p < w * n → q < w * n → key p = key q → p = q) (hn : ∀ y ∈ es, y.e < n) {e : Nat} (he : e < n)
    (hne : ∀ y ∈ es, y.e ≠ e) {i : Nat} (hi : i < w) :
    Tbl.get 0 ((elemBytes w es).foldl (fun t b => Tbl.put 0 t (key b.1) b.2) m) (key (w * e + i)) = Tbl.get 0 m (key (w * e + i)) :=
  get_elemBytes_of_ne m fun y hy _ hj hk =>
    hne y hy (place_inj hj hi (hkey _ _ (place_lt (hn y hy) hj) (place_lt he hi) hk)).1

/-- An operand reads back the pattern of an element that is written to it, to the width of its lanes. -/
theorem refElem_writeRef_of_mem {r : CoreRef} {n : Nat} (hfit : Fits r l n) (hn : ∀ y ∈ es, y.e < n) {x : CElem} (hx : x ∈ es)
    (hone : ∀ y ∈ es, y.e = x.e → y.pat = x.pat) : (c.writeRef r l es).refElem r l x.e = x.pat % 256 ^ regBytes l := by
  cases r with
  | vreg v =>
    rw [refElem_vreg, writeRef_vregs, ← natOf_byteNum]
    exact congrArg natOf (List.map_congr_left fun i hi =>
      get_elemBytes_of_mem (key := (1024 * (v % 32) + ·)) _ (fun _ _ _ _ => Nat.add_left_cancel) hn hx hone (List.mem_range.1 hi))
  | mem a =>
    obtain ⟨hl, hsize⟩ := hfit
    rw [refElem_mem _ hl, writeRef_cmem hl, ← natOf_byteNum]
    exact congrArg natOf (List.map_congr_left fun i hi =>
      get_elemBytes_of_mem (key := fun p => cmAddr (a + p)) _
        (fun p q hp hq => cmAddr_inj (Nat.lt_of_lt_of_le hp hsize) (Nat.lt_of_lt_of_le hq hsize)) hn hx hone (List.mem_range.1 hi))
  | tile t =>
    rw [← tilePat_toNat hfit.1]
    exact congrArg BitVec.toNat (Tbl.get_foldl_put_of_mem (key := fun y : CElem => 4096 * (t % 8) + y.e) _ hx fun y hy hk =>
      congrArg (tilePat _) (hone y hy (Nat.add_left_cancel hk)))
  | acc t =>
    rw [← tilePat_toNat hfit.1]
    exact congrArg BitVec.toNat (Tbl.get_foldl_put_of_mem (key := fun y : CElem => 4096 * (t % 32) + y.e) _ hx fun y hy hk =>
      congrArg (tilePat _) (hone y hy (Nat.add_left_cancel hk)))

/-- An element of an operand that is not written stands. -/
theorem refElem_writeRef_of_notMem {r : CoreRef} {n : Nat} (hfit : Fits r l n) (hn : ∀ y ∈ es, y.e < n) {e : Nat} (he : e < n)
    (hne : ∀ y ∈ es, y.e ≠ e) : (c.writeRef r l es).refElem r l e = c.refElem r l e := by
  cases r with
  | vreg v =>
    rw [refElem_vreg, writeRef_vregs, refElem_vreg]
    exact congrArg natOf (List.map_congr_left fun i hi =>
      get_elemBytes_of_notMem (key := (1024 * (v % 32) + ·)) _ (fun _ _ _ _ => Nat.add_left_cancel) hn he hne (List.mem_range.1 hi))
  | mem a =>
    obtain ⟨hl, hsize⟩ := hfit
    rw [refElem_mem _ hl, writeRef_cmem hl, refElem_mem _ hl]
    exact congrArg natOf (List.map_congr_left fun i hi =>
      get_elemBytes_of_notMem (key := fun p => cmAddr (a + p)) _
        (fun p q hp hq => cmAddr_inj (Nat.lt_of_lt_of_le hp hsize) (Nat.lt_of_lt_of_le hq hsize)) hn he hne (List.mem_range.1 hi))
  | tile t =>
    exact congrArg BitVec.toNat (Tbl.get_foldl_put_of_ne (key := fun y : CElem => 4096 * (t % 8) + y.e) _ fun y hy hk =>
      hne y hy (Nat.add_left_cancel hk))
  | acc t =>
    exact congrArg BitVec.toNat (Tbl.get_foldl_put_of_ne (key := fun y : CElem => 4096 * (t % 32) + y.e) _ fun y hy hk =>
      hne y hy (Nat.add_left_cancel hk))

/-- A byte of core memory outside the elements written stands. -/
theorem byteAt_writeRef_of_ne (hl : l ≠ .int4) {a b : Nat}
    (h : ∀ y ∈ es, ∀ j, j < regBytes l → cmAddr b ≠ cmAddr (a + (regBytes l * y.e + j))) :
    (c.writeRef (.mem a) l es).byteAt b = c.byteAt b := by
  unfold Core.byteAt
  rw [writeRef_cmem hl]
  exact get_elemBytes_of_ne (key := fun p => cmAddr (a + p)) _ fun y hy j hj => (h y hy j hj).symm

end

end Sys2Proof.Machine
end

section
/-! SUPPORT. The loads and stores of a core, with their poison (R117, R134). -/

namespace Sys2Proof.Machine

set_option Elab.async false

open Sys2Proof

/-! ## Operations that a core runs or holds (R117, R133) -/

/-- R235: a core that has run an operation at an instant. -/
def Core.ran (c : Core) (now : Nat) : Core := { c with lastOp := now }

section
variable (c : Core) (now : Nat)

@[simp] theorem Core.ran_refElem (r : CoreRef) (l : Lane) (e : Nat) : (c.ran now).refElem r l e = c.refElem r l e := by cases r <;> rfl
@[simp] theorem Core.ran_refBad (r : CoreRef) (l : Lane) (e : Nat) : (c.ran now).refBad r l e = c.refBad r l e := by cases r <;> rfl
@[simp] theorem Core.ran_byteAt (a : Nat) : (c.ran now).byteAt a = c.byteAt a := rfl
@[simp] theorem Core.ran_acc64 (t i j : Nat) : (c.ran now).acc64 t i j = c.acc64 t i j := rfl
@[simp] theorem Core.ran_tiles : (c.ran now).tiles = c.tiles := rfl
@[simp] theorem Core.ran_accs : (c.ran now).accs = c.accs := rfl
@[simp] theorem Core.ran_cmem : (c.ran now).cmem = c.cmem := rfl
@[simp] theorem Core.ran_vregs : (c.ran now).vregs = c.vregs := rfl
@[simp] theorem Core.ran_vregPoison : (c.ran now).vregPoison = c.vregPoison := rfl

end

/-- R133: a core at a grant level runs what it is sent. -/
theorem onCore_of_runs {s : State} {c : Fin 64} (h : (s.core c).runs = true) (i : Instr) :
    onCore c i s = .next (s.setCore c (((s.core c).perform i).ran s.time.now)) := congrArg Host.Outcome.next (if_pos h)

/-- R133: a core at level 0 holds what it is sent; one out of service takes nothing. -/
theorem onCore_of_not_runs {s : State} {c : Fin 64} (h : (s.core c).runs = false) (i : Instr) :
    onCore c i s = .next (if (s.core c).works = true then s.setCore c { s.core c with waiting := (s.core c).waiting ++ [i] } else s) :=
  congrArg Host.Outcome.next (if_neg (Bool.eq_false_iff.1 h))

/-! ## Poison of the parts of an operand (R134) -/

theorem mem_dedup {α : Type} [DecidableEq α] {l : List α} {a : α} : a ∈ dedup l ↔ a ∈ l := by
  have key : ∀ (l acc : List α), a ∈ l.foldl (fun acc x => if x ∈ acc then acc else x :: acc) acc ↔ a ∈ l ∨ a ∈ acc := by
    intro l
    induction l with
    | nil => simp
    | cons b l ih =>
      intro acc
      rw [List.foldl_cons, ih]
      split
      · next hb => exact ⟨fun h => h.imp_left (List.mem_cons_of_mem _), fun h => by
          rcases h with h | h
          · rcases List.mem_cons.1 h with rfl | h
            · exact .inr hb
            · exact .inl h
          · exact .inr h⟩
      · simp only [List.mem_cons]
        tauto
  rw [dedup, List.mem_reverse, key]
  simp

/-- A part that is written whole is poisoned when one of the elements written to it is. -/
theorem get_partPoison_of_full (p : Tbl Bool) {part : Nat → Nat} {size : Nat → Nat} {es : List CElem} {k : Nat}
    (hk : ∃ x ∈ es, part x.e = k) (hfull : size k ≤ (es.filter fun x => part x.e == k).length) :
    Tbl.get false (partPoison p part size es) k = true ↔ ∃ x ∈ es, part x.e = k ∧ x.poison = true := by
  have hmem : k ∈ dedup (es.map fun x => part x.e) := mem_dedup.2 (List.mem_map.2 hk)
  have hget := Tbl.get_foldl_put_of_mem (d := false) (key := id) (val := fun k =>
    (decide ((es.filter fun x => part x.e == k).length < size k) && Tbl.get false p k) || (es.filter fun x => part x.e == k).any (·.poison))
    p hmem fun y _ (hy : y = k) => by rw [hy]
  refine (Bool.eq_iff_iff.1 hget).trans ?_
  simp only [Nat.not_lt.2 hfull, decide_false, Bool.false_and, Bool.false_or, List.any_eq_true, List.mem_filter, beq_iff_eq, and_assoc]

/-! ## Loads and stores (R117) -/

/-- The element of a number, as a move takes it from its source. -/
def movedElem (c : Core) (src : CoreRef) (l : Lane) (e : Nat) : CElem := { e, pat := c.refElem src l e, poison := c.refBad src l e }

/-- The elements of a move. -/
def moved (c : Core) (src : CoreRef) (l : Lane) (n : Nat) : List CElem := (List.range n).map (movedElem c src l)

theorem Core.tload_eq (c : Core) (t a : Nat) : c.tload t a = c.writeRef (.tile t) .int32 (moved c (.mem a) .int32 4096) := rfl
theorem Core.tstore_eq (c : Core) (t a : Nat) : c.tstore t a = c.writeRef (.mem a) .int32 (moved c (.tile t) .int32 4096) := rfl
theorem Core.vload_eq (c : Core) (v a : Nat) : c.vload v a = c.writeRef (.vreg v) .uint8 (moved c (.mem a) .uint8 1024) := rfl
theorem Core.vstore_eq (c : Core) (v a : Nat) : c.vstore v a = c.writeRef (.mem a) .uint8 (moved c (.vreg v) .uint8 1024) := rfl

theorem mem_moved {c : Core} {src : CoreRef} {l : Lane} {n : Nat} {x : CElem} :
    x ∈ moved c src l n ↔ x.e < n ∧ movedElem c src l x.e = x := by
  simp only [moved, List.mem_map, List.mem_range]
  exact ⟨fun ⟨e, he, hx⟩ => by subst hx; exact ⟨he, rfl⟩, fun ⟨he, hx⟩ => ⟨x.e, he, hx⟩⟩

theorem movedElem_mem {n e : Nat} (he : e < n) (c : Core) (src : CoreRef) (l : Lane) : movedElem c src l e ∈ moved c src l n :=
  mem_moved.2 ⟨he, rfl⟩

/-- An operand reads back the elements that are moved to it, to the width of its lanes. -/
theorem refElem_moved {c : Core} {src dst : CoreRef} {l : Lane} {n : Nat} (hfit : Fits dst l n) {e : Nat} (he : e < n) :
    (c.writeRef dst l (moved c src l n)).refElem dst l e = c.refElem src l e % 256 ^ regBytes l :=
  refElem_writeRef_of_mem hfit (fun _ hy => (mem_moved.1 hy).1) (movedElem_mem he c src l) fun y hy hye => by
    rw [← (mem_moved.1 hy).2, hye]
    rfl

/-- What a run of lanes in core memory or a register holds, to the width of its lanes. -/
theorem refElem_lt {c : Core} {r : CoreRef} {l : Lane} {n : Nat} (hfit : Fits r l n) (e : Nat) : c.refElem r l e < 256 ^ regBytes l := by
  have hbytes : ∀ f : Nat → Byte, natOf ((List.range (regBytes l)).map f) < 256 ^ regBytes l := fun f => by
    have h := natOf_lt ((List.range (regBytes l)).map f)
    rwa [List.length_map, List.length_range] at h
  have hword : ∀ w : Word32, (l = .int32 ∨ l = .fp32) → w.toNat < 256 ^ regBytes l := fun w hl => by
    rcases hl with rfl | rfl <;> exact w.isLt
  cases r with
  | vreg v => exact hbytes _
  | mem a =>
    rw [refElem_mem c hfit.1]
    exact hbytes _
  | tile t => exact hword _ hfit.1
  | acc t => exact hword _ hfit.1

/-- R117: a move between operands that both hold its elements copies them. -/
theorem refElem_move {c : Core} {src dst : CoreRef} {l : Lane} {n : Nat} (hsrc : Fits src l n) (hdst : Fits dst l n) {e : Nat} (he : e < n) :
    (c.writeRef dst l (moved c src l n)).refElem dst l e = c.refElem src l e :=
  (refElem_moved hdst he).trans (Nat.mod_eq_of_lt (refElem_lt hsrc e))

theorem fits_tile (t : Nat) : Fits (.tile t) .int32 4096 := ⟨.inl rfl, le_rfl⟩
theorem fits_mem_tile (a : Nat) : Fits (.mem a) .int32 4096 := ⟨nofun, by decide⟩
theorem fits_vreg (v : Nat) : Fits (.vreg v) .uint8 1024 := le_rfl
theorem fits_mem_vreg (a : Nat) : Fits (.mem a) .uint8 1024 := ⟨nofun, by decide⟩

theorem refElem_mem_uint8 (c : Core) (a e : Nat) : c.refElem (.mem a) .uint8 e = (c.byteAt (a + e)).toNat := by
  rw [refElem_mem c (by decide)]
  show natOf [Tbl.get 0 c.cmem (cmAddr (a + (1 * e + 0)))] = _
  simp [natOf, Core.byteAt]

theorem refElem_vreg_uint8 (c : Core) (v e : Nat) : c.refElem (.vreg v) .uint8 e = (Tbl.get 0 c.vregs (1024 * (v % 32) + e)).toNat := by
  rw [refElem_vreg]
  show natOf [Tbl.get 0 c.vregs (1024 * (v % 32) + (1 * e + 0))] = _
  simp [natOf]

theorem refBad_mem_uint8 (c : Core) (a e : Nat) : c.refBad (.mem a) .uint8 e = c.lineBad (a + e) := by
  show ([0].any fun i => c.lineBad (a + 1 * e + i)) = _
  simp

theorem refBad_tile (c : Core) (t : Nat) (l : Lane) (e : Nat) : c.refBad (.tile t) l e = Tbl.get false c.tilePoison (64 * (t % 8) + e / 64) := rfl

theorem tilePoison_writeRef (c : Core) (t : Nat) (l : Lane) (es : List CElem) : (c.writeRef (.tile t) l es).tilePoison
    = partPoison c.tilePoison (fun e => 64 * (t % 8) + e / 64) (fun _ => 64) es := rfl

theorem vregPoison_writeRef (c : Core) (v : Nat) (l : Lane) (es : List CElem) : (c.writeRef (.vreg v) l es).vregPoison
    = partPoison c.vregPoison (fun _ => v % 32) (fun _ => 1024 / regBytes l) es := rfl

/-- The elements of a row of a tile, by column. -/
theorem tileRow_elem {e j : Nat} (he : e < 4096) (hj : j < 64) : 64 * (e / 64) + j < 4096 ∧ (64 * (e / 64) + j) / 64 = e / 64 := by omega

/-- A move of a tile moves 64 elements of each row. -/
theorem moved_row_full (c : Core) (src : CoreRef) (t : Nat) {e : Nat} (he : e < 4096) :
    64 ≤ ((moved c src .int32 4096).filter fun y => 64 * (t % 8) + y.e / 64 == 64 * (t % 8) + e / 64).length := by
  have hsub : (List.range 64).map (fun j => movedElem c src .int32 (64 * (e / 64) + j))
      ⊆ (moved c src .int32 4096).filter fun y => 64 * (t % 8) + y.e / 64 == 64 * (t % 8) + e / 64 := fun y hy => by
    obtain ⟨j, hj, rfl⟩ := List.mem_map.1 hy
    obtain ⟨hlt, hrow⟩ := tileRow_elem he (List.mem_range.1 hj)
    exact List.mem_filter.2 ⟨movedElem_mem hlt _ _ _, beq_iff_eq.2 (congrArg _ hrow)⟩
  have hnodup : ((List.range 64).map fun j => movedElem c src .int32 (64 * (e / 64) + j)).Nodup :=
    List.nodup_range.map fun i j h => Nat.add_left_cancel (congrArg CElem.e h)
  have hlen := (List.subperm_of_subset hnodup hsub).length_le
  rwa [List.length_map, List.length_range] at hlen

/-- R134: a row of a tile that is loaded is poisoned when an element loaded to it is. -/
theorem tload_refBad (c : Core) (t a : Nat) {e : Nat} (he : e < 4096) : (c.tload t a).refBad (.tile t) .int32 e = true
    ↔ ∃ j, j < 64 ∧ c.refBad (.mem a) .int32 (64 * (e / 64) + j) = true := by
  have hpart := get_partPoison_of_full c.tilePoison (part := fun e => 64 * (t % 8) + e / 64) (size := fun _ => 64)
    (k := 64 * (t % 8) + e / 64) ⟨_, movedElem_mem he c (.mem a) .int32, rfl⟩ (moved_row_full c _ t he)
  rw [Core.tload_eq, refBad_tile, tilePoison_writeRef]
  refine hpart.trans ⟨?_, ?_⟩
  · rintro ⟨y, hy, hrow, hbad⟩
    rw [← (mem_moved.1 hy).2] at hbad
    have hye : y.e / 64 = e / 64 := Nat.add_left_cancel hrow
    refine ⟨y.e % 64, Nat.mod_lt _ (by decide), ?_⟩
    rwa [← hye, Nat.div_add_mod]
  · rintro ⟨j, hj, hbad⟩
    obtain ⟨hlt, hrow⟩ := tileRow_elem he hj
    exact ⟨_, movedElem_mem hlt c (.mem a) .int32, congrArg _ hrow, hbad⟩

/-- R134: a vector register that is loaded is poisoned when a byte loaded to it is. -/
theorem vload_poison (c : Core) (v a : Nat) : Tbl.get false (c.vload v a).vregPoison (v % 32) = true
    ↔ ∃ e, e < 1024 ∧ c.lineBad (a + e) = true := by
  have hfull : 1024 / regBytes .uint8 ≤ ((moved c (.mem a) .uint8 1024).filter fun _ => v % 32 == v % 32).length := by
    rw [List.filter_eq_self.2 fun _ _ => beq_self_eq_true _, moved, List.length_map, List.length_range]
    exact Nat.div_le_self _ _
  have hpart := get_partPoison_of_full c.vregPoison (part := fun _ => v % 32) (size := fun _ => 1024 / regBytes .uint8)
    (k := v % 32) ⟨_, movedElem_mem (by decide : 0 < 1024) c (.mem a) .uint8, rfl⟩ hfull
  rw [Core.vload_eq, vregPoison_writeRef]
  refine hpart.trans ⟨?_, ?_⟩
  · rintro ⟨y, hy, -, hbad⟩
    obtain ⟨he, hy⟩ := mem_moved.1 hy
    rw [← hy] at hbad
    exact ⟨y.e, he, (refBad_mem_uint8 c a y.e).symm.trans hbad⟩
  · rintro ⟨e, he, hbad⟩
    exact ⟨_, movedElem_mem he c (.mem a) .uint8, rfl, (refBad_mem_uint8 c a e).trans hbad⟩

/-- A byte of core memory outside a run that is stored stands. -/
theorem byteAt_stored_of_ne {c : Core} {src : CoreRef} {l : Lane} {n a b : Nat} (hl : l ≠ .int4)
    (h : ∀ i, i < regBytes l * n → cmAddr b ≠ cmAddr (a + i)) : (c.writeRef (.mem a) l (moved c src l n)).byteAt b = c.byteAt b :=
  byteAt_writeRef_of_ne hl fun _ hy _ hj => h _ (place_lt (mem_moved.1 hy).1 hj)

section
variable {s : State} {c : Fin 64} (h : (s.core c).runs = true) (n a : Nat)
include h

/-- R117, R134: `TLOAD`. -/
theorem exec_tload_of_runs : ∃ k, exec (.tload c n a) s = .next (s.setCore c k) ∧ k.cmem = (s.core c).cmem ∧ k.accs = (s.core c).accs
    ∧ k.vregs = (s.core c).vregs ∧ ∀ e, e < 4096 → k.refElem (.tile n) .int32 e = (s.core c).refElem (.mem a) .int32 e
      ∧ (k.refBad (.tile n) .int32 e = true ↔ ∃ j, j < 64 ∧ (s.core c).refBad (.mem a) .int32 (64 * (e / 64) + j) = true) := by
  refine ⟨((s.core c).tload n a).ran s.time.now, onCore_of_runs h (.tload c n a), by rw [Core.ran_cmem, Core.tload_eq, Core.writeRef_tile_cmem],
    by rw [Core.ran_accs, Core.tload_eq, Core.writeRef_tile_accs],
    by rw [Core.ran_vregs, Core.tload_eq, Core.writeRef_tile_vregs], fun e he => ?_⟩
  rw [Core.ran_refElem, Core.ran_refBad]
  refine ⟨?_, tload_refBad _ n a he⟩
  rw [Core.tload_eq]
  exact refElem_move (fits_mem_tile a) (fits_tile n) he

/-- R117: `TSTORE`. -/
theorem exec_tstore_of_runs : ∃ k, exec (.tstore c n a) s = .next (s.setCore c k) ∧ k.tiles = (s.core c).tiles ∧ k.accs = (s.core c).accs
    ∧ k.vregs = (s.core c).vregs ∧ (∀ e, e < 4096 → k.refElem (.mem a) .int32 e = (s.core c).refElem (.tile n) .int32 e)
    ∧ ∀ b, (∀ i, i < 16384 → cmAddr b ≠ cmAddr (a + i)) → k.byteAt b = (s.core c).byteAt b := by
  refine ⟨((s.core c).tstore n a).ran s.time.now, onCore_of_runs h (.tstore c n a), by rw [Core.ran_tiles, Core.tstore_eq, Core.writeRef_mem_tiles],
    by rw [Core.ran_accs, Core.tstore_eq, Core.writeRef_mem_accs],
    by rw [Core.ran_vregs, Core.tstore_eq, Core.writeRef_mem_vregs], fun e he => ?_, fun b hb => ?_⟩
  · rw [Core.ran_refElem, Core.tstore_eq]
    exact refElem_move (fits_tile n) (fits_mem_tile a) he
  · rw [Core.ran_byteAt, Core.tstore_eq]
    exact byteAt_stored_of_ne (by decide) fun i hi => hb i (by simpa using hi)

/-- R117, R134: `VLOAD`. -/
theorem exec_vload_of_runs : ∃ k, exec (.vload c n a) s = .next (s.setCore c k) ∧ k.cmem = (s.core c).cmem ∧ k.accs = (s.core c).accs
    ∧ k.tiles = (s.core c).tiles ∧ (∀ e, e < 1024 → k.refElem (.vreg n) .uint8 e = ((s.core c).byteAt (a + e)).toNat)
    ∧ (Tbl.get false k.vregPoison (n % 32) = true ↔ ∃ e, e < 1024 ∧ (s.core c).lineBad (a + e) = true) := by
  refine ⟨((s.core c).vload n a).ran s.time.now, onCore_of_runs h (.vload c n a), by rw [Core.ran_cmem, Core.vload_eq, Core.writeRef_vreg_cmem],
    by rw [Core.ran_accs, Core.vload_eq, Core.writeRef_vreg_accs],
    by rw [Core.ran_tiles, Core.vload_eq, Core.writeRef_vreg_tiles], fun e he => ?_, ?_⟩
  · rw [Core.ran_refElem, Core.vload_eq, ← refElem_mem_uint8]
    exact refElem_move (fits_mem_vreg a) (fits_vreg n) he
  · rw [Core.ran_vregPoison]
    exact vload_poison _ n a

/-- R117: `VSTORE`. -/
theorem exec_vstore_of_runs : ∃ k, exec (.vstore c n a) s = .next (s.setCore c k) ∧ k.tiles = (s.core c).tiles ∧ k.accs = (s.core c).accs
    ∧ k.vregs = (s.core c).vregs ∧ (∀ e, e < 1024 → k.byteAt (a + e) = Tbl.get 0 (s.core c).vregs (1024 * (n % 32) + e))
    ∧ ∀ b, (∀ i, i < 1024 → cmAddr b ≠ cmAddr (a + i)) → k.byteAt b = (s.core c).byteAt b := by
  refine ⟨((s.core c).vstore n a).ran s.time.now, onCore_of_runs h (.vstore c n a), by rw [Core.ran_tiles, Core.vstore_eq, Core.writeRef_mem_tiles],
    by rw [Core.ran_accs, Core.vstore_eq, Core.writeRef_mem_accs],
    by rw [Core.ran_vregs, Core.vstore_eq, Core.writeRef_mem_vregs], fun e he => BitVec.eq_of_toNat_eq ?_, fun b hb => ?_⟩
  · rw [Core.ran_byteAt, Core.vstore_eq, ← refElem_mem_uint8, ← refElem_vreg_uint8]
    exact refElem_move (fits_vreg n) (fits_mem_vreg a) he
  · rw [Core.ran_byteAt, Core.vstore_eq]
    exact byteAt_stored_of_ne (by decide) fun i hi => hb i (by simpa using hi)

end

end Sys2Proof.Machine
end

section
/-! SUPPORT. Faults of a core (R135): what the error log keeps, and that a fenced core stays out of service at level 0 while requests that wait
complete. -/

namespace Sys2Proof.Machine

set_option Elab.async false

open Sys2Proof

/-! ## The logs (R282, R364) -/

/-- R282, R283: the newest entry of the error log is the error's own, or an identical one that counts it; the log holds 16,384 entries. -/
theorem State.err_head (s : State) (kind dpa byte requester unit : Nat) :
    (∃ e, (s.err kind dpa byte requester unit).integ.log.head? = some e ∧ e.kind = kind ∧ e.unit = unit)
      ∧ (s.err kind dpa byte requester unit).integ.log.length ≤ Nat.max 16384 s.integ.log.length := by
  unfold State.err
  dsimp only
  split
  · next e r hlog =>
    split
    · next hsame =>
      obtain ⟨-, hkind, hunit, -⟩ := hsame
      exact ⟨⟨_, rfl, hkind, hunit⟩, hlog ▸ Nat.le_max_right _ _⟩
    · exact ⟨⟨_, rfl, rfl, rfl⟩, Nat.le_trans (List.length_take_le _ _) (Nat.le_max_left _ _)⟩
  · exact ⟨⟨_, rfl, rfl, rfl⟩, Nat.le_trans (by decide : 1 ≤ 16384) (Nat.le_max_left _ _)⟩

/-- R364: the event log keeps a new entry that is no continuation. -/
theorem mem_trimEv_cons {e : EvEntry} (he : e.isCont = false) (l : List EvEntry) : e ∈ trimEv (e :: l) := by
  unfold trimEv
  split
  · exact List.mem_cons_self
  · have hmem : e ∈ ((e :: l).take 16384).reverse := List.mem_reverse.2 List.mem_cons_self
    rw [← List.takeWhile_append_dropWhile (p := (·.isCont)) (l := ((e :: l).take 16384).reverse)] at hmem
    refine List.mem_reverse.2 ((List.mem_append.1 hmem).resolve_left fun h => ?_)
    exact Bool.false_ne_true (he.symm.trans (List.mem_takeWhile_imp h))

/-- R362, R364: an event is in the event log. -/
theorem State.ev_logged (s : State) (kind status unit a b c d e : Nat) :
    ∃ x ∈ (s.ev kind status unit a b c d e).evlog.log, x.kind = kind ∧ x.status = status ∧ x.unit = unit := by
  let x : EvEntry := { seq := s.evlog.nextSeq, time := s.time.now, kind, status, unit, d0 := a, d1 := b, d2 := c, d3 := d, d4 := e }
  have hlog : (s.ev kind status unit a b c d e).evlog.log = trimEv (x :: s.evlog.log) :=
    List.foldlRecOn (motive := fun t : State => t.evlog.log = trimEv (x :: s.evlog.log)) _ _ rfl fun t ht p _ => by
      split
      · exact ht
      · rw [State.evlog_msix, ht]
  exact ⟨x, hlog ▸ mem_trimEv_cons rfl _, rfl, rfl, rfl⟩

/-! ## Cores that are out of service (R135, R306, R340) -/

/-- A core is fenced or disabled, at level 0. -/
structure CoreOut (c : Nat) (t : State) : Prop where
  svc : (t.core c).svc = .fenced ∨ (t.core c).svc = .disabled
  level : (t.core c).level = 0

namespace CoreOut
variable {c : Nat} {t u : State}

theorem cores (h : CoreOut c t) (hu : u.cores = t.cores) : CoreOut c u := by
  have hcore : u.core c = t.core c := congrArg (Tbl.get ({} : Core) · c) hu
  exact ⟨hcore.symm ▸ h.svc, hcore.symm ▸ h.level⟩

theorem ite {b : Prop} [Decidable b] {x y : State} (hx : CoreOut c x) (hy : CoreOut c y) : CoreOut c (if b then x else y) := by
  split <;> assumption

theorem foldl {α : Type} {f : State → α → State} (hf : ∀ t x, CoreOut c t → CoreOut c (f t x)) (l : List α) (h : CoreOut c t) :
    CoreOut c (l.foldl f t) :=
  List.foldlRecOn (motive := CoreOut c) l f h fun t ht x _ => hf t x ht

theorem talk (h : CoreOut c t) (k : Talk t u) : CoreOut c u := by
  obtain ⟨_, _, _, _, _, rfl⟩ := k
  exact h.cores rfl

theorem banks (h : CoreOut c t) (k : AtBanks t u) : CoreOut c u := by
  obtain ⟨_, _, _, _, _, _, _, _, _, _, _, rfl⟩ := k
  exact h.cores rfl

/-- A core whose service state is kept and whose level does not rise. -/
theorem setCore (h : CoreOut c t) (i : Nat) (v : Core) (hsvc : v.svc = (t.core i).svc ∨ v.svc = .disabled) (hlevel : v.level ≤ (t.core i).level) :
    CoreOut c (t.setCore i v) := by
  obtain ⟨hout, hzero⟩ := h
  by_cases hi : c = i
  · subst hi
    have hcore := State.core_setCore t c v
    refine ⟨?_, ?_⟩
    · rw [hcore]
      exact hsvc.elim (fun hsame => hsame.symm ▸ hout) .inr
    · rw [hcore]
      omega
  · have hcore := State.core_setCore_ne t i v hi
    exact ⟨hcore.symm ▸ hout, hcore.symm ▸ hzero⟩

theorem setPower (h : CoreOut c t) (p : Power) : CoreOut c { t with power := p } := h.cores rfl

theorem lower (h : CoreOut c t) (x : Holder) (n : Nat) : CoreOut c (t.lower x n) := by
  cases x with
  | core i => exact (h.setPower _).setCore i { t.core i with level := (t.core i).level - n } (.inl rfl) (Nat.sub_le _ _)
  | _ => exact h.cores rfl

theorem dropAsked (h : CoreOut c t) (x : Holder) : CoreOut c (t.dropAsked x) := h.cores rfl
theorem endLien (h : CoreOut c t) (i : Nat) : CoreOut c (t.endLien i) := h.cores rfl
theorem setRPort (h : CoreOut c t) (n : Nat) (v : RPort) : CoreOut c (t.setRPort n v) := h.cores rfl
theorem setHCore (h : CoreOut c t) (n : Nat) (v : HCore) : CoreOut c (t.setHCore n v) := h.cores rfl
theorem setCtx (h : CoreOut c t) (x : Nat) (v : Ctx) : CoreOut c (t.setCtx x v) := h.cores rfl
theorem setQueue (h : CoreOut c t) (q : Nat) (v : Queue) : CoreOut c (t.setQueue q v) := h.cores rfl
theorem setChan (h : CoreOut c t) (ch : Nat) (v : Chan) : CoreOut c (t.setChan ch v) := h.cores rfl
theorem touch (h : CoreOut c t) (x : Nat) : CoreOut c (t.touch x) := h.cores rfl
theorem abandonFrond (h : CoreOut c t) (f : Nat) (engines : Bool) : CoreOut c (t.abandonFrond f engines) := h.cores rfl
theorem abandonUnits (h : CoreOut c t) (f : Nat → Bool) (code unit : Nat) : CoreOut c (t.abandonUnits f code unit) := h.cores rfl
theorem streamWrite (h : CoreOut c t) (r : Req) : CoreOut c (t.streamWrite r).1 := h.cores rfl

theorem ev (h : CoreOut c t) (k st u a b d e f : Nat) : CoreOut c (t.ev k st u a b d e f) := h.talk ((Talk.refl t).ev _ _ _ _ _ _ _ _)

theorem returnLevel (h : CoreOut c t) (i : Nat) : CoreOut c (t.returnLevel i) :=
  (((h.endLien _).lower _ _).dropAsked _).setCore _ _ (.inl rfl) le_rfl

theorem returnStack (h : CoreOut c t) (st : Nat) : CoreOut c (t.returnStack st) := ite h ((h.lower _ _).dropAsked _)

theorem channelOut (h : CoreOut c t) (ch : Nat) (svc : Svc) (code : Nat) : CoreOut c (t.channelOut ch svc code) :=
  have hreturned := ((h.setChan ch _).abandonUnits _ _ _).banks (.foldl (fun _ _ h => h.returnToken _) _ (.refl _))
  (hreturned.banks (.foldl (fun _ _ h => (h.setPair _ _).serveNow _) _ (.refl _))).returnStack _

theorem portLeave (h : CoreOut c t) (n : Nat) : CoreOut c (t.portLeave n) :=
  have hdown : CoreOut c (t.rportDown n) := ((h.setRPort _ _).lower _ _).dropAsked _
  ite (ite hdown (hdown.ev _ _ _ _ _ _ _ _)) hdown

theorem unitOut (h : CoreOut c t) (u code : Nat) : CoreOut c (t.unitOut u code) := by
  unfold State.unitOut
  dsimp only
  split
  · have hcore := (h.setCore (bits u 0 28) { t.core (bits u 0 28) with svc := .disabled } (.inr rfl) le_rfl).returnLevel (bits u 0 28)
    exact ite hcore (hcore.abandonFrond _ _)
  · exact h.setHCore _ _
  · exact (h.portLeave _).setRPort _ _
  · exact foldl (fun _ _ h => ite h (h.channelOut _ _ _)) _ h

theorem reply (h : CoreOut c t) (mb : Fin 32) (st bl b : Nat) (cl : List Clamp) : CoreOut c (t.reply mb st bl b cl) :=
  h.talk ((Talk.refl t).reply _ _ _ _ _)

theorem pauseWait (h : CoreOut c t) (q : Nat) : CoreOut c (t.pauseWait q) := by
  unfold State.pauseWait
  dsimp only
  split
  · exact h.setQueue _ _
  · exact h

theorem stopCores (h : CoreOut c t) (x : Nat) : CoreOut c (t.stopCores x) := foldl (fun _ _ h => ite (h.setHCore _ _) h) _ h

theorem suspended (h : CoreOut c t) (x : Nat) : CoreOut c (t.suspended x) :=
  have hpaused : CoreOut c (t.pauseWaits x) := foldl (fun _ _ h => h.pauseWait _) _ h
  ((hpaused.touch x).setCtx _ _).stopCores x

theorem settleUnit (h : CoreOut c t) (i : Nat) : CoreOut c (settleUnit t i) :=
  ite (((h.unitOut _ _).ev _ _ _ _ _ _ _ _).reply _ _ _ _ _) h

theorem settleMb (h : CoreOut c t) (i : Nat) : CoreOut c (settleMb t i) := by
  refine ite h ?_
  split
  · exact ite ((h.suspended _).reply _ _ _ _ _) h
  · exact ite (((h.setQueue _ _).touch _).reply _ _ _ _ _) h
  · exact ite h (ite (h.reply _ _ _ _ _) ((h.streamWrite _).reply _ _ _ _ _))
  · exact h.settleUnit _
  · exact h

theorem settle (h : CoreOut c t) : CoreOut c t.settle := foldl (fun _ _ h => h.settleMb _) _ h

end CoreOut

/-! ## Fencing (R135, R151, R306) -/

/-- R306: a core whose level returns is at level 0, in its service state. -/
theorem State.core_returnLevel (s : State) (c : Fin 64) : ((s.returnLevel c).core c).svc = (s.core c).svc ∧ ((s.returnLevel c).core c).level = 0 := by
  have hc : Fin.ofNat 64 c.val = c := Fin.ofNat_val_eq_self c
  have hcore : (s.returnLevel c).core c = { s.core c with level := (s.core c).level - (s.core c).level, lentLevel := none } := by
    unfold State.returnLevel
    rw [hc]
    refine (State.core_setCore _ _ _).trans ?_
    exact congrArg (fun k : Core => { k with lentLevel := none }) (State.core_setCore _ _ _)
  rw [hcore]
  exact ⟨rfl, Nat.sub_self _⟩

/-- A core that is fenced, before its level returns. -/
theorem CoreOut.of_fenced {s : State} {c : Fin 64} (h : (s.core c).svc = .fenced) : CoreOut c (s.returnLevel c) := by
  obtain ⟨hsvc, hlevel⟩ := s.core_returnLevel c
  exact ⟨.inl (hsvc.trans h), hlevel⟩

theorem State.mboxes_fenceCore (s : State) (c status : Nat) : (s.fenceCore c status).mboxes = s.mboxes := by
  have hwork := ((Work.refl s).fenceCore c status).1
  simp only [frozen, Prod.mk.injEq] at hwork
  obtain ⟨-, -, -, -, -, -, -, hmboxes, -⟩ := hwork
  exact hmboxes

/-- R135: a fenced core is out of service at level 0, and the event log says so. -/
theorem State.fenceCore_out (s : State) (c : Fin 64) (status : Nat) : CoreOut c (s.fenceCore c status)
    ∧ ∃ e ∈ (s.fenceCore c status).evlog.log, e.kind = 0x0A ∧ e.status = status ∧ e.unit = unitId 7 c := by
  let returned := ((s.setCore c { s.core c with svc := .fenced }).reissueAll (.core (Fin.ofNat 64 c)) false).returnLevel c
  have hout : CoreOut c (returned.ev 0x0A status (unitId 7 c) 1) :=
    (CoreOut.of_fenced (congrArg Core.svc (State.core_setCore s c _))).ev _ _ _ _ _ _ _ _
  have hlog := returned.ev_logged 0x0A status (unitId 7 c) 1 0 0 0 0
  unfold State.fenceCore
  dsimp only
  split
  · exact ⟨hout, hlog⟩
  · exact ⟨hout.abandonFrond _ _, hlog⟩

/-! ## `CORE_FAULT` (R135) -/

theorem execCoreFault_corrected (s : State) (c : Fin 64) :
    ∃ t, exec (.coreFault c .corrected) s = .next t ∧ t.core c = { s.core c with corrected := Nat.min 0xFFFF ((s.core c).corrected + 1) }
      ∧ t.integ.log.length ≤ Nat.max 16384 s.integ.log.length ∧ (∃ e, t.integ.log.head? = some e ∧ e.kind = 0 ∧ e.unit = unitId 7 c)
      ∧ (∀ d, d ≠ c.val → t.core d = s.core d) ∧ SameModule s t ∧ t.mem = s.mem ∧ t.recs = s.recs ∧ t.evlog = s.evlog := by
  let k := { s.core c with corrected := Nat.min 0xFFFF ((s.core c).corrected + 1) }
  obtain ⟨hhead, hlen⟩ := (s.setCore c k).err_head 0 0 0 (reqCode .frond) (unitId 7 c)
  obtain ⟨lg, n, ht, -⟩ := (s.setCore c k).err_eq 0 0 0 (reqCode .frond) (unitId 7 c)
  refine ⟨_, rfl, ?_, hlen, hhead, ?_⟩
  · exact (congrArg (State.core · c) ht).trans (State.core_setCore s c k)
  · dsimp only
    rw [ht]
    exact ⟨fun d hd => State.core_setCore_ne _ _ _ hd, ⟨rfl, rfl, rfl, rfl, rfl, rfl, rfl, rfl, rfl, rfl, rfl, rfl, rfl⟩, rfl, rfl, rfl⟩

theorem execCoreFault_fences {s : State} {c : Fin 64} {k : CoreFaultKind} (hk : k ≠ .corrected) (hsvc : (s.core c).svc ≠ .fenced) :
    ∃ t, exec (.coreFault c k) s = .next t ∧ ((t.core c).svc = .fenced ∨ (t.core c).svc = .disabled) ∧ (t.core c).level = 0
      ∧ ((∀ m, (s.mbox m).begun = false) → ∃ e ∈ t.evlog.log, e.kind = 0x0A ∧ e.status = Status.uncorrectable ∧ e.unit = unitId 7 c) := by
  have hexec : exec (.coreFault c k) s = .next (s.fenceCore c Status.uncorrectable).settle := by
    cases k with
    | corrected => exact absurd rfl hk
    | _ => exact congrArg Host.Outcome.next (if_neg hsvc)
  obtain ⟨hout, hlog⟩ := s.fenceCore_out c Status.uncorrectable
  obtain ⟨hdown, hlevel⟩ := hout.settle
  refine ⟨_, hexec, hdown, hlevel, fun hbegun => ?_⟩
  rwa [State.settle_of_not_begun fun m => (congrArg (fun mbs => (Tbl.get ({} : Mbox) mbs m).begun) (s.mboxes_fenceCore _ _)).trans (hbegun m)]

/-- Settles O47: the four moves are writes of the elements that they read; a corrected error is one entry of the error log; another one fences
the core. -/
theorem coreMovesAndFaults : Obligations.CoreMovesAndFaults :=
  ⟨fun _ _ n a h => ⟨exec_tload_of_runs h n a, exec_tstore_of_runs h n a, exec_vload_of_runs h n a, exec_vstore_of_runs h n a⟩,
    fun s c _ => ⟨fun hk => hk ▸ execCoreFault_corrected s c, fun hk hsvc => execCoreFault_fences hk hsvc⟩⟩

end Sys2Proof.Machine
end

section
/-! SUPPORT. Products of a core (R118 to R122): 32-bit and 64-bit accumulator elements, `MMA` and `ACC_CLOSE` over the corner of a tile. -/

namespace Sys2Proof.Machine

set_option Elab.async false

open Sys2Proof

/-! ## Accumulator elements (R114, R122) -/

theorem mem_corner {m n : Nat} {ij : Nat × Nat} : ij ∈ corner m n ↔ ij.1 < m ∧ ij.2 < n := by
  obtain ⟨i, j⟩ := ij
  simp [corner]

theorem tileIdx_inj {count t i j i' j' : Nat} (hj : j < 64) (hj' : j' < 64)
    (h : tileIdx count t i j = tileIdx count t i' j') : (i, j) = (i', j') := by
  unfold tileIdx at h
  exact Prod.ext (by dsimp only; omega) (by dsimp only; omega)

/-- R122: the 64-bit element of a table of accumulators. -/
def pairNum (a : Tbl Word32) (t i j : Nat) : Int :=
  toSigned 64 ((Tbl.get 0 a (tileIdx 32 t i j)).toNat + (Tbl.get 0 a (tileIdx 32 (t + 1) i j)).toNat * 2 ^ 32)

theorem Core.acc64_eq (c : Core) (t i j : Nat) : c.acc64 t i j = pairNum c.accs t i j := rfl

/-- R122: the two halves of a 64-bit element lie in different tiles. -/
theorem tileIdx_halves_ne (t i j : Nat) : tileIdx 32 t i j ≠ tileIdx 32 (t + 1) i j := by
  unfold tileIdx
  omega

/-- A 64-bit element that is stored reads back, in 64 bits. -/
theorem pairNum_putAcc64_same (a : Tbl Word32) (t i j : Nat) (z : Int) : pairNum (putAcc64 a t i j z) t i j = (BitVec.ofInt 64 z).toInt := by
  have hx : ofSigned 64 z = (BitVec.ofInt 64 z).toNat := (BitVec.toNat_ofInt _).symm
  have hlt := (BitVec.ofInt 64 z).isLt
  unfold pairNum putAcc64
  dsimp only
  rw [Tbl.get_put_same, Tbl.get_put_ne _ _ _ _ (tileIdx_halves_ne t i j), Tbl.get_put_same, hx, BitVec.toNat_ofNat, BitVec.toNat_ofNat,
    toSigned_eq_toInt]
  have hnum : (BitVec.ofInt 64 z).toNat % 2 ^ 32 + (BitVec.ofInt 64 z).toNat / 2 ^ 32 % 2 ^ 32 * 2 ^ 32 = (BitVec.ofInt 64 z).toNat := by omega
  rw [hnum, BitVec.ofNat_toNat, BitVec.setWidth_eq]

/-- A 64-bit element whose halves are not stored stands. -/
theorem pairNum_putAcc64_ne (a : Tbl Word32) {t t' i i' j j' : Nat} (z : Int)
    (h : ∀ p q, p < 2 → q < 2 → tileIdx 32 (t + p) i j ≠ tileIdx 32 (t' + q) i' j') :
    pairNum (putAcc64 a t' i' j' z) t i j = pairNum a t i j := by
  have hget : ∀ p, p < 2 → Tbl.get 0 (putAcc64 a t' i' j' z) (tileIdx 32 (t + p) i j) = Tbl.get 0 a (tileIdx 32 (t + p) i j) := fun p hp => by
    unfold putAcc64
    dsimp only
    exact (Tbl.get_put_ne _ _ _ _ (h p 1 hp (by decide))).trans (Tbl.get_put_ne _ _ _ _ (h p 0 hp (by decide)))
  have hlo : Tbl.get 0 (putAcc64 a t' i' j' z) (tileIdx 32 t i j) = Tbl.get 0 a (tileIdx 32 t i j) := hget 0 (by decide)
  unfold pairNum
  rw [hlo, hget 1 (by decide)]

/-- Elements of one pair of tiles at different places share no half. -/
theorem tileIdx_apart_of_place {i j i' j' : Nat} (hi : i < 64) (hj : j < 64) (hi' : i' < 64) (hj' : j' < 64) (h : (i, j) ≠ (i', j')) (t : Nat) :
    ∀ p q, p < 2 → q < 2 → tileIdx 32 (t + p) i j ≠ tileIdx 32 (t + q) i' j' := by
  intro p q hp hq he
  refine h (Prod.ext ?_ ?_) <;> (unfold tileIdx at he; dsimp only; omega)

/-- The segment sum and the total of R122 share no half. -/
theorem tileIdx_apart_of_total {i j i' j' : Nat} (hi : i < 64) (hj : j < 64) (hi' : i' < 64) (hj' : j' < 64) (t : Nat) :
    ∀ p q, p < 2 → q < 2 → tileIdx 32 (t + 2 + p) i j ≠ tileIdx 32 (t + q) i' j' := by
  intro p q hp hq
  unfold tileIdx
  omega

/-! ## One element of an `MMA` (R118 to R122) -/

section
variable (c : Core) {o : MmaOp} (a : Tbl Word32 × Nat) (i j : Nat)

theorem mmaElem_int (hseg : mmaSeg o = false) (hflt : mmaFlt o = false) : (c.mmaElem o a (i, j)).1 = Tbl.put 0 a.1 (tileIdx 32 o.acc i j)
    (BitVec.ofInt 32 (satS 32 ((Tbl.get 0 c.accs (tileIdx 32 o.acc i j)).toInt + c.mmaSum o i j)).1) := by
  simp [Core.mmaElem, hseg, hflt]

theorem mmaElem_flt (hseg : mmaSeg o = false) (hflt : mmaFlt o = true) : (c.mmaElem o a (i, j)).1 = Tbl.put 0 a.1 (tileIdx 32 o.acc i j)
    (c.mmaFltAcc o (Tbl.get 0 c.accs (tileIdx 32 o.acc i j)) i j) := by
  simp [Core.mmaElem, hseg, hflt]

theorem mmaElem_seg (hseg : mmaSeg o = true) :
    c.mmaElem o a (i, j) = (putAcc64 a.1 o.acc i j (c.acc64 o.acc i j + c.mmaSum o i j), a.2) := by
  simp [Core.mmaElem, hseg]

/-- R118 to R121: the accumulator element that an `MMA` outside segment mode leaves. -/
def mmaVal (c : Core) (o : MmaOp) (i j : Nat) : Word32 :=
  let old := Tbl.get 0 c.accs (tileIdx 32 o.acc i j)
  if mmaFlt o then c.mmaFltAcc o old i j else BitVec.ofInt 32 (satS 32 (old.toInt + c.mmaSum o i j)).1

theorem mmaElem_put (hseg : mmaSeg o = false) : (c.mmaElem o a (i, j)).1 = Tbl.put 0 a.1 (tileIdx 32 o.acc i j) (mmaVal c o i j) := by
  unfold mmaVal
  dsimp only
  split
  · next hflt => exact mmaElem_flt c a i j hseg hflt
  · next hflt => exact mmaElem_int c a i j hseg (Bool.eq_false_iff.2 hflt)

end

/-- R120: a saturated sum is what 32 bits hold. -/
theorem toInt_ofInt_satS (z : Int) : (BitVec.ofInt 32 (satS 32 z).1).toInt = (satS 32 z).1 := by
  obtain ⟨hlo, hhi⟩ := satS_inLane 32 z
  exact BitVec.toInt_ofInt_eq_self (by decide) hlo hhi

theorem mmaSum_of_not_seg (c : Core) {o : MmaOp} (hseg : mmaSeg o = false) (i j : Nat) : c.mmaSum o i j
    = ((List.range (Nat.min 256 o.k)).map fun e => (c.actVal o i e).toInt * (c.wgtVal o e j).toInt).sum := by
  simp [Core.mmaSum, mmaDims, hseg]

theorem mmaSum_of_seg (c : Core) {o : MmaOp} (hseg : mmaSeg o = true) (i j : Nat) : c.mmaSum o i j
    = ((List.range (Nat.min 256 o.k)).map fun e => c.wgtScale o e j * (c.actVal o i e).toInt * (c.wgtVal o e j).toInt).sum := by
  simp [Core.mmaSum, mmaDims, hseg]

/-! ## Accumulators written by an operation -/

/-- A core with new accumulators, their poison, and `n` more saturations. -/
def Core.withAccs (c : Core) (a : Tbl Word32 × Nat) (p : Tbl Bool) : Core := { c.addSat a.2 with accs := a.1, accPoison := p }

section
variable (c : Core) (a : Tbl Word32 × Nat) (p : Tbl Bool)

@[simp] theorem Core.withAccs_accs : (c.withAccs a p).accs = a.1 := rfl
@[simp] theorem Core.withAccs_satCount : (c.withAccs a p).satCount = Nat.min 0xFFFFFFFF (c.satCount + a.2) := rfl
@[simp] theorem Core.withAccs_tiles : (c.withAccs a p).tiles = c.tiles := rfl
@[simp] theorem Core.withAccs_cmem : (c.withAccs a p).cmem = c.cmem := rfl
@[simp] theorem Core.withAccs_vregs : (c.withAccs a p).vregs = c.vregs := rfl

end

theorem Core.mma_eq (c : Core) (o : MmaOp) : ∃ p, c.mma o
    = c.withAccs ((corner (Nat.min 64 o.m) (Nat.min 64 o.n)).foldl (c.mmaElem o) (c.accs, 0)) p := ⟨_, rfl⟩

theorem Core.accClose_eq (c : Core) (t : Nat) : ∃ p, c.accClose t = c.withAccs ((corner 64 64).foldl (c.closeElem t) (c.accs, 0)) p :=
  ⟨_, rfl⟩

/-! ## `MMA` (R118 to R122) -/

section
variable (c : Core) {o : MmaOp} {i j : Nat}

/-- The corner of an `MMA` lies in a tile. -/
theorem lt_of_corner {m : Nat} (h : i < Nat.min 64 m) : i < 64 := Nat.lt_of_lt_of_le h (Nat.min_le_left _ _)

theorem get_mma_accs (hseg : mmaSeg o = false) (hi : i < Nat.min 64 o.m) (hj : j < Nat.min 64 o.n) :
    Tbl.get 0 (c.mma o).accs (tileIdx 32 o.acc i j) = mmaVal c o i j := by
  obtain ⟨p, hmma⟩ := c.mma_eq o
  rw [hmma, Core.withAccs_accs]
  refine foldl_read_set (R := fun a : Tbl Word32 × Nat => Tbl.get 0 a.1 (tileIdx 32 o.acc i j)) (x := (i, j)) (fun y hy => ?_)
    (mem_corner.2 ⟨hi, hj⟩) (fun a => ?_) _
  · obtain ⟨hi', hj'⟩ := mem_corner.1 hy
    by_cases hidx : tileIdx 32 o.acc i j = tileIdx 32 o.acc y.1 y.2
    · obtain rfl : (i, j) = y := tileIdx_inj (lt_of_corner hj) (lt_of_corner hj') hidx
      exact .inl fun a => by rw [mmaElem_put c a i j hseg, Tbl.get_put_same]
    · exact .inr fun a => by rw [mmaElem_put c a y.1 y.2 hseg, Tbl.get_put_ne _ _ _ _ hidx]
  · rw [mmaElem_put c a i j hseg, Tbl.get_put_same]

/-- R118: elements outside the corner do not change. -/
theorem get_mma_accs_of_ne (hseg : mmaSeg o = false) {n : Nat}
    (hn : ∀ i j, i < Nat.min 64 o.m → j < Nat.min 64 o.n → n ≠ tileIdx 32 o.acc i j) : Tbl.get 0 (c.mma o).accs n = Tbl.get 0 c.accs n := by
  obtain ⟨p, hmma⟩ := c.mma_eq o
  rw [hmma, Core.withAccs_accs]
  refine foldl_read_same (R := fun a : Tbl Word32 × Nat => Tbl.get 0 a.1 n) (fun y hy a => ?_) _
  obtain ⟨hi, hj⟩ := mem_corner.1 hy
  rw [mmaElem_put c a y.1 y.2 hseg, Tbl.get_put_ne _ _ _ _ (hn _ _ hi hj)]

/-- R122: in segment mode the segment sum takes the scaled products. -/
theorem acc64_mma (hseg : mmaSeg o = true) (hi : i < Nat.min 64 o.m) (hj : j < Nat.min 64 o.n) :
    (c.mma o).acc64 o.acc i j = (BitVec.ofInt 64 (c.acc64 o.acc i j + c.mmaSum o i j)).toInt := by
  obtain ⟨p, hmma⟩ := c.mma_eq o
  rw [Core.acc64_eq, hmma, Core.withAccs_accs]
  refine foldl_read_set (R := fun a : Tbl Word32 × Nat => pairNum a.1 o.acc i j) (x := (i, j)) (fun y hy => ?_)
    (mem_corner.2 ⟨hi, hj⟩) (fun a => ?_) _
  · obtain ⟨hi', hj'⟩ := mem_corner.1 hy
    by_cases hplace : (i, j) = y
    · subst hplace
      exact .inl fun a => by rw [mmaElem_seg c a i j hseg, pairNum_putAcc64_same]
    · exact .inr fun a => by
        rw [mmaElem_seg c a y.1 y.2 hseg, pairNum_putAcc64_ne a.1 _ (tileIdx_apart_of_place (lt_of_corner hi) (lt_of_corner hj)
          (lt_of_corner hi') (lt_of_corner hj') hplace _)]
  · rw [mmaElem_seg c a i j hseg, pairNum_putAcc64_same]

/-- R122: the array counts no saturation in segment mode. -/
theorem satCount_mma (hseg : mmaSeg o = true) : (c.mma o).satCount = Nat.min 0xFFFFFFFF c.satCount := by
  have hcount := foldl_read_same (f := c.mmaElem o) (R := Prod.snd) (l := corner (Nat.min 64 o.m) (Nat.min 64 o.n))
    (fun y _ a => by rw [mmaElem_seg c a y.1 y.2 hseg]) (c.accs, 0)
  obtain ⟨p, hmma⟩ := c.mma_eq o
  rw [hmma, Core.withAccs_satCount, hcount, Nat.add_zero]

end

/-! ## `ACC_CLOSE` (R122) -/

section
variable (c : Core) (t : Nat)

theorem closeElem_fst (a : Tbl Word32 × Nat) (i j : Nat) : (c.closeElem t a (i, j)).1
    = putAcc64 (putAcc64 a.1 (t + 2) i j (c.acc64 (t + 2) i j + (satS 32 (c.acc64 t i j)).1)) t i j 0 := rfl

variable {i j : Nat} (hi : i < 64) (hj : j < 64)
include hi hj

/-- R122: the saturated segment sum goes into the total. -/
theorem acc64_accClose_total : (c.accClose t).acc64 (t + 2) i j
    = (BitVec.ofInt 64 (c.acc64 (t + 2) i j + (satS 32 (c.acc64 t i j)).1)).toInt := by
  obtain ⟨p, hclose⟩ := c.accClose_eq t
  rw [Core.acc64_eq, hclose, Core.withAccs_accs]
  have hset : ∀ a : Tbl Word32 × Nat, pairNum (c.closeElem t a (i, j)).1 (t + 2) i j
      = (BitVec.ofInt 64 (c.acc64 (t + 2) i j + (satS 32 (c.acc64 t i j)).1)).toInt := fun a => by
    rw [closeElem_fst, pairNum_putAcc64_ne _ _ (tileIdx_apart_of_total hi hj hi hj t), pairNum_putAcc64_same]
  refine foldl_read_set (R := fun a : Tbl Word32 × Nat => pairNum a.1 (t + 2) i j) (x := (i, j)) (fun y hy => ?_)
    (mem_corner.2 ⟨hi, hj⟩) hset _
  obtain ⟨hi', hj'⟩ := mem_corner.1 hy
  by_cases hplace : (i, j) = y
  · exact .inl fun a => hplace ▸ hset a
  · exact .inr fun a => by
      rw [closeElem_fst, pairNum_putAcc64_ne _ _ (tileIdx_apart_of_total hi hj hi' hj' t),
        pairNum_putAcc64_ne _ _ (tileIdx_apart_of_place hi hj hi' hj' hplace _)]

/-- R122: the segment sum clears. -/
theorem acc64_accClose_segment : (c.accClose t).acc64 t i j = 0 := by
  obtain ⟨p, hclose⟩ := c.accClose_eq t
  rw [Core.acc64_eq, hclose, Core.withAccs_accs]
  have hset : ∀ a : Tbl Word32 × Nat, pairNum (c.closeElem t a (i, j)).1 t i j = 0 := fun a => by
    rw [closeElem_fst, pairNum_putAcc64_same]
    rfl
  refine foldl_read_set (R := fun a : Tbl Word32 × Nat => pairNum a.1 t i j) (x := (i, j)) (fun y hy => ?_) (mem_corner.2 ⟨hi, hj⟩) hset _
  obtain ⟨hi', hj'⟩ := mem_corner.1 hy
  by_cases hplace : (i, j) = y
  · exact .inl fun a => hplace ▸ hset a
  · exact .inr fun a => by
      rw [closeElem_fst, pairNum_putAcc64_ne _ _ (tileIdx_apart_of_place hi hj hi' hj' hplace _),
        pairNum_putAcc64_ne _ _ fun p q hp hq => (tileIdx_apart_of_total hi' hj' hi hj t q p hq hp).symm]

end

section
variable {s : State} {c : Fin 64} (h : (s.core c).runs = true)
include h

/-- R118 to R121: `MMA` outside segment mode. -/
theorem exec_mma_of_runs {o : MmaOp} (hseg : mmaSeg o = false) : ∃ k, exec (.mma c o) s = .next (s.setCore c k)
    ∧ (∀ i j, i < Nat.min 64 o.m → j < Nat.min 64 o.n → Tbl.get 0 k.accs (tileIdx 32 o.acc i j) = mmaVal (s.core c) o i j)
    ∧ (∀ n, (∀ i j, i < Nat.min 64 o.m → j < Nat.min 64 o.n → n ≠ tileIdx 32 o.acc i j) →
        Tbl.get 0 k.accs n = Tbl.get 0 (s.core c).accs n)
    ∧ k.tiles = (s.core c).tiles ∧ k.cmem = (s.core c).cmem ∧ k.vregs = (s.core c).vregs := by
  obtain ⟨p, hmma⟩ := (s.core c).mma_eq o
  exact ⟨((s.core c).mma o).ran s.time.now, onCore_of_runs h (.mma c o), fun _ _ hi hj => get_mma_accs _ hseg hi hj,
    fun _ hn => get_mma_accs_of_ne _ hseg hn, by simp [hmma], by simp [hmma], by simp [hmma]⟩

/-- R122: `MMA` in segment mode. -/
theorem exec_mma_seg_of_runs {o : MmaOp} (hseg : mmaSeg o = true) : ∃ k, exec (.mma c o) s = .next (s.setCore c k)
    ∧ (∀ i j, i < Nat.min 64 o.m → j < Nat.min 64 o.n →
        k.acc64 o.acc i j = (BitVec.ofInt 64 ((s.core c).acc64 o.acc i j + (s.core c).mmaSum o i j)).toInt)
    ∧ k.satCount = Nat.min 0xFFFFFFFF (s.core c).satCount ∧ k.tiles = (s.core c).tiles ∧ k.cmem = (s.core c).cmem := by
  obtain ⟨p, hmma⟩ := (s.core c).mma_eq o
  exact ⟨((s.core c).mma o).ran s.time.now, onCore_of_runs h (.mma c o), fun _ _ hi hj => acc64_mma _ hseg hi hj, satCount_mma _ hseg,
    by simp [hmma], by simp [hmma]⟩

/-- R122: `ACC_CLOSE`. -/
theorem exec_accClose_of_runs (a : Nat) : ∃ k, exec (.accClose c a) s = .next (s.setCore c k)
    ∧ (∀ i j, i < 64 → j < 64 →
        k.acc64 (a + 2) i j = (BitVec.ofInt 64 ((s.core c).acc64 (a + 2) i j + (satS 32 ((s.core c).acc64 a i j)).1)).toInt
          ∧ k.acc64 a i j = 0)
    ∧ k.tiles = (s.core c).tiles ∧ k.cmem = (s.core c).cmem ∧ k.vregs = (s.core c).vregs := by
  obtain ⟨p, hclose⟩ := (s.core c).accClose_eq a
  refine ⟨((s.core c).accClose a).ran s.time.now, onCore_of_runs h (.accClose c a), fun i j hi hj => ?_, ?_, ?_, ?_⟩
  · rw [Core.ran_acc64, Core.ran_acc64]
    exact ⟨acc64_accClose_total _ a hi hj, acc64_accClose_segment _ a hi hj⟩
  · rw [Core.ran_tiles, hclose, Core.withAccs_tiles]
  · rw [Core.ran_cmem, hclose, Core.withAccs_cmem]
  · rw [Core.ran_vregs, hclose, Core.withAccs_vregs]

end

/-- Settles O44: each element of the corner is put once, from the accumulators as they stood before the operation. -/
theorem coreProducts : Obligations.CoreProducts := by
  intro s c
  refine ⟨fun h o a => ⟨onCore_of_not_runs h (.mma c o), onCore_of_not_runs h (.accClose c a)⟩,
    fun h => ⟨fun o hseg => ?_, fun o hseg => ?_, exec_accClose_of_runs h⟩⟩
  · obtain ⟨k, hexec, hval, hrest⟩ := exec_mma_of_runs h hseg
    refine ⟨k, hexec, fun i j hi hj => ?_, hrest⟩
    dsimp only
    rw [hval i j hi hj, mmaVal]
    refine ⟨fun hflt => ?_, fun hflt => if_pos hflt⟩
    rw [hflt, if_neg Bool.false_ne_true, toInt_ofInt_satS, mmaSum_of_not_seg _ hseg]
  · simpa only [mmaSum_of_seg _ hseg] using exec_mma_seg_of_runs h hseg

end Sys2Proof.Machine
end

section
/-! SUPPORT. Chains of a core (R124 to R126): masks, the elements that a chain writes, and the accumulator tile that `DRAIN` clears (R117). -/

namespace Sys2Proof.Machine

set_option Elab.async false

open Sys2Proof

/-! ## Masks and counts (R124, R126) -/

/-- R124: building a remainder mask changes mask registers alone. -/
theorem Core.buildMask_eq (c : Core) (u : MaskUse) : ∃ m, c.buildMask u = { c with masks := m } := by
  unfold Core.buildMask
  split
  · split
    · exact ⟨_, rfl⟩
    · exact ⟨_, rfl⟩
  · exact ⟨_, rfl⟩

section
variable (c : Core) (u : MaskUse)

@[simp] theorem Core.buildMask_tiles : (c.buildMask u).tiles = c.tiles := by obtain ⟨_, h⟩ := c.buildMask_eq u; rw [h]
@[simp] theorem Core.buildMask_accs : (c.buildMask u).accs = c.accs := by obtain ⟨_, h⟩ := c.buildMask_eq u; rw [h]
@[simp] theorem Core.buildMask_cmem : (c.buildMask u).cmem = c.cmem := by obtain ⟨_, h⟩ := c.buildMask_eq u; rw [h]
@[simp] theorem Core.buildMask_svc : (c.buildMask u).svc = c.svc := by obtain ⟨_, h⟩ := c.buildMask_eq u; rw [h]
@[simp] theorem Core.buildMask_level : (c.buildMask u).level = c.level := by obtain ⟨_, h⟩ := c.buildMask_eq u; rw [h]
@[simp] theorem Core.buildMask_empty : (c.buildMask u).empty = c.empty := by obtain ⟨_, h⟩ := c.buildMask_eq u; rw [h]

end

section
variable (c : Core) (n : Nat)

@[simp] theorem Core.addSat_refElem (r : CoreRef) (l : Lane) (e : Nat) : (c.addSat n).refElem r l e = c.refElem r l e := by cases r <;> rfl
@[simp] theorem Core.addSat_svc : (c.addSat n).svc = c.svc := rfl
@[simp] theorem Core.addSat_level : (c.addSat n).level = c.level := rfl
@[simp] theorem Core.addSat_empty : (c.addSat n).empty = c.empty := rfl
@[simp] theorem Core.ran_svc : (c.ran n).svc = c.svc := rfl
@[simp] theorem Core.ran_level : (c.ran n).level = c.level := rfl
@[simp] theorem Core.ran_empty : (c.ran n).empty = c.empty := rfl

end

/-! ## The elements of a chain (R124, R125) -/

theorem refCount_le {r : CoreRef} {l : Lane} {n : Nat} (h : refCount r l = some n) : n ≤ 4096 := by
  cases r with
  | vreg v =>
    obtain rfl := Option.some.inj h
    exact (Nat.div_le_self _ _).trans (by decide)
  | tile t => exact (Option.some.inj h).symm.le
  | acc t => exact (Option.some.inj h).symm.le
  | mem a => exact nomatch (h : none = some n)

/-- A chain runs over no more elements than its destination holds. -/
theorem chainCount_le_dst {o : ChainOp} {n : Nat} (h : refCount o.dst o.outLane = some n) : chainCount o ≤ n := by
  unfold chainCount
  rw [h]
  split
  · next hb =>
    obtain rfl := Option.some.inj hb
    exact Nat.min_le_right _ _
  · next hb => cases hb
  · next hb =>
    obtain rfl := Option.some.inj hb
    exact le_rfl
  · next hb => cases hb

theorem chainCount_le (o : ChainOp) : chainCount o ≤ 8192 := by
  unfold chainCount
  split
  · next a b ha _ => exact (Nat.min_le_left a b).trans ((refCount_le ha).trans (by decide))
  · next ha _ => exact (refCount_le ha).trans (by decide)
  · next hb => exact (refCount_le hb).trans (by decide)
  · exact Nat.div_le_self _ _

/-- A 32-bit lane. -/
theorem regBytes_wide {l : Lane} (h : l = .int32 ∨ l = .fp32) : regBytes l = 4 := by
  rcases h with rfl | rfl
  · exact regBytes_int32
  · exact regBytes_fp32

/-- The results of a chain with 32-bit results fit its destination. -/
theorem fits_chain {o : ChainOp} (h : o.outLane = .int32 ∨ o.outLane = .fp32) : Fits o.dst o.outLane (chainCount o) := by
  unfold Fits
  split
  · next v hdst =>
    have hcount : chainCount o ≤ 1024 / regBytes o.outLane := chainCount_le_dst (by rw [hdst]; rfl)
    exact (Nat.mul_le_mul_left _ hcount).trans (Nat.mul_div_le _ _)
  · have hcount := chainCount_le o
    rw [regBytes_wide h]
    exact ⟨by rcases h with h | h <;> simp [h], by omega⟩
  · next hvreg hmem =>
    refine ⟨h, chainCount_le_dst ?_⟩
    cases hdst : o.dst with
    | vreg v => exact absurd hdst (hvreg v)
    | mem a => exact absurd hdst (hmem a)
    | _ => rfl

/-- R124: whether a chain works on an element. -/
def chainActive (c : Core) (o : ChainOp) (e : Nat) : Bool := maskBit (c.maskOf o.mask) (refIsTile o.src || refIsTile o.dst) e

/-- R124: what a chain writes: the results of active elements, zeros under the zero policy. -/
theorem mem_chainOut {c : Core} {o : ChainOp} {x : CElem} : x ∈ (c.chainOut o).1 ↔ x.e < chainCount o
    ∧ ((chainActive c o x.e = true ∧ (c.chainElem o x.e).1 = x)
      ∨ (chainActive c o x.e = false ∧ o.zero = true ∧ { e := x.e, pat := 0, poison := false } = x)) := by
  have hoff : x ∈ (if o.zero = true then ((List.range (chainCount o)).filter fun e => !chainActive c o e).map fun e =>
      ({ e, pat := 0, poison := false } : CElem) else [])
      ↔ x.e < chainCount o ∧ chainActive c o x.e = false ∧ o.zero = true ∧ { e := x.e, pat := 0, poison := false } = x := by
    split
    · next hz =>
      simp only [List.mem_map, List.mem_filter, List.mem_range, Bool.not_eq_true', hz, true_and]
      exact ⟨fun ⟨e, ⟨he, ha⟩, hx⟩ => by subst hx; exact ⟨he, ha, rfl⟩, fun ⟨he, ha, hx⟩ => ⟨x.e, ⟨he, ha⟩, hx⟩⟩
    · next hz => simp [hz]
  have hon : x ∈ (((List.range (chainCount o)).filter (chainActive c o)).map (c.chainElem o)).map (·.1)
      ↔ x.e < chainCount o ∧ chainActive c o x.e = true ∧ (c.chainElem o x.e).1 = x := by
    simp only [List.mem_map, List.mem_filter, List.mem_range, exists_exists_and_eq_and]
    exact ⟨fun ⟨e, ⟨he, ha⟩, hx⟩ => by subst hx; exact ⟨he, ha, rfl⟩, fun ⟨he, ha, hx⟩ => ⟨x.e, ⟨he, ha⟩, hx⟩⟩
  refine (List.mem_append.trans (or_congr hon hoff)).trans ?_
  rw [← and_or_left]

theorem Core.chain_eq (c : Core) (o : ChainOp) : c.chain o = ((c.buildMask o.mask).writeRef o.dst o.outLane
    ((c.buildMask o.mask).chainOut o).1).addSat ((c.buildMask o.mask).chainOut o).2 := rfl

/-- R125, R126: a core whose destination reads as after the chain's write holds the chain's results. -/
theorem chainWrites_of_refElem {k k' : Core} {o : ChainOp} (h : o.outLane = .int32 ∨ o.outLane = .fp32)
    (hk : ∀ e, k'.refElem o.dst o.outLane e = (k.writeRef o.dst o.outLane (k.chainOut o).1).refElem o.dst o.outLane e) : ChainWrites k k' o := by
  have hfit := fits_chain h
  have hn : ∀ y ∈ (k.chainOut o).1, y.e < chainCount o := fun _ hy => (mem_chainOut.1 hy).1
  have hword : ∀ p, p % 256 ^ regBytes o.outLane % 2 ^ 32 = p % 2 ^ 32 := fun p => by
    rw [regBytes_wide h]
    exact Nat.mod_mod p _
  intro e he
  dsimp only
  rw [hk]
  refine ⟨fun hactive => ?_, fun hinactive => ?_⟩
  · have hone : ∀ y ∈ (k.chainOut o).1, y.e = e → y = (k.chainElem o e).1 := fun y hy hye => by
      obtain ⟨-, ⟨-, hy⟩ | ⟨hoff, -⟩⟩ := mem_chainOut.1 hy
      · rw [← hy, hye]
      · exact absurd (hoff.symm.trans ((congrArg _ hye).trans hactive)) Bool.false_ne_true
    have hget := refElem_writeRef_of_mem (c := k) hfit hn (x := (k.chainElem o e).1) (mem_chainOut.2 ⟨he, .inl ⟨hactive, rfl⟩⟩)
      fun y hy hye => congrArg CElem.pat (hone y hy hye)
    exact (congrArg (· % 2 ^ 32) hget).trans (hword _)
  · split
    · next hz =>
      have hone : ∀ y ∈ (k.chainOut o).1, y.e = e → y.pat = 0 := fun y hy hye => by
        obtain ⟨-, ⟨hon, -⟩ | ⟨-, -, hy⟩⟩ := mem_chainOut.1 hy
        · exact absurd (hinactive.symm.trans ((congrArg (chainActive k o) hye).symm.trans hon)) Bool.false_ne_true
        · rw [← hy]
      have hget := refElem_writeRef_of_mem (c := k) hfit hn (x := { e, pat := 0, poison := false })
        (mem_chainOut.2 ⟨he, .inr ⟨hinactive, hz, rfl⟩⟩) hone
      exact (congrArg (· % 2 ^ 32) hget).trans (hword _)
    · next hz =>
      refine congrArg (· % 2 ^ 32) (refElem_writeRef_of_notMem hfit hn he fun y hy hye => ?_)
      obtain ⟨-, ⟨hon, -⟩ | ⟨-, hzero, -⟩⟩ := mem_chainOut.1 hy
      · exact absurd (hinactive.symm.trans ((congrArg (chainActive k o) hye).symm.trans hon)) Bool.false_ne_true
      · exact hz hzero

/-- R125: a chain leaves its results. -/
theorem chain_refElem (c : Core) (o : ChainOp) (e : Nat) : (c.chain o).refElem o.dst o.outLane e
    = ((c.buildMask o.mask).writeRef o.dst o.outLane ((c.buildMask o.mask).chainOut o).1).refElem o.dst o.outLane e := by
  rw [Core.chain_eq, Core.addSat_refElem]

/-! ## `DRAIN` (R117, R122) -/

theorem Core.drain_eq {o : ChainOp} {a : Nat} (h : o.src = .acc a) (c : Core) :
    c.drain o = (c.chain o).clearAcc a (if o.segment then 4 else 1) := by
  unfold Core.drain
  rw [h]

/-- R117: clearing accumulator tiles leaves the other operands. -/
theorem clearAcc_refElem {r : CoreRef} (h : ∀ b, r ≠ .acc b) (c : Core) (t n : Nat) (l : Lane) (e : Nat) :
    (c.clearAcc t n).refElem r l e = c.refElem r l e := by
  cases r with
  | acc b => exact absurd rfl (h b)
  | _ => rfl

/-- R117: the tiles that are cleared read as zero. -/
theorem get_clearAcc (c : Core) (t : Nat) {n i e : Nat} (hi : i < n) (he : e < 4096) :
    Tbl.get 0 (c.clearAcc t n).accs (4096 * ((t + i) % 32) + e) = 0 := by
  refine Tbl.get_of_notMem _ fun x hx => ?_
  have hkept := (List.mem_filter.1 hx).2
  have htile : (4096 * ((t + i) % 32) + e) / 4096 = (t + i) % 32 := by omega
  simp only [htile, Bool.not_eq_true', List.any_eq_false, List.mem_range, beq_iff_eq] at hkept
  exact hkept i hi rfl

/-- Settles O45: a chain writes each active element once, with its result; `DRAIN` clears accumulator tiles, which its results outside them
survive. -/
theorem coreChains : Obligations.CoreChains := by
  intro s c o h
  refine ⟨⟨((s.core c).chain o).ran s.time.now, onCore_of_runs h (.vchain c o), fun hout => ?_, ?_⟩, fun a hsrc => ?_⟩
  · exact chainWrites_of_refElem hout fun e => (Core.ran_refElem _ _ _ _ _).trans (chain_refElem _ o e)
  · simp [Core.chain_eq]
  · refine ⟨((s.core c).drain o).ran s.time.now, onCore_of_runs h (.drain c o), fun hdst hout => ?_, fun n e hn he => ?_⟩
    · refine chainWrites_of_refElem hout fun e => ?_
      rw [Core.ran_refElem, Core.drain_eq hsrc, clearAcc_refElem hdst, chain_refElem]
    · rw [Core.ran_accs, Core.drain_eq hsrc]
      exact get_clearAcc _ a hn he

end Sys2Proof.Machine
end

section
/-! SUPPORT. Reductions of a core (R128, R130): the greatest of integers, the lowest index of the least, and the results along the rows of a
tile. -/

namespace Sys2Proof.Machine

set_option Elab.async false

open Sys2Proof

/-! ## The greatest and the least (R128, R130) -/

/-- R128, R130: the greatest of integers, `lo` where there are none. -/
def greatest (lo : Int) (l : List Int) : Int := l.max?.getD lo

theorem greatest_spec (lo : Int) {l : List Int} (h : l ≠ []) : greatest lo l ∈ l ∧ ∀ z ∈ l, z ≤ greatest lo l := by
  obtain ⟨m, hm⟩ := Option.isSome_iff_exists.1 (List.isSome_max?_of_ne_nil h)
  unfold greatest
  rw [hm]
  exact List.max?_eq_some_iff.1 hm

/-- An extreme of no values alone is none. -/
theorem argExtreme_eq_none {less : Val → Val → Bool} {isNan : Val → Bool} {l : List (Nat × Val)}
    (h : argExtreme less isNan l = none) : l = [] := by
  cases l with
  | nil => rfl
  | cons e r =>
    unfold argExtreme at h
    split at h
    · cases h
    · split_ifs at h

/-- R128: the index that `argmin` takes of integers by rising index: the lowest of a least one. -/
theorem argExtreme_least {l : List (Nat × Int)} (hl : l.Pairwise fun a b => a.1 < b.1) {b : Nat × Val}
    (h : argExtreme (fun a b => a.less b) Val.isNan (l.map fun e => (e.1, Val.int e.2)) = some b) :
    ∃ z, b.2 = .int z ∧ (b.1, z) ∈ l ∧ ∀ e ∈ l, z ≤ e.2 ∧ (e.1 < b.1 → z < e.2) := by
  induction l generalizing b with
  | nil => cases h
  | cons e r ih =>
    obtain ⟨hfirst, hrest⟩ := List.pairwise_cons.1 hl
    simp only [List.map_cons, argExtreme] at h
    split at h
    · next hnone =>
      obtain rfl := Option.some.inj h
      have hr : r = [] := List.map_eq_nil_iff.1 (argExtreme_eq_none hnone)
      subst hr
      exact ⟨e.2, rfl, List.mem_cons_self, fun x hx => by
        obtain rfl := List.mem_singleton.1 hx
        exact ⟨le_rfl, fun hlt => absurd hlt (Nat.lt_irrefl _)⟩⟩
    · next b' hb' =>
      obtain ⟨z, hz, hmem, hleast⟩ := ih hrest hb'
      simp only [Val.isNan, hz, Val.less, Bool.false_eq_true, if_false, Bool.or_eq_true, decide_eq_true_eq, Bool.not_eq_true',
        decide_eq_false_iff_not] at h
      split at h
      · next hle =>
        obtain rfl := Option.some.inj h
        refine ⟨e.2, rfl, List.mem_cons_self, fun x hx => ?_⟩
        rcases List.mem_cons.1 hx with rfl | hx
        · exact ⟨le_rfl, fun hlt => absurd hlt (Nat.lt_irrefl _)⟩
        · have hx' := hleast x hx
          have hidx := hfirst x hx
          exact ⟨by omega, fun hlt => by dsimp only at hlt; omega⟩
      · next hlt =>
        obtain rfl := Option.some.inj h
        refine ⟨z, hz, List.mem_cons_of_mem _ hmem, fun x hx => ?_⟩
        rcases List.mem_cons.1 hx with rfl | hx
        · exact ⟨by omega, fun _ => by omega⟩
        · exact hleast x hx

/-! ## One reduction (R128, R130) -/

/-- The active values of a reduction, with their indices. -/
def actives (all : List (Nat × Option Val)) : List (Nat × Val) := all.filterMap fun e => e.2.map fun v => (e.1, v)

theorem reduceVals_max (range : Int × Int) (all : List (Nat × Option Val)) :
    reduceVals 2 false range all = .int (greatest range.1 (((actives all).map (·.2)).map Val.toInt)) := by
  unfold reduceVals actives
  dsimp only
  generalize (((all.filterMap fun e => e.2.map fun v => (e.1, v)).map (·.2)).map Val.toInt) = zs
  have hmax : (fun a b : Int => if a < b then b else a) = max := by
    funext a b
    omega
  cases zs with
  | nil => rfl
  | cons z r => exact congrArg Val.int (congrArg (fun f => r.foldl f z) hmax)

theorem reduceVals_argmin (flt : Bool) (range : Int × Int) (all : List (Nat × Option Val)) : reduceVals 5 flt range all
    = .int (((argExtreme (fun a b => a.less b) Val.isNan (actives all)).map fun e => (e.1 : Int)).getD (-1)) := by
  unfold reduceVals actives
  dsimp only
  simp only [Nat.reduceLeDiff, if_true, Nat.reduceEqDiff, if_false]
  split
  · next e he => rw [he]; rfl
  · next he => rw [he]; rfl

/-- R128: an int32 result that is within the lane reads back from its pattern. -/
theorem toSigned_encodeElem_int32 {z : Int} (hz : InLane 32 z) : toSigned 32 ((encodeElem (laneFmt .int32) (.int z)).1 % 256 ^ 4) = z := by
  have hsat : (satS 32 z).1 = z := by
    obtain ⟨hlo, hhi⟩ := id hz
    unfold satS satTo
    rw [if_neg (by omega), if_neg (by omega)]
  have henc : (encodeElem (laneFmt .int32) (.int z)).1 = ofSigned 32 (satS 32 z).1 := rfl
  rw [henc, hsat, show 256 ^ 4 = 2 ^ 32 from rfl, Nat.mod_eq_of_lt (ofSigned_lt 32 z), toSigned_ofSigned (by decide) hz]

/-! ## Reductions along the rows of a tile (R128) -/

/-- The inputs of the result of a row. -/
def rowInputs (i : Nat) : List (Nat × Nat) := (List.range 64).map fun j => (j, 64 * i + j)

/-- R128: a reduction of int32 values has int32 results. -/
theorem redLane_int32 {o : ReduceOp} (h : o.lane = .int32) : redLane o = .int32 := by simp [redLane, h]

/-- What a reduction writes. -/
def redElems (c : Core) (o : ReduceOp) : List CElem :=
  ((redInputs o).zipIdx.map fun x => (x.2, c.reduceOne o x.1, c.reduceBad o x.1)).map fun r => { e := r.1, pat := r.2.1.1, poison := r.2.2 }

section
variable {c : Core} {o : ReduceOp} {t : Nat} (hform : o.form = .axis1 t)
include hform

theorem mem_zipIdx_redInputs {x : List (Nat × Nat) × Nat} : x ∈ (redInputs o).zipIdx ↔ x.2 < 64 ∧ rowInputs x.2 = x.1 := by
  have hins : redInputs o = (List.range 64).map rowInputs := by
    unfold redInputs
    rw [hform]
    rfl
  rw [List.mem_zipIdx_iff_getElem?, hins, List.getElem?_map, Option.map_eq_some_iff]
  simp only [List.getElem?_eq_some_iff, List.length_range, List.getElem_range]
  exact ⟨fun ⟨i, ⟨hi, hx⟩, hrow⟩ => by subst hx; exact ⟨hi, hrow⟩, fun ⟨hi, hrow⟩ => ⟨x.2, ⟨hi, rfl⟩, hrow⟩⟩

theorem mem_redElems {x : CElem} : x ∈ redElems c o ↔ x.e < 64
    ∧ { e := x.e, pat := (c.reduceOne o (rowInputs x.e)).1, poison := c.reduceBad o (rowInputs x.e) } = x := by
  simp only [redElems, List.mem_map, exists_exists_and_eq_and]
  constructor
  · rintro ⟨y, hy, rfl⟩
    obtain ⟨hi, hrow⟩ := (mem_zipIdx_redInputs hform).1 hy
    exact ⟨hi, by rw [hrow]⟩
  · rintro ⟨hi, hx⟩
    exact ⟨(rowInputs x.e, x.e), (mem_zipIdx_redInputs hform).2 ⟨hi, rfl⟩, hx⟩

end

/-- Whether column `j` of row `i` of a tile is active (R124). -/
def rowActive (c : Core) (o : ReduceOp) (i j : Nat) : Bool := maskBit (c.maskOf o.mask) true (64 * i + j)

/-- The int32 value of column `j` of row `i` of a tile register. -/
def rowVal (c : Core) (t i j : Nat) : Int := (Tbl.get 0 c.tiles (4096 * (t % 8) + 64 * i + j)).toInt

/-- The active values of a row, with their columns. -/
def rowActives (c : Core) (o : ReduceOp) (t i : Nat) : List (Nat × Int) :=
  ((List.range 64).filter (rowActive c o i)).map fun j => (j, rowVal c t i j)

theorem mem_rowActives {c : Core} {o : ReduceOp} {t i : Nat} {x : Nat × Int} :
    x ∈ rowActives c o t i ↔ x.1 < 64 ∧ rowActive c o i x.1 = true ∧ rowVal c t i x.1 = x.2 := by
  simp only [rowActives, List.mem_map, List.mem_filter, List.mem_range]
  exact ⟨fun ⟨j, ⟨hj, ha⟩, hx⟩ => by subst hx; exact ⟨hj, ha, rfl⟩, fun ⟨hj, ha, hx⟩ => ⟨x.1, ⟨hj, ha⟩, Prod.ext rfl hx⟩⟩

theorem rowActives_pairwise (c : Core) (o : ReduceOp) (t i : Nat) : (rowActives c o t i).Pairwise fun a b => a.1 < b.1 :=
  List.pairwise_map.2 (List.pairwise_lt_range.filter _)

/-- Any int32 value of a tile is within its lane. -/
theorem rowVal_inLane (c : Core) (t i j : Nat) : InLane 32 (rowVal c t i j) := ⟨BitVec.le_toInt _, BitVec.toInt_lt⟩

/-- R130: the identity of `max`, and the index of no element, are within an int32 lane. -/
theorem lo_inLane : InLane 32 (greatest (-2147483648) []) := ⟨by decide, by decide⟩
theorem noIndex_inLane : InLane 32 (-1) := ⟨by decide, by decide⟩

section
variable {c : Core} {o : ReduceOp} {t : Nat} (hform : o.form = .axis1 t)
include hform

theorem redSrc_axis1 : redSrc o = .tile t := by
  unfold redSrc
  rw [hform]

/-- R130: an empty set of active elements behind a stored result sets the empty flag. -/
theorem reduce_empty {i : Nat} (hi : i < 64) (hnone : ∀ j, j < 64 → rowActive (c.buildMask o.mask) o i j = false)
    (hstored : o.stored.getLsbD i = true) : (c.reduce o).empty = true := by
  have hempty : ((c.buildMask o.mask).reduceOne o (rowInputs i)).2.2 = true := by
    unfold Core.reduceOne
    rw [redSrc_axis1 hform]
    refine List.all_eq_true.2 fun x hx => ?_
    obtain ⟨j, hj, rfl⟩ := List.mem_map.1 hx
    rw [Bool.not_eq_true']
    exact hnone j (List.mem_range.1 hj)
  have hmem := (mem_zipIdx_redInputs hform (x := (rowInputs i, i))).2 ⟨hi, rfl⟩
  exact Bool.or_eq_true_iff.2 (.inr (List.any_eq_true.2 ⟨_, List.mem_map.2 ⟨_, hmem, rfl⟩, Bool.and_eq_true_iff.2 ⟨hempty, hstored⟩⟩))

variable (hlane : o.lane = .int32)
include hlane

/-- R128: the pattern of the result of a row of int32 values. -/
theorem reduceOne_row (i : Nat) : ∃ all, actives all = (rowActives c o t i).map (fun e => (e.1, Val.int e.2))
    ∧ (c.reduceOne o (rowInputs i)).1 = (encodeElem (laneFmt .int32) (reduceVals (redCode o.fn) false (fmtRange 4) all)).1 := by
  have hval : ∀ j, decodeElem (laneFmt .int32) (c.refElem (.tile t) .int32 (64 * i + j)) = .int (rowVal c t i j) := fun j => by
    have hword : toSigned 32 (Tbl.get 0 c.tiles (4096 * (t % 8) + (64 * i + j))).toNat = rowVal c t i j := by
      rw [toSigned_eq_toInt, BitVec.ofNat_toNat, BitVec.setWidth_eq, ← Nat.add_assoc, rowVal]
    exact congrArg Val.int hword
  refine ⟨(rowInputs i).map fun x => (x.1, if maskBit (c.maskOf o.mask) true x.2 then
    some (decodeElem (laneFmt .int32) (c.refElem (.tile t) .int32 x.2)) else none), ?_, ?_⟩
  · unfold actives rowActives rowInputs
    rw [List.map_map, List.filterMap_map, List.map_map, ← List.filterMap_eq_map, List.filterMap_filter]
    refine List.filterMap_congr fun j _ => ?_
    have hactive : maskBit (c.maskOf o.mask) true (64 * i + j) = rowActive c o i j := rfl
    simp only [Function.comp_def, hval, hactive]
    split
    · rw [Option.map_some]
    · rw [Option.map_none]
  · unfold Core.reduceOne
    rw [redSrc_axis1 hform, hlane, redLane_int32 hlane]
    rfl

/-- R128: what the vector register holds of the result of a row. -/
theorem reduce_refElem {i : Nat} (hi : i < 64) : (c.reduce o).refElem (.vreg o.dst) .int32 i
    = ((c.buildMask o.mask).reduceOne o (rowInputs i)).1 % 256 ^ 4 := by
  have hfit : Fits (.vreg o.dst) .int32 64 := by
    show regBytes .int32 * 64 ≤ 1024
    decide
  have hwrite : (c.reduce o).refElem (.vreg o.dst) .int32 i = ((c.buildMask o.mask).writeRef (.vreg o.dst) .int32
      (redElems (c.buildMask o.mask) o)).refElem (.vreg o.dst) .int32 i := by
    rw [← redLane_int32 hlane]
    rfl
  rw [hwrite]
  refine refElem_writeRef_of_mem hfit (fun y hy => ((mem_redElems hform).1 hy).1)
    (x := { e := i, pat := _, poison := (c.buildMask o.mask).reduceBad o (rowInputs i) }) ((mem_redElems hform).2 ⟨hi, rfl⟩) fun y hy hye => ?_
  rw [← ((mem_redElems hform).1 hy).2, hye]

/-- R128: a result within the lane, as the vector register holds it. -/
theorem reduce_row_result {i : Nat} (hi : i < 64) {z : Int} (hz : InLane 32 z) (hval : ∀ all,
    actives all = (rowActives (c.buildMask o.mask) o t i).map (fun e => (e.1, Val.int e.2)) →
      reduceVals (redCode o.fn) false (fmtRange 4) all = .int z) :
    toSigned 32 ((c.reduce o).refElem (.vreg o.dst) .int32 i) = z := by
  obtain ⟨all, hall, hone⟩ := reduceOne_row (c := c.buildMask o.mask) hform hlane i
  rw [reduce_refElem hform hlane hi, hone, hval all hall, toSigned_encodeElem_int32 hz]

/-- R128, R130: the result of `max` along a row. -/
theorem reduce_row_max (hfn : o.fn = .max) {i : Nat} (hi : i < 64) : toSigned 32 ((c.reduce o).refElem (.vreg o.dst) .int32 i)
    = greatest (-2147483648) ((rowActives (c.buildMask o.mask) o t i).map (·.2)) := by
  refine reduce_row_result hform hlane hi ?_ fun all hall => ?_
  · by_cases hnone : (rowActives (c.buildMask o.mask) o t i).map (·.2) = []
    · rw [hnone]
      exact lo_inLane
    · obtain ⟨x, hx, hval⟩ := List.mem_map.1 (greatest_spec (-2147483648) hnone).1
      rw [← hval, ← (mem_rowActives.1 hx).2.2]
      exact rowVal_inLane _ _ _ _
  · rw [hfn, show redCode .max = 2 from rfl, reduceVals_max, hall, List.map_map, List.map_map]
    rfl

/-- R128, R130: the result of `argmin` along a row is no index, or the lowest column of a least value. -/
theorem reduce_row_argmin (hfn : o.fn = .argmin) {i : Nat} (hi : i < 64) {j : Nat}
    (hj : toSigned 32 ((c.reduce o).refElem (.vreg o.dst) .int32 i) = (j : Nat)) :
    ∃ z, (j, z) ∈ rowActives (c.buildMask o.mask) o t i ∧ ∀ e ∈ rowActives (c.buildMask o.mask) o t i, z ≤ e.2 ∧ (e.1 < j → z < e.2) := by
  have hvals : ∀ all, actives all = (rowActives (c.buildMask o.mask) o t i).map (fun e => (e.1, Val.int e.2)) →
      reduceVals (redCode o.fn) false (fmtRange 4) all = .int (((argExtreme (fun a b => a.less b) Val.isNan
        ((rowActives (c.buildMask o.mask) o t i).map fun e => (e.1, Val.int e.2))).map fun e => (e.1 : Int)).getD (-1)) := fun all hall => by
    rw [hfn, show redCode .argmin = 5 from rfl, reduceVals_argmin, hall]
  cases hbest : argExtreme (fun a b => a.less b) Val.isNan ((rowActives (c.buildMask o.mask) o t i).map fun e => (e.1, Val.int e.2)) with
  | none =>
    rw [hbest] at hvals
    have hresult := reduce_row_result hform hlane hi (z := -1) noIndex_inLane hvals
    omega
  | some b =>
    rw [hbest] at hvals
    obtain ⟨z, -, hmem, hleast⟩ := argExtreme_least (rowActives_pairwise _ _ _ _) hbest
    have hcol := (mem_rowActives.1 hmem).1
    have hresult := reduce_row_result hform hlane hi (z := (b.1 : Int)) ⟨by dsimp only at hcol; omega, by dsimp only at hcol; omega⟩ hvals
    obtain rfl : b.1 = j := by omega
    exact ⟨z, hmem, hleast⟩

end

section
variable (c : Core) (o : ReduceOp)

@[simp] theorem Core.reduce_tiles : (c.reduce o).tiles = c.tiles := c.buildMask_tiles o.mask
@[simp] theorem Core.reduce_accs : (c.reduce o).accs = c.accs := c.buildMask_accs o.mask
@[simp] theorem Core.reduce_cmem : (c.reduce o).cmem = c.cmem := c.buildMask_cmem o.mask

/-- R130: the empty flag stays set. -/
theorem Core.reduce_keeps_empty (h : c.empty = true) : (c.reduce o).empty = true :=
  Bool.or_eq_true_iff.2 (.inl ((c.buildMask_empty o.mask).trans h))

end

/-- The columns of a row that are active after the remainder mask is built, with the values that the core held. -/
theorem mem_rowActives_buildMask {c : Core} {o : ReduceOp} {t i : Nat} {x : Nat × Int} : x ∈ rowActives (c.buildMask o.mask) o t i
    ↔ x.1 < 64 ∧ rowActive (c.buildMask o.mask) o i x.1 = true ∧ (Tbl.get 0 c.tiles (4096 * (t % 8) + 64 * i + x.1)).toInt = x.2 := by
  rw [mem_rowActives, rowVal, Core.buildMask_tiles]

/-- Settles O46: the result of a row is the greatest of its active values, or the lowest column of a least one. -/
theorem coreReductions : Obligations.CoreReductions := by
  intro s c o h
  refine ⟨((s.core c).reduce o).ran s.time.now, onCore_of_runs h (.coreReduce c o), Core.reduce_tiles _ _, Core.reduce_accs _ _,
    Core.reduce_cmem _ _, Core.reduce_keeps_empty _ _, fun t hform hlane i hi => ?_⟩
  dsimp only
  rw [Core.ran_refElem]
  refine ⟨fun hfn => ?_, fun hfn j hj => ?_⟩
  · rw [reduce_row_max hform hlane hfn hi]
    have hmem : ∀ j, j < 64 → rowActive ((s.core c).buildMask o.mask) o i j = true →
        (Tbl.get 0 (s.core c).tiles (4096 * (t % 8) + 64 * i + j)).toInt
          ∈ (rowActives ((s.core c).buildMask o.mask) o t i).map (·.2) := fun j hj ha =>
      List.mem_map.2 ⟨(j, _), mem_rowActives_buildMask.2 ⟨hj, ha, rfl⟩, rfl⟩
    refine ⟨fun j hj ha => (greatest_spec _ (List.ne_nil_of_mem (hmem j hj ha))).2 _ (hmem j hj ha), fun ⟨j, hj, ha⟩ => ?_,
      fun hnone => ⟨?_, ?_⟩⟩
    · obtain ⟨x, hx, hval⟩ := List.mem_map.1 (greatest_spec (-2147483648) (List.ne_nil_of_mem (hmem j hj ha))).1
      obtain ⟨hx64, hxa, hxval⟩ := mem_rowActives_buildMask.1 hx
      exact ⟨x.1, hx64, hxa, hval.symm.trans hxval.symm⟩
    · have hnil : rowActives ((s.core c).buildMask o.mask) o t i = [] := List.eq_nil_iff_forall_not_mem.2 fun x hx => by
        obtain ⟨hx64, hxa, -⟩ := mem_rowActives_buildMask.1 hx
        exact Bool.false_ne_true ((hnone _ hx64).symm.trans hxa)
      rw [hnil]
      rfl
    · exact reduce_empty hform hi hnone
  · obtain ⟨z, hmem, hleast⟩ := reduce_row_argmin hform hlane hfn hi hj
    obtain ⟨hj64, hja, hval⟩ := mem_rowActives_buildMask.1 hmem
    dsimp only at hj64 hja hval
    subst hval
    exact ⟨hj64, hja, fun m hm ha => (hleast (m, _) (mem_rowActives_buildMask.2 ⟨hm, ha, rfl⟩)).1,
      fun m hm ha => (hleast (m, _) (mem_rowActives_buildMask.2 ⟨hm.trans hj64, ha, rfl⟩)).2 hm⟩

end Sys2Proof.Machine
end

section
/-! SUPPORT. The record at the `HEAD` of a queue leaves the ring (R138, R205 to R207, R223 to R225): what each operation leaves of the rings'
places and of the records as they were issued. -/

namespace Sys2Proof.Machine

set_option Elab.async false

open Sys2Proof

/-! ## Rings and issued records -/

/-- A queue's places: `HEAD`, `TAIL` and `CQ_TAIL`. -/
def Queue.places (u : Queue) : Word32 × Word32 × Word32 := (u.head, u.tail, u.cqTail)

theorem Queue.places_eq_iff {u : Queue} {head tail cqTail : Word32} :
    u.places = (head, tail, cqTail) ↔ u.head = head ∧ u.tail = tail ∧ u.cqTail = cqTail := by
  simp [Queue.places]

/-- A record as it was issued: its queue, its sequence, its image, and whether it has started. -/
def Rec.asIssued (r : Rec) : Nat × Word32 × BitVec 1024 × Bool := (r.q, r.seq, r.raw, r.started)

/-- The places of every queue and the records in flight, as they were issued, stand. -/
structure SameRings (s t : State) : Prop where
  places : ∀ q, (t.queue q).places = (s.queue q).places
  recs : t.recs.map Rec.asIssued = s.recs.map Rec.asIssued

namespace SameRings
variable {s t u : State}

theorem refl (s : State) : SameRings s s := ⟨fun _ => rfl, rfl⟩

theorem trans (h : SameRings s t) (k : SameRings t u) : SameRings s u :=
  ⟨fun q => (k.places q).trans (h.places q), k.recs.trans h.recs⟩

theorem beside (h : SameRings s t) (k : Beside t u) : SameRings s u :=
  h.trans ⟨fun q => congrArg (fun m => (Tbl.get ({} : Queue) m q).places) k.queues, congrArg _ k.recs⟩

theorem ite {c : Prop} [Decidable c] {a b : State} (ha : SameRings s a) (hb : SameRings s b) : SameRings s (if c then a else b) := by
  split <;> assumption

theorem foldl {α : Type} {f : State → α → State} (hf : ∀ t x, SameRings s t → SameRings s (f t x)) (l : List α) (h : SameRings s t) :
    SameRings s (l.foldl f t) :=
  List.foldlRecOn (motive := SameRings s) l f h fun t ht x _ => hf t x ht

theorem setStream (h : SameRings s t) (i : Nat) (v : Stream) : SameRings s (t.setStream i v) := h.trans ⟨fun _ => rfl, rfl⟩

/-- A change of the records in flight that keeps what they were issued as. -/
theorem relabel (h : SameRings s t) (f : Rec → Rec) (hf : ∀ x, (f x).asIssued = x.asIssued) : SameRings s { t with recs := t.recs.map f } :=
  h.trans ⟨fun _ => rfl, by simp [Function.comp_def, hf]⟩

/-- A change of a queue that keeps its places. -/
theorem setQueue (h : SameRings s t) (q : Nat) (v : Queue) (hv : v.places = (t.queue q).places) : SameRings s (t.setQueue q v) := by
  refine h.trans ⟨fun p => ?_, rfl⟩
  by_cases hp : p = q
  · subst hp
    rw [State.queue_setQueue, hv]
  · rw [State.queue_setQueue_ne _ _ _ hp]

/-! ## Completing the requests that wait (R159, R215, R340) -/

theorem drained (h : SameRings s t) (q : Nat) : SameRings s (t.setQueue q { t.queue q with drainTo := none }) := h.setQueue q _ rfl

theorem streamWrite (h : SameRings s t) (r : Req) : SameRings s (t.streamWrite r).1 := h.setStream _ _

theorem pauseWait (h : SameRings s t) (q : Nat) : SameRings s (t.pauseWait q) := by
  unfold State.pauseWait
  dsimp only
  split
  · exact h.setQueue _ _ rfl
  · exact h

theorem touch (h : SameRings s t) (c : Nat) : SameRings s (t.touch c) := h.beside (Beside.refl t).upd

theorem setCtx (h : SameRings s t) (c : Nat) (v : Ctx) : SameRings s (t.setCtx c v) := h.beside (Beside.refl t).upd

theorem suspended (h : SameRings s t) (c : Nat) : SameRings s (t.suspended c) :=
  have hpaused : SameRings s (t.pauseWaits c) := foldl (fun _ _ h => h.pauseWait _) _ h
  ((hpaused.touch c).setCtx _ _).beside ((Beside.refl _).stopCores c)

theorem abandonFrond (h : SameRings s t) (f : Nat) (engines : Bool) : SameRings s (t.abandonFrond f engines) :=
  h.relabel _ fun x => by
    dsimp only
    split
    · rfl
    · split <;> rfl

theorem abandonUnits (h : SameRings s t) (f : Nat → Bool) (code unit : Nat) : SameRings s (t.abandonUnits f code unit) :=
  h.relabel _ fun x => by
    dsimp only
    split
    · rfl
    · split <;> rfl

theorem channelOut (h : SameRings s t) (ch : Nat) (svc : Svc) (code : Nat) : SameRings s (t.channelOut ch svc code) :=
  ((h.beside ((Beside.refl t).setChan ch _)).abandonUnits _ _ _).beside ((((Beside.refl _).returnTokens _).dropSteps _).returnStack _)

theorem unitOut (h : SameRings s t) (u code : Nat) : SameRings s (t.unitOut u code) := by
  unfold State.unitOut
  dsimp only
  split
  · have hcore := fun v => h.beside (((Beside.refl t).setCore (bits u 0 28) v).returnLevel (bits u 0 28))
    exact ite (hcore _) ((hcore _).abandonFrond _ _)
  · exact h.beside (Beside.refl t).upd
  · exact h.beside (((Beside.refl t).portLeave _).setRPort _ _)
  · exact foldl (fun _ _ h => ite h (h.channelOut _ _ _)) _ h

theorem reply (h : SameRings s t) (mb : Fin 32) (st bl b : Nat) (cl : List Clamp) : SameRings s (t.reply mb st bl b cl) :=
  h.beside ((Beside.refl t).reply _ _ _ _ _)

theorem settleUnit (h : SameRings s t) (i : Nat) : SameRings s (settleUnit t i) :=
  ite (((h.unitOut _ _).beside ((Beside.refl _).ev _ _ _ _ _ _ _ _)).reply _ _ _ _ _) h

theorem settleMb (h : SameRings s t) (i : Nat) : SameRings s (settleMb t i) := by
  refine ite h ?_
  split
  · exact ite ((h.suspended _).reply _ _ _ _ _) h
  · exact ite (((h.drained _).touch _).reply _ _ _ _ _) h
  · exact ite h (ite (h.reply _ _ _ _ _) ((h.streamWrite _).reply _ _ _ _ _))
  · exact h.settleUnit _
  · exact h

theorem settle (h : SameRings s t) : SameRings s t.settle := foldl (fun _ _ h => h.settleMb _) _ h

/-! ## Reads, streams and flags at issue (R138, R211, R223) -/

theorem accesses (h : SameRings s t) (src k : Nat) (req : Requester) (cols : List Nat) :
    SameRings s ((t.reach src k cols).noteReads req cols) :=
  h.beside (((Beside.refl t).reach src k cols).reads (Reads.noteReads _ req cols))

theorem faultStreams (h : SameRings s t) (r : Rec) : SameRings s (t.faultStreams r) :=
  foldl (fun _ _ h => ite ((h.setStream _ _).beside ((Beside.refl _).ev _ _ _ _ _ _ _ _)) h) _ h

theorem consume (h : SameRings s t) (r : Rec) : SameRings s (t.consume r) := ite (h.beside ((Beside.refl t).putFlags _ _ _)) h

end SameRings

/-! ## A record off the ring (R138, R159) -/

/-- The places of a queue whose completion ring takes one more record. -/
def Queue.oneMore (u : Queue) : Word32 × Word32 × Word32 := (u.head, u.tail, u.cqTail + 1)

theorem Queue.oneMore_congr {u v : Queue} (h : u.places = v.places) : u.oneMore = v.oneMore := by
  obtain ⟨hhead, htail, hcq⟩ := Queue.places_eq_iff.1 h
  rw [Queue.oneMore, hhead, htail, hcq]
  rfl

/-- `t` comes from `u` by the decode of a record that has left the ring: it is in flight as it was issued, or its completion record is
written. -/
def Decoded (u t : State) (r : Rec) : Prop :=
  ((t.queue r.q).places = (u.queue r.q).places ∧ r.asIssued ∈ t.recs.map Rec.asIssued) ∨ (t.queue r.q).places = (u.queue r.q).oneMore

/-- R159: a record that completes has its completion record written. -/
theorem State.places_retire (u : State) (r : Rec) : ((u.retire r true).queue r.q).places = (u.queue r.q).oneMore :=
  congrArg Queue.places (u.queue_retire r)

namespace Decoded
variable {u v t : State} {r : Rec}

theorem of_sameRings (h : SameRings u v) (k : Decoded v t r) : Decoded u t r :=
  k.imp (fun ⟨hplaces, hin⟩ => ⟨hplaces.trans (h.places _), hin⟩) fun hmore => hmore.trans (Queue.oneMore_congr (h.places _))

theorem retire (u : State) (r : Rec) : Decoded u (u.retire r true) r := .inr (u.places_retire r)

theorem enter (u : State) (r : Rec) : Decoded u (u.enter r) r := .inl ⟨rfl, by simp [State.enter, Rec.asIssued]⟩

theorem enterColl (u : State) (r : Rec) : Decoded u (u.enterColl r) r := by
  unfold State.enterColl
  extract_lets m k r' cancelled v
  have hcounted : SameRings u v := ⟨fun _ => rfl, rfl⟩
  split
  · exact of_sameRings hcounted (retire v (r'.failWith Status.cancelled 0))
  · exact of_sameRings hcounted (enter v r')

theorem failDecode (u : State) (r : Rec) (st unit : Nat) : Decoded u (u.failDecode r st unit) r := by
  have hfaulted : SameRings u (if st = Status.positionExhausted then u.faultStreams r else u) :=
    .ite ((SameRings.refl u).faultStreams r) (.refl u)
  unfold State.failDecode
  extract_lets v w
  split
  · exact of_sameRings (hfaulted.beside ((Beside.refl v).ev _ _ _ _ _ _ _ _)) (retire w { r.failWith st unit with evSeq := w.evNewest })
  · exact of_sameRings hfaulted (retire v (r.failWith st unit))

/-- What is read at decode changes nothing that a record was issued with. -/
theorem readRec (h : Decoded u t (v.readRec r)) : Decoded u t r := h

end Decoded

theorem State.decode_decoded (u : State) (r : Rec) : Decoded u (u.decode r) r := by
  have hread := (SameRings.refl u).accesses rachis 12 .sequencer (u.decodeCols (u.readRec r))
  unfold State.decode
  dsimp only
  split
  · exact .readRec (.of_sameRings hread (.failDecode _ _ _ _))
  · split
    · exact .readRec (.of_sameRings (hread.consume _) (.enterColl _ _))
    · exact .readRec (.of_sameRings (hread.consume _) (.enter _ _))

/-! ## The record at `HEAD` -/

/-- `HEAD` passes one record; `TAIL` and `CQ_TAIL` stand. -/
theorem State.places_passHead (s : State) (q : Nat) :
    ((s.passHead q).queue q).places = ((s.queue q).head + 1, (s.queue q).tail, (s.queue q).cqTail) := by
  simp [State.passHead, State.headNow, Queue.places]

/-- The state in which a queue's entry at `HEAD` has been read. -/
def State.headRead (s : State) (q : Nat) : State :=
  let ring := s.colsOf ((s.queue q).entryAt (s.queue q).head) 128
  (s.reach rachis 12 ring).noteReads .sequencer ring

/-- The state in which the record at a queue's `HEAD` has left the ring, the scheduler being `d`. -/
def State.offRing (s : State) (q : Nat) (d : Sched) : State := { (s.headRead q).passHead q with sched := d }

theorem State.places_offRing (s : State) (q : Nat) (d : Sched) :
    ((s.offRing q d).queue q).places = ((s.queue q).head + 1, (s.queue q).tail, (s.queue q).cqTail) := by
  have hread : SameRings s (s.headRead q) := (SameRings.refl s).accesses _ _ _ _
  obtain ⟨hhead, htail, hcq⟩ := Queue.places_eq_iff.1 (hread.places q)
  have hqueue : (s.offRing q d).queue q = ((s.headRead q).passHead q).queue q := rfl
  rw [hqueue, State.places_passHead, hhead, htail, hcq]

/-- R138, R225: off the ring, a record whose entry cannot be read fails, a wait whose time-out has come completes, any other record is decoded. -/
theorem State.issueRec_eq (s : State) (q : Nat) (expired : Bool) :
    s.issueRec q expired =
      let u := s.offRing q (if expired then s.sched else s.scheduled q)
      match s.headBad q with
      | some (st, unit) => u.retire ((s.headRec q).failWith st unit) true
      | none => if expired then u.retire ((s.headRec q).failWith Status.timeout 0) true else u.decode (s.headRec q) := rfl

theorem State.issueRec_decoded (s : State) (q : Nat) (expired : Bool) :
    Decoded (s.offRing q (if expired then s.sched else s.scheduled q)) (s.issueRec q expired) (s.headRec q) := by
  rw [State.issueRec_eq]
  extract_lets u
  rcases s.headBad q with _ | ⟨st, unit⟩
  · dsimp only
    split
    · exact .retire u ((s.headRec q).failWith _ _)
    · exact u.decode_decoded _
  · exact .retire u ((s.headRec q).failWith _ _)

/-- R225: a wait that times out completes. -/
theorem State.places_issueRec_expired {s : State} {q : Nat} (h : s.headBad q = none) :
    ((s.issueRec q true).queue q).places = ((s.queue q).head + 1, (s.queue q).tail, (s.queue q).cqTail + 1) := by
  rw [State.issueRec_eq, h]
  refine (State.places_retire _ ((s.headRec q).failWith Status.timeout 0)).trans ?_
  obtain ⟨hhead, htail, hcq⟩ := Queue.places_eq_iff.1 (s.places_offRing q s.sched)
  exact Prod.ext hhead (Prod.ext htail (congrArg (· + 1) hcq))

/-- The record at `HEAD` has left the ring, whatever completes then that has waited. -/
theorem State.issueRec_leftRing {s t : State} {q : Nat} {expired : Bool} (h : SameRings (s.issueRec q expired) t) : LeftRing s t q := by
  obtain ⟨hhead, htail, hcq⟩ := Queue.places_eq_iff.1 (s.places_offRing q (if expired then s.sched else s.scheduled q))
  rcases s.issueRec_decoded q expired with ⟨hplaces, hin⟩ | hmore
  · obtain ⟨khead, ktail, kcq⟩ := Queue.places_eq_iff.1 ((h.places q).trans hplaces)
    rw [← h.recs] at hin
    obtain ⟨x, hx, hissued⟩ := List.mem_map.1 hin
    simp only [Rec.asIssued, Prod.mk.injEq] at hissued
    obtain ⟨hxq, hxseq, hxraw, hxstarted⟩ := hissued
    exact ⟨khead.trans hhead, ktail.trans htail, .inl ⟨⟨x, hx, hxq, hxseq, hxraw, hxstarted⟩, kcq.trans hcq⟩⟩
  · obtain ⟨khead, ktail, kcq⟩ := Queue.places_eq_iff.1 ((h.places q).trans hmore)
    exact ⟨khead.trans hhead, ktail.trans htail, .inr (kcq.trans (congrArg (· + 1) hcq))⟩

/-! ## The three commands -/

/-- The record at `HEAD` does not depend on the time. -/
theorem State.headRec_advance (s : State) (at_ q : Nat) : (s.advance at_).headRec q = s.headRec q := rfl

theorem SameRings.forfeit {s t : State} (h : SameRings s t) : SameRings s t.forfeit := h.beside (Beside.refl t).upd

theorem execRecordIssue_leaves {s : State} {q : Nat} (h : s.nextQueue = some q) :
    ∃ t, exec (.recordIssue q) s = .next t ∧ LeftRing s t q := by
  refine ⟨_, rfl, State.issueRec_leftRing (expired := false) ?_⟩
  rw [if_pos h]
  exact (SameRings.refl _).forfeit.settle

theorem execFlagWait_leaves {s : State} {q : Nat} (hop : (s.headRec q).op = 0x51) (h : s.nextQueue = some q) :
    ∃ t, exec (.flagWait q) s = .next t ∧ LeftRing s t q := by
  refine ⟨_, rfl, State.issueRec_leftRing (expired := false) ?_⟩
  rw [if_pos ⟨hop, h⟩]
  exact (SameRings.refl _).forfeit.settle

/-- Settles O31: the record at `HEAD` is decoded once it is off the ring (`State.issueRec_leftRing`), or completes at its time-out
(`State.places_issueRec_expired`); what has waited for it leaves the rings (`SameRings.settle`). -/
theorem recordsLeaveTheRing : Obligations.RecordsLeaveTheRing := by
  intro s q
  refine ⟨execRecordIssue_leaves, execFlagWait_leaves, fun at_ hop htime hdue hroom hclear hgood hmapped hwaits => ?_⟩
  have hexec : exec (.flagWaitTimeout q at_) s = .next ((s.advance at_).issueRec q true).settle := by
    refine congrArg (fun t : State => Host.Outcome.next t.settle) (if_pos ?_)
    simp [State.headRec_advance, hop, htime, hdue, hroom, hclear, hgood, hmapped, hwaits]
  obtain ⟨hhead, -, hcq⟩ := Queue.places_eq_iff.1
    (((SameRings.refl ((s.advance at_).issueRec q true)).settle.places q).trans (State.places_issueRec_expired hgood))
  exact ⟨_, hexec, hhead, hcq⟩

end Sys2Proof.Machine
end

section
/-! SUPPORT. A ticket's commit while a request of another context may complete (R149, R152, R215). -/

namespace Sys2Proof.Machine

set_option Elab.async false

open Sys2Proof

/-- A record of context 0 with one ticket, which core 0 commits; it has no destination, so the commit writes nothing. -/
def Rec.soleCommit : Rec :=
  { q := 0, seq := 0, ctx := 0, raw := 0x20, started := true, workDone := true
    tickets := { total := 1, tab := [(0, { st := .committing (.core 0) 0 })] } }

/-- The module after reset with that record in flight, and a `CTX_SUSPEND` of context 1 begun in mailbox 0: context 1 is active and has no
record in flight, so that nothing is left for which the request waits. -/
def State.suspendDue : State :=
  { State.reset with
    ctxs := [(1, { st := .active })]
    mboxes := [(0, { cur := true, begun := true, st := .busy, sram := BitVec.ofNat 32768 (0x0403 + 2 ^ (8 * 0x10)) })]
    recs := [Rec.soleCommit] }

/-- R215: the commit of the ticket of context 0 ends with the completion of the request, which suspends context 1. -/
theorem State.suspendDue_commitDone :
    ∃ t, exec (.commitDone 0 0 (.core 0) 0) State.suspendDue = .next t ∧ (t.ctx 1).st = .suspended :=
  ⟨_, rfl, by decide +kernel⟩

/-- No `UNIT_DISABLE` waits there: the one request that has begun is the `CTX_SUSPEND`. -/
theorem State.suspendDue_noDisableWaits : NoDisableWaits State.suspendDue := by
  unfold NoDisableWaits
  decide +kernel

/-- Refutes O33: its clause on `COMMIT_DONE` leaves every context as it was where no `UNIT_DISABLE` waits, but at `State.suspendDue` the command
also completes a `CTX_SUSPEND` that waits for nothing any more, and context 1 leaves the active state. -/
theorem not_ticketProtocol : ¬ Obligations.TicketProtocol := by
  intro h
  obtain ⟨-, -, -, -, hdone, -⟩ := h State.suspendDue 0 0 Rec.soleCommit (.core 0) (by decide +kernel)
  obtain ⟨t, -, ht, -, -, -, -, -, -, -, -, -, hctxs, -⟩ :=
    hdone 0 0 (by decide +kernel) (by decide +kernel) State.suspendDue_noDisableWaits
  obtain ⟨t', ht', hsuspended⟩ := State.suspendDue_commitDone
  obtain rfl : t' = t := Host.Outcome.next.inj (ht'.symm.trans ht)
  have hactive : (t'.ctx 1).st = .active := congrArg (fun m => (Tbl.get ({} : Ctx) m 1).st) hctxs
  rw [hsuspended] at hactive
  cases hactive

end Sys2Proof.Machine
end

section
/-! SUPPORT. Host transfers that have begun (R178 to R180, R255 to R257): what comes for their tickets, and what their halt leaves. -/

namespace Sys2Proof.Machine

set_option Elab.async false

open Sys2Proof

/-- An entry-wise change of a table that keeps a projection of the entries' values keeps it at every index, listed or not. -/
theorem Tbl.proj_get_map {α β : Type} (f : α → β) (d : α) (g : Nat × α → α) (hg : ∀ e, f (g e) = f e.2) (m : Tbl α) (k : Nat) :
    f (Tbl.get d (m.map fun e => (e.1, g e)) k) = f (Tbl.get d m k) := by
  induction m with
  | nil => rfl
  | cons e m ih =>
    by_cases hk : k = e.1
    · simpa [Tbl.get, hk] using hg e
    · simpa [Tbl.get, hk] using ih

/-! ## Tickets of a transfer -/

/-- R256: a halt keeps the count of every ticket. -/
theorem Rec.acked_ticket_haltTickets (r : Rec) (k : Nat) : (r.haltTickets.ticket k).acked = (r.ticket k).acked :=
  Tbl.proj_get_map Ticket.acked {} _ (fun e => by split <;> rfl) r.tickets.tab k

theorem Rec.inCommit_of_committing {r : Rec} {k : Nat} {who : Claimant} {e : Nat} (h : (r.ticket k).st = .committing who e) :
    r.inCommit k = true := by
  simp [Rec.inCommit, h]

theorem Rec.inHand_of_claimed {r : Rec} {k : Nat} {who : Claimant} {e : Nat} (h : (r.ticket k).st = .claimed who e) :
    r.inHand k = true := by
  simp [Rec.inHand, h]

/-! ## The halt of a transfer -/

/-- R256, R257: the record of a host transfer that has halted with a status, its event-log entry being `ev`. -/
def Rec.haltedWith (r : Rec) (status ev : Nat) : Rec :=
  { (r.failWith status (unitId 8 r.variant)).haltTickets with workDone := true, halted := true, evSeq := ev }

/-- R178, R256: the bytes of a halted transfer's tickets that were acknowledged stay so. -/
theorem Rec.acked_ticket_haltedWith (r : Rec) (status ev k : Nat) : ((r.haltedWith status ev).ticket k).acked = (r.ticket k).acked :=
  (r.failWith status (unitId 8 r.variant)).acked_ticket_haltTickets k

/-- R257: a halt logs its event and then replaces the record. -/
theorem State.haltXfer_eq (s : State) (r : Rec) (status : Nat) :
    ∃ t, Notice s t ∧ s.haltXfer r status = t.setRec (r.haltedWith status t.evNewest) :=
  ⟨_, (Notice.refl s).ev _ _ _ _ _ _ _ _, rfl⟩

/-- R256, R257: a halted transfer is over with its status, the bytes acknowledged stand, and memory and all else of the module are as they were. -/
theorem State.haltXfer_leaves {s : State} {r : Rec} (h : s.findRec r.q r.seq = some r) (status : Nat) :
    Halted (s.haltXfer r status) r status ∧ WorkFrame s (s.haltXfer r status) r ∧ (s.haltXfer r status).mem = s.mem := by
  obtain ⟨t, hnotice, heq⟩ := s.haltXfer_eq r status
  rw [heq]
  have hframe : WorkFrame s (t.setRec (r.haltedWith status t.evNewest)) r := (Reads.of_notice hnotice []).setRec_workFrame ⟨rfl, rfl⟩
  obtain ⟨_, _, _, _, _, rfl⟩ := hnotice
  exact ⟨⟨_, State.findRec_setRec_same h ⟨rfl, rfl⟩, rfl, rfl, List.mem_append_right _ (List.mem_singleton_self _),
    r.acked_ticket_haltedWith status _, rfl⟩, hframe, rfl⟩

/-! ## The commands of a transfer that goes on -/

/-- R255: `r` is a host transfer of one of some operations in flight that has begun and goes on, and its link does not retrain. -/
def GoesOn (s : State) (q : Nat) (seq : Word32) (ops : List Nat) (r : Rec) : Prop :=
  s.findRec q seq = some r ∧ r.op ∈ ops ∧ r.workDone = true ∧ r.halted = false ∧ r.tickets.done < r.tickets.total
    ∧ (s.port r.variant).retraining = false

section
variable {s : State} {q : Nat} {seq : Word32} {ops : List Nat} {r : Rec}

/-- A command acts on a transfer that goes on. -/
theorem onXfer_of_goesOn (h : GoesOn s q seq ops r) (act : Rec → State) : onXfer q seq ops s act = act r := by
  obtain ⟨hfind, hop, hbegun, hhalted, hdone, htrained⟩ := h
  unfold onXfer
  rw [hfind]
  exact if_pos (by simp [hop, hbegun, hhalted, hdone, htrained])

/-- R179: an acknowledging read counts the bytes before it. -/
theorem exec_hostAckReadComplete (h : GoesOn s q seq [0x34] r) {k n : Nat} (hcommit : r.inCommit k = true)
    (hpoint : n ∈ ackPoints (r.ticketBytes k).length) (hmore : (r.ticket k).acked < n) :
    exec (.hostAckReadComplete q seq { ticket := k, bytes := n }) s = .next (s.setRec (r.gotBytes k n [])) :=
  congrArg Host.Outcome.next ((onXfer_of_goesOn h _).trans (if_pos ⟨hcommit, List.contains_iff_mem.2 hpoint, hmore⟩))

/-- R180: data for a ticket that is held joins what has come for it. -/
theorem exec_hostReadCompletion_data (h : GoesOn s q seq [0x34, 0x35] r) (hop : r.op = 0x35) {k : Nat} (hheld : r.inHand k = true)
    (bs : List Byte) : exec (.hostReadCompletion q seq (.data k bs)) s = .next (s.setRec (r.dataIn k bs)) :=
  congrArg Host.Outcome.next ((onXfer_of_goesOn h _).trans (if_pos ⟨hop, hheld⟩))

/-- R180: a completion with Unsupported Request halts the transfer. -/
theorem exec_hostReadCompletion_ur (h : GoesOn s q seq [0x34, 0x35] r) :
    exec (.hostReadCompletion q seq .ur) s = .next (s.haltXfer r Status.outOfBounds) :=
  congrArg Host.Outcome.next (onXfer_of_goesOn h _)

/-- R180: a completion with Completer Abort halts the transfer. -/
theorem exec_hostReadCompletion_ca (h : GoesOn s q seq [0x34, 0x35] r) :
    exec (.hostReadCompletion q seq .ca) s = .next (s.haltXfer r Status.outOfBounds) :=
  congrArg Host.Outcome.next (onXfer_of_goesOn h _)

/-- R180: the completion time-out halts the transfer. -/
theorem exec_hostCompletionTimeout (h : GoesOn s q seq [0x34, 0x35] r) :
    exec (.hostCompletionTimeout q seq) s = .next (s.haltXfer r Status.timeout) :=
  congrArg Host.Outcome.next (onXfer_of_goesOn h _)

/-- R180: a command that halts a transfer leaves its record halted, memory and all else of the module as they were. -/
theorem halts_of_exec {i : Instr} {status : Nat} (h : GoesOn s q seq ops r) (hexec : exec i s = .next (s.haltXfer r status)) :
    ∃ t, exec i s = .next t ∧ Halted t r status ∧ WorkFrame s t r ∧ t.mem = s.mem := by
  obtain ⟨hfind, -⟩ := h
  obtain ⟨rfl, rfl⟩ := State.findRec_key hfind
  exact ⟨_, hexec, State.haltXfer_leaves hfind status⟩

end

/-- Settles O50: a transfer that goes on is what each of the three commands acts on (`onXfer_of_goesOn`); the clauses on errors and on the
time-out are the halt of the transfer (`halts_of_exec`). -/
theorem hostTransfers : Obligations.HostTransfers := by
  intro s q seq r hfind hop hbegun hhalted hdone htrained
  have hon : GoesOn s q seq [0x34, 0x35] r := ⟨hfind, by simpa using hop, hbegun, hhalted, hdone, htrained⟩
  refine ⟨fun k who e n hwrite hst hpoint hmore => ?_, fun k who e bs hread hst => ?_,
    halts_of_exec hon (exec_hostReadCompletion_ur hon), halts_of_exec hon (exec_hostReadCompletion_ca hon),
    halts_of_exec hon (exec_hostCompletionTimeout hon)⟩
  · have hon' : GoesOn s q seq [0x34] r := ⟨hfind, by simpa using hwrite, hbegun, hhalted, hdone, htrained⟩
    exact exec_hostAckReadComplete hon' (Rec.inCommit_of_committing hst) hpoint hmore
  · exact exec_hostReadCompletion_data hon hread (Rec.inHand_of_claimed hst) bs

end Sys2Proof.Machine
end

section
/-! SUPPORT. Register writes (R204, R228, R242, R267, R365 to R370): the page that a write lies in, and what the writes of the statement do there. -/

namespace Sys2Proof.Machine

set_option Elab.async false

open Sys2Proof

/-! ## Fields of a write (R365) -/

theorem ofNat_shiftRight_byte (x i : Nat) : BitVec.ofNat 8 (x >>> (8 * i)) = byteNum x i := by
  rw [byteNum, Nat.shiftRight_eq_div_pow, Nat.pow_mul]

/-- R365: a write that covers a field and no more gives it the value written. -/
theorem RegWrite.into_self (w : RegWrite) (old : Nat) : w.into w.off w.size old = w.v % 256 ^ w.size := by
  rw [← natOf_byteNum]
  refine congrArg natOf (List.map_congr_left fun i hi => ?_)
  have hi := List.mem_range.1 hi
  rw [if_pos ⟨Nat.le_add_right _ _, Nat.add_lt_add_left hi _⟩, Nat.add_sub_cancel_left, ofNat_shiftRight_byte]

/-- R365: a field that a write does not cover keeps its value. -/
theorem RegWrite.into_of_not_hits {w : RegWrite} {fo n : Nat} (h : w.hits fo n = false) (old : Nat) : w.into fo n old = old % 256 ^ n := by
  rw [← natOf_byteNum]
  refine congrArg natOf (List.map_congr_left fun i hi => ?_)
  have hi := List.mem_range.1 hi
  simp only [RegWrite.hits, Bool.and_eq_false_iff, decide_eq_false_iff_not] at h
  rw [if_neg (by omega), ofNat_shiftRight_byte]

/-- The value that a register write of `size` bytes writes. -/
def writtenValue (size : Nat) (v : Word64) : Nat := v.toNat % 2 ^ (8 * size)

theorem writtenValue_mod (size : Nat) (v : Word64) : writtenValue size v % 256 ^ size = writtenValue size v := by
  unfold writtenValue
  rw [show 256 ^ size = 2 ^ (8 * size) by rw [Nat.pow_mul], Nat.mod_mod]

theorem RegWrite.into_writtenValue (off size old : Nat) (v : Word64) :
    RegWrite.into { off, size, v := writtenValue size v } off size old = writtenValue size v :=
  (RegWrite.into_self _ _).trans (writtenValue_mod _ _)

theorem ofNat_writtenValue (size : Nat) (v : Word64) : BitVec.ofNat (8 * size) (writtenValue size v) = v.setWidth (8 * size) := by
  apply BitVec.eq_of_toNat_eq
  simp [writtenValue]

/-! ## The page map (R365) -/

theorem exec_registerWrite (a : Agent) (off size : Nat) (v : Word64) (s : State) :
    exec (.registerWrite a off size v) s = .next (regWrite a { off, size, v := writtenValue size v } s) := rfl

section
variable {s : State} {a : Agent} {w : RegWrite}

theorem regWrite_of_bad (h : [1, 2, 4, 8].contains w.size = false ∨ w.off % w.size ≠ 0) : regWrite a w s = s := by
  unfold regWrite
  rw [if_pos]
  simpa using h

variable (hs : [1, 2, 4, 8].contains w.size = true) (hal : w.off % w.size = 0)
include hs hal

theorem regWrite_mailbox {mb : Fin 32} {x : Nat} (h : mailboxAt a w.off = some (mb, x)) : regWrite a w s = mailboxWrite mb { w with off := x } s := by
  unfold regWrite
  rw [if_neg (by rw [hs, hal]; decide), h]

theorem regWrite_doorbell {q x : Nat} (hq : q < 2048) (hx : x < 0x1000) (ho : w.off = doorbellOff q + x) :
    regWrite a w s = doorbellWrite a q { w with off := x } s := by
  unfold doorbellOff at ho
  have hnone : mailboxAt a w.off = none := if_pos (.inr (by omega))
  unfold regWrite
  rw [if_neg (by rw [hs, hal]; decide), hnone]
  dsimp only
  rw [if_pos (by omega), show (w.off - 0x10000) / 0x1000 = q by omega, show w.off % 0x1000 = x by omega]

theorem regWrite_flag {c x : Nat} (hc : c < 256) (hx : x < 0x10000) (ho : w.off = flagOff c + x) :
    regWrite a w s = flagWrite a c { w with off := x } s := by
  unfold flagOff at ho
  have hnone : mailboxAt a w.off = none := if_pos (.inr (by omega))
  unfold regWrite
  rw [if_neg (by rw [hs, hal]; decide), hnone]
  dsimp only
  rw [if_neg (by omega), if_pos (by omega), show (w.off - 0x1000000) / 0x10000 = c by omega, show w.off % 0x10000 = x by omega]

theorem regWrite_intr {x : Nat} (hx : x < 0x1000) (ho : w.off = 0x2000000 + x) : regWrite a w s = intrWrite a { w with off := x } s := by
  have hnone : mailboxAt a w.off = none := if_pos (.inr (by omega))
  unfold regWrite
  rw [if_neg (by rw [hs, hal]; decide), hnone]
  dsimp only
  rw [if_neg (by omega), if_neg (by omega), if_pos (by omega), show w.off % 0x1000 = x by omega]

theorem regWrite_port {p : Fin 4} {x : Nat} (hx : x < 0x1000) (ho : w.off = 0x3000000 + x) :
    regWrite (.port p) w s = portWrite p { w with off := x } s := by
  have hnone : mailboxAt (.port p) w.off = none := if_pos (.inr (by omega))
  unfold regWrite
  rw [if_neg (by rw [hs, hal]; decide), hnone]
  dsimp only
  rw [if_neg (by omega), if_neg (by omega), if_neg (by omega), if_pos (by omega), show w.off % 0x1000 = x by omega]

end

/-! ## Pages -/

theorem doorbellWrite_tail (a : Agent) (q : Nat) (v : Word64) (s : State) :
    doorbellWrite a q { off := 0, size := 4, v := writtenValue 4 v } s = doorbellPage a q 0 (v.setWidth 32) s (tailWrite a q (v.setWidth 32)) := by
  unfold doorbellWrite
  simp only [RegWrite.into_writtenValue, ofNat_writtenValue 4 v]
  rfl

theorem doorbellWrite_cqHead (a : Agent) (q : Nat) (v : Word64) (s : State) :
    doorbellWrite a q { off := 8, size := 4, v := writtenValue 4 v } s = doorbellPage a q 8 (v.setWidth 32) s (cqHeadPut a q (v.setWidth 32)) := by
  unfold doorbellWrite
  simp only [RegWrite.into_writtenValue, ofNat_writtenValue 4 v]
  rfl

theorem flagWrite_set (a : Agent) (c : Nat) (v : Word64) (s : State) :
    flagWrite a c { off := 0, size := 2, v := writtenValue 2 v } s = flagPageOne a c 0 (v.setWidth 16) true s := by
  unfold flagWrite
  simp only [RegWrite.into_writtenValue, ofNat_writtenValue 2 v]
  rfl

theorem flagWrite_clear (a : Agent) (c : Nat) (v : Word64) (s : State) :
    flagWrite a c { off := 8, size := 2, v := writtenValue 2 v } s = flagPageOne a c 8 (v.setWidth 16) false s := by
  unfold flagWrite
  simp only [RegWrite.into_writtenValue, ofNat_writtenValue 2 v]
  rfl

theorem flagWrite_mask (a : Agent) (c : Nat) {slot off : Nat} (hslot : slot < 1024) (hoff : off = 0x2000 ∨ off = 0x4000) (v : Word64) (s : State) :
    flagWrite a c { off := off + 8 * slot, size := 8, v := writtenValue 8 v } s = flagPageMask a c off slot v (off == 0x2000) s := by
  have hset : RegWrite.hits { off := off + 8 * slot, size := 8, v := writtenValue 8 v } 0 2 = false := by
    simp [RegWrite.hits]; omega
  have hclear : RegWrite.hits { off := off + 8 * slot, size := 8, v := writtenValue 8 v } 8 2 = false := by
    simp [RegWrite.hits]; omega
  unfold flagWrite
  rw [hset, hclear]
  dsimp only
  rw [show (off + 8 * slot) / 8 * 8 = off + 8 * slot by omega, show (off + 8 * slot) % 0x2000 / 8 = slot by omega, RegWrite.into_writtenValue,
    ofNat_writtenValue 8 v]
  rcases hoff with rfl | rfl
  · rw [if_neg Bool.false_ne_true, if_neg Bool.false_ne_true, if_pos (by omega)]
    simp
  · rw [if_neg Bool.false_ne_true, if_neg Bool.false_ne_true, if_neg (by omega), if_pos (by omega)]
    rfl

theorem writtenValue_testBit (size : Nat) (v : Word64) {i : Nat} (hi : i < 8 * size) : (writtenValue size v).testBit i = v.getLsbD i := by
  simp [writtenValue, Nat.testBit_mod_two_pow, hi, BitVec.testBit_toNat]

theorem portWrite_fence (p : Fin 4) (v : Word64) (s : State) :
    portWrite p { off := 0x018, size := 1, v := writtenValue 1 v } s = if v.getLsbD 0 then s.fencePort p else s.unfencePort p := by
  unfold portWrite
  simp only [RegWrite.into_writtenValue, writtenValue_testBit 1 v (i := 0) (by decide)]
  rfl

/-- R368: a byte write of the causes clears those whose bit it sets. -/
theorem intrWrite_causes (a : Agent) (v : Word64) (s : State) :
    intrWrite a { off := 0x008, size := 1, v := writtenValue 1 v } s
      = s.setIntr (agentIdx a) ((s.intr (agentIdx a)).clear (writtenValue 1 v) 0) := by
  unfold intrWrite
  simp only [RegWrite.into_writtenValue]
  rw [RegWrite.into_of_not_hits (fo := 0x010) (n := 4) rfl]
  rfl

theorem Intr.clear_causes (i : Intr) (v : Word64) :
    i.clear (writtenValue 1 v) 0 = { i with
      modErr := i.modErr && !v.getLsbD 0
      bucket := i.bucket && !v.getLsbD 2
      ownership := i.ownership && !v.getLsbD 3
      mbDone := i.mbDone &&& ~~~(v.extractLsb' 4 4) } := by
  have hdone : BitVec.ofNat 4 (bits (writtenValue 1 v) 4 4) = v.extractLsb' 4 4 := by
    apply BitVec.eq_of_toNat_eq
    simp only [bits, writtenValue, BitVec.toNat_ofNat, BitVec.extractLsb'_toNat, Nat.shiftRight_eq_div_pow]
    omega
  have hovf : i.ovf &&& ~~~(BitVec.ofNat 32 0) = i.ovf := by
    rw [show ~~~(BitVec.ofNat 32 0) = BitVec.allOnes 32 from rfl, BitVec.and_allOnes]
  have hover : (!(i.ovf == 0 && i.ovf != 0)) = true := by simp [bne]
  unfold Intr.clear
  dsimp only
  rw [hdone, hovf, hover, Bool.and_true, writtenValue_testBit 1 v (by decide), writtenValue_testBit 1 v (by decide),
    writtenValue_testBit 1 v (by decide)]

/-! ## Mailbox blocks (R267, R268) -/

/-- A request area in which `size` bytes from byte `x` on are those of `v`. -/
def patched (req : BitVec 32768) (x size : Nat) (v : Word64) : BitVec 32768 :=
  (req &&& ~~~(BitVec.ofNat 32768 ((2 ^ (8 * size) - 1) <<< (8 * x))))
    ||| BitVec.ofNat 32768 ((writtenValue size v % 2 ^ (8 * size)) <<< (8 * x))

theorem getLsbD_patched (req : BitVec 32768) (x size : Nat) (v : Word64) {i : Nat} (hi : i < 32768) :
    (patched req x size v).getLsbD i = if 8 * x ≤ i ∧ i < 8 * x + 8 * size then v.getLsbD (i - 8 * x) else req.getLsbD i := by
  have hin : (decide (8 * x ≤ i) && decide (i - 8 * x < 8 * size)) = decide (8 * x ≤ i ∧ i < 8 * x + 8 * size) := by
    rw [← Bool.decide_and, decide_eq_decide]
    omega
  have hmask : (BitVec.ofNat 32768 ((2 ^ (8 * size) - 1) <<< (8 * x))).getLsbD i = decide (8 * x ≤ i ∧ i < 8 * x + 8 * size) := by
    rw [BitVec.getLsbD_ofNat, decide_eq_true hi, Bool.true_and, Nat.testBit_shiftLeft, Nat.testBit_two_pow_sub_one, hin]
  have hvalue : (BitVec.ofNat 32768 ((writtenValue size v % 2 ^ (8 * size)) <<< (8 * x))).getLsbD i
      = (decide (8 * x ≤ i ∧ i < 8 * x + 8 * size) && v.getLsbD (i - 8 * x)) := by
    rw [BitVec.getLsbD_ofNat, decide_eq_true hi, Bool.true_and, Nat.testBit_shiftLeft, writtenValue, Nat.mod_mod, Nat.testBit_mod_two_pow,
      BitVec.testBit_toNat, ← Bool.and_assoc, hin]
  rw [patched, BitVec.getLsbD_or, BitVec.getLsbD_and, BitVec.getLsbD_not, hmask, hvalue]
  by_cases hc : 8 * x ≤ i ∧ i < 8 * x + 8 * size <;> simp [hc, hi]

section
variable {s : State} {mb : Fin 32} {w : RegWrite} (hx : w.off < 0x1000)
include hx

theorem mailboxWrite_request (hb : (s.mbox mb).st ≠ .busy) {v : Word64} (hv : w.v = writtenValue w.size v) :
    mailboxWrite mb w s = s.setMbox mb { s.mbox mb with req := patched (s.mbox mb).req w.off w.size v } := by
  unfold mailboxWrite
  rw [if_pos hx, if_neg hb, hv]
  rfl

theorem mailboxWrite_busy (hb : (s.mbox mb).st = .busy) : mailboxWrite mb w s = s.setMbox mb { s.mbox mb with ringErr := true } := by
  unfold mailboxWrite
  rw [if_pos hx, if_pos hb]

end

/-- R267: mailbox `m` of a port has the `m`-th block of its page map. -/
theorem mailboxAt_port (p : Fin 4) {m x : Nat} (hm : m < 4) (hx : x < 0x1000) :
    ∃ mb : Fin 32, mb.val = 4 * p.val + m ∧ mailboxAt (.port p) (0x1000 + 0x3000 * m + x) = some (mb, x) := by
  refine ⟨Fin.ofNat 32 (4 * p.val + m), Nat.mod_eq_of_lt (by omega), ?_⟩
  unfold mailboxAt
  rw [if_neg (by omega)]
  simp only [Option.some.injEq, Prod.mk.injEq]
  exact ⟨congrArg (Fin.ofNat 32) (by omega), by omega⟩

theorem registerWrite_request (s : State) (p : Fin 4) {m x size : Nat} (v : Word64) (hm : m < 4) (hx : x < 0x1000)
    (hs : [1, 2, 4, 8].contains size = true) (hal : x % size = 0) :
    let k := 4 * p.val + m
    ((s.mbox k).st ≠ .busy → exec (.registerWrite (.port p) (0x1000 + 0x3000 * m + x) size v) s
        = .next (s.setMbox k { s.mbox k with req := patched (s.mbox k).req x size v }))
      ∧ ((s.mbox k).st = .busy → exec (.registerWrite (.port p) (0x1000 + 0x3000 * m + x) size v) s
        = .next (s.setMbox k { s.mbox k with ringErr := true })) := by
  intro k
  obtain ⟨mb, hmb, hat⟩ := mailboxAt_port p hm hx
  have halign : (0x1000 + 0x3000 * m + x) % size = 0 := by
    have hsize : size = 1 ∨ size = 2 ∨ size = 4 ∨ size = 8 := by simpa using hs
    rcases hsize with rfl | rfl | rfl | rfl <;> omega
  rw [exec_registerWrite, regWrite_mailbox hs halign hat, show k = mb.val from hmb.symm]
  exact ⟨fun hb => congrArg _ (mailboxWrite_request (w := { off := x, size, v := writtenValue size v }) hx hb rfl),
    fun hb => congrArg _ (mailboxWrite_busy (w := { off := x, size, v := writtenValue size v }) hx hb)⟩

/-! ## `EVLOG_ACK` (R368) -/

/-- R248, R255: a message that can be sent leaves the module while the link does not retrain. -/
theorem State.out_msix {s : State} {p : Fin 4} {v : Nat} (hsend : (s.port p).canSend v = true) (hlink : (s.port p).retraining = false) :
    (s.msix p v).out = (s.port p).message p v :: s.out := by
  have hcan := hsend
  simp only [Port.canSend, Port.reach, Bool.and_eq_true] at hcan
  obtain ⟨⟨⟨hon, -⟩, -⟩, ⟨hup, -⟩, -⟩ := hcan
  simp [State.msix, State.toHost, hon, hsend, hup, hlink, State.emit]

/-- R368: an acknowledgement sets `ACK` of the agent's page, and sends no more than a message. -/
theorem evlogAck_eq (a : Agent) (v : Nat) (s : State) :
    ∃ ps o, evlogAck a v s
      = { s.setIntr (agentIdx a) { s.intr (agentIdx a) with ack := Nat.min v s.evNewest } with ports := ps, out := o } := by
  cases a with
  | port p =>
    unfold evlogAck
    dsimp only
    split
    · exact State.msix_eq _ _ _
    · exact ⟨_, _, rfl⟩
  | hcore n => exact ⟨_, _, rfl⟩

theorem out_evlogAck {s : State} {p : Fin 4} {v : Nat} (hv : v < s.evlog.nextSeq - 1) (hsend : (s.port p).canSend 2 = true)
    (hlink : (s.port p).retraining = false) : (evlogAck (.port p) v s).out = (s.port p).message p 2 :: s.out := by
  unfold evlogAck
  dsimp only
  rw [if_pos]
  · exact State.out_msix hsend hlink
  · simp only [State.evPending, State.intr_setIntr, State.setIntr_evlog, decide_eq_true_eq, agentIdx]
    exact Nat.lt_of_le_of_lt (Nat.min_le_left _ _) hv

/-! ## Decoder commits (R242) -/

theorem State.msix_hdm (s : State) (p : Fin 4) (v k : Nat) : ((s.msix p v).port k).hdm = (s.port k).hdm := by
  have hset : ∀ x : Port, x.hdm = (s.port p).hdm → ((s.setPort p x).port k).hdm = (s.port k).hdm := fun x hx => by
    by_cases hk : k = p.val
    · subst hk; simpa using hx
    · rw [State.port_setPort_ne _ _ _ hk]
  unfold State.msix State.toHost
  dsimp only
  split
  · rfl
  · split
    · split
      · rfl
      · split
        · exact hset _ rfl
        · rfl
    · exact hset _ rfl

theorem State.ev_hdm (s : State) (k st u a b c d e n : Nat) : ((s.ev k st u a b c d e).port n).hdm = (s.port n).hdm :=
  List.foldlRecOn (motive := fun t : State => (t.port n).hdm = (s.port n).hdm) _ _ rfl fun t ht p _ => by
    split
    · exact ht
    · exact (t.msix_hdm p 2 n).trans ht

section
variable (s : State) (p : Fin 4) (c : HdmCommit)

/-- A port's decoder `i` is `d`; its other decoders, the other ports and all behind the ports are as they were. -/
theorem State.setDecoder_leaves (i : Nat) (d : Hdm) {t : State} (o : List Out)
    (ht : t = { s.setPort p { s.port p with hdm := Tbl.put {} (s.port p).hdm i d } with out := o }) :
    (t.port p).dec i = d ∧ (∀ k, k ≠ i → (t.port p).dec k = (s.port p).dec k) ∧ (∀ n, n ≠ p.val → t.port n = s.port n)
      ∧ SameBehindPort s t ∧ t.recs = s.recs := by
  subst ht
  have hport : ((s.setPort p { s.port p with hdm := Tbl.put {} (s.port p).hdm i d }).port p).hdm = Tbl.put {} (s.port p).hdm i d := by
    rw [State.port_setPort]
  refine ⟨?_, fun k hk => ?_, fun n hn => State.port_setPort_ne _ _ _ hn, ?_, rfl⟩
  · exact (congrArg (Tbl.get ({} : Hdm) · i) hport).trans (Tbl.get_put_same _ _ _ _)
  · exact (congrArg (Tbl.get ({} : Hdm) · k) hport).trans (Tbl.get_put_ne _ _ _ _ hk)
  · simp [SameBehindPort, SameModule]

/-- R242: the decoder that a commit without error puts in force. -/
def State.committed : Hdm :=
  { base := c.base, size := c.size, skip := c.skip, dpaStart := (s.port p).dpaBefore c.dec.val + c.skip, on := true }

theorem hdmDecoderCommit_off (hon : c.on = false) :
    exec (.hdmDecoderCommit p c) s = .next (s.setPort p { s.port p with hdm := Tbl.put {} (s.port p).hdm c.dec.val {} }) :=
  congrArg Host.Outcome.next (if_pos (by rw [hon]; rfl))

theorem hdmDecoderCommit_commits (hon : c.on = true) (herr : (s.port p).commitError c = none) :
    exec (.hdmDecoderCommit p c) s
      = .next ((s.setPort p { s.port p with hdm := Tbl.put {} (s.port p).hdm c.dec.val (s.committed p c) }).emit (.hdmCommit p c.dec true)) := by
  show Host.Outcome.next (ite _ _ _) = _
  rw [if_neg (by rw [hon]; decide), herr]
  rfl

theorem hdmDecoderCommit_fails {e : Nat} (hon : c.on = true) (herr : (s.port p).commitError c = some e) :
    exec (.hdmDecoderCommit p c) s
      = .next ((s.ev 0x15 0 (unitId 8 p.val) (c.dec.val + e * 2 ^ 8)).emit (.hdmCommit p c.dec false)) := by
  show Host.Outcome.next (ite _ _ _) = _
  rw [if_neg (by rw [hon]; decide), herr]

end

/-- An event-log entry leaves all behind the ports. -/
theorem State.ev_sameBehindPort (s : State) (k st u a b c d e : Nat) : SameBehindPort s (s.ev k st u a b c d e) := by
  obtain ⟨_, _, _, h⟩ := s.ev_eq k st u a b c d e
  rw [h]
  simp [SameBehindPort, SameModule]

/-! ## The statement -/

theorem registerWrite_doorbell (s : State) (a : Agent) (v : Word64) {q : Nat} (hq : q < 2048) :
    exec (.registerWrite a (doorbellOff q) 4 v) s = exec (.doorbellTail a q (v.setWidth 32)) s
      ∧ exec (.registerWrite a (doorbellOff q + 8) 4 v) s = exec (.cqHeadWrite a q (v.setWidth 32)) s := by
  have halign : ∀ x, x % 4 = 0 → (doorbellOff q + x) % 4 = 0 := fun x hx => by unfold doorbellOff; omega
  rw [exec_registerWrite, exec_registerWrite, regWrite_doorbell rfl (halign 0 rfl) hq (x := 0) (by decide) rfl,
    regWrite_doorbell rfl (halign 8 rfl) hq (x := 8) (by decide) rfl, doorbellWrite_tail, doorbellWrite_cqHead]
  exact ⟨rfl, rfl⟩

theorem registerWrite_flag (s : State) (a : Agent) (v : Word64) {c slot : Nat} (hc : c < 256) (hslot : slot < 1024) :
    exec (.registerWrite a (flagOff c) 2 v) s = exec (.flagPageSet a c (v.setWidth 16)) s
      ∧ exec (.registerWrite a (flagOff c + 8) 2 v) s = exec (.flagPageClear a c (v.setWidth 16)) s
      ∧ exec (.registerWrite a (flagOff c + 0x2000 + 8 * slot) 8 v) s = exec (.setMask a c slot v) s
      ∧ exec (.registerWrite a (flagOff c + 0x4000 + 8 * slot) 8 v) s = exec (.clearMask a c slot v) s := by
  have halign : ∀ n, n = 2 ∨ n = 8 → ∀ x, x % n = 0 → (flagOff c + x) % n = 0 := by
    unfold flagOff
    rintro n (rfl | rfl) x hx <;> omega
  rw [Nat.add_assoc, Nat.add_assoc, exec_registerWrite, exec_registerWrite, exec_registerWrite, exec_registerWrite,
    regWrite_flag rfl (halign 2 (.inl rfl) 0 rfl) hc (x := 0) (by decide) rfl,
    regWrite_flag rfl (halign 2 (.inl rfl) 8 rfl) hc (x := 8) (by decide) rfl,
    regWrite_flag rfl (halign 8 (.inr rfl) (0x2000 + 8 * slot) (by omega)) hc (by omega) rfl,
    regWrite_flag rfl (halign 8 (.inr rfl) (0x4000 + 8 * slot) (by omega)) hc (by omega) rfl,
    flagWrite_set, flagWrite_clear, flagWrite_mask a c hslot (.inl rfl), flagWrite_mask a c hslot (.inr rfl)]
  exact ⟨rfl, rfl, rfl, rfl⟩

theorem registerWrite_fence (s : State) (p : Fin 4) (v : Word64) :
    exec (.registerWrite (.port p) 0x3000018 1 v) s = if v.getLsbD 0 then exec (.portFenceSet p) s else exec (.portFenceClear p) s := by
  rw [exec_registerWrite, regWrite_port rfl (Nat.mod_one _) (x := 0x018) (by decide) rfl, portWrite_fence]
  split <;> rfl

theorem registerWrite_causes (s : State) (a : Agent) (v : Word64) :
    exec (.registerWrite a 0x2000008 1 v) s
      = .next (s.setIntr (agentIdx a) ((s.intr (agentIdx a)).clear (writtenValue 1 v) 0)) := by
  rw [exec_registerWrite, regWrite_intr rfl (Nat.mod_one _) (x := 0x008) (by decide) rfl, intrWrite_causes]

/-- Settles O51: a write acts by its page (`regWrite_doorbell` and the lemmas beside it), and there on the fields that it covers. -/
theorem registerWrites : Obligations.RegisterWrites := by
  intro s a v
  refine ⟨fun off size hbad => ?_, fun q hq => registerWrite_doorbell s a v hq, fun c slot hc hslot => registerWrite_flag s a v hc hslot,
    fun p => registerWrite_fence s p v, ?_, ?_, fun p m x size hm hx hs hal => ⟨fun hb => ?_, fun hb => ?_⟩,
    fun p c => ⟨fun hon => ?_, fun hon herr => ?_, fun e hon herr => ?_⟩⟩
  case refine_1 =>
    rw [exec_registerWrite, regWrite_of_bad hbad]
  case refine_2 =>
    refine ⟨_, registerWrite_causes s a v, ?_⟩
    rw [Intr.clear_causes]
    simp only [State.intr_setIntr, true_and]
    exact ⟨fun k hk => State.intr_setIntr_ne _ _ _ hk, _, rfl⟩
  case refine_3 =>
    obtain ⟨ps, o, hack⟩ := evlogAck_eq a v.toNat s
    refine ⟨_, rfl, ?_⟩
    have hout : ∀ p, a = .port p → v.toNat < s.evlog.nextSeq - 1 → (s.port p).canSend 2 = true → (s.port p).retraining = false →
        (evlogAck a v.toNat s).out = (s.port p).message p 2 :: s.out := by
      rintro p rfl hv hsend hlink
      exact out_evlogAck hv hsend hlink
    rw [hack] at hout ⊢
    exact ⟨congrArg Intr.ack (State.intr_setIntr s _ _), fun k hk => State.intr_setIntr_ne s _ _ hk,
      by simp [SameModule], rfl, rfl, rfl, rfl, hout⟩
  case refine_4 =>
    refine ⟨_, (registerWrite_request s p v hm hx hs hal).1 hb, ?_⟩
    simp only [State.mbox_setMbox, true_and]
    exact ⟨fun i hi => getLsbD_patched _ _ _ _ hi, fun n hn => State.mbox_setMbox_ne _ _ _ hn, _, rfl⟩
  case refine_5 =>
    exact (registerWrite_request s p v hm hx hs hal).2 hb
  case refine_6 =>
    exact ⟨_, hdmDecoderCommit_off s p c hon, s.setDecoder_leaves p _ _ s.out rfl⟩
  case refine_7 =>
    obtain ⟨hdec, hrest, hports, hbehind, hrecs⟩ := s.setDecoder_leaves p c.dec.val (s.committed p c) (.hdmCommit p c.dec true :: s.out) rfl
    refine ⟨_, hdmDecoderCommit_commits s p c hon herr, ?_, ?_, ?_, ?_, hrest, hports, rfl, hbehind, hrecs⟩ <;> exact congrArg _ hdec
  case refine_8 =>
    exact ⟨_, _, hdmDecoderCommit_fails s p c hon herr, s.ev_hdm .., rfl, s.nextSeq_ev .., s.ev_sameBehindPort ..,
      ((Beside.refl s).ev _ _ _ _ _ _ _ _).recs⟩

end Sys2Proof.Machine
end

section
/-! SUPPORT. `CTX_CREATE` (R198, R200, R239): what its checks let through, and the context that it makes. -/

namespace Sys2Proof.Machine

set_option Elab.async false

open Sys2Proof

/-- R239: clearing a barrier changes barriers, and may log what it had accepted. -/
theorem State.clearBar_eq (s : State) (b : Nat) :
    ∃ bs ps ev o, s.clearBar b = { s with bars := bs, ports := ps, evlog := ev, out := o } := by
  unfold State.clearBar
  dsimp only
  split
  · obtain ⟨_, _, _, h⟩ := s.ev_eq _ _ _ _ _ _ _ _
    rw [h]
    exact ⟨_, _, _, _, rfl⟩
  · exact ⟨_, _, _, _, rfl⟩

theorem State.clearBars_eq (s : State) (base count : Nat) :
    ∃ bs ps ev o, s.clearBars base count = { s with bars := bs, ports := ps, evlog := ev, out := o } :=
  List.foldlRecOn (motive := fun t : State => ∃ bs ps ev o, t = { s with bars := bs, ports := ps, evlog := ev, out := o }) _ _
    ⟨_, _, _, _, rfl⟩ fun t ht i _ => by
      obtain ⟨_, _, _, _, rfl⟩ := ht
      obtain ⟨_, _, _, _, h⟩ := State.clearBar_eq _ (base + i)
      exact ⟨_, _, _, _, h⟩

/-- R198: windows that are aligned and end within 2,048 GiB have no fault. -/
theorem windowFault_eq_none {ws : List (Nat × Nat × Nat)}
    (h : ∀ w ∈ ws, w.1 % 65536 = 0 ∧ w.1 < 2 ^ 41 ∧ w.1 + w.2.1 * 65536 ≤ 2 ^ 41) : windowFault ws = none := by
  induction ws with
  | nil => rfl
  | cons w ws ih =>
    obtain ⟨b, n, write⟩ := w
    obtain ⟨halign, hbase, hend⟩ := h _ List.mem_cons_self
    dsimp only at halign hbase hend
    rw [windowFault, if_neg (not_not.2 halign), if_neg (by omega), ih fun w hw => h w (List.mem_cons_of_mem _ hw)]

/-- R198: the context that a `CTX_CREATE` makes of its request at an instant. -/
def Req.context (r : Req) (now : Nat) : Ctx :=
  { st := .active, windows := r.windows.map fun w => { base := w.1, size := w.2.1 * 65536, write := w.2.2 == 1 }
    barBase := r.fld 0x18 16, barCount := r.fld 0x1A 16, queueLimit := Nat.min 2048 (r.fld 0x1C 16), strFirst := r.fld 0x1E 16
    strCount := r.fld 0x20 16, priv := r.fld 0x12 8 == 1, dlWindowMs := dlApplied (r.fld 0x14 32), lastAct := now }

/-- R272: the clamps that a `CTX_CREATE` meets. -/
def Req.contextClamps (r : Req) : List Clamp :=
  clampOf 0x14 32 (r.fld 0x14 32) (dlApplied (r.fld 0x14 32)) ++ clampOf 0x1C 16 (r.fld 0x1C 16) (Nat.min 2048 (r.fld 0x1C 16))

/-- R198, R200: a request that passes the checks clears its barriers and makes its context. -/
theorem ctxCreateRun_done {r : Req} {s : State} (hc : r.fld 0x10 16 < 256) (hpriv : r.fld 0x12 8 < 2) (hcount : r.fld 0x13 8 ≤ 16)
    (hbars : r.fld 0x18 16 + r.fld 0x1A 16 ≤ 4096) (hstr : r.fld 0x1E 16 + r.fld 0x20 16 ≤ 8192)
    (hws : ∀ w ∈ r.windows, w.2.2 < 2 ∧ w.1 % 65536 = 0 ∧ w.1 < 2 ^ 41 ∧ w.1 + w.2.1 * 65536 ≤ 2 ^ 41)
    (hfree : (s.ctx (r.fld 0x10 16)).st = .free)
    (hmeet : s.ctxs.any (fun e => e.2.st != .free && (rangesMeet (r.fld 0x18 16) (r.fld 0x1A 16) e.2.barBase e.2.barCount
      || rangesMeet (r.fld 0x1E 16) (r.fld 0x20 16) e.2.strFirst e.2.strCount)) = false) :
    ctxCreateRun r s = .done 0 0 0 r.contextClamps
      ((s.clearBars (r.fld 0x18 16) (r.fld 0x1A 16)).setCtx (r.fld 0x10 16) (r.context s.time.now)) := by
  have hwrite : (r.windows.any fun w => decide (2 ≤ w.2.2)) = false := by
    rw [List.any_eq_false]
    intro w hw
    simpa using (hws w hw).1
  have hfault : windowFault r.windows = none := windowFault_eq_none fun w hw => (hws w hw).2
  unfold ctxCreateRun
  dsimp only
  rw [if_neg (by simp only [hwrite, Bool.false_eq_true, or_false]; omega), if_neg (not_not.2 hfree), hfault]
  dsimp only
  rw [hmeet, if_neg Bool.false_ne_true]
  rfl

/-- Settles O15: an admitted request runs to its end (`ctxCreateRun_done`), and its answer changes nothing but mailboxes and what reports them. -/
theorem ctxCreateMakesAnActiveContext : Obligations.CtxCreateMakesAnActiveContext := by
  intro s mb r c hadm hc hpriv hcount hbars hstr hws hfree hmeet
  obtain ⟨bs, ps, ev, o, hclear⟩ := s.clearBars_eq (r.fld 0x18 16) (r.fld 0x1A 16)
  have hends := molian_done (len := fun r => ctxCreateLen (r.fld 0x13 8)) (fs := fun r => ctxCreateFields (r.fld 0x13 8)) hadm
    (ctxCreateRun_done hc hpriv hcount hbars hstr hws hfree hmeet) (by rw [State.setCtx_get_mbox, hclear]; rfl)
  rw [hclear] at hends
  obtain ⟨t, ht, ⟨hst, -, hlast, -⟩, _, _, _, _, _, rfl⟩ : ∃ t, exec (.ctxCreate mb) s = .next t
      ∧ Completed t mb (clampStatus 0 r.contextClamps) ∧ Talk _ t := ⟨_, rfl, completed_of_ends hends, talk_of_ends hends⟩
  have hctx : Tbl.get ({} : Ctx) (Tbl.put {} s.ctxs c (r.context s.time.now)) c = r.context s.time.now := Tbl.get_put_same _ _ _ _
  have hrest : ∀ d, d ≠ c → Tbl.get ({} : Ctx) (Tbl.put {} s.ctxs c (r.context s.time.now)) d = s.ctx d := fun d hd =>
    Tbl.get_put_ne _ _ _ _ hd
  exact ⟨_, ht, hst, hlast ▸ clampStatus_lt_two r.contextClamps, congrArg Ctx.st hctx, congrArg Ctx.windows hctx, congrArg Ctx.barBase hctx,
    congrArg Ctx.barCount hctx, congrArg Ctx.strFirst hctx, congrArg Ctx.strCount hctx, congrArg Ctx.queueLimit hctx, congrArg Ctx.priv hctx,
    hrest, by simp [SameModule], rfl, rfl, rfl, rfl⟩

end Sys2Proof.Machine
end

section
/-! SUPPORT. Statements on the commands of contexts, queues and streams that some state does not meet: each with the state (R200, R210, R215). -/

namespace Sys2Proof.Machine

set_option Elab.async false

open Sys2Proof

/-! ## A small module that port 0 owns -/

/-- The ready module with memory zero, 1 ns after the start of its timebase; port 0 owns it, and context 0 is `x`. -/
def State.ownedBy0 (x : Ctx) : State :=
  { State.reset with phase := .ready, own := { st := .owned 0 }, mem := {}, time := { now := 1 }, ctxs := [(0, x)] }

/-- A mailbox with an accepted request: its opcode, its length, its body as a number, whether it has begun. -/
def Mbox.accepted (opcode len body : Nat) (begun : Bool) : Mbox :=
  { cur := true, begun, st := .busy, sram := BitVec.ofNat 32768 (opcode + len * 2 ^ 32 + body * 2 ^ (8 * 0x10)) }

/-! ## A `Q_DRAIN` of a queue whose context is destroyed (R200, R215, R236) -/

/-- Context 0 is active; its queue 0 holds one record, which a `Q_DRAIN` in mailbox 1 waits for; mailbox 0 holds a `CTX_DESTROY` of context 0. -/
def State.destroyedInDrain : State :=
  { State.ownedBy0 { st := .active } with
    queues := [(0, { live := true, tail := 1, drainTo := some 1 })]
    mboxes := [(0, .accepted 0x0402 2 0 false), (1, .accepted 0x0503 8 0 true)] }

theorem State.destroyedInDrain_admitted : Admitted State.destroyedInDrain 0 0x0402 .owner 2 (bodyFields [(0x10, 16)]) := by
  unfold Admitted
  decide +kernel

/-- R236: the `Q_DRAIN`, which then waits for nothing any more, notes the time in the context that its queue, now gone, reads as naming. -/
theorem State.destroyedInDrain_ctxDestroy : ∃ t, exec (.ctxDestroy 0) State.destroyedInDrain = .next t ∧ (t.ctx 0).lastAct = 1 :=
  ⟨_, rfl, by decide +kernel⟩

/-- Refutes O16: `CTX_DESTROY` is to leave a context as a free one is, but at `State.destroyedInDrain` the `Q_DRAIN` that ends with it sets the
start of the deadlock window of context 0 after it has been freed. -/
theorem not_contextCommands : ¬ Obligations.ContextCommands := by
  intro h
  obtain ⟨h, -⟩ := h
  obtain ⟨-, -, hdestroy⟩ := h State.destroyedInDrain 0 (by decide +kernel)
  obtain ⟨t, ht, hctx, -⟩ := hdestroy State.destroyedInDrain_admitted (by decide +kernel) (by decide +kernel)
  obtain ⟨t', ht', hact⟩ := State.destroyedInDrain_ctxDestroy
  obtain rfl : t' = t := Host.Outcome.next.inj (ht'.symm.trans ht)
  have hnamed : (State.destroyedInDrain.req 0).fld 0x10 16 = 0 := by decide +kernel
  rw [hnamed] at hctx
  rw [hctx] at hact
  exact absurd hact (by decide)

/-! ## A `Q_DRAIN` that times out while a record runs (R215) -/

/-- One record of queue 0 has started; a `Q_DRAIN` of the queue in mailbox 0 waits for it, and its time is over. -/
def State.drainOverdue : State :=
  { State.ownedBy0 { st := .active } with
    queues := [(0, { live := true, tail := 1, head := 1, drainTo := some 1 })]
    recs := [{ q := 0, seq := 0, ctx := 0, raw := 0x20, started := true }]
    mboxes := [(0, .accepted 0x0503 8 0 true)] }

/-- The record stops at its next boundary, from where it may start again: it is in flight and not started. -/
theorem State.drainOverdue_qDrainTimeout :
    ∃ t, exec (.qDrainTimeout 0 1) State.drainOverdue = .next t ∧ ∃ y ∈ t.recs, y.q = 0 ∧ y.started = false :=
  ⟨_, rfl, by decide +kernel⟩

/-- Refutes O17: of the queue's records it has only started ones stay in flight after the time-out, but at `State.drainOverdue` the started record
stays in flight to be started again (log entry 130). -/
theorem not_queueCommands : ¬ Obligations.QueueCommands := by
  intro h
  obtain ⟨-, -, -, htimeout⟩ := h State.drainOverdue 0
  obtain ⟨t, ht, -, -, hstarted⟩ := htimeout 1 1 (by decide +kernel) (by decide +kernel) (by decide +kernel) (by decide +kernel)
    (by decide +kernel) (by decide +kernel) (by decide +kernel)
  obtain ⟨t', ht', y, hy, hq, hstopped⟩ := State.drainOverdue_qDrainTimeout
  obtain rfl : t' = t := Host.Outcome.next.inj (ht'.symm.trans ht)
  have hqueue : (State.drainOverdue.req 0).fld 0x10 16 = 0 := by decide +kernel
  exact absurd (hstopped.symm.trans (hstarted y hy (hq.trans hqueue.symm))) Bool.false_ne_true

/-! ## A stream number beyond the table (R210) -/

/-- The streams of context 0 begin at 8,192, where none exists, as no `CTX_CREATE` makes them; mailbox 0 asks for the first. -/
def State.streamBeyond : State :=
  { State.ownedBy0 { st := .active, strFirst := 8192, strCount := 1 } with mboxes := [(0, .accepted 0x0601 4 (8192 * 2 ^ 16) false)] }

theorem State.streamBeyond_admitted : Admitted State.streamBeyond 0 0x0601 .owner 4 (bodyFields [(0x10, 16), (0x12, 16)]) := by
  unfold Admitted
  decide +kernel

theorem State.streamBeyond_streamAlloc :
    ∃ t, exec (.streamAlloc 0) State.streamBeyond = .next t ∧ (t.mbox 0).lastStatus = Status.fieldRange :=
  ⟨_, rfl, by decide +kernel⟩

/-- Refutes O18: `STREAM_ALLOC` is to take any free stream of the context's range, but a number of 8,192 or more, which the statement lets a
range hold, is refused: so at `State.streamBeyond`. -/
theorem not_streamCommands : ¬ Obligations.StreamCommands := by
  intro h
  obtain ⟨halloc, -⟩ := h State.streamBeyond 0
  obtain ⟨t, ht, ⟨-, -, -, hlast, -⟩, -⟩ := halloc State.streamBeyond_admitted (by decide +kernel) (by decide +kernel)
    (.inl (by decide +kernel)) (by decide +kernel) 8192 (by decide +kernel) (by decide +kernel) (by decide +kernel) (.inl (by decide +kernel))
  obtain ⟨t', ht', hrefused⟩ := State.streamBeyond_streamAlloc
  obtain rfl : t' = t := Host.Outcome.next.inj (ht'.symm.trans ht)
  exact absurd (hrefused.symm.trans hlast) (by decide)

end Sys2Proof.Machine
end

section
/-! SUPPORT. `FLAG_WINDOW_MAP` (R218, R220, R388): the slot and the block that binding and unbinding leave. -/

namespace Sys2Proof.Machine

open Sys2Proof

/-! ## Slots and blocks -/

/-- R218: a slot of a context's flag window. -/
def State.slotAt (s : State) (c i : Nat) : FSlot := Tbl.get {} (s.ctx c).slots i

/-- R220: the hardware clear of a block touches no other block. -/
theorem State.flagBlock_hwClear_ne (s : State) {b k : Nat} (h : k ≠ b) : (s.hwClear b).flagBlock k = s.flagBlock k := by
  unfold State.hwClear State.flagBlock
  exact Tbl.get_put_ne (0 : Word64) 0 s.flags 0 h

theorem State.flagBlock_hwClear_same (s : State) (b : Nat) : (s.hwClear b).flagBlock b = 0 := by
  unfold State.hwClear State.flagBlock
  exact Tbl.get_put_same (0 : Word64) s.flags b 0

theorem State.mirrors_hwClear_same (s : State) (b : Nat) : Tbl.get ({} : Mirror) (s.hwClear b).mirrors b = {} := by
  unfold State.hwClear
  exact Tbl.get_put_same ({} : Mirror) s.mirrors b {}

theorem State.slotAt_setCtx (s : State) (c slot : Nat) (f : FSlot) :
    (s.setCtx c { s.ctx c with slots := Tbl.put {} (s.ctx c).slots slot f }).slotAt c slot = f := by
  unfold State.slotAt
  rw [State.ctx_setCtx, Tbl.get_put_same]

/-- R220: binding and unbinding change contexts, the flag store and what blocks owe. -/
def Rebinds (s t : State) : Prop := ∃ cs fs ms, t = { s with ctxs := cs, flags := fs, mirrors := ms }

/-- R220: an unbound slot of a context reads as unmapped, its block as zero; other contexts and other blocks stand. -/
structure SlotUnbound (s t : State) (c slot : Nat) : Prop where
  only : Rebinds s t
  unmapped : t.slotAt c slot = {}
  block : t.flagBlock (s.slotAt c slot).block = 0
  ctxs : ∀ d, d ≠ c → t.ctx d = s.ctx d
  blocks : ∀ b, b ≠ (s.slotAt c slot).block → t.flagBlock b = s.flagBlock b

theorem State.unbindSlot_unbound (s : State) {c slot : Nat} (hmapped : (s.slotAt c slot).mapped = true) :
    SlotUnbound s (s.unbindSlot c slot) c slot := by
  have hunbind : s.unbindSlot c slot
      = (s.hwClear (s.slotAt c slot).block).setCtx c { s.ctx c with slots := Tbl.put {} (s.ctx c).slots slot {} } := if_pos hmapped
  rw [hunbind]
  exact ⟨⟨_, _, _, rfl⟩, State.slotAt_setCtx (s.hwClear _) _ _ _, State.flagBlock_hwClear_same _ _,
    fun d hd => State.ctx_setCtx_ne _ _ _ hd, fun b hb => State.flagBlock_hwClear_ne _ hb⟩

theorem State.unbindSlot_unmapped (s : State) {c slot : Nat} (hmapped : (s.slotAt c slot).mapped = false) :
    s.unbindSlot c slot = s := if_neg (ne_true_of_eq_false hmapped)

/-- R220: a slot that was bound anew: its block is cleared and owes at most the first mirror write; beside it, only the block that the slot
named before has changed. -/
structure SlotBound (s t : State) (c slot : Nat) (f : FSlot) : Prop where
  only : Rebinds s t
  bound : t.slotAt c slot = f
  block : t.flagBlock f.block = 0
  owed : Tbl.get ({} : Mirror) t.mirrors f.block = { write := f.mirror }
  ctxs : ∀ d, d ≠ c → t.ctx d = s.ctx d
  blocks : ∀ b, b ≠ f.block →
    ((s.slotAt c slot).mapped = true → b ≠ (s.slotAt c slot).block) →
    t.flagBlock b = s.flagBlock b

/-- What unbinding the slot first leaves of the other contexts and blocks, whether the slot was mapped or not. -/
theorem State.unbindSlot_leaves (s : State) (c slot : Nat) :
    Rebinds s (s.unbindSlot c slot) ∧ (∀ d, d ≠ c → (s.unbindSlot c slot).ctx d = s.ctx d)
      ∧ ∀ b, ((s.slotAt c slot).mapped = true → b ≠ (s.slotAt c slot).block) →
          (s.unbindSlot c slot).flagBlock b = s.flagBlock b := by
  cases hmapped : (s.slotAt c slot).mapped with
  | false => rw [s.unbindSlot_unmapped hmapped]; exact ⟨⟨_, _, _, rfl⟩, fun _ _ => rfl, fun _ _ => rfl⟩
  | true =>
    have h := s.unbindSlot_unbound hmapped
    exact ⟨h.only, h.ctxs, fun b hb => h.blocks b (hb rfl)⟩

theorem State.bindSlot_bound (s : State) (c slot : Nat) (f : FSlot) : SlotBound s (s.bindSlot c slot f) c slot f := by
  obtain ⟨⟨cs, fs, ms, hu⟩, hctxs, hblocks⟩ := s.unbindSlot_leaves c slot
  obtain ⟨u, hdef⟩ : ∃ u, u = s.unbindSlot c slot := ⟨_, rfl⟩
  rw [← hdef] at hu hctxs hblocks
  obtain ⟨v, hv⟩ : ∃ v, v = (u.hwClear f.block).setCtx c { u.ctx c with slots := Tbl.put {} (u.ctx c).slots slot f } := ⟨_, rfl⟩
  have hbind : s.bindSlot c slot f
      = { v with mirrors := if f.mirror then Tbl.put {} v.mirrors f.block { write := true } else v.mirrors } := by
    unfold State.bindSlot
    dsimp only
    rw [← hdef, hv]
    split <;> rfl
  have hslot : v.slotAt c slot = f := by rw [hv]; exact State.slotAt_setCtx (u.hwClear f.block) _ _ _
  have howed : Tbl.get ({} : Mirror) v.mirrors f.block = {} := by rw [hv]; exact u.mirrors_hwClear_same f.block
  have hrest : ∀ d, d ≠ c → v.ctx d = s.ctx d := fun d hd => by
    rw [hv, State.ctx_setCtx_ne _ _ _ hd]; exact hctxs d hd
  rw [hbind]
  refine ⟨⟨v.ctxs, v.flags, _, by rw [hv, hu]; rfl⟩, hslot, by rw [hv]; exact State.flagBlock_hwClear_same _ _, ?_, hrest, fun b hb hcur => ?_⟩
  · dsimp only
    cases f.mirror with
    | true => exact Tbl.get_put_same ({} : Mirror) v.mirrors f.block { write := true }
    | false => exact howed
  · rw [hv]; exact (State.flagBlock_hwClear_ne _ hb).trans (hblocks b hcur)

/-! ## The steps of the command -/

/-- R218: the slot that a `FLAG_WINDOW_MAP` body asks for. -/
def Req.flagSlot (r : Req) : FSlot :=
  { block := bits (r.fld 0x20 128) 0 10, mapped := true, mirror := (r.fld 0x20 128).testBit 11, msix := (r.fld 0x20 128).testBit 12
    vector := bits (r.fld 0x20 128) 16 11, addr := BitVec.ofNat 64 (bits (r.fld 0x20 128) 64 64) }

/-- R218, R220: the state after the operation that a `FLAG_WINDOW_MAP` asks for. -/
def Req.flagMapped (r : Req) (s : State) : State :=
  if r.fld 0x14 8 = 0 then s.bindSlot (r.fld 0x10 16) (r.fld 0x12 16) r.flagSlot
  else if r.fld 0x14 8 = 1 then s.unbindSlot (r.fld 0x10 16) (r.fld 0x12 16)
  else s

/-- R272: a request that names a context of its agent, not free, and a slot of the window, and that passes the checks of its operation, is done:
it returns the slot as it is then. -/
theorem flagMapRun_done {r : Req} {s : State} (hforeign : s.foreign r.by_ (r.fld 0x10 16) = false) (hc : r.fld 0x10 16 < 256)
    (hslot : r.fld 0x12 16 < 1024) (hfree : (s.ctx (r.fld 0x10 16)).st ≠ .free) (hop : r.fld 0x14 8 < 3)
    (horphan : r.fld 0x14 8 < 2 → (s.ctx (r.fld 0x10 16)).st ≠ .orphaned)
    (hnamed : r.fld 0x14 8 < 2 → r.fld 0x12 16 ∉ s.namedSlots (r.fld 0x10 16))
    (hvector : r.fld 0x14 8 = 0 → r.flagSlot.msix = true → r.flagSlot.vector < s.vectorsOn)
    (halign : r.fld 0x14 8 = 0 → r.flagSlot.addr.toNat % 8 = 0)
    (hbound : r.fld 0x14 8 = 0 → ∀ b, s.binding r.flagSlot.block = some b → b.1 = r.fld 0x10 16 ∧ b.2.1 = r.fld 0x12 16) :
    flagMapRun r s = .done 0 16 ((r.flagMapped s).slotAt (r.fld 0x10 16) (r.fld 0x12 16)).entry [] (r.flagMapped s) := by
  unfold flagMapRun
  extract_lets c slot op e st f cur elsewhere u
  have hfields : ¬ (256 ≤ c ∨ 1024 ≤ slot ∨ 3 ≤ op ∨ (op = 0 ∧ f.msix ∧ s.vectorsOn ≤ f.vector)) := by
    rintro (hbad | hbad | hbad | ⟨h0, hm, hbad⟩)
    · exact Nat.not_le.2 hc hbad
    · exact Nat.not_le.2 hslot hbad
    · exact Nat.not_le.2 hop hbad
    · exact Nat.not_le.2 (hvector h0 hm) hbad
  have hstate : ¬ (st = .free ∨ (op < 2 ∧ st = .orphaned)) := fun hbad => hbad.elim hfree fun hbad => horphan hbad.1 hbad.2
  have hunnamed : ¬ ((op = 0 ∨ (op = 1 ∧ cur.mapped)) ∧ (s.namedSlots c).contains slot) := fun ⟨hchange, hbad⟩ =>
    hnamed (show op < 2 by omega) (List.contains_iff_mem.1 hbad)
  have hhere : ¬ (op = 0 ∧ elsewhere = true) := fun ⟨h0, hbad⟩ => by
    unfold elsewhere at hbad
    split at hbad
    · next c' i' _ hb =>
      obtain ⟨hc', hi'⟩ := hbound h0 _ hb
      dsimp only at hc' hi'
      simp [hc', hi', c, slot] at hbad
    · exact Bool.false_ne_true hbad
  rw [if_neg (by rw [hforeign]; decide), if_neg hfields, if_neg hstate, if_neg hunnamed, if_neg fun hbad => hbad.2 (halign hbad.1),
    if_neg hhere]
  rfl

/-- R388: an admitted `FLAG_WINDOW_MAP` that is done, in a state `u` with the mailboxes as they were, is answered with the slot as it is then,
and nothing but mailboxes and what reports them changes beside. -/
theorem flagWindowMap_ends {s u : State} {mb : Fin 32} (hadm : Admitted s mb 0x0701 .owner 0x20 flagMapFields) (hu : (s.req mb).flagMapped s = u)
    (hm : u.mbox mb = s.mbox mb) {e : Nat} (he : (u.slotAt ((s.req mb).fld 0x10 16) ((s.req mb).fld 0x12 16)).entry = e)
    (hrun : flagMapRun (s.req mb) s = .done 0 16
      (((s.req mb).flagMapped s).slotAt ((s.req mb).fld 0x10 16) ((s.req mb).fld 0x12 16)).entry [] ((s.req mb).flagMapped s)) :
    ∃ t, exec (.flagWindowMap mb) s = .next t ∧ Ends s u t mb 0 16 e := by
  subst hu he
  exact ⟨_, rfl, molian_done (len := fun _ => 0x20) (fs := fun _ => flagMapFields) hadm hrun hm⟩

theorem Rebinds.mbox {s t : State} (h : Rebinds s t) (k : Nat) : t.mbox k = s.mbox k := by
  obtain ⟨_, _, _, rfl⟩ := h
  rfl

/-- What the command leaves of the module, its slot rebound and its answer given. -/
theorem Rebinds.leaves {s u t : State} (h : Rebinds s u) (k : Talk u t) :
    SameModule s t ∧ t.mem = s.mem ∧ t.queues = s.queues ∧ t.streams = s.streams ∧ t.recs = s.recs := by
  obtain ⟨_, _, _, rfl⟩ := h
  obtain ⟨_, _, _, _, _, rfl⟩ := k
  simp [SameModule]

/-- The answer of a request leaves contexts, flags and what blocks owe. -/
theorem Talk.sync {u t : State} (k : Talk u t) : t.ctxs = u.ctxs ∧ t.flags = u.flags ∧ t.mirrors = u.mirrors := by
  obtain ⟨_, _, _, _, _, rfl⟩ := k
  exact ⟨rfl, rfl, rfl⟩

theorem body_of_ends {s u t : State} {mb : Fin 32} {st bl body : Nat} (h : Ends s u t mb st bl body) : (t.mbox mb).resp.body = body := by
  obtain ⟨⟨-, -, -, -, -, -, -, -, -, hbody⟩, -⟩ := h
  exact hbody

/-- Settles O19: the checks let the request through (`flagMapRun_done`), the slot and its block are then as `SlotBound` and
`SlotUnbound` say, and the answer changes neither. -/
theorem flagWindowMap : Obligations.FlagWindowMap := by
  intro s mb hadm r c slot e cur f hforeign hc hslot hfree
  refine ⟨fun hop => ?_, fun hop horphan hnamed halign hbound hvector => ?_, fun hop horphan hmapped hnamed => ?_⟩
  · have hlate : ¬ r.fld 0x14 8 < 2 := by omega
    have hnot : r.fld 0x14 8 ≠ 0 := by omega
    have hnotUnbind : r.fld 0x14 8 ≠ 1 := by omega
    have hle : r.fld 0x14 8 < 3 := by omega
    exact flagWindowMap_ends hadm ((if_neg hnot).trans (if_neg hnotUnbind)) rfl rfl
      (flagMapRun_done (r := r) hforeign hc hslot hfree hle (absurd · hlate) (absurd · hlate) (absurd · hnot) (absurd · hnot)
        (absurd · hnot))
  · have hbind := s.bindSlot_bound c slot f
    obtain ⟨t, ht, hends⟩ := flagWindowMap_ends hadm (if_pos hop) (hbind.only.mbox mb) (congrArg FSlot.entry hbind.bound)
      (flagMapRun_done (r := r) hforeign hc hslot hfree (by omega) (fun _ => horphan) (fun _ => hnamed) (fun _ => hvector) (fun _ => halign)
        (fun _ => hbound))
    have htalk := talk_of_ends hends
    obtain ⟨hctxs, hflags, hmirrors⟩ := htalk.sync
    refine ⟨t, ht, completed_of_ends hends, body_of_ends hends, ?_⟩
    unfold State.ctx State.flagBlock
    rw [hctxs, hflags, hmirrors]
    exact ⟨hbind.bound, hbind.block, hbind.owed, hbind.ctxs, hbind.blocks, hbind.only.leaves htalk⟩
  · have hunbind := s.unbindSlot_unbound hmapped
    have hnot : r.fld 0x14 8 ≠ 0 := by omega
    obtain ⟨t, ht, hends⟩ := flagWindowMap_ends hadm ((if_neg hnot).trans (if_pos hop)) (hunbind.only.mbox mb)
      (congrArg FSlot.entry hunbind.unmapped)
      (flagMapRun_done (r := r) hforeign hc hslot hfree (by omega) (fun _ => horphan) (fun _ => hnamed) (absurd · hnot) (absurd · hnot)
        (absurd · hnot))
    have htalk := talk_of_ends hends
    obtain ⟨hctxs, hflags, -⟩ := htalk.sync
    refine ⟨t, ht, completed_of_ends hends, body_of_ends hends, ?_⟩
    unfold State.ctx State.flagBlock
    rw [hctxs, hflags]
    exact ⟨hunbind.unmapped, hunbind.block, hunbind.ctxs, hunbind.blocks, hunbind.only.leaves htalk⟩

end Sys2Proof.Machine
end

section
/-! SUPPORT. What a host port sends (R229, R248, R255): what sending may change of the port, and that nothing sent before is taken back. -/

namespace Sys2Proof.Machine

open Sys2Proof

/-- R229, R248, R255: sending changes no more of a port than what waits for its link, its pending messages, and whether mirroring is held; and
while the link is down or does not retrain, nothing comes to wait for it. -/
def Port.SameLink (a b : Port) : Prop :=
  (∃ h m x, b = { a with heldOut := h, msixPend := m, mirrorHeld := x }) ∧ (a.linkUp = false ∨ a.retraining = false → b.heldOut = a.heldOut)

namespace Port.SameLink

theorem refl (a : Port) : a.SameLink a := ⟨⟨_, _, _, rfl⟩, fun _ => rfl⟩

theorem trans {a b c : Port} (h : a.SameLink b) (k : b.SameLink c) : a.SameLink c := by
  obtain ⟨⟨_, _, _, rfl⟩, hheld⟩ := h
  obtain ⟨⟨_, _, _, rfl⟩, kheld⟩ := k
  exact ⟨⟨_, _, _, rfl⟩, fun hlink => (kheld hlink).trans (hheld hlink)⟩

theorem pend (a : Port) (m : Tbl Bool) : a.SameLink { a with msixPend := m } := ⟨⟨_, _, _, rfl⟩, fun _ => rfl⟩

theorem hold (a : Port) (x : Bool) : a.SameLink { a with mirrorHeld := x } := ⟨⟨_, _, _, rfl⟩, fun _ => rfl⟩

/-- Output waits for a link that is up and retrains. -/
theorem wait {a : Port} (hup : a.linkUp = true) (hret : a.retraining = true) (l : List Out) : a.SameLink { a with heldOut := l } :=
  ⟨⟨_, _, _, rfl⟩, fun hlink => by simp [hup, hret] at hlink⟩

end Port.SameLink

/-- `t` is `s` after what ports send: ports as `Port.SameLink` says, and outputs, none of which is taken back. -/
structure Sends (s t : State) : Prop where
  only : ∃ ps o, t = { s with ports := ps, out := o }
  link : ∀ k, (s.port k).SameLink (t.port k)
  out : ∀ o ∈ s.out, o ∈ t.out

namespace Sends
variable {s t u : State}

theorem refl (s : State) : Sends s s := ⟨⟨_, _, rfl⟩, fun _ => .refl _, fun _ => id⟩

theorem trans (h : Sends s t) (k : Sends t u) : Sends s u := by
  have hlink := fun n => (h.link n).trans (k.link n)
  have hout := fun o ho => k.out o (h.out o ho)
  obtain ⟨⟨_, _, rfl⟩, -, -⟩ := h
  obtain ⟨⟨_, _, rfl⟩, -, -⟩ := k
  exact ⟨⟨_, _, rfl⟩, hlink, hout⟩

theorem ite {c : Prop} [Decidable c] {a b : State} (ha : Sends s a) (hb : Sends s b) : Sends s (if c then a else b) := by
  split <;> assumption

theorem foldl {α : Type} {f : State → α → State} (hf : ∀ t x, Sends s t → Sends s (f t x)) (l : List α) (h : Sends s t) :
    Sends s (l.foldl f t) :=
  List.foldlRecOn (motive := Sends s) l f h fun t ht x _ => hf t x ht

theorem setPort (h : Sends s t) {p : Nat} {v : Port} (hv : (t.port p).SameLink v) : Sends s (t.setPort p v) := by
  refine h.trans ⟨⟨_, _, rfl⟩, fun k => ?_, fun _ => id⟩
  by_cases hk : k = p
  · subst hk; rwa [State.port_setPort]
  · rw [State.port_setPort_ne _ _ _ hk]; exact .refl _

theorem emit (h : Sends s t) (o : Out) : Sends s (t.emit o) :=
  h.trans ⟨⟨_, _, rfl⟩, fun _ => .refl _, fun _ => List.mem_cons_of_mem _⟩

/-- R255, R256. -/
theorem toHost (h : Sends s t) (p : Fin 4) (o : Out) : Sends s (t.toHost p o) := by
  unfold State.toHost
  dsimp only
  split
  · exact h
  · next hup =>
    split
    · next hret => exact h.setPort (.wait (by simpa using hup) hret _)
    · exact h.emit o

/-- R248. -/
theorem msix (h : Sends s t) (p : Fin 4) (v : Nat) : Sends s (t.msix p v) := ite h (ite (h.toHost _ _) (h.setPort (.pend _ _)))

/-- R248. -/
theorem msixFlush (h : Sends s t) (p : Fin 4) : Sends s (t.msixFlush p) :=
  foldl (fun _ _ h => (h.setPort (.pend _ _)).toHost _ _) _ h

/-- What sending leaves beside ports and outputs does not matter to it. -/
theorem withMirrors (h : Sends s t) (ms : Tbl Mirror) : Sends { s with mirrors := ms } { t with mirrors := ms } := by
  obtain ⟨⟨_, _, rfl⟩, hlink, hout⟩ := h
  exact ⟨⟨_, _, rfl⟩, hlink, hout⟩

end Sends

/-- R362: an event-log entry takes the next number, the last module error stands, and readers are sent no more than messages. -/
theorem State.evAdd_sends (s : State) (e : EvEntry) :
    ∃ l, Sends { s with evlog := l } (s.evAdd e) ∧ l.nextSeq = s.evlog.nextSeq + 1 ∧ l.errStatus = s.evlog.errStatus :=
  ⟨_, Sends.foldl (fun _ _ h => Sends.ite h (h.msix _ _)) _ (.refl _), rfl, rfl⟩

/-- R255: what a port sends its host leaves the module while the link is up and does not retrain. -/
theorem State.toHost_up {s : State} {p : Fin 4} (hup : (s.port p).linkUp = true) (hret : (s.port p).retraining = false) (o : Out) :
    s.toHost p o = s.emit o := by
  simp [State.toHost, hup, hret]

end Sys2Proof.Machine
end

section
/-! SUPPORT. Flag pages and mirror writes (R218, R219, R228, R229, R255, R367): one block changes at a time, and what it owes is sent once. -/

namespace Sys2Proof.Machine

open Sys2Proof

/-! ## One block of flags (R221) -/

/-- R221, R229: an operation on a block changes that block and what it owes. -/
theorem State.putBlock_eq (s : State) (b : Nat) (new : Word64) :
    ∃ ms, s.putBlock b new = { s with flags := Tbl.put 0 s.flags b new, mirrors := ms } := by
  unfold State.putBlock State.owe
  split
  · exact ⟨_, rfl⟩
  · split <;> exact ⟨_, rfl⟩

/-- R218, R228: `t` is `s` after a write that makes a block of flags `new`: the other blocks and all beside the flag store stand. -/
def WritesBlock (s t : State) (b : Nat) (new : Word64) : Prop :=
  t.flagBlock b = new ∧ (∀ k, k ≠ b → t.flagBlock k = s.flagBlock k) ∧ SameModule s t ∧ t.mem = s.mem ∧ t.queues = s.queues
    ∧ t.recs = s.recs

/-- R221, R236: an operation on a block, by which its context is active. -/
theorem State.putBlock_writes (s : State) (b : Nat) (new : Word64) (c : Nat) : WritesBlock s ((s.putBlock b new).touch c) b new := by
  obtain ⟨ms, h⟩ := s.putBlock_eq b new
  rw [h]
  exact ⟨Tbl.get_put_same (0 : Word64) s.flags b new, fun k hk => Tbl.get_put_ne (0 : Word64) 0 s.flags new hk,
    ⟨rfl, rfl, rfl, rfl, rfl, rfl, rfl, rfl, rfl, rfl, rfl, rfl, rfl⟩, rfl, rfl, rfl⟩

/-- The mask of one flag of a block. -/
def flagMask (i : Nat) : Word64 := BitVec.ofNat 64 (2 ^ i)

theorem getLsbD_flagMask {i : Nat} (hi : i < 64) (j : Nat) : (flagMask i).getLsbD j = decide (i = j) := by
  unfold flagMask
  rw [BitVec.getLsbD_ofNat, Nat.testBit_two_pow]
  by_cases h : i = j
  · subst h; simp [hi]
  · simp [h]

/-- The word of a block after flag `i` of it has been set or cleared. -/
def flagWord (w : Word64) (v : Bool) (i : Nat) : Word64 := if v then w ||| flagMask i else w &&& ~~~(flagMask i)

/-- R218: the flag that is named takes the value, the others of its block stand. -/
theorem getLsbD_flagWord (w : Word64) (v : Bool) {i : Nat} (hi : i < 64) :
    (flagWord w v i).getLsbD i = v ∧ ∀ j, j ≠ i → (flagWord w v i).getLsbD j = w.getLsbD j := by
  have hmask := getLsbD_flagMask hi
  cases v with
  | true => exact ⟨by simp [flagWord, hmask], fun j hj => by simp [flagWord, hmask, Ne.symm hj]⟩
  | false =>
    refine ⟨by simp [flagWord, hmask], fun j hj => ?_⟩
    have hwidth : w.getLsbD j = true → j < 64 := BitVec.lt_of_getLsbD
    simpa [flagWord, hmask, Ne.symm hj] using hwidth

/-- R218: a flag lies in its block at a bit of 64. -/
theorem Ctx.flag_lt {c : Ctx} {n b i : Nat} (h : c.flag n = some (b, i)) : i < 64 := by
  unfold Ctx.flag at h
  dsimp only at h
  split at h
  · obtain ⟨-, rfl⟩ := Prod.mk.inj (Option.some.inj h)
    exact Nat.mod_lt _ (by decide)
  · exact absurd h (by simp)

/-! ## Writes of a flag page (R219, R228, R367) -/

section
variable {s : State} {p : Fin 4} (hown : s.isOwner p = true)
include hown

/-- R228: the owner's write acts. -/
theorem flagPage_owner (c off v : Nat) (act : State → State) : flagPage (.port p) c off v s act = act s := if_pos hown

theorem flagPageOne_mapped {c b i : Nat} {n : BitVec 16} (h : (s.ctx c).flag n.toNat = some (b, i)) (off : Nat) (v : Bool) :
    flagPageOne (.port p) c off n v s = (s.putBlock b (flagWord (s.flagBlock b) v i)).touch c := by
  unfold flagPageOne
  rw [flagPage_owner hown, h]
  rfl

theorem flagPageOne_unmapped {c : Nat} {n : BitVec 16} (h : (s.ctx c).flag n.toNat = none) (off : Nat) (v : Bool) :
    flagPageOne (.port p) c off n v s = s.ev 0x0E Status.fieldRange (agentUnit (.port p)) (flagOff c + off) n.toNat c := by
  unfold flagPageOne
  rw [flagPage_owner hown, h]

theorem flagPageMask_mapped {c slot b i : Nat} (h : (s.ctx c).flag (64 * slot) = some (b, i)) (off : Nat) (mask : Word64) (v : Bool) :
    flagPageMask (.port p) c off slot mask v s
      = (s.putBlock b (if v then s.flagBlock b ||| mask else s.flagBlock b &&& ~~~mask)).touch c := by
  unfold flagPageMask
  rw [flagPage_owner hown, h]

/-- R219, R228: a write that names a mapped flag sets or clears that flag. -/
theorem flagPageOne_writes {c b i : Nat} {n : BitVec 16} (h : (s.ctx c).flag n.toNat = some (b, i)) (off : Nat) (v : Bool) :
    let t := flagPageOne (.port p) c off n v s
    (t.flagBlock b).getLsbD i = v ∧ (∀ j, j ≠ i → (t.flagBlock b).getLsbD j = (s.flagBlock b).getLsbD j)
      ∧ (∀ k, k ≠ b → t.flagBlock k = s.flagBlock k) ∧ SameModule s t ∧ t.mem = s.mem ∧ t.queues = s.queues ∧ t.recs = s.recs := by
  dsimp only
  rw [flagPageOne_mapped hown h]
  obtain ⟨hblock, hrest⟩ := s.putBlock_writes b (flagWord (s.flagBlock b) v i) c
  obtain ⟨hflag, hothers⟩ := getLsbD_flagWord (s.flagBlock b) v (Ctx.flag_lt h)
  rw [hblock]
  exact ⟨hflag, hothers, hrest⟩

/-- R219: a write that names a flag of no mapped slot is logged, and changes no flag. -/
theorem flagPageOne_logged {c : Nat} {n : BitVec 16} (h : (s.ctx c).flag n.toNat = none) (off : Nat) (v : Bool) :
    let t := flagPageOne (.port p) c off n v s
    t.flags = s.flags ∧ t.evlog.nextSeq = s.evlog.nextSeq + 1 ∧ SameModule s t ∧ t.mem = s.mem ∧ t.queues = s.queues ∧ t.recs = s.recs := by
  dsimp only
  rw [flagPageOne_unmapped hown h]
  have hseq := s.nextSeq_ev 0x0E Status.fieldRange (agentUnit (.port p)) (flagOff c + off) n.toNat c 0 0
  obtain ⟨_, _, _, heq⟩ := s.ev_eq 0x0E Status.fieldRange (agentUnit (.port p)) (flagOff c + off) n.toNat c 0 0
  rw [heq] at hseq ⊢
  exact ⟨rfl, hseq, ⟨rfl, rfl, rfl, rfl, rfl, rfl, rfl, rfl, rfl, rfl, rfl, rfl, rfl⟩, rfl, rfl, rfl⟩

theorem flagPageMask_writes {c slot b i : Nat} (h : (s.ctx c).flag (64 * slot) = some (b, i)) (off : Nat) (mask : Word64) (v : Bool) :
    WritesBlock s (flagPageMask (.port p) c off slot mask v s) b (if v then s.flagBlock b ||| mask else s.flagBlock b &&& ~~~mask) := by
  rw [flagPageMask_mapped hown h]
  exact s.putBlock_writes b _ c

end

/-! ## What a mirrored block owes (R229, R255) -/

/-- What a block owes: its mirror write and its message (R229). -/
def State.owed (s : State) (b : Nat) : Mirror := Tbl.get {} s.mirrors b

/-- The state in which a block owes nothing. -/
def State.unowed (s : State) (b : Nat) : State := { s with mirrors := Tbl.put {} s.mirrors b {} }

theorem Port.linkUp_of_reach {x : Port} (h : x.reach = true) : x.linkUp = true := by
  simp only [Port.reach, Bool.and_eq_true] at h
  exact h.1.1

section
variable {s : State} {p : Fin 4} {b c i : Nat} {f : FSlot} (hown : s.ownerPort = some p) (hbound : s.binding b = some (c, i, f))
include hown hbound

/-- R255: nothing is sent while the link retrains. -/
theorem mirrorSend_retraining (hret : (s.port p).retraining = true) : s.mirrorSend b = s := by
  unfold State.mirrorSend
  dsimp only
  rw [hown, hbound]
  exact if_neg (by simp [hret])

theorem mirrorSend_trained (hreach : (s.port p).reach = true) (hret : (s.port p).retraining = false) :
    s.mirrorSend b =
      let u := if (s.owed b).write && f.mirror then (s.unowed b).toHost p (.mirror p f.addr (s.flagBlock b)) else s.unowed b
      if (s.owed b).msg && f.msix then u.msix p f.vector else u := by
  unfold State.mirrorSend
  dsimp only
  rw [hown, hbound]
  exact if_pos (by simp [hreach, hret])

/-- R229: what the block owes is sent, and it owes nothing any more. -/
theorem mirrorSend_sends (hreach : (s.port p).reach = true) (hret : (s.port p).retraining = false) :
    Sends (s.unowed b) (s.mirrorSend b)
      ∧ ((s.owed b).write = true → f.mirror = true → Out.mirror p f.addr (s.flagBlock b) ∈ (s.mirrorSend b).out)
      ∧ ((s.owed b).write = false → (s.owed b).msg = false → (s.mirrorSend b).out = s.out) := by
  rw [mirrorSend_trained hown hbound hreach hret]
  extract_lets u
  have hu : Sends (s.unowed b) u := Sends.ite ((Sends.refl _).toHost _ _) (.refl _)
  have hmsg : Sends u (if (s.owed b).msg && f.msix then u.msix p f.vector else u) := Sends.ite ((Sends.refl u).msix _ _) (.refl u)
  refine ⟨hu.trans hmsg, fun hwrite hmirror => hmsg.out _ ?_, fun hwrite hnone => ?_⟩
  · have hsent : u = (s.unowed b).emit (.mirror p f.addr (s.flagBlock b)) :=
      (if_pos (by simp [hwrite, hmirror])).trans (State.toHost_up (s := s.unowed b) (Port.linkUp_of_reach hreach) hret _)
    rw [hsent]
    exact List.mem_cons_self
  · have hquiet : u = s.unowed b := if_neg (by simp [hwrite])
    rw [if_neg (by simp [hnone]), hquiet]
    rfl

end

/-- Settles O35: the owner's write acts on the one block that its number or its slot names (`flagPageOne_writes`, `flagPageMask_writes`) or is
logged (`flagPageOne_logged`); a mirrored block's debt is cleared before it is sent (`mirrorSend_sends`). -/
theorem flagPages : Obligations.FlagPages := by
  refine ⟨fun s p c hown => ⟨fun n v => ?_, fun slot mask b i h => ?_⟩,
    fun s p b c i f hown hbound hreach => ⟨fun hret => ?_, fun hret => ?_⟩⟩
  · cases v with
    | true => exact ⟨fun b i h => ⟨_, rfl, flagPageOne_writes hown h 0 true⟩, fun h => ⟨_, rfl, flagPageOne_logged hown h 0 true⟩⟩
    | false => exact ⟨fun b i h => ⟨_, rfl, flagPageOne_writes hown h 8 false⟩, fun h => ⟨_, rfl, flagPageOne_logged hown h 8 false⟩⟩
  · exact ⟨⟨_, rfl, flagPageMask_writes hown h 0x2000 mask true⟩, ⟨_, rfl, flagPageMask_writes hown h 0x4000 mask false⟩⟩
  · exact congrArg Host.Outcome.next (mirrorSend_retraining hown hbound hret)
  · obtain ⟨⟨⟨ps, o, heq⟩, -, -⟩, hmirror, hquiet⟩ := mirrorSend_sends hown hbound hreach hret
    refine ⟨s.mirrorSend b, rfl, ?_, hmirror, hquiet, ?_⟩
    · rw [heq]; exact Tbl.get_put_same ({} : Mirror) s.mirrors b {}
    · rw [heq]; simp [SameModule, State.unowed]

end Sys2Proof.Machine
end

section
/-! SUPPORT. Arrivals at the nodes of a barrier's tree, and the group root's answers (R230 to R232, R357). -/

namespace Sys2Proof.Machine

open Sys2Proof

/-! ## Tables written twice -/

theorem Tbl.erase_insert {α : Type} (m : Tbl α) (i : Nat) (x : α) : Tbl.erase (Tbl.insert m i x) i = Tbl.erase m i := by
  induction m with
  | nil => simp [Tbl.insert, Tbl.erase]
  | cons e r ih =>
    obtain ⟨k, v⟩ := e
    by_cases hk : i < k
    · simp [Tbl.insert, Tbl.erase, hk]
    · simp [Tbl.insert, Tbl.erase, hk, ih]

/-- The second of two puts at an index stands. -/
theorem Tbl.put_put {α : Type} [DecidableEq α] (d : α) (m : Tbl α) (i : Nat) (x y : α) : Tbl.put d (Tbl.put d m i x) i y = Tbl.put d m i y := by
  have herase : Tbl.erase (Tbl.put d m i x) i = Tbl.erase m i := by
    unfold Tbl.put Tbl.putKeep
    split
    · exact Tbl.erase_erase m i
    · rw [Tbl.erase_insert, Tbl.erase_erase]
  rw [Tbl.put, Tbl.putKeep, herase]
  rfl

theorem State.setBar_setBar (s : State) (b : Nat) (x y : Barrier) : (s.setBar b x).setBar b y = s.setBar b y := by
  unfold State.setBar
  dsimp only
  rw [Tbl.put_put]

/-! ## What the nodes change -/

/-- `t` is `s` but for barriers, records in flight and rhizoid ports, and what leaves the module. -/
def AtNodes (s t : State) : Prop := ∃ bs rs rp o, t = { s with bars := bs, recs := rs, rports := rp, out := o }

namespace AtNodes
variable {s t u : State}

theorem refl (s : State) : AtNodes s s := ⟨_, _, _, _, rfl⟩

theorem trans (h : AtNodes s t) (k : AtNodes t u) : AtNodes s u := by
  obtain ⟨_, _, _, _, rfl⟩ := h
  obtain ⟨_, _, _, _, rfl⟩ := k
  exact ⟨_, _, _, _, rfl⟩

/-- The module as a whole, memory, contexts and queues stand. -/
theorem leaves (h : AtNodes s t) : SameModule s t ∧ t.mem = s.mem ∧ t.ctxs = s.ctxs ∧ t.queues = s.queues := by
  obtain ⟨_, _, _, _, rfl⟩ := h
  exact ⟨⟨rfl, rfl, rfl, rfl, rfl, rfl, rfl, rfl, rfl, rfl, rfl, rfl, rfl⟩, rfl, rfl, rfl⟩

end AtNodes

/-- R230: a node's step on one barrier: that barrier is `x` after it, the others stand, and the step is one of the nodes. -/
structure NodeStep (s t : State) (b : Nat) (x : Barrier) : Prop where
  nodes : AtNodes s t
  bar : t.bar b = x
  bars : ∀ k, k ≠ b → t.bar k = s.bar k

namespace NodeStep
variable {s t u : State} {b : Nat} {x : Barrier}

theorem setBar (s : State) (b : Nat) (x : Barrier) : NodeStep s (s.setBar b x) b x :=
  ⟨⟨_, _, _, _, rfl⟩, State.bar_setBar _ _ _, fun _ hk => State.bar_setBar_ne _ _ _ hk⟩

/-- Records and ports change beside the barriers. -/
theorem beside (h : NodeStep s t b x) (k : AtNodes t u) (hb : u.bars = t.bars) : NodeStep s u b x := by
  have hbar : ∀ n, u.bar n = t.bar n := fun n => congrArg (Tbl.get ({} : Barrier) · n) hb
  exact ⟨h.nodes.trans k, (hbar b).trans h.bar, fun n hn => (hbar n).trans (h.bars n hn)⟩

theorem again (h : NodeStep s t b x) {y : Barrier} (k : NodeStep t u b y) : NodeStep s u b y :=
  ⟨h.nodes.trans k.nodes, k.bar, fun n hn => (k.bars n hn).trans (h.bars n hn)⟩

end NodeStep

/-- R348: a control flit that is sent, or waits for a credit, changes rhizoid ports. -/
theorem State.sendControl_eq (s : State) (n : Nat) : ∃ rp, s.sendControl n = { s with rports := rp } := by
  unfold State.sendControl
  dsimp only
  split <;> exact ⟨_, rfl⟩

/-- R230: a message for a member leaves the module. -/
theorem State.tellMember_eq (s : State) (m : Nat) (o : Out) : ∃ rp, s.tellMember m o = { s.emit o with rports := rp } := by
  unfold State.tellMember
  split
  · exact State.sendControl_eq _ _
  · exact ⟨_, rfl⟩

/-- R350: a message for the members of a set changes rhizoid ports and what leaves the module. -/
theorem State.tellMembers_eq (s : State) (ms : BitVec 16) (o : Out) : ∃ rp ou, s.tellMembers ms o = { s with rports := rp, out := ou } :=
  List.foldlRecOn (motive := fun t : State => ∃ rp ou, t = { s with rports := rp, out := ou }) _ _
    (by split <;> exact ⟨_, _, rfl⟩) fun _ ht n _ => by
      obtain ⟨_, _, rfl⟩ := ht
      obtain ⟨_, h⟩ := State.sendControl_eq _ n
      exact ⟨_, _, h⟩

theorem AtNodes.setRec (s : State) (r : Rec) : AtNodes s (s.setRec r) := ⟨_, _, _, _, rfl⟩

/-- R232: an arrival that the root has accepted changes no more than its record. -/
theorem State.arriveOnly_nodes (s : State) (a : Arrival) : AtNodes s (s.arriveOnly a) ∧ (s.arriveOnly a).bars = s.bars := by
  unfold State.arriveOnly
  split
  · split
    · exact ⟨.refl s, rfl⟩
    · exact ⟨.setRec _ _, rfl⟩
  · exact ⟨.refl s, rfl⟩

/-! ## Arrivals of this module (R230 to R232) -/

/-- What a first arrival fixes is not where arrivals wait, nor how many have come. -/
theorem Barrier.fix_eq (x : Barrier) (a : Arrival) :
    ∃ sc c f w, x.fix a = { x with scope := sc, count := c, frond := f, fixed := w } := by
  unfold Barrier.fix
  split <;> exact ⟨_, _, _, _, rfl⟩

/-- R232: the root numbers an arrival: the last of a generation opens the next; arrivals wait where they waited. -/
theorem Barrier.number_eq (x : Barrier) (w : Option (Nat × Word32)) :
    (x.number w).gen = (if x.count ≤ x.rootCount + 1 then x.gen + 1 else x.gen)
      ∧ (x.number w).rootCount = (if x.count ≤ x.rootCount + 1 then 0 else x.rootCount + 1)
      ∧ (x.number w).inF = x.inF ∧ (x.number w).inR = x.inR := by
  unfold Barrier.number
  dsimp only
  split <;> exact ⟨rfl, rfl, rfl, rfl⟩

/-- R232: the root's acceptance numbers the arrival. -/
theorem State.rootAccept_step (s : State) (b : Nat) (y : Barrier) (a : Arrival) :
    ∃ w, NodeStep s ((s.setBar b y).rootAccept b a) b { y.number w with touched := true } := by
  unfold State.rootAccept
  extract_lets waits x
  have hx : ∃ w, x = y.number w := ⟨_, by unfold x; rw [State.bar_setBar]⟩
  obtain ⟨w, hx⟩ := hx
  rw [hx]
  have hstep := (NodeStep.setBar s b y).again (.setBar _ b { y.number w with touched := true })
  obtain ⟨hnodes, hbars⟩ := State.arriveOnly_nodes ((s.setBar b y).setBar b { y.number w with touched := true }) a
  exact ⟨w, hstep.beside hnodes hbars⟩

/-- R230, R231: of a frond node's input, the first arrival is taken, the barrier as its values fix it. -/
def State.barTaken (s : State) (b f : Nat) (a : Arrival) (rest : List Arrival) : Barrier :=
  ({ s.bar b with inF := Tbl.put [] (s.bar b).inF f rest } : Barrier).fix a

section
variable {s : State} {b : Nat} (hcount : s.counting = true)
include hcount

theorem exec_barrierArrival_frond (f : Fin 4) : exec (.barrierArrival b (.frond f) none) s = .next (s.frondArrival b f) :=
  congrArg Host.Outcome.next (if_neg (by simp [hcount]))

theorem exec_barrierArrival_rachis : exec (.barrierArrival b .rachis none) s = .next (s.rachisArrival b) :=
  congrArg Host.Outcome.next (if_neg (by simp [hcount]))

theorem exec_barrierArrival_remote (m : RemoteArr) : exec (.barrierArrival b .rachis (some m)) s = .next (s.remoteArrival b m) :=
  congrArg Host.Outcome.next (if_neg (by simp [hcount]))

variable {f : Fin 4} {a : Arrival} {rest : List Arrival} (hin : Tbl.get [] (s.bar b).inF f = a :: rest)
include hin

/-- R232: an agreeing arrival of frond scope is numbered at its frond's node. -/
theorem barrierArrival_frond (hagree : (s.barTaken b f a rest).agrees a = true) (hscope : a.scope = 0) :
    exec (.barrierArrival b (.frond f) none) s = .next ((s.setBar b (s.barTaken b f a rest)).rootAccept b a) := by
  have hkept : ¬ (!(s.barTaken b f a rest).agrees a) = true := by simp [hagree]
  rw [exec_barrierArrival_frond hcount]
  unfold State.frondArrival
  dsimp only
  rw [hin]
  exact congrArg Host.Outcome.next ((if_neg hkept).trans (if_pos hscope))

/-- R230: an agreeing arrival of wider scope is held at its frond's node. -/
theorem barrierArrival_held (hagree : (s.barTaken b f a rest).agrees a = true) (hscope : a.scope ≠ 0)
    (hroom : (s.barTaken b f a rest).pendAt f < 0xFFFF) :
    exec (.barrierArrival b (.frond f) none) s = .next (s.setBar b { s.barTaken b f a rest with
      pendF := Tbl.put [] (s.barTaken b f a rest).pendF f (Tbl.get [] (s.barTaken b f a rest).pendF f ++ [a]), touched := true }) := by
  have hkept : ¬ (!(s.barTaken b f a rest).agrees a) = true := by simp [hagree]
  rw [exec_barrierArrival_frond hcount]
  unfold State.frondArrival
  dsimp only
  rw [hin]
  exact congrArg Host.Outcome.next ((if_neg hkept).trans ((if_neg hscope).trans (if_neg (Nat.not_lt.2 hroom))))

end

theorem State.barTaken_eq (s : State) (b f : Nat) (a : Arrival) (rest : List Arrival) :
    (s.barTaken b f a rest).gen = (s.bar b).gen ∧ Tbl.get [] (s.barTaken b f a rest).inF f = rest
      ∧ (s.barTaken b f a rest).pendF = (s.bar b).pendF := by
  obtain ⟨_, _, _, _, h⟩ := Barrier.fix_eq ({ s.bar b with inF := Tbl.put [] (s.bar b).inF f rest } : Barrier) a
  unfold State.barTaken
  rw [h]
  exact ⟨rfl, Tbl.get_put_same [] (s.bar b).inF f rest, rfl⟩

/-- R230, R231, R232: clause on arrivals of frond scope. -/
theorem barrierArrival_frond_numbers {s : State} {b : Nat} (hcount : s.counting = true) {f : Fin 4} {a : Arrival} {rest : List Arrival}
    (hin : Tbl.get [] (s.bar b).inF f = a :: rest) (hagree : (s.barTaken b f a rest).agrees a = true) (hscope : a.scope = 0) :
    let x := s.bar b
    let y := s.barTaken b f a rest
    ∃ t, exec (.barrierArrival b (.frond f) none) s = .next t ∧ Tbl.get [] (t.bar b).inF f = rest ∧ (t.bar b).touched = true
      ∧ (t.bar b).gen = (if y.count ≤ y.rootCount + 1 then x.gen + 1 else x.gen)
      ∧ (t.bar b).rootCount = (if y.count ≤ y.rootCount + 1 then 0 else y.rootCount + 1)
      ∧ (∀ k, k ≠ b → t.bar k = s.bar k) ∧ SameModule s t ∧ t.mem = s.mem ∧ t.ctxs = s.ctxs := by
  intro x y
  obtain ⟨w, hnodes, hbar, hbars⟩ := s.rootAccept_step b y a
  obtain ⟨hgen, hroot, hinF, -⟩ := y.number_eq w
  obtain ⟨hgen', hrest, -⟩ := s.barTaken_eq b f a rest
  obtain ⟨hmodule, hmem, hctxs, -⟩ := hnodes.leaves
  refine ⟨_, barrierArrival_frond hcount hin hagree hscope, ?_⟩
  rw [hbar]
  exact ⟨(congrArg (Tbl.get [] · f.val) hinF).trans hrest, rfl, hgen' ▸ hgen, hroot, hbars, hmodule, hmem, hctxs⟩

/-- R232: an arrival of module scope is numbered at the rachis node. -/
theorem barrierArrival_rachis_numbers {s : State} {b : Nat} (hcount : s.counting = true) {a : Arrival} {rest : List Arrival}
    (hin : (s.bar b).inR = a :: rest) (hscope : a.scope = 1) :
    let x := s.bar b
    ∃ t, exec (.barrierArrival b .rachis none) s = .next t ∧ (t.bar b).inR = rest
      ∧ (t.bar b).gen = (if x.count ≤ x.rootCount + 1 then x.gen + 1 else x.gen)
      ∧ (t.bar b).rootCount = (if x.count ≤ x.rootCount + 1 then 0 else x.rootCount + 1)
      ∧ (∀ k, k ≠ b → t.bar k = s.bar k) ∧ SameModule s t ∧ t.mem = s.mem ∧ t.ctxs = s.ctxs := by
  intro x
  obtain ⟨w, hnodes, hbar, hbars⟩ := s.rootAccept_step b { x with inR := rest } a
  obtain ⟨hgen, hroot, -, hinR⟩ := ({ x with inR := rest } : Barrier).number_eq w
  obtain ⟨hmodule, hmem, hctxs, -⟩ := hnodes.leaves
  refine ⟨(s.setBar b { x with inR := rest }).rootAccept b a, ?_, ?_⟩
  · rw [exec_barrierArrival_rachis hcount]
    unfold State.rachisArrival
    dsimp only
    rw [hin]
    exact congrArg Host.Outcome.next (if_pos (.inl hscope))
  · rw [hbar]
    exact ⟨hinR, hgen, hroot, hbars, hmodule, hmem, hctxs⟩

/-- R230, R357: a group's member holds an arrival of group scope at its rachis node. -/
theorem barrierArrival_rachis_held {s : State} {b : Nat} (hcount : s.counting = true) {a : Arrival} {rest : List Arrival}
    (hin : (s.bar b).inR = a :: rest) (hscope : a.scope ≠ 1) (hroot : s.group.isRoot = false)
    (hroom : pendCount ((s.bar b).sent ++ (s.bar b).pendR) < 0xFFFF) :
    exec (.barrierArrival b .rachis none) s
      = .next (s.setBar b { s.bar b with inR := rest, pendR := (s.bar b).pendR ++ [a], touched := true }) := by
  rw [exec_barrierArrival_rachis hcount]
  unfold State.rachisArrival
  dsimp only
  rw [hin]
  refine congrArg Host.Outcome.next ?_
  dsimp only
  rw [if_neg (by simp [hscope, hroot]), if_neg (Nat.not_lt.2 hroom), State.setBar_setBar]

/-! ## Arrivals of other members, and the group root's answers (R230 to R232, R238, R357) -/

/-- R230: the message by which a member sends arrivals, as the root counts it. -/
def memberArrivals (m num count : Nat) : Arrival := { q := 0, seq := 0, scope := 2, count, frond := 0, wait := false, num, member := some m }

theorem Barrier.agrees_memberArrivals (y : Barrier) (m num count : Nat) :
    y.agrees (memberArrivals m num count) = true ↔ y.scope = 2 ∧ y.count = count := by
  simp [Barrier.agrees, memberArrivals]

/-- R232, R357: the group root numbers agreeing arrivals of a member and answers it with the place of the first. -/
theorem State.remoteArrivals_agreed {s : State} {b m num count : Nat} (hin : s.group.inGroup = true) (hroot : s.group.isRoot = true)
    (hagree : ((s.bar b).fix (memberArrivals m num count)).agrees (memberArrivals m num count) = true) :
    let y := (s.bar b).fix (memberArrivals m num count)
    let t := s.remoteArrivals b m num count
    t.bar b = { numberMany num y with touched := true } ∧ Out.barAnswer m b num (some (y.gen, y.rootCount)) ∈ t.out
      ∧ (∀ k, k ≠ b → t.bar k = s.bar k) ∧ t.mem = s.mem ∧ t.recs = s.recs := by
  intro y t
  obtain ⟨u, hu⟩ : ∃ u, u = s.setBar b { numberMany num y with touched := true } := ⟨_, rfl⟩
  obtain ⟨rp, htell⟩ := u.tellMember_eq m (.barAnswer m b num (some (y.gen, y.rootCount)))
  have ht : t = match (u.tellMember m (.barAnswer m b num (some (y.gen, y.rootCount)))).barCtx b with
      | some c => (u.tellMember m (.barAnswer m b num (some (y.gen, y.rootCount)))).touch c
      | none => u.tellMember m (.barAnswer m b num (some (y.gen, y.rootCount))) := by
    rw [hu]
    exact if_pos ⟨hin, hroot, hagree⟩
  have hkept : t.bars = u.bars ∧ t.out = .barAnswer m b num (some (y.gen, y.rootCount)) :: u.out ∧ t.mem = u.mem ∧ t.recs = u.recs := by
    rw [ht, htell]
    split <;> exact ⟨rfl, rfl, rfl, rfl⟩
  obtain ⟨hbars, hout, hmem, hrecs⟩ := hkept
  have hbar : ∀ k, t.bar k = u.bar k := fun k => congrArg (Tbl.get ({} : Barrier) · k) hbars
  subst hu
  refine ⟨(hbar b).trans (State.bar_setBar _ _ _), ?_, fun k hk => (hbar k).trans (State.bar_setBar_ne _ _ _ hk), hmem, hrecs⟩
  rw [hout]
  exact List.mem_cons_self

/-- R231: the group root refuses arrivals of a member that do not agree with what is fixed. -/
theorem State.remoteArrivals_refused {s : State} {b m num count : Nat}
    (hagree : ¬ ((s.bar b).fix (memberArrivals m num count)).agrees (memberArrivals m num count) = true) :
    let t := s.remoteArrivals b m num count
    Out.barAnswer m b num none ∈ t.out ∧ t.bars = s.bars ∧ t.mem = s.mem ∧ t.recs = s.recs := by
  intro t
  obtain ⟨rp, htell⟩ := s.tellMember_eq m (.barAnswer m b num none)
  have ht : t = s.tellMember m (.barAnswer m b num none) := if_neg fun h => hagree h.2.2
  rw [ht, htell]
  exact ⟨List.mem_cons_self, rfl, rfl, rfl⟩

/-- R232: the generation of an arrival that the root has accepted at a place of the generation being filled. -/
def Barrier.acceptedGen (x : Barrier) (gen : Word32) (place : Nat) : Word32 := gen + BitVec.ofNat 32 (place / Nat.max 1 x.count)

/-- R232: the barrier of a member after the root has accepted the first arrival that it sent. -/
def Barrier.accepted (x : Barrier) (rest : List Arrival) (gen : Word32) (place : Nat) : Barrier :=
  { x with sent := rest, away := x.away ++ [x.acceptedGen gen place] }

section
variable {s : State} {b : Nat} {a : Arrival} {rest : List Arrival} {r : Rec} (hsent : (s.bar b).sent = a :: rest)
  (hrec : s.findRec a.q a.seq = some r)
include hsent hrec

theorem State.remoteArrival_accepted (gen : Word32) (place : Nat) :
    s.remoteArrival b (.accepted 1 gen place) =
      let y := (s.bar b).accepted rest gen place
      if a.wait then s.setBar b { y with waiters := y.waiters ++ [(a.q, a.seq, (s.bar b).acceptedGen gen place)] }
      else (s.setBar b y).setRec { r with workDone := true } := by
  have hfind : ∀ y, (s.setBar b y).findRec a.q a.seq = some r := fun _ => hrec
  unfold State.remoteArrival
  dsimp only
  rw [hsent]
  simp only [List.take_succ_cons, List.take_zero, List.zipIdx_cons, List.zipIdx_nil, List.foldl_cons, List.foldl_nil, List.drop_succ_cons,
    List.drop_zero, acceptedArr, State.bar_setBar, State.setBar_setBar, State.arriveOnly, hfind, Option.isSome_some, Bool.and_true]
  cases a.wait <;> rfl

/-- R232, R357: a waiter whose arrival the root has accepted awaits the release of its generation; an arrive-only record is done. -/
theorem State.remoteArrival_accepted_leaves (gen : Word32) (place : Nat) :
    let t := s.remoteArrival b (.accepted 1 gen place)
    (t.bar b).sent = rest
      ∧ (a.wait = true → (a.q, a.seq, (s.bar b).acceptedGen gen place) ∈ (t.bar b).waiters ∧ t.recs = s.recs)
      ∧ (a.wait = false → ∃ r', t.findRec a.q a.seq = some r' ∧ r'.workDone = true) ∧ SameModule s t ∧ t.mem = s.mem := by
  dsimp only
  rw [State.remoteArrival_accepted hsent hrec gen place]
  dsimp only
  cases a.wait with
  | true =>
    rw [if_pos rfl, State.bar_setBar]
    exact ⟨rfl, fun _ => ⟨List.mem_append_right _ (List.mem_singleton_self _), rfl⟩, fun h => absurd h (by decide), by simp [SameModule], rfl⟩
  | false =>
    rw [if_neg (by decide)]
    obtain ⟨hmodule, hmem, -⟩ := ((NodeStep.setBar s b _).beside (.setRec _ { r with workDone := true }) rfl).nodes.leaves
    have hbar := State.bar_setBar s b ((s.bar b).accepted rest gen place)
    exact ⟨congrArg Barrier.sent hbar, fun h => absurd h (by decide),
      fun _ => ⟨_, State.findRec_setRec_same (s := s.setBar b _) hrec (State.findRec_key (r := r) hrec), rfl⟩, hmodule, hmem⟩

/-- R231, R357: an arrival that the root has refused completes its record with `ERR_FIELD_RANGE`. -/
theorem State.remoteArrival_refused :
    let t := s.remoteArrival b (.refused 1)
    ∃ r', (t.bar b).sent = rest ∧ t.findRec a.q a.seq = some r' ∧ r'.workDone = true ∧ (Status.fieldRange, 0) ∈ r'.codes ∧ SameModule s t
      ∧ t.mem = s.mem := by
  have hfind : ∀ y, (s.setBar b y).findRec a.q a.seq = some r := fun _ => hrec
  have ht : s.remoteArrival b (.refused 1)
      = (s.setBar b { s.bar b with sent := rest }).setRec { r.failWith Status.fieldRange 0 with workDone := true } := by
    unfold State.remoteArrival
    dsimp only
    rw [hsent]
    simp only [List.take_succ_cons, List.take_zero, List.foldl_cons, List.foldl_nil, List.drop_succ_cons, List.drop_zero, State.refuseArr,
      hfind]
  dsimp only
  rw [ht]
  obtain ⟨hmodule, hmem, -⟩ := ((NodeStep.setBar s b { s.bar b with sent := rest }).beside
    (.setRec _ { r.failWith Status.fieldRange 0 with workDone := true }) rfl).nodes.leaves
  have hbar := State.bar_setBar s b { s.bar b with sent := rest }
  exact ⟨_, congrArg Barrier.sent hbar, State.findRec_setRec_same (s := s.setBar b _) hrec (State.findRec_key (r := r) hrec), rfl,
    List.mem_append_right _ (List.mem_singleton_self _), hmodule, hmem⟩

end

end Sys2Proof.Machine
end

section
/-! SUPPORT. Forwarding and release of arrivals, and the deadlock detector (R230, R232, R236, R237, R357). -/

namespace Sys2Proof.Machine

open Sys2Proof

/-! ## Forwarding (R230, R357) -/

/-- R230: a frond with its path forwards what its node holds. -/
theorem barrierForward_frond {s : State} (b : Nat) {f : Fin 4} (hpath : (s.frond f).path = true) :
    exec (.barrierForward b (.frond f)) s = .next (s.setBar b { s.bar b with
      pendF := Tbl.put [] (s.bar b).pendF f [], inR := (s.bar b).inR ++ Tbl.get [] (s.bar b).pendF f }) :=
  congrArg Host.Outcome.next (if_pos hpath)

/-- R230, R357: a member's rachis node sends what it holds to the group root, and keeps it until the root answers. -/
theorem barrierForward_rachis {s : State} {b root n : Nat} (hin : s.group.inGroup = true)
    (hroot : (memberList s.group.members).head? = some root) (hport : s.portTo root = some n) (hpend : (s.bar b).pendR ≠ []) :
    exec (.barrierForward b .rachis) s
      = .next (((s.setBar b { s.bar b with pendR := [], sent := (s.bar b).sent ++ (s.bar b).pendR }).emit
          (.barArrivals b (pendCount (s.bar b).pendR) (s.bar b).count)).sendControl n) := by
  refine congrArg Host.Outcome.next ?_
  dsimp only
  rw [hroot]
  dsimp only
  rw [hport]
  exact if_neg (by simp [hpend, hin])

/-! ## Release (R232, R357) -/

/-- R232: a waiter of a released generation is done. -/
def waiterDone (gen : Word32) (s : State) (w : Nat × Word32 × Word32) : State :=
  match s.findRec w.1 w.2.1 with
  | some r => s.setRec { r with workDone := true, gen := some gen }
  | none => s

theorem waiterDone_nodes (gen : Word32) (s : State) (w : Nat × Word32 × Word32) :
    AtNodes s (waiterDone gen s w) ∧ (waiterDone gen s w).bars = s.bars := by
  unfold waiterDone
  split
  · exact ⟨.setRec _ _, rfl⟩
  · exact ⟨.refl s, rfl⟩

/-- A record in flight stays in flight; it is done if it was, or if it is the waiter's. -/
theorem waiterDone_findRec (gen : Word32) {s : State} (w : Nat × Word32 × Word32) {q : Nat} {seq : Word32} {r : Rec}
    (h : s.findRec q seq = some r) :
    ∃ r', (waiterDone gen s w).findRec q seq = some r' ∧ (r.workDone = true ∨ (w.1 = q ∧ w.2.1 = seq) → r'.workDone = true) := by
  unfold waiterDone
  split
  · next x hx =>
    obtain ⟨hq, hseq⟩ := State.findRec_key hx
    by_cases hw : w.1 = q ∧ w.2.1 = seq
    · exact ⟨_, State.findRec_setRec_same h ⟨hq.trans hw.1, hseq.trans hw.2⟩, fun _ => rfl⟩
    · refine ⟨r, ?_, fun hdone => hdone.resolve_right hw⟩
      rw [State.findRec_setRec_ne, h]
      rintro ⟨rfl, rfl⟩
      exact hw ⟨hq.symm, hseq.symm⟩
  · next hx =>
    refine ⟨r, h, fun hdone => hdone.resolve_right ?_⟩
    rintro ⟨rfl, rfl⟩
    rw [hx] at h
    exact absurd h (by simp)

/-- R232: all the waiters of a list are done. -/
theorem foldl_waiterDone (gen : Word32) (l : List (Nat × Word32 × Word32)) (s : State) :
    let t := l.foldl (waiterDone gen) s
    AtNodes s t ∧ t.bars = s.bars ∧ ∀ q seq r, s.findRec q seq = some r →
      ∃ r', t.findRec q seq = some r' ∧ (r.workDone = true ∨ (∃ w ∈ l, w.1 = q ∧ w.2.1 = seq) → r'.workDone = true) := by
  induction l generalizing s with
  | nil => exact ⟨.refl s, rfl, fun q seq r h => ⟨r, h, fun hdone => hdone.elim id fun ⟨_, hw, _⟩ => absurd hw List.not_mem_nil⟩⟩
  | cons w l ih =>
    obtain ⟨hnodes, hbars⟩ := waiterDone_nodes gen s w
    obtain ⟨hnodes', hbars', hfind'⟩ := ih (waiterDone gen s w)
    refine ⟨hnodes.trans hnodes', hbars'.trans hbars, fun q seq r h => ?_⟩
    obtain ⟨x, hx, hdone⟩ := waiterDone_findRec gen w h
    obtain ⟨r', hr', hdone'⟩ := hfind' q seq x hx
    refine ⟨r', hr', fun hor => hdone' ?_⟩
    rcases hor with hr | ⟨v, hv, hkey⟩
    · exact .inl (hdone (.inl hr))
    · rcases List.mem_cons.1 hv with rfl | hv
      · exact .inl (hdone (.inr hkey))
      · exact .inr ⟨v, hv, hkey⟩

/-- R232: a barrier after the release of a generation. -/
def Barrier.releasing (x : Barrier) (gen : Word32) : Barrier :=
  { x with waiters := x.waiters.filter fun w => !(w.2.2 == gen), released := x.released.filter (· != gen), away := x.away.filter (· != gen) }

theorem State.releaseGen_eq (s : State) (b : Nat) (gen : Word32) :
    s.releaseGen b gen
      = ((s.bar b).waiters.filter fun w => w.2.2 == gen).foldl (waiterDone gen) (s.setBar b ((s.bar b).releasing gen)) := by
  have hsplit := List.partition_eq_filter_filter (p := fun w : Nat × Word32 × Word32 => w.2.2 == gen) (l := (s.bar b).waiters)
  unfold State.releaseGen
  dsimp only
  rw [hsplit]
  rfl

/-- R232: the release of a generation takes its waiters off the barrier, and their records are done. -/
theorem State.releaseGen_releases (s : State) (b : Nat) (gen : Word32) :
    NodeStep s (s.releaseGen b gen) b ((s.bar b).releasing gen)
      ∧ ∀ q seq r, (q, seq, gen) ∈ (s.bar b).waiters → s.findRec q seq = some r →
        ∃ r', (s.releaseGen b gen).findRec q seq = some r' ∧ r'.workDone = true := by
  obtain ⟨hnodes, hbars, hfind⟩ := foldl_waiterDone gen ((s.bar b).waiters.filter fun w => w.2.2 == gen)
    (s.setBar b ((s.bar b).releasing gen))
  rw [s.releaseGen_eq b gen]
  refine ⟨(NodeStep.setBar s b _).beside hnodes hbars, fun q seq r hw h => ?_⟩
  obtain ⟨r', hr', hdone⟩ := hfind q seq r h
  exact ⟨r', hr', hdone (.inr ⟨_, List.mem_filter.2 ⟨hw, by simp⟩, rfl, rfl⟩)⟩

/-- R232, R357: a generation to release is released here, and at the group root its release goes to the members too. -/
theorem barrierRelease_releases {s : State} {b : Nat} {gen : Word32} (h : gen ∈ (s.bar b).released) :
    ∃ t, exec (.barrierRelease b gen) s = .next t ∧ NodeStep s t b ((s.bar b).releasing gen) ∧ t.recs = (s.releaseGen b gen).recs := by
  obtain ⟨hstep, -⟩ := s.releaseGen_releases b gen
  have hexec : exec (.barrierRelease b gen) s = .next (if (s.bar b).scope = 2 then
      (s.releaseGen b gen).tellMembers s.group.members (.barRelease b gen) else s.releaseGen b gen) :=
    congrArg Host.Outcome.next (if_pos (List.contains_iff_mem.2 h))
  obtain ⟨rp, o, htell⟩ := (s.releaseGen b gen).tellMembers_eq s.group.members (.barRelease b gen)
  refine ⟨_, hexec, ?_⟩
  split
  · rw [htell]
    exact ⟨hstep.beside ⟨_, _, _, _, rfl⟩ rfl, rfl⟩
  · exact ⟨hstep, rfl⟩

/-! ## The deadlock detector (R236, R237) -/

/-- R362: event-log entries take the next numbers; the last module error and the readers' causes stand. -/
theorem foldl_evAdd (f : Nat → EvEntry) (l : List Nat) (s : State) :
    let t := l.foldl (fun t q => t.evAdd (f q)) s
    Notice s t ∧ t.evlog.nextSeq = s.evlog.nextSeq + l.length ∧ t.evlog.errStatus = s.evlog.errStatus ∧ t.intrs = s.intrs := by
  induction l generalizing s with
  | nil => exact ⟨.refl s, rfl, rfl, rfl⟩
  | cons q l ih =>
    obtain ⟨hnotice, hseq, herr, hintrs⟩ := ih (s.evAdd (f q))
    obtain ⟨lg, ⟨⟨_, _, heq⟩, -, -⟩, hlseq, hlerr⟩ := s.evAdd_sends (f q)
    refine ⟨((Notice.refl s).evAdd _).trans hnotice, ?_, ?_, ?_⟩
    · rw [List.foldl_cons, hseq, heq, List.length_cons]
      dsimp only
      omega
    · rw [List.foldl_cons, herr, heq]
      exact hlerr
    · rw [List.foldl_cons, hintrs, heq]

/-- R32, R237, R248: a module error is the last one, and every reader's cause. -/
theorem State.moduleError_told (s : State) (st : Nat) :
    (s.moduleError st).evlog.errStatus = st ∧ (s.moduleError st).evlog.nextSeq = s.evlog.nextSeq
      ∧ ∀ i, i < 20 → ((s.moduleError st).intr i).modErr = true := by
  have key : ∀ t : State, ((t.eachIntr fun i => { i with modErr := true }).msixAll 0).evlog = t.evlog
      ∧ ∀ i, i < 20 → (((t.eachIntr fun i => { i with modErr := true }).msixAll 0).intr i).modErr = true := fun t => by
    refine ⟨by simp only [State.msixAll, State.evlog_msix, State.eachIntr_evlog], fun i hi => ?_⟩
    unfold State.intr
    simp only [State.msixAll, State.intrs_msix]
    exact intr_foldl_setIntr (fun i => { i with modErr := true }) 20 t (·.modErr = true) (fun _ => rfl) i hi
  obtain ⟨hkept, hmod⟩ := key { s with evlog := { s.evlog with errStatus := st, errEvent := s.evNewest } }
  have hlog : (s.moduleError st).evlog = { s.evlog with errStatus := st, errEvent := s.evNewest } := hkept
  exact ⟨by rw [hlog], by rw [hlog], hmod⟩

/-- R237: the state after the entry of a deadlocked scope, its module error, and the snapshots of its blocked queues. -/
def State.deadlockTold (s : State) (e : EvEntry) (snap : Nat → EvEntry) (qs : List Nat) : State :=
  qs.foldl (fun t q => t.evAdd (snap q)) ((s.evAdd e).moduleError Status.deadlock)

theorem State.deadlockTold_tells (s : State) (e : EvEntry) (snap : Nat → EvEntry) (qs : List Nat) :
    let t := s.deadlockTold e snap qs
    Notice s t ∧ t.evlog.errStatus = Status.deadlock ∧ (∀ i, i < 20 → (t.intr i).modErr = true)
      ∧ t.evlog.nextSeq = s.evlog.nextSeq + 1 + qs.length := by
  intro t
  obtain ⟨hnotice, hseq, herr, hintrs⟩ := foldl_evAdd snap qs ((s.evAdd e).moduleError Status.deadlock)
  obtain ⟨herr', hseq', hmod⟩ := (s.evAdd e).moduleError_told Status.deadlock
  obtain ⟨l, ⟨⟨_, _, heq⟩, -, -⟩, hlseq, -⟩ := s.evAdd_sends e
  have hadd : (s.evAdd e).evlog.nextSeq = s.evlog.nextSeq + 1 := by rw [heq]; exact hlseq
  refine ⟨(((Notice.refl s).evAdd e).moduleError _).trans hnotice, herr.trans herr', fun i hi => ?_, ?_⟩
  · exact (congrArg (fun m => (Tbl.get ({} : Intr) m i).modErr) hintrs).trans (hmod i hi)
  · rw [← hadd, ← hseq']
    exact hseq

/-- What reports errors leaves records, memory, flags and queues. -/
theorem Notice.inFlight {s t : State} (h : Notice s t) : t.recs = s.recs ∧ t.mem = s.mem ∧ t.flags = s.flags ∧ t.queues = s.queues := by
  obtain ⟨_, _, _, _, _, rfl⟩ := h
  exact ⟨rfl, rfl, rfl, rfl⟩

/-- R237: a scope that has been reported is not reported again. -/
def State.markReported (s : State) : Scope → State
  | .module => { s with dlReported := true }
  | .context c => s.setCtx c { s.ctx c with dlReported := true }

/-- R236, R237: a scope that is stuck, its window past, is reported once, and nothing that runs changes. -/
theorem deadlockDetected_reports {s : State} {sc : Scope} {at_ : Nat} (hstuck : (s.advance at_).stuck sc = true)
    (hpassed : (s.advance at_).windowPassed sc = true) :
    ∃ t, exec (.deadlockDetected sc at_) s = .next t ∧ t.evlog.errStatus = Status.deadlock ∧ (∀ i, i < 20 → (t.intr i).modErr = true)
      ∧ t.evlog.nextSeq = s.evlog.nextSeq + 1 + (((s.advance at_).scopeQueues sc).take 64).length
      ∧ (∀ c, sc = .context c → (t.ctx c).dlReported = true) ∧ (sc = .module → t.dlReported = true)
      ∧ t.recs = s.recs ∧ t.mem = s.mem ∧ t.flags = s.flags ∧ t.queues = s.queues := by
  have hexec : ∃ e, exec (.deadlockDetected sc at_) s = .next
      (((s.advance at_).deadlockTold e (s.advance at_).snapshot (((s.advance at_).scopeQueues sc).take 64)).markReported sc) := by
    have htold : ((s.advance at_).stuck sc && (s.advance at_).windowPassed sc) = true := by simp [hstuck, hpassed]
    cases sc <;> exact ⟨_, congrArg Host.Outcome.next (if_pos htold)⟩
  obtain ⟨e, hexec⟩ := hexec
  obtain ⟨hnotice, herr, hmod, hseq⟩ :=
    (s.advance at_).deadlockTold_tells e (s.advance at_).snapshot (((s.advance at_).scopeQueues sc).take 64)
  obtain ⟨hrecs, hmem, hflags, hqueues⟩ := hnotice.inFlight
  refine ⟨_, hexec, ?_⟩
  cases sc with
  | module => exact ⟨herr, hmod, hseq, fun c hc => absurd hc (by simp), fun _ => rfl, hrecs, hmem, hflags, hqueues⟩
  | context c =>
    refine ⟨herr, hmod, hseq, fun d hd => ?_, fun h => absurd h (by simp), hrecs, hmem, hflags, hqueues⟩
    obtain rfl := Scope.context.inj hd
    exact congrArg Ctx.dlReported (State.ctx_setCtx _ _ _)

/-- Settles O36: what a node does with an arrival, a message or a release is a step on one barrier (`NodeStep`) beside which records end; each clause
is the lemma on its command. -/
theorem barriers : Obligations.Barriers := by
  intro s b hcount x
  refine ⟨fun f a rest hin => ⟨fun hagree hscope => barrierArrival_frond_numbers hcount hin hagree hscope, fun hagree hscope hroom => ?_⟩,
    fun a rest hin hscope => barrierArrival_rachis_numbers hcount hin hscope, fun a rest hin hscope hroot hroom =>
    barrierArrival_rachis_held hcount hin hscope hroot hroom, fun m num count hin hroot => ⟨fun hscope hnum => ?_, fun hbad => ?_⟩,
    fun a rest gen place r hsent hrec => ⟨?_, ?_⟩, fun f hpath => ?_, fun root n hin hroot hport hpend => ?_, fun gen hgen => ?_,
    fun sc at_ hstuck hpassed => deadlockDetected_reports hstuck hpassed⟩
  · obtain ⟨hgen, hrest, hpend⟩ := s.barTaken_eq b f a rest
    refine ⟨_, barrierArrival_held hcount hin hagree hscope hroom, ?_⟩
    rw [State.bar_setBar, hpend]
    exact ⟨hrest, Tbl.get_put_same [] x.pendF f _, hgen, fun k hk => State.bar_setBar_ne _ _ _ hk, by simp [SameModule], rfl, rfl, rfl⟩
  · exact ⟨_, exec_barrierArrival_remote hcount _,
      State.remoteArrivals_agreed hin hroot ((Barrier.agrees_memberArrivals _ _ _ _).2 ⟨hscope, hnum⟩)⟩
  · exact ⟨_, exec_barrierArrival_remote hcount _, State.remoteArrivals_refused fun h =>
      have ⟨hscope, hnum⟩ := (Barrier.agrees_memberArrivals _ _ _ _).1 h
      hbad.elim (absurd hscope) (absurd hnum)⟩
  · exact ⟨_, exec_barrierArrival_remote hcount _, State.remoteArrival_accepted_leaves hsent hrec gen place⟩
  · obtain ⟨r', h⟩ := State.remoteArrival_refused hsent hrec
    exact ⟨_, r', exec_barrierArrival_remote hcount _, h⟩
  · refine ⟨_, barrierForward_frond b hpath, ?_⟩
    rw [State.bar_setBar]
    exact ⟨Tbl.get_put_same [] x.pendF f [], rfl, fun k hk => State.bar_setBar_ne _ _ _ hk, by simp [SameModule], rfl, rfl, rfl⟩
  · refine ⟨_, barrierForward_rachis hin hroot hport hpend, ?_⟩
    obtain ⟨rp, hsend⟩ := ((s.setBar b { x with pendR := [], sent := x.sent ++ x.pendR }).emit
      (.barArrivals b (pendCount x.pendR) x.count)).sendControl_eq n
    rw [hsend]
    have hbar := State.bar_setBar s b { x with pendR := [], sent := x.sent ++ x.pendR }
    exact ⟨congrArg Barrier.pendR hbar, congrArg Barrier.sent hbar, List.mem_cons_self, fun k hk => State.bar_setBar_ne s b _ hk, rfl, rfl⟩
  · obtain ⟨t, ht, ⟨hnodes, hbar, -⟩, hrecs⟩ := barrierRelease_releases hgen
    obtain ⟨-, hdone⟩ := s.releaseGen_releases b gen
    obtain ⟨hmodule, hmem, hctxs, hqueues⟩ := hnodes.leaves
    refine ⟨t, ht, ?_, ?_, fun q seq r hw h => ?_, hmodule, hmem, hctxs, hqueues⟩
    · rw [hbar]; simp [Barrier.releasing]
    · rw [hbar]
      intro w hw
      simpa using (List.mem_filter.1 hw).2
    · unfold State.findRec
      rw [hrecs]
      exact hdone q seq r hw h

end Sys2Proof.Machine
end

section
/-! SUPPORT. Events of a host port (R229, R241, R255 to R258, R370): what comes of a link's loss, its return, a fence and a reset, and that all
behind the ports stands. -/

namespace Sys2Proof.Machine

open Sys2Proof

/-! ## What an event of a port may change -/

/-- `t` is `s` but for ports, outputs, the event log, records in flight and what mirrored blocks owe. -/
def BesidePorts (s t : State) : Prop := ∃ ps o l rs ms, t = { s with ports := ps, out := o, evlog := l, recs := rs, mirrors := ms }

namespace BesidePorts
variable {s t u : State}

theorem trans (h : BesidePorts s t) (k : BesidePorts t u) : BesidePorts s u := by
  obtain ⟨_, _, _, _, _, rfl⟩ := h
  obtain ⟨_, _, _, _, _, rfl⟩ := k
  exact ⟨_, _, _, _, _, rfl⟩

theorem leaves (h : BesidePorts s t) : SameBehindPort s t ∧ t.mboxes = s.mboxes := by
  obtain ⟨_, _, _, _, _, rfl⟩ := h
  simp [SameBehindPort, SameModule]

end BesidePorts

/-- `t` is `s` after what ports send, beside event-log entries, changes of records in flight and of what mirrored blocks owe. -/
def LinkWork (s t : State) : Prop := ∃ l rs ms, Sends { s with evlog := l, recs := rs, mirrors := ms } t

/-- What ports send does not depend on the event log, the records in flight and what blocks owe. -/
theorem Sends.upd {s t : State} (h : Sends s t) (l : EvLog) (rs : List Rec) (ms : Tbl Mirror) :
    Sends { s with evlog := l, recs := rs, mirrors := ms } { t with evlog := l, recs := rs, mirrors := ms } := by
  obtain ⟨⟨_, _, rfl⟩, hlink, hout⟩ := h
  exact ⟨⟨_, _, rfl⟩, hlink, hout⟩

namespace LinkWork
variable {s t u : State}

theorem of_sends (h : Sends s t) : LinkWork s t := ⟨_, _, _, h⟩

theorem trans (h : LinkWork s t) (k : LinkWork t u) : LinkWork s u := by
  obtain ⟨_, _, _, h⟩ := h
  obtain ⟨l, rs, ms, k⟩ := k
  exact ⟨l, rs, ms, (h.upd l rs ms).trans k⟩

theorem evAdd (s : State) (e : EvEntry) : LinkWork s (s.evAdd e) := by
  obtain ⟨l, hlog, -⟩ := s.evAdd_sends e
  exact ⟨l, s.recs, s.mirrors, hlog⟩

theorem setRec (s : State) (r : Rec) : LinkWork s (s.setRec r) := ⟨s.evlog, _, s.mirrors, .refl _⟩

theorem beside (h : LinkWork s t) : BesidePorts s t := by
  obtain ⟨_, _, _, ⟨⟨_, _, rfl⟩, -, -⟩⟩ := h
  exact ⟨_, _, _, _, _, rfl⟩

/-- The port that an event has set is as it was set, but for what sending may change. -/
theorem port {p : Nat} {v : Port} (h : LinkWork (s.setPort p v) t) : v.SameLink (t.port p) := by
  obtain ⟨_, _, _, h⟩ := h
  have hlink : ((s.setPort p v).port p).SameLink (t.port p) := h.link p
  rwa [State.port_setPort] at hlink

/-- All behind the port that an event has set stands. -/
theorem behind {p : Nat} {v : Port} (h : LinkWork (s.setPort p v) t) : SameBehindPort s t ∧ t.mboxes = s.mboxes :=
  (BesidePorts.trans (s := s) ⟨_, _, _, _, _, rfl⟩ h.beside).leaves

end LinkWork

/-! ## Mirroring stops and resumes (R229, R248) -/

/-- R229: that mirroring stops is logged. -/
theorem State.mirrorStop_sends (s : State) (p : Fin 4) (cause : Nat) : ∃ l, Sends { s with evlog := l } (s.mirrorStop p cause) := by
  unfold State.mirrorStop
  dsimp only
  split
  · obtain ⟨l, hlog, -⟩ := (s.setPort p { s.port p with mirrorHeld := true }).evAdd_sends
      { seq := 0, time := 0, kind := 0x17, status := 0, unit := unitId 8 p.val, d0 := cause
        d1 := (s.setPort p { s.port p with mirrorHeld := true }).mirroredBlocks.length }
    exact ⟨l, (((Sends.refl s).setPort (.hold _ _)).upd l s.recs s.mirrors).trans hlog⟩
  · exact ⟨_, .refl s⟩

/-- What blocks owe is cleared. -/
theorem foldl_clearMirrors (l : List Nat) (s : State) :
    ∃ ms, l.foldl (fun s b => { s with mirrors := Tbl.put {} s.mirrors b {} }) s = { s with mirrors := ms } :=
  List.foldlRecOn (motive := fun t : State => ∃ ms, t = { s with mirrors := ms }) l _ ⟨_, rfl⟩ fun _ ht _ _ => by
    obtain ⟨_, rfl⟩ := ht
    exact ⟨_, rfl⟩

/-- R229: a block's mirror write of its present state. -/
theorem Sends.mirror {s t : State} (h : Sends s t) (p : Fin 4) (b : Nat) : Sends s (match t.binding b with
    | some (_, _, f) => if f.mirror then t.toHost p (.mirror p f.addr (t.flagBlock b)) else t
    | none => t) := by
  split
  · exact Sends.ite (h.toHost _ _) h
  · exact h

/-- R229, R248: what held a port's messages ends: writes and messages are sent, and nothing is owed. -/
theorem State.hostReturn_sends (s : State) (p : Fin 4) : ∃ ms, Sends { s with mirrors := ms } (s.hostReturn p) := by
  have hreturn : ∃ ms, Sends { s with mirrors := ms } (s.mirrorReturn p) := by
    unfold State.mirrorReturn
    split
    · extract_lets x s1 bs s2 owed vs s3
      have h1 : Sends s s1 := (Sends.refl s).setPort (.hold _ _)
      have h3 : Sends s s3 := Sends.foldl (fun _ _ h => h.msix _ _) _ (Sends.foldl (fun _ b h => h.mirror p b) _ h1)
      obtain ⟨ms, hclear⟩ := foldl_clearMirrors bs s3
      rw [hclear]
      exact ⟨ms, h3.withMirrors ms⟩
    · exact ⟨_, .refl s⟩
  obtain ⟨ms, hreturn⟩ := hreturn
  exact ⟨ms, hreturn.trans ((Sends.refl _).msixFlush p)⟩

/-! ## Transfers halt (R256, R257) -/

/-- The host transfers on a port that its loss halts, each the only record of its queue and sequence. -/
def IsTransfer (s : State) (p : Fin 4) (r : Rec) : Prop :=
  r ∈ s.recs ∧ (r.op = 0x34 ∨ r.op = 0x35) ∧ r.variant = p.val ∧ r.halted = false ∧ r.tickets.done < r.tickets.total
    ∧ ∀ x ∈ s.recs, x.q = r.q → x.seq = r.seq → x = r

/-- A record in flight is found by its queue and sequence, or another with both is. -/
theorem State.findRec_of_mem {s : State} {r : Rec} (h : r ∈ s.recs) : ∃ x, s.findRec r.q r.seq = some x := by
  refine Option.isSome_iff_exists.1 ?_
  unfold State.findRec
  rw [List.find?_isSome]
  exact ⟨r, h, by simp⟩

theorem halted_of_findRec {s t : State} {r : Rec} {status : Nat} (h : Halted s r status) (e : t.findRec r.q r.seq = s.findRec r.q r.seq) :
    Halted t r status := by
  unfold Halted
  rwa [e]

theorem State.haltXfer_work (s : State) (r : Rec) (status : Nat) : LinkWork s (s.haltXfer r status) :=
  (LinkWork.evAdd s _).trans (LinkWork.setRec _ _)

/-- R256: whatever record stands for the transfer, it is replaced by the halted one. -/
theorem State.haltXfer_halts {s : State} {r x : Rec} (h : s.findRec r.q r.seq = some x) (status : Nat) : Halted (s.haltXfer r status) r status := by
  obtain ⟨t, hnotice, heq⟩ := s.haltXfer_eq r status
  obtain ⟨_, _, _, _, _, rfl⟩ := hnotice
  rw [heq]
  exact ⟨_, State.findRec_setRec_same (s := { s with ports := _, intrs := _, evlog := _, integ := _, out := _ }) h ⟨rfl, rfl⟩, rfl, rfl,
    List.mem_append_right _ (List.mem_singleton_self _), r.acked_ticket_haltedWith status _, rfl⟩

theorem State.findRec_haltXfer_ne (s : State) {r : Rec} (status : Nat) {q : Nat} {seq : Word32} (h : ¬ (q = r.q ∧ seq = r.seq)) :
    (s.haltXfer r status).findRec q seq = s.findRec q seq := by
  obtain ⟨t, hnotice, heq⟩ := s.haltXfer_eq r status
  obtain ⟨_, _, _, _, _, rfl⟩ := hnotice
  rw [heq]
  exact State.findRec_setRec_ne _ h

/-- Of a list of records that halt, one that is the only one of its queue and sequence has halted in the end. -/
theorem foldl_haltXfer_halted {r : Rec} (status : Nat) (l : List Rec) {s : State} (honly : ∀ x ∈ l, x.q = r.q → x.seq = r.seq → x = r)
    (hfind : ∃ x, s.findRec r.q r.seq = some x) (h : Halted s r status ∨ r ∈ l) :
    Halted (l.foldl (fun s x => s.haltXfer x status) s) r status := by
  induction l generalizing s with
  | nil => exact h.resolve_right List.not_mem_nil
  | cons a l ih =>
    have honly' : ∀ x ∈ l, x.q = r.q → x.seq = r.seq → x = r := fun x hx => honly x (List.mem_cons_of_mem _ hx)
    by_cases hkey : r.q = a.q ∧ r.seq = a.seq
    · obtain rfl := honly a List.mem_cons_self hkey.1.symm hkey.2.symm
      obtain ⟨x, hx⟩ := hfind
      have hhalted := State.haltXfer_halts hx status
      obtain ⟨y, hy, -⟩ := id hhalted
      exact ih honly' ⟨y, hy⟩ (.inl hhalted)
    · have hsame := s.findRec_haltXfer_ne (r := a) status hkey
      refine ih honly' (hsame ▸ hfind) (h.imp (halted_of_findRec · hsame) fun hmem => ?_)
      exact (List.mem_cons.1 hmem).resolve_left fun e => hkey ⟨by rw [e], by rw [e]⟩

/-- Every record in flight of `t` has the queue, the sequence and the image of one of `s`. -/
def RecsFrom (s t : State) : Prop := ∀ x ∈ t.recs, ∃ y ∈ s.recs, y.q = x.q ∧ y.seq = x.seq ∧ y.raw = x.raw

theorem RecsFrom.haltXfer {s t : State} (h : RecsFrom s t) {r : Rec} (hr : r ∈ s.recs) (status : Nat) : RecsFrom s (t.haltXfer r status) := by
  obtain ⟨u, hnotice, heq⟩ := t.haltXfer_eq r status
  obtain ⟨_, _, _, _, _, rfl⟩ := hnotice
  rw [heq]
  intro x hx
  obtain ⟨y, hy, rfl⟩ := List.mem_map.1 hx
  split
  · exact ⟨r, hr, rfl, rfl, rfl⟩
  · exact h y hy

/-- R229, R256, R370: the transfers on a port halt and mirroring there stops: `t` is what has come of `s`. -/
structure Stops (s t : State) (p : Fin 4) : Prop where
  work : LinkWork s t
  recs : RecsFrom s t
  halted : ∀ r, IsTransfer s p r → Halted t r Status.hostLinkLost

theorem State.haltPort_stops (s : State) (p : Fin 4) : Stops s (s.haltPort p) p := by
  unfold State.haltPort
  have hsub : ∀ x ∈ s.recs.filter fun r => (r.op == 0x34 || r.op == 0x35) && r.variant == p.val && !r.halted
      && decide (r.tickets.done < r.tickets.total), x ∈ s.recs := fun x hx => (List.mem_filter.1 hx).1
  refine ⟨?_, ?_, ?_⟩
  · exact List.foldlRecOn (motive := LinkWork s) _ _ (.of_sends (.refl s)) fun t ht r _ => ht.trans (t.haltXfer_work r _)
  · exact List.foldlRecOn (motive := RecsFrom s) _ _ (fun x hx => ⟨x, hx, rfl, rfl, rfl⟩) fun t ht r hr => ht.haltXfer (hsub r hr) _
  · rintro r ⟨hmem, hop, hport, hhalted, hdone, honly⟩
    refine foldl_haltXfer_halted _ _ (fun x hx => honly x (hsub x hx)) (State.findRec_of_mem hmem) (.inr (List.mem_filter.2 ⟨hmem, ?_⟩))
    simpa [hport, hhalted, hdone] using hop

theorem State.haltPort_mirrorStop (s : State) (p : Fin 4) (cause : Nat) : Stops s ((s.haltPort p).mirrorStop p cause) p := by
  obtain ⟨hwork, hrecs, hhalted⟩ := s.haltPort_stops p
  obtain ⟨l, hstop⟩ := (s.haltPort p).mirrorStop_sends p cause
  have hkept : ((s.haltPort p).mirrorStop p cause).recs = (s.haltPort p).recs := by
    obtain ⟨⟨_, _, heq⟩, -, -⟩ := hstop
    rw [heq]
  refine ⟨hwork.trans ⟨l, _, _, hstop⟩, fun x hx => hrecs x (hkept ▸ hx), fun r hr => halted_of_findRec (hhalted r hr) ?_⟩
  unfold State.findRec
  rw [hkept]

/-! ## Read requests that are sent again (R179, R255) -/

/-- The read requests of some records of `l` are sent: only records of their queues and sequences change. -/
structure Asks (s t : State) (l : List Rec) : Prop where
  only : ∃ rs, Sends { s with recs := rs } t
  others : ∀ q seq, (∀ r ∈ l, ¬ (q = r.q ∧ seq = r.seq)) → t.findRec q seq = s.findRec q seq

namespace Asks
variable {s t u : State} {l : List Rec}

theorem refl (s : State) (l : List Rec) : Asks s s l := ⟨⟨_, .refl s⟩, fun _ _ _ => rfl⟩

theorem of_sends (h : Sends s t) (l : List Rec) : Asks s t l := by
  obtain ⟨⟨_, _, heq⟩, -, -⟩ := id h
  exact ⟨⟨_, h⟩, fun _ _ _ => by rw [heq]; rfl⟩

theorem trans (h : Asks s t l) (k : Asks t u l) : Asks s u l := by
  obtain ⟨⟨_, hs⟩, ho⟩ := h
  obtain ⟨⟨rs, ks⟩, ko⟩ := k
  refine ⟨⟨rs, Sends.trans ?_ ks⟩, fun q seq hq => (ko q seq hq).trans (ho q seq hq)⟩
  obtain ⟨⟨_, _, rfl⟩, hlink, hout⟩ := hs
  exact ⟨⟨_, _, rfl⟩, hlink, hout⟩

theorem setRec (s : State) {r : Rec} (hr : ∃ x ∈ l, x.q = r.q ∧ x.seq = r.seq) : Asks s (s.setRec r) l := by
  refine ⟨⟨_, .refl _⟩, fun q seq hq => State.findRec_setRec_ne s fun hkey => ?_⟩
  obtain ⟨x, hx, hxq, hxseq⟩ := hr
  exact hq x hx ⟨hkey.1.trans hxq.symm, hkey.2.trans hxseq.symm⟩

theorem askTicket (s : State) {r : Rec} (k : Nat) (hr : ∃ x ∈ l, x.q = r.q ∧ x.seq = r.seq) : Asks s (s.askTicket r k) l := by
  unfold State.askTicket
  dsimp only
  split
  · exact .refl s l
  · exact (of_sends (Sends.foldl (fun _ _ h => h.toHost _ _) _ (.refl s)) l).trans (setRec _ hr)

theorem askTickets (s : State) {r : Rec} (hr : r ∈ l) : Asks s (s.askTickets r) l := by
  unfold State.askTickets
  split
  · refine List.foldlRecOn (motive := fun t => Asks s t l) _ _ (.refl s l) fun t ht e _ => ?_
    split
    · next x hx =>
      obtain ⟨hq, hseq⟩ := State.findRec_key hx
      exact ht.trans (askTicket t _ ⟨r, hr, hq.symm, hseq.symm⟩)
    · exact ht
  · exact .refl s l

end Asks

/-! ## A link trains (R229, R241, R255) -/

/-- R241: a port whose link has trained. -/
def Port.trained (x : Port) (width : Nat) (rate64 : Bool) : Port :=
  { x with linkUp := true, retraining := false, heldOut := [], width := widthCode width, rate64 }

/-- R229, R241, R255: what comes of a link that has trained: of the port, of what waited for it, of the log and of records in flight. -/
structure Trains (s t : State) (p : Fin 4) (width : Nat) (rate64 : Bool) : Prop where
  work : LinkWork (s.setPort p ((s.port p).trained width rate64)) t
  sent : ∀ o ∈ (s.port p).heldOut, o ∈ t.out
  seq : t.evlog.nextSeq = s.evlog.nextSeq + (if width = 16 ∧ rate64 = true then 0 else 1)
  others : ∀ q seq, (∀ r ∈ s.recs, r.op = 0x35 → ¬ (q = r.q ∧ seq = r.seq)) → t.findRec q seq = s.findRec q seq
  idle : (∀ r ∈ s.recs, r.op ≠ 0x35) → t.recs = s.recs

theorem mem_out_foldl_emit (l : List Out) (s : State) : ∀ o ∈ l, o ∈ (l.foldl State.emit s).out := by
  induction l generalizing s with
  | nil => exact fun o ho => absurd ho List.not_mem_nil
  | cons a l ih =>
    intro o ho
    rcases List.mem_cons.1 ho with rfl | ho
    · exact (Sends.foldl (fun _ _ h => h.emit _) l (.refl (s.emit o))).out o List.mem_cons_self
    · exact ih _ o ho

/-- R241: a link below x16 at 64 GT/s is logged. -/
theorem State.logWidth_sends (s : State) (width : Nat) (rate64 : Bool) (p : Fin 4) :
    ∃ l, Sends { s with evlog := l } (if width = 16 ∧ rate64 = true then s else s.ev 0x0B 0 (unitId 8 p.val) 0)
      ∧ l.nextSeq = s.evlog.nextSeq + (if width = 16 ∧ rate64 = true then 0 else 1) := by
  split
  · exact ⟨_, .refl s, rfl⟩
  · obtain ⟨l, hlog, hseq, -⟩ := s.evAdd_sends { seq := 0, time := 0, kind := 0x0B, status := 0, unit := unitId 8 p.val }
    exact ⟨l, hlog, hseq⟩

theorem State.linkTrained_trains (s : State) (p : Fin 4) (width : Nat) (rate64 : Bool) :
    Trains s (s.linkTrained p width rate64) p width rate64 := by
  unfold State.linkTrained
  extract_lets held x s1 s2 s3
  obtain ⟨l, hlog, hseq⟩ := s1.logWidth_sends width rate64 p
  have hemit : Sends s2 (held.foldl State.emit s2) := Sends.foldl (fun _ _ h => h.emit _) held (.refl s2)
  obtain ⟨ms, hreturn⟩ := (held.foldl State.emit s2).hostReturn_sends p
  have hsent : Sends { s1 with evlog := l, mirrors := ms } s3 := ((hlog.trans hemit).withMirrors ms).trans hreturn
  have hwait : ∀ o ∈ held, o ∈ s3.out := fun o ho => hreturn.out o (mem_out_foldl_emit held s2 o ho)
  have hrecs : s3.recs = s.recs := by obtain ⟨⟨_, _, heq⟩, -, -⟩ := hsent; rw [heq]; rfl
  have hlast : s3.evlog = l := by obtain ⟨⟨_, _, heq⟩, -, -⟩ := hsent; rw [heq]
  have hasks : Asks s3 ((s3.recs.filter fun r => r.op == 0x35 && r.variant == p.val).foldl (fun s r => s.askTickets r) s3)
      (s3.recs.filter fun r => r.op == 0x35 && r.variant == p.val) :=
    List.foldlRecOn (motive := fun t => Asks s3 t _) _ _ (.refl s3 _) fun t ht r hr => ht.trans (.askTickets t hr)
  obtain ⟨⟨rs, hask⟩, hothers⟩ := hasks
  refine ⟨LinkWork.trans ⟨l, s1.recs, ms, hsent⟩ ⟨s3.evlog, rs, s3.mirrors, hask⟩, fun o ho => hask.out o (hwait o ho), ?_,
    fun q seq hq => (hothers q seq fun r hr => ?_).trans ?_, fun hidle => ?_⟩
  · obtain ⟨⟨_, _, heq⟩, -, -⟩ := hask
    rw [heq]
    exact (congrArg EvLog.nextSeq hlast).trans hseq
  · obtain ⟨hmem, hread⟩ := List.mem_filter.1 hr
    simp only [Bool.and_eq_true, beq_iff_eq] at hread
    exact hq r (hrecs ▸ hmem) hread.1
  · unfold State.findRec
    rw [hrecs]
  · have hnone : (s3.recs.filter fun r => r.op == 0x35 && r.variant == p.val) = [] := List.filter_eq_nil_iff.2 fun r hr => by
      simp [hidle r (hrecs ▸ hr)]
    rw [hnone]
    exact hrecs

/-! ## The events (R241, R255, R256, R258, R370) -/

/-- R256: a port whose link is lost. -/
def Port.lost (x : Port) : Port := { x with linkUp := false, retraining := false, heldOut := [], width := 0, rate64 := false }

/-- R229, R256: the loss of a link that is up halts its transfers and stops mirroring. -/
theorem State.linkLost_stops {s : State} {p : Fin 4} (hup : (s.port p).linkUp = true) :
    Stops (s.setPort p (s.port p).lost) (s.linkLost p) p := by
  have hlost : s.linkLost p = ((s.setPort p (s.port p).lost).haltPort p).mirrorStop p 0 := if_pos hup
  rw [hlost]
  exact State.haltPort_mirrorStop _ p 0

theorem State.linkLost_down {s : State} {p : Fin 4} (hdown : (s.port p).linkUp = false) : s.linkLost p = s :=
  if_neg (ne_true_of_eq_false hdown)

/-- R256: after a link's loss it is down; the fence and all behind the ports are as they were. -/
theorem State.linkLost_leaves (s : State) (p : Fin 4) :
    ((s.linkLost p).port p).linkUp = false ∧ ((s.linkLost p).port p).fence = (s.port p).fence ∧ BesidePorts s (s.linkLost p) := by
  cases hup : (s.port p).linkUp with
  | false => rw [State.linkLost_down hup]; exact ⟨hup, rfl, ⟨_, _, _, _, _, rfl⟩⟩
  | true =>
    have hstops := State.linkLost_stops hup
    obtain ⟨⟨_, _, _, hport⟩, -⟩ := hstops.work.port
    rw [hport]
    exact ⟨rfl, rfl, .trans (t := s.setPort p (s.port p).lost) ⟨_, _, _, _, _, rfl⟩ hstops.work.beside⟩

/-- The statement on the loss of a link. -/
theorem hostLinkLost_leaves {s : State} {p : Fin 4} (hup : (s.port p).linkUp = true) :
    ∃ t, exec (.hostLinkLost p) s = .next t ∧ (t.port p).linkUp = false ∧ (t.port p).width = 0 ∧ (t.port p).heldOut = [] ∧ SameBehindPort s t
      ∧ t.mboxes = s.mboxes ∧ ∀ r, IsTransfer s p r → Halted t r Status.hostLinkLost := by
  have hstops := State.linkLost_stops hup
  obtain ⟨⟨_, _, _, hport⟩, hheld⟩ := hstops.work.port
  obtain ⟨hbehind, hmboxes⟩ := hstops.work.behind
  have hnone := hheld (.inl rfl)
  refine ⟨_, rfl, ?_, ?_, hnone, hbehind, hmboxes, hstops.halted⟩ <;> rw [hport] <;> rfl

/-- R370: a fence that is set halts transfers as a lost link does, the link itself apart. -/
theorem portFenceSet_leaves {s : State} {p : Fin 4} (hfence : (s.port p).fence = false) :
    ∃ t, exec (.portFenceSet p) s = .next t ∧ (t.port p).fence = true ∧ (t.port p).linkUp = (s.port p).linkUp ∧ SameBehindPort s t
      ∧ t.mboxes = s.mboxes ∧ ∀ r, IsTransfer s p r → Halted t r Status.hostLinkLost := by
  have hexec : exec (.portFenceSet p) s = .next (((s.setPort p { s.port p with fence := true }).haltPort p).mirrorStop p 2) :=
    congrArg Host.Outcome.next (if_neg (ne_true_of_eq_false hfence))
  have hstops := (s.setPort p { s.port p with fence := true }).haltPort_mirrorStop p 2
  obtain ⟨⟨_, _, _, hport⟩, -⟩ := hstops.work.port
  obtain ⟨hbehind, hmboxes⟩ := hstops.work.behind
  refine ⟨_, hexec, ?_, ?_, hbehind, hmboxes, hstops.halted⟩ <;> rw [hport]

/-- R229, R248: a port that is set, and then sends what it held, keeps records as they were. -/
theorem State.setPort_hostReturn (s : State) (p : Fin 4) (v : Port) :
    v.SameLink (((s.setPort p v).hostReturn p).port p) ∧ SameBehindPort s ((s.setPort p v).hostReturn p)
      ∧ ((s.setPort p v).hostReturn p).recs = s.recs := by
  obtain ⟨ms, hsent⟩ := (s.setPort p v).hostReturn_sends p
  have hwork : LinkWork (s.setPort p v) ((s.setPort p v).hostReturn p) := ⟨s.evlog, s.recs, ms, hsent⟩
  obtain ⟨⟨_, _, heq⟩, -, -⟩ := hsent
  exact ⟨hwork.port, hwork.behind.1, by rw [heq]; rfl⟩

/-- R229: a port that is set, and whose mirroring then stops, keeps records as they were. -/
theorem State.setPort_mirrorStop (s : State) (p : Fin 4) (v : Port) (cause : Nat) :
    v.SameLink (((s.setPort p v).mirrorStop p cause).port p) ∧ SameBehindPort s ((s.setPort p v).mirrorStop p cause)
      ∧ ((s.setPort p v).mirrorStop p cause).recs = s.recs := by
  obtain ⟨l, hsent⟩ := (s.setPort p v).mirrorStop_sends p cause
  have hwork : LinkWork (s.setPort p v) ((s.setPort p v).mirrorStop p cause) := ⟨l, s.recs, s.mirrors, hsent⟩
  obtain ⟨⟨_, _, heq⟩, -, -⟩ := hsent
  exact ⟨hwork.port, hwork.behind.1, by rw [heq]; rfl⟩

/-- R229, R370: the end of a fence. -/
theorem portFenceClear_leaves {s : State} {p : Fin 4} (hfence : (s.port p).fence = true) :
    ∃ t, exec (.portFenceClear p) s = .next t ∧ (t.port p).fence = false ∧ (t.port p).linkUp = (s.port p).linkUp ∧ SameBehindPort s t
      ∧ t.recs = s.recs := by
  obtain ⟨⟨⟨_, _, _, hport⟩, -⟩, hbehind, hrecs⟩ := s.setPort_hostReturn p { s.port p with fence := false }
  refine ⟨_, congrArg Host.Outcome.next (if_pos hfence), ?_, ?_, hbehind, hrecs⟩ <;> rw [hport]

/-- R179, R229: a change of bus mastering: messages and mirroring stop, resume, or go on. -/
theorem busMasteringChange_leaves (s : State) (p : Fin 4) (on : Bool) :
    ∃ t, exec (.busMasteringChange p on) s = .next t ∧ (t.port p).busMaster = on ∧ (t.port p).linkUp = (s.port p).linkUp
      ∧ SameBehindPort s t ∧ t.recs = s.recs := by
  have hset : ∀ t : State, ({ s.port p with busMaster := on } : Port).SameLink (t.port p) ∧ SameBehindPort s t ∧ t.recs = s.recs →
      (t.port p).busMaster = on ∧ (t.port p).linkUp = (s.port p).linkUp ∧ SameBehindPort s t ∧ t.recs = s.recs := by
    rintro t ⟨⟨⟨_, _, _, hport⟩, -⟩, hbehind, hrecs⟩
    refine ⟨?_, ?_, hbehind, hrecs⟩ <;> rw [hport]
  refine ⟨_, rfl, hset _ ?_⟩
  split
  · exact s.setPort_mirrorStop p _ 1
  · split
    · exact s.setPort_hostReturn p _
    · exact ⟨by rw [State.port_setPort]; exact .refl _, by simp [SameBehindPort, SameModule], rfl⟩

/-! ## The reset of a port (R258) -/

/-- R258: a mailbox that a reset of its port has left idle. -/
def Mbox.portReset (b : Mbox) : Mbox :=
  { sram := b.sram, cur := b.cur, begun := b.begun, deadline := b.deadline, clamps := b.clamps, acceptAt := b.acceptAt, startAt := b.startAt
    slow := b.slow, discard := b.cur, behind := b.behind.map fun e => (e.1, true, e.2.2) }

theorem resetMailbox_mbox (s : State) (k : Nat) : (resetMailbox s k).mbox k = (s.mbox k).portReset := State.mbox_setMbox s k _

theorem resetMailbox_mbox_ne (s : State) {k n : Nat} (h : n ≠ k) : (resetMailbox s k).mbox n = s.mbox n := State.mbox_setMbox_ne s k _ h

/-- R258: the resets of mailboxes leave each idle, its response to be discarded if its request still runs, and change nothing else. -/
theorem foldl_resetMailbox (base : Nat) (l : List Nat) (s : State) :
    let t := l.foldl (fun s m => resetMailbox s (base + m)) s
    (∃ mbs, t = { s with mboxes := mbs }) ∧ (∀ k, (t.mbox k).cur = (s.mbox k).cur)
      ∧ (∀ m ∈ l, (t.mbox (base + m)).st = .idle ∧ (t.mbox (base + m)).discard = (s.mbox (base + m)).cur)
      ∧ ∀ k, (∀ m ∈ l, k ≠ base + m) → t.mbox k = s.mbox k := by
  induction l generalizing s with
  | nil => exact ⟨⟨_, rfl⟩, fun _ => rfl, fun m hm => absurd hm List.not_mem_nil, fun _ _ => rfl⟩
  | cons a l ih =>
    have hself := resetMailbox_mbox s (base + a)
    have hne := fun n => resetMailbox_mbox_ne s (k := base + a) (n := n)
    have hfirst : ∃ mbs, resetMailbox s (base + a) = { s with mboxes := mbs } := ⟨_, rfl⟩
    dsimp only
    rw [List.foldl_cons]
    generalize resetMailbox s (base + a) = u at hself hne hfirst
    obtain ⟨⟨mbs, honly⟩, hcur, hreset, hrest⟩ := ih u
    have hcur' : ∀ k, (u.mbox k).cur = (s.mbox k).cur := fun k => by
      by_cases hk : k = base + a
      · rw [hk, hself]; rfl
      · rw [hne k hk]
    refine ⟨?_, fun k => (hcur k).trans (hcur' k), fun m hm => ?_, fun k hk => ?_⟩
    · obtain ⟨_, rfl⟩ := hfirst
      exact ⟨mbs, honly⟩
    · by_cases hmem : m ∈ l
      · obtain ⟨hst, hdiscard⟩ := hreset m hmem
        exact ⟨hst, hdiscard.trans (hcur' _)⟩
      · obtain rfl := (List.mem_cons.1 hm).resolve_right hmem
        have hlast : ∀ x ∈ l, base + m ≠ base + x := fun x hx e => hmem (Nat.add_left_cancel e ▸ hx)
        rw [hrest _ hlast, hself]
        exact ⟨rfl, rfl⟩
    · exact (hrest k fun m hm => hk m (List.mem_cons_of_mem _ hm)).trans (hne k (hk a List.mem_cons_self))

/-- R258: the configuration of a port that has been reset. -/
def Port.unset (x : Port) : Port :=
  { x with busMaster := false, maxPayload := 128, maxRead := 512, msixOn := false, msixMask := false, msixOpen := [], msixPend := []
           msixMsg := [], hdm := [], bar0 := 0, bar2 := 0, fence := false }

theorem portReset_leaves (s : State) (p : Fin 4) :
    ∃ t, exec (.portReset p) s = .next t ∧ t.port p = ((s.linkLost p).port p).unset ∧ SameBehindPort s t
      ∧ (∀ m, m < 4 → (t.mbox (4 * p.val + m)).st = .idle ∧ (t.mbox (4 * p.val + m)).discard = (s.mbox (4 * p.val + m)).cur)
      ∧ ∀ k, (∀ m, m < 4 → k ≠ 4 * p.val + m) → t.mbox k = s.mbox k := by
  obtain ⟨u, hu⟩ : ∃ u, u = (s.linkLost p).setPort p ((s.linkLost p).port p).unset := ⟨_, rfl⟩
  have hset : BesidePorts (s.linkLost p) u := hu ▸ ⟨_, _, _, _, _, rfl⟩
  obtain ⟨-, -, hlost⟩ := s.linkLost_leaves p
  obtain ⟨hbehind, hmboxes⟩ := (hlost.trans hset).leaves
  have hmbox : ∀ k, u.mbox k = s.mbox k := fun k => congrArg (Tbl.get ({} : Mbox) · k) hmboxes
  obtain ⟨⟨mbs, honly⟩, -, hreset, hrest⟩ := foldl_resetMailbox (4 * p.val) [0, 1, 2, 3] u
  refine ⟨[0, 1, 2, 3].foldl (fun s m => resetMailbox s (4 * p.val + m)) u, by rw [hu]; rfl, ?_, ?_, fun m hm => ?_, fun k hk => ?_⟩
  · rw [honly, hu]
    exact State.port_setPort _ _ _
  · rw [honly]
    exact hbehind
  · obtain ⟨hst, hdiscard⟩ := hreset m (by interval_cases m <;> simp)
    exact ⟨hst, hdiscard.trans (congrArg Mbox.cur (hmbox _))⟩
  · refine (hrest k fun m hm => hk m ?_).trans (hmbox k)
    simp only [List.mem_cons, List.not_mem_nil, or_false] at hm
    omega

/-! ## A link that comes up (R229, R241, R255, R256) -/

/-- R255: a retrain has taken 100 ms, and was a loss. -/
def RetrainLost (s : State) (p : Fin 4) : Prop := (s.port p).retraining = true ∧ (s.port p).retrainAt + 100000000 ≤ s.time.now

theorem hostLinkUp_next {s : State} (p : Fin 4) {width : Nat} (rate64 : Bool) (hwidth : widthCode width ≠ 0) (hlive : s.linksLive = true) :
    (RetrainLost s p → exec (.hostLinkUp p width rate64) s = .next ((s.linkLost p).linkTrained p width rate64))
      ∧ (¬ RetrainLost s p → exec (.hostLinkUp p width rate64) s = .next (s.linkTrained p width rate64)) := by
  have hlives : ¬ (widthCode width = 0 ∨ (!s.linksLive) = true) := by simp [hwidth, hlive]
  exact ⟨fun hlost => congrArg Host.Outcome.next ((if_neg hlives).trans (congrArg (State.linkTrained · p width rate64) (if_pos hlost))),
    fun hkept => congrArg Host.Outcome.next ((if_neg hlives).trans (congrArg (State.linkTrained · p width rate64) (if_neg hkept)))⟩

/-- R256: what the loss of a link has halted stays halted when the link trains again: only host reads are asked for again. -/
theorem halted_linkTrained {s : State} {p : Fin 4} (hup : (s.port p).linkUp = true) (width : Nat) (rate64 : Bool) {r : Rec} (hop : r.op = 0x34)
    (h : IsTransfer s p r) : Halted ((s.linkLost p).linkTrained p width rate64) r Status.hostLinkLost := by
  have hstops := State.linkLost_stops hup
  have htrains := (s.linkLost p).linkTrained_trains p width rate64
  refine halted_of_findRec (hstops.halted r h) (htrains.others r.q r.seq fun x hx hread hkey => ?_)
  obtain ⟨-, -, -, -, -, honly⟩ := h
  obtain ⟨y, hy, hq, hseq, hraw⟩ := hstops.recs x hx
  obtain rfl := honly y hy (hq.trans hkey.1.symm) (hseq.trans hkey.2.symm)
  have hsame : x.op = y.op := by unfold Rec.op Rec.fld; rw [hraw]
  omega

/-- A port of `t` that has come up, `t` being what has come of `s`. -/
theorem Trains.port_leaves {s u t : State} {p : Fin 4} {width : Nat} {rate64 : Bool} (h : Trains u t p width rate64)
    (hfence : (u.port p).fence = (s.port p).fence) (hbeside : BesidePorts s u) :
    (t.port p).linkUp = true ∧ (t.port p).retraining = false ∧ (t.port p).width = widthCode width ∧ (t.port p).heldOut = []
      ∧ (t.port p).rate64 = rate64 ∧ (t.port p).fence = (s.port p).fence ∧ SameBehindPort s t ∧ t.mboxes = s.mboxes := by
  obtain ⟨⟨_, _, _, hport⟩, hheld⟩ := h.work.port
  have hnone := hheld (.inr rfl)
  have hleaves := ((hbeside.trans (t := u) (u := u.setPort p _) ⟨_, _, _, _, _, rfl⟩).trans h.work.beside).leaves
  rw [hnone, hport]
  exact ⟨rfl, rfl, rfl, rfl, rfl, hfence, hleaves⟩

theorem hostLinkUp_leaves {s : State} (p : Fin 4) {width : Nat} (rate64 : Bool) (hwidth : widthCode width ≠ 0) (hlive : s.linksLive = true) :
    ∃ t, exec (.hostLinkUp p width rate64) s = .next t ∧ (t.port p).linkUp = true ∧ (t.port p).retraining = false
      ∧ (t.port p).width = widthCode width ∧ (t.port p).heldOut = []
      ∧ (t.port p).rate64 = rate64 ∧ (t.port p).fence = (s.port p).fence ∧ SameBehindPort s t ∧ t.mboxes = s.mboxes
      ∧ ((s.port p).retraining = false ∨ s.time.now < (s.port p).retrainAt + 100000000 →
          (∀ o ∈ (s.port p).heldOut, o ∈ t.out) ∧ ((∀ r ∈ s.recs, r.op ≠ 0x35) → t.recs = s.recs)
            ∧ t.evlog.nextSeq = s.evlog.nextSeq + (if width = 16 ∧ rate64 = true then 0 else 1))
      ∧ ((s.port p).linkUp = true → (s.port p).retraining = true → (s.port p).retrainAt + 100000000 ≤ s.time.now →
          ∀ r, r.op = 0x34 → IsTransfer s p r → Halted t r Status.hostLinkLost) := by
  obtain ⟨hlost, hkept⟩ := hostLinkUp_next p rate64 hwidth hlive
  by_cases hretrain : RetrainLost s p
  · have htrains := (s.linkLost p).linkTrained_trains p width rate64
    obtain ⟨-, hfence, hbeside⟩ := s.linkLost_leaves p
    obtain ⟨hlink, hret, hcode, hheld, hrate, hfenced, hbehind, hmboxes⟩ := htrains.port_leaves hfence hbeside
    refine ⟨_, hlost hretrain, hlink, hret, hcode, hheld, hrate, hfenced, hbehind, hmboxes, fun hshort => ?_, fun hup _ _ r hop hr =>
      halted_linkTrained hup width rate64 hop hr⟩
    obtain ⟨hretraining, hlong⟩ := hretrain
    exact hshort.elim (fun h => absurd (h.symm.trans hretraining) Bool.false_ne_true) (absurd · (Nat.not_lt.2 hlong))
  · have htrains := s.linkTrained_trains p width rate64
    obtain ⟨hlink, hret, hcode, hheld, hrate, hfenced, hbehind, hmboxes⟩ := htrains.port_leaves rfl ⟨_, _, _, _, _, rfl⟩
    exact ⟨_, hkept hretrain, hlink, hret, hcode, hheld, hrate, hfenced, hbehind, hmboxes, fun _ => ⟨htrains.sent, htrains.idle, htrains.seq⟩,
      fun _ hretraining hlong => absurd ⟨hretraining, hlong⟩ hretrain⟩

/-- Settles O49: a link's loss and a fence are a port set and then stopped (`Stops`), a link that comes up is trained (`Trains`), after a loss where
its retrain was too long; the other events set a port and at most send what it held. -/
theorem hostLinks : Obligations.HostLinks := by
  intro s p transfers
  refine ⟨fun width rate64 hwidth hlive => hostLinkUp_leaves p rate64 hwidth hlive, fun hup => ⟨fun hret => ?_, fun hret => ?_,
    hostLinkLost_leaves hup⟩, ?_, portFenceSet_leaves, portFenceClear_leaves, busMasteringChange_leaves s p⟩
  · exact congrArg Host.Outcome.next (if_pos (by simp [hup, hret]))
  · exact congrArg Host.Outcome.next (if_neg (by simp [hret]))
  · obtain ⟨t, ht, hport, hbehind, hreset, hrest⟩ := portReset_leaves s p
    obtain ⟨hdown, -⟩ := s.linkLost_leaves p
    refine ⟨t, ht, ?_, ?_, ?_, ?_, ?_, ?_, ?_, ?_, ?_, hbehind, hreset, hrest⟩ <;> rw [hport]
    · exact hdown
    all_goals rfl

end Sys2Proof.Machine
end

section
/-! SUPPORT. What a column delivers once an error in it is corrected, and the bytes of a line that are written (R244, R275 to R279). -/

namespace Sys2Proof.Machine

open Sys2Proof

/-! ## Fields of equal width -/

/-- The number of `n` fields of `w` bits in which field `i` is `c` where `f i`, else zero. -/
def fieldsWhere (w c : Nat) (f : Nat → Bool) (n : Nat) : Nat :=
  (List.range n).foldl (fun acc i => if f i then acc + c * 2 ^ (w * i) else acc) 0

theorem fieldsWhere_succ (w c : Nat) (f : Nat → Bool) (n : Nat) :
    fieldsWhere w c f (n + 1) = 2 ^ (w * n) * (if f n then c else 0) + fieldsWhere w c f n := by
  unfold fieldsWhere
  rw [List.range_succ, List.foldl_append, List.foldl_cons, List.foldl_nil]
  split
  · ring
  · simp

theorem fieldsWhere_lt {w c : Nat} (hc : c < 2 ^ w) (f : Nat → Bool) (n : Nat) : fieldsWhere w c f n < 2 ^ (w * n) := by
  induction n with
  | zero => simp [fieldsWhere]
  | succ n ih =>
    have hfield : (if f n then c else 0) + 1 ≤ 2 ^ w := by split <;> omega
    calc fieldsWhere w c f (n + 1)
        < 2 ^ (w * n) * (if f n then c else 0) + 2 ^ (w * n) := by rw [fieldsWhere_succ]; omega
      _ = 2 ^ (w * n) * ((if f n then c else 0) + 1) := by ring
      _ ≤ 2 ^ (w * n) * 2 ^ w := Nat.mul_le_mul_left _ hfield
      _ = 2 ^ (w * (n + 1)) := by rw [← Nat.pow_add, Nat.mul_succ]

theorem fieldsWhere_testBit {w c : Nat} (hc : c < 2 ^ w) (f : Nat → Bool) {n i k : Nat} (hi : i < n) (hk : k < w) :
    (fieldsWhere w c f n).testBit (w * i + k) = (f i && c.testBit k) := by
  induction n with
  | zero => exact absurd hi (Nat.not_lt_zero i)
  | succ n ih =>
    rw [fieldsWhere_succ, Nat.testBit_two_pow_mul_add _ (fieldsWhere_lt hc f n)]
    rcases Nat.lt_succ_iff_lt_or_eq.1 hi with hlt | rfl
    · have hbelow : w * i + k < w * n := by
        have := Nat.mul_le_mul_left w hlt
        rw [Nat.mul_succ] at this
        omega
      rw [if_pos hbelow, ih hlt]
    · rw [if_neg (by omega), Nat.add_sub_cancel_left]
      cases f i <;> simp

/-! ## Check bits of a full-column write (R275, R276, R278) -/

theorem parityField_eq (d : BitVec 256) : parityField d = fieldsWhere 1 1 (fun i => parityOf 8 (colByte d i).toNat) 32 := by
  simp [parityField, fieldsWhere]

theorem freshCheck_parity (d : BitVec 256) (poison : Bool) {i : Nat} (hi : i < 32) :
    (freshCheck d poison).getLsbD i = parityOf 8 (colByte d i).toNat := by
  have hlt : parityField d < 2 ^ 32 := by
    rw [parityField_eq]
    exact fieldsWhere_lt (by decide) _ 32
  have hsum : parityField d + (mendField d).toNat * 2 ^ 32 + 2 ^ 40 + (if poison then 2 ^ 41 else 0)
      = 2 ^ 32 * ((mendField d).toNat + 2 ^ 8 + (if poison then 2 ^ 9 else 0)) + parityField d := by
    split <;> ring
  have hbit := fieldsWhere_testBit (w := 1) (c := 1) (by decide) (fun i => parityOf 8 (colByte d i).toNat) hi (k := 0) (by decide)
  rw [← parityField_eq, Nat.one_mul, Nat.add_zero] at hbit
  unfold freshCheck
  rw [BitVec.getLsbD_ofNat, hsum, Nat.testBit_two_pow_mul_add _ hlt, if_pos hi, hbit]
  simp
  omega

/-- R276, R278: no byte of a column with fresh check bits fails its parity. -/
theorem badBytes_freshCheck (d : BitVec 256) (poison : Bool) : badBytes d (freshCheck d poison) = [] :=
  List.filter_eq_nil_iff.2 fun i hi => by simp [freshCheck_parity d poison (List.mem_range.1 hi)]

/-- R278: a column of whose bytes none fails its parity delivers its data as they stand. -/
theorem decodeCol_of_badBytes_nil {d : BitVec 256} {k : BitVec 48} (h : badBytes d k = []) : (decodeCol d k).2 = d := by
  unfold decodeCol
  rw [h]
  dsimp only
  split
  · rfl
  · split <;> rfl

/-! ## Columns that reads correct (R278, R279) -/

theorem State.readCol_of_sameCol {s t : State} {col : Nat} (h : SameCol s t col) : t.readCol col = s.readCol col := by
  obtain ⟨hdata, hchk⟩ := h
  unfold State.readCol
  rw [hdata, hchk]

/-- R279: a column whose error is corrected delivers, when it is read again, what the correction gave. -/
theorem State.readCol_correct (s : State) (req : Requester) (col : Nat) (o : ReadOut) (d : BitVec 256) :
    ((s.correct req col o d).readCol col).2 = d := by
  obtain ⟨_, _, _, _, _, hnotice⟩ :=
    (Notice.refl { s with mem := s.mem.store col d (freshCheck d false) }).noteCorrected req col o
  have hmem : (s.correct req col o d).mem = s.mem.store col d (freshCheck d false) := congrArg State.mem hnotice
  unfold State.readCol
  rw [hmem, DMem.data_store, DMem.chk_store, decodeCol_of_badBytes_nil (badBytes_freshCheck d false)]

/-- R278 to R284: what reads leave in a column delivers the same data as before. -/
theorem State.readCol_noteRead (s : State) (req : Requester) (c col : Nat) : ((s.noteRead req c).readCol col).2 = (s.readCol col).2 := by
  by_cases hc : col = c
  · subst hc
    have hbad : ∀ bad, ((s.logBad req col bad).readCol col).2 = (s.readCol col).2 := fun bad => by
      obtain ⟨_, _, _, _, _, h⟩ := (Notice.refl s).logBad req col bad
      rw [h]; rfl
    unfold State.noteRead
    split
    · split
      · rfl
      · exact hbad _
      · exact hbad _
      · next hread => rw [State.readCol_correct, hread]
    · rfl
  · obtain ⟨-, hothers⟩ := Reads.noteRead s req c
    rw [State.readCol_of_sameCol (hothers col (by simpa using hc))]

theorem State.readCol_noteReads (s : State) (req : Requester) (cols : List Nat) (col : Nat) :
    ((s.noteReads req cols).readCol col).2 = (s.readCol col).2 := by
  induction cols generalizing s with
  | nil => rfl
  | cons c cols ih => exact (ih _).trans (s.readCol_noteRead req c col)

/-! ## Bytes of a column that are written (R244, R276) -/

/-- `m'` is `m` with the bytes of a column that `f` names taken from `d`; no other column has changed. -/
structure BytesIn (m m' : DMem) (col : Nat) (d : BitVec 256) (f : Nat → Bool) : Prop where
  bytes : ∀ i, i < 32 → colByte (m'.data col) i = if f i then colByte d i else colByte (m.data col) i
  data : ∀ k, k ≠ col → m'.data k = m.data k
  chk : ∀ k, k ≠ col → m'.chk k = m.chk k
  flips : m'.flips = m.flips

theorem BytesIn.refl (m : DMem) (col : Nat) (d : BitVec 256) {f : Nat → Bool} (hf : ∀ i, i < 32 → f i = false) : BytesIn m m col d f :=
  ⟨fun i hi => by simp [hf i hi], fun _ _ => rfl, fun _ _ => rfl, rfl⟩

/-- A store of a column whose bytes are those. -/
theorem BytesIn.store (m : DMem) {col : Nat} {d x : BitVec 256} {f : Nat → Bool} (k : BitVec 48)
    (hx : ∀ i, i < 32 → colByte x i = if f i then colByte d i else colByte (m.data col) i) : BytesIn m (m.store col x k) col d f :=
  ⟨by simpa only [DMem.data_store] using hx, fun _ h => DMem.data_store_ne m x k h, fun _ h => DMem.chk_store_ne m x k h, rfl⟩

theorem BytesIn.whole (m : DMem) (col : Nat) (d : BitVec 256) (k : BitVec 48) {f : Nat → Bool} (hf : ∀ i, i < 32 → f i = true) :
    BytesIn m (m.store col d k) col d f :=
  .store m k fun i hi => by simp [hf i hi]

theorem getLsbD_byteMask (be : Nat) {i k : Nat} (hi : i < 32) (hk : k < 8) : (byteMask be).getLsbD (8 * i + k) = be.testBit i := by
  have hmask : byteMask be = BitVec.ofNat 256 (fieldsWhere 8 255 be.testBit 32) := by simp only [byteMask, fieldsWhere, Nat.shiftLeft_eq]
  have hones : Nat.testBit 255 k = true := by
    rw [show 255 = 2 ^ 8 - 1 from rfl, Nat.testBit_two_pow_sub_one]
    exact decide_eq_true hk
  rw [hmask, BitVec.getLsbD_ofNat, fieldsWhere_testBit (by decide) _ hi hk, hones, decide_eq_true (by omega)]
  simp

/-- R276: a byte-masked write takes the bytes that its mask names from its data, and keeps the others. -/
theorem colByte_masked (old d : BitVec 256) (be : Nat) {i : Nat} (hi : i < 32) :
    colByte ((old &&& ~~~byteMask be) ||| (d &&& byteMask be)) i = if be.testBit i then colByte d i else colByte old i := by
  unfold colByte
  ext k hk
  have hbit : 8 * i + k < 256 := by omega
  simp only [BitVec.getElem_extractLsb', BitVec.getLsbD_or, BitVec.getLsbD_and, BitVec.getLsbD_not, getLsbD_byteMask be hi hk, hbit,
    decide_true, Bool.true_and]
  split <;> simp [*, BitVec.getElem_extractLsb']

/-- R244, R276: a partial write of a column in service, with no flip mask armed. -/
theorem State.writePart_bytes {m : DMem} (hf : ∀ ch, Tbl.get none m.flips ch = none) (req : Requester) (col : Nat) (d : BitVec 256) {be : Nat}
    (hbe : be < 2 ^ 32) (poison : Bool) :
    ∃ m', BytesIn m m' col d be.testBit
      ∧ ∀ s : State, s.mem = m → s.colUp col = true → s.writePart req col d be poison = { s with mem := m' } := by
  unfold State.writePart
  rw [Nat.mod_eq_of_lt hbe]
  by_cases hzero : be = 0
  · refine ⟨m, .refl _ _ _ fun i _ => by simp [hzero], fun s hm _ => ?_⟩
    rw [if_neg (by simp [hzero]), ← hm]
  · refine ⟨?_, ?_, fun s hm hup => ?written⟩
    case written =>
      rw [if_pos (by simp [hup, hzero])]
      unfold State.writeMasked
      dsimp only
      rw [hm, hf]
    exact .store _ _ fun i hi => colByte_masked _ _ _ hi

/-- R244, R276: a write of whole columns in service, with no flip mask armed. -/
theorem State.writeHost_full {s : State} {a b : Nat} (hf : ∀ ch, Tbl.get none s.mem.flips ch = none) (ha : s.colUp a = true)
    (hb : s.colUp b = true) (line : BitVec 512) (poison : Bool) :
    s.writeHost a b line (BitVec.allOnes 64) poison = { s with
      mem := (s.mem.store a (lineHalf line 0) (freshCheck (lineHalf line 0) poison)).store b (lineHalf line 1) (freshCheck (lineHalf line 1) poison) } := by
  have hone : ∀ {t : State} {col : Nat} (d : BitVec 256), (∀ ch, Tbl.get none t.mem.flips ch = none) → t.colUp col = true →
      t.writeBytes .host col d (2 ^ 32 - 1) poison = { t with mem := t.mem.store col d (freshCheck d poison) } := fun d hflips hup => by
    unfold State.writeBytes State.writeFull
    rw [if_pos hup, if_pos (by decide), hflips]
  unfold State.writeHost
  rw [if_pos rfl, hone _ hf ha]
  exact hone _ hf hb

/-- R244, R276: a write of the bytes of a line that byte enables name, of columns in service, with no flip mask armed. -/
theorem State.writeHost_bytes {m : DMem} (hf : ∀ ch, Tbl.get none m.flips ch = none) (a b : Nat) (line : BitVec 512) (be : Word64) (poison : Bool) :
    ∃ m' m'', BytesIn m m' a (lineHalf line 0) (be.getLsbD ·) ∧ BytesIn m' m'' b (lineHalf line 1) (fun i => be.getLsbD (32 + i))
      ∧ ∀ s : State, s.mem = m → s.colUp a = true → s.colUp b = true → s.writeHost a b line be poison = { s with mem := m'' } := by
  by_cases hall : be = BitVec.allOnes 64
  · have hset : ∀ i, i < 64 → (BitVec.allOnes 64).getLsbD i = true := fun i hi => by
      rw [BitVec.getLsbD_allOnes]
      exact decide_eq_true hi
    rw [hall]
    refine ⟨_, _, .whole m a _ (freshCheck (lineHalf line 0) poison) fun i hi => hset i (by omega),
      .whole _ b _ (freshCheck (lineHalf line 1) poison) fun i hi => hset (32 + i) (by omega), fun s hm ha hb => ?_⟩
    subst hm
    exact State.writeHost_full hf ha hb line poison
  · obtain ⟨m', hbytes, hm'⟩ := State.writePart_bytes hf .host a (lineHalf line 0) (be := be.toNat % 2 ^ 32) (Nat.mod_lt _ (by decide)) poison
    obtain ⟨m'', hbytes', hm''⟩ := State.writePart_bytes (by rw [hbytes.flips]; exact hf) .host b (lineHalf line 1)
      (be := be.toNat / 2 ^ 32) (Nat.div_lt_of_lt_mul be.isLt) poison
    refine ⟨m', m'', ⟨fun i hi => ?_, hbytes.data, hbytes.chk, hbytes.flips⟩, ⟨fun i hi => ?_, hbytes'.data, hbytes'.chk, hbytes'.flips⟩,
      fun s hm ha hb => ?_⟩
    · rw [hbytes.bytes i hi, Nat.testBit_mod_two_pow, decide_eq_true hi, Bool.true_and, BitVec.testBit_toNat]
    · rw [hbytes'.bytes i hi, Nat.testBit_div_two_pow, Nat.add_comm, BitVec.testBit_toNat]
    · unfold State.writeHost
      rw [if_neg hall, hm' s hm ha]
      exact hm'' _ rfl hb

end Sys2Proof.Machine
end

section
/-! SUPPORT. An access to a line that nothing holds (R22, R23, R91 to R100, R246): it is served at once, whether the unit of its pair computes or
not. -/

namespace Sys2Proof.Machine

open Sys2Proof

/-! ## The bank pair of a line (R38, R40) -/

/-- R38, R40: a line of 64 bytes begins with a column of even number. -/
theorem Layout.colOf_even (l : Layout) {dpa : Nat} (h : dpa % 64 = 0) : l.colOf dpa % 2 = 0 := by
  have hinter : ∀ wide f m off, off % 64 = 0 → (interleaved wide f m off).num % 2 = 0 := fun wide f m off ho => by
    have hcol : off / 2 ^ 5 % 2 ^ 3 % 2 = 0 := by omega
    unfold interleaved Loc.num
    simp only [bits_eq_div_mod off 5 3]
    omega
  unfold Layout.colOf Layout.loc
  dsimp only
  split
  · split
    · exact hinter _ _ _ _ h
    · exact hinter _ _ _ _ (by omega)
  · have hcol : dpa / 2 ^ 5 % 2 ^ 5 % 2 = 0 := by omega
    unfold Loc.num
    simp only [bits_eq_div_mod dpa 5 5]
    omega

/-- R14: both columns of a line lie in one bank pair. -/
theorem Layout.colUnit_line (l : Layout) {dpa : Nat} (h : dpa % 64 = 0) : colUnit (l.colOf (dpa + 32)) = colUnit (l.colOf dpa) := by
  have heven := l.colOf_even h
  have hgpc : (l.colOf dpa + 1) / 33554432 = l.colOf dpa / 33554432 := by omega
  have hbank : (l.colOf dpa + 1) / 1048576 = l.colOf dpa / 1048576 := by omega
  simp only [colUnit, locOf, l.colOf_add_32 h, hgpc, hbank]

/-! ## The one access that waits at a pair (R93 to R95) -/

theorem State.serve_of_none {s : State} {su : Nat} (hq : (s.pair su).ordQ = []) (fuel cols : Nat) : s.serve su fuel cols = s := by
  cases fuel with
  | zero => rfl
  | succ n =>
    have hport : ∀ prio last, nextPort prio last [] = none := fun prio last => by simp [nextPort]
    unfold State.serve State.nextAccess
    rw [hq, hport]

/-- R94, R95: a pair whose unit may be interrupted serves the one access that waits, at a boundary of the unit if it computes. -/
theorem State.serveNow_one {s : State} {su : Nat} {a : OrdAccess} (hq : (s.pair su).ordQ = [a]) (hc : (ordCols a).length ≤ 2)
    (hr : (s.pair su).rerun = none) (hstep : ((s.pair su).token && (s.pair su).mustStep) = false) (ho : (s.pair su).owed < 4)
    (hdone : ((s.served su a []).pair su).ordQ = []) :
    ∃ ps, s.serveNow su = { s.served su a [] with pairs := ps } := by
  cases htok : (s.pair su).token with
  | false => exact ⟨_, s.serveNow_singleton hq hc hr htok ho⟩
  | true =>
    have hboundary : s.boundary su = s.served su a [] := by
      unfold State.boundary
      rw [show s.refreshFirst su = s from if_neg (Int.not_le.2 ho)]
      unfold State.serve
      rw [State.nextAccess_singleton hq]
      exact (if_pos (by omega)).trans (State.serve_of_none hdone _ _)
    unfold State.serveNow
    dsimp only
    rw [if_neg (by simp [hq, hr, hstep]), if_pos htok, hboundary]
    exact ⟨_, rfl⟩

/-- R94: nothing waits at the pair of a column that is clear. -/
theorem State.ordQ_of_clear {s : State} {src col : Nat} (h : s.clearCol src col = true) : (s.pair (colUnit col)).ordQ = [] := by
  simp only [State.clearCol, Bool.and_eq_true, List.isEmpty_iff] at h
  obtain ⟨⟨⟨⟨-, hq⟩, -⟩, -⟩, -⟩ := h
  exact hq

/-- The pair and the channel of an access as it is taken there, being the only one, before it is done. -/
def State.taken (s : State) (su : Nat) (a : OrdAccess) : State :=
  let t := s.setPair su { s.pair su with ordQ := [a] }
  (t.setChan (su / 32) { t.chan (su / 32) with lastPort := ordPort a }).setPair su (({ t.pair su with ordQ := [] } : Pair).openRows (ordCols a))

theorem State.taken_pair (s : State) (su : Nat) (a : OrdAccess) :
    (s.taken su a).pair su = ({ s.pair su with ordQ := [] } : Pair).openRows (ordCols a) := by
  unfold State.taken
  dsimp only
  rw [State.pair_setPair, State.pair_setPair]

theorem State.taken_served {s : State} {su : Nat} {a : OrdAccess} (hq : (s.pair su).ordQ = []) : Served s (s.taken su a) s.mem := by
  refine ⟨⟨_, _, rfl⟩, fun c => ?_, fun k => ?_⟩
  · by_cases hc : c = su / 32
    · exact ⟨_, by rw [hc]; exact State.chan_setChan _ _ _⟩
    · exact ⟨(s.chan c).lastPort, State.chan_setChan_ne _ _ _ hc⟩
  · by_cases hk : k = su
    · refine ⟨((s.pair su).openRows (ordCols a)).rows, ?_⟩
      rw [hk, State.taken_pair, ← hq]
      rfl
    · exact ⟨(s.pair k).rows, (State.pair_setPair_ne _ _ _ hk).trans (State.pair_setPair_ne s _ _ hk)⟩

/-! ## Accesses to a line -/

/-- R22, R23, R94, R246: an access to a line whose first column is clear is served at once. -/
theorem State.send_line {s : State} {src a b : Nat} {x : OrdAccess} (hx : ordCols x = [a, b]) (hunit : colUnit b = colUnit a)
    (hwait : s.readWaits x = false) (hclear : s.clearCol src a = true)
    (hpairs : ((s.taken (colUnit a) x).serveOne x).pairs = (s.taken (colUnit a) x).pairs) :
    ∃ ps, s.send src x = { (s.taken (colUnit a) x).serveOne x with pairs := ps } := by
  simp only [State.clearCol, Bool.and_eq_true, Bool.not_eq_true', Option.isNone_iff_eq_none, List.isEmpty_iff, decide_eq_true_eq] at hclear
  obtain ⟨⟨⟨⟨⟨hrerun, hstep⟩, hq⟩, howed⟩, hheld⟩, hroute⟩ := hclear
  have hfirst : (ordCols x).headD 0 = a := by rw [hx]; rfl
  have hsend : s.send src x = s.arrive x := by
    have hfree : ((s.route src (ordFrond x) (s.ordGranule x)).bind fun r => r.find? fun l => (s.flink l).retraining) = none := by
      rw [Option.bind_eq_none_iff]
      intro r hr
      unfold ordFrond State.ordGranule at hr
      rw [hfirst] at hr
      rw [hr] at hroute
      rw [List.find?_eq_none]
      simpa using hroute
    have hgo : s.held src (ordFrond x) (s.ordGranule x) = false := by
      unfold ordFrond State.ordGranule
      rw [hfirst]
      exact hheld
    unfold State.send State.dispatch
    rw [hgo, hwait, hfree]
    rfl
  have hqueue : ∀ v : Pair, (s.setPair (colUnit a) v).pair (colUnit a) = v := fun v => State.pair_setPair s _ v
  have hserved : (s.setPair (colUnit a) { s.pair (colUnit a) with ordQ := [x] }).served (colUnit a) x [] = (s.taken (colUnit a) x).serveOne x :=
    if_pos (by simp [hx, hunit])
  have hdone : (((s.taken (colUnit a) x).serveOne x).pair (colUnit a)).ordQ = [] := by
    unfold State.pair
    rw [hpairs]
    exact congrArg Pair.ordQ (s.taken_pair _ x)
  rw [hsend, ← hserved]
  unfold State.arrive
  rw [hx]
  dsimp only
  rw [hq, List.nil_append]
  refine State.serveNow_one (by rw [hqueue]) (by rw [hx]; exact Nat.le_refl 2) ?_ ?_ ?_ (by rw [hserved]; exact hdone)
  · rw [hqueue]; exact hrerun
  · rw [hqueue]; exact hstep
  · rw [hqueue]; exact howed

/-! ## Reads of a line -/

theorem State.err_ports (s : State) (kind dpa byte requester unit : Nat) : (s.err kind dpa byte requester unit).ports = s.ports := by
  obtain ⟨_, _, h, -⟩ := s.err_eq kind dpa byte requester unit
  rw [h]

theorem State.logBad_ports (s : State) (req : Requester) (col : Nat) (poisoned : Bool) : (s.logBad req col poisoned).ports = s.ports := by
  cases poisoned with
  | false => exact s.err_ports _ _ _ _ _
  | true =>
    rcases s.logBad_cases req col with h | ⟨h, -⟩
    · rw [h]
      exact State.err_ports _ _ _ _ _ _
    · rw [h]

/-- R248, R280: an overflow of a bucket only sends messages. -/
theorem State.bucketOver_link (s : State) (st k : Nat) : (s.port k).SameLink ((s.bucketOver st).port k) := by
  have hintr : ∀ (t : State) (f : Intr → Intr), (t.eachIntr f).ports = t.ports := fun t f =>
    List.foldlRecOn (motive := fun u : State => u.ports = t.ports) _ _ rfl fun _ hu _ _ => hu
  have hall : ∀ t : State, Sends t (t.msixAll 2) := fun t => ((((Sends.refl t).msix 0 2).msix 1 2).msix 2 2).msix 3 2
  have hlink := (hall ((s.err 7 0 0 (reqCode .controller) (unitId 2 st)).eachIntr fun i =>
    { i with bucket := true, ovf := i.ovf ||| BitVec.ofNat 32 (2 ^ st) })).link k
  unfold State.port at hlink ⊢
  rw [hintr, State.err_ports] at hlink
  exact hlink

/-- R248, R278 to R284: reporting what reads find only sends messages. -/
theorem State.noteRead_link (s : State) (req : Requester) (col k : Nat) : (s.port k).SameLink ((s.noteRead req col).port k) := by
  have hsame : ∀ {t : State}, t.ports = s.ports → (s.port k).SameLink (t.port k) := fun h => by
    unfold State.port
    rw [h]
    exact .refl _
  have hcorrected : ∀ (t : State) st, t.ports = s.ports → (s.port k).SameLink ((t.corrected st).port k) := fun t st h => by
    unfold State.corrected
    dsimp only
    split
    · exact (hsame (t := t.setBucket st _) h).trans (State.bucketOver_link _ st k)
    · exact hsame h
  unfold State.noteRead
  split
  · split
    · exact .refl _
    · exact hsame (s.logBad_ports _ _ _)
    · exact hsame (s.logBad_ports _ _ _)
    · exact hcorrected _ _ (State.err_ports _ _ _ _ _ _)
  · exact .refl _

theorem State.noteReads_link (s : State) (req : Requester) (cols : List Nat) (k : Nat) : (s.port k).SameLink ((s.noteReads req cols).port k) := by
  induction cols generalizing s with
  | nil => exact .refl _
  | cons c cols ih => exact (s.noteRead_link req c k).trans (ih _)

theorem Served.readPair {s t : State} (h : Served s t s.mem) (a b : Nat) : t.readPair a b = s.readPair a b := by
  have hread : ∀ col, t.readCol col = s.readCol col := fun col => State.readCol_of_sameCol (by unfold SameCol; rw [h.mem]; exact ⟨rfl, rfl⟩)
  simp only [State.readPair, hread, h.colUp]

/-- R244, R246: a read of a line that nothing holds is answered at once: with what the columns deliver, which they deliver after it too. -/
theorem State.send_lineRead {s : State} {src a b : Nat} {p : Fin 4} (hunit : colUnit b = colUnit a) (hclear : s.clearCol src a = true)
    (hwait : ∀ h ∈ s.underway, OrdAccess.writeOf p h.2 = false) (hup : (s.port p).linkUp = true) (hret : (s.port p).retraining = false) :
    ∃ m cs ps pt is ev ig o, s.send src (.lineRead p a b) = { s with
        mem := m, chans := cs, pairs := ps, ports := pt, intrs := is, evlog := ev, integ := ig
        out := .cxlData p (s.readPair a b).1 (s.readPair a b).2 :: o }
      ∧ (∀ col, (decodeCol (m.data col) (m.chk col)).2 = (s.readCol col).2)
      ∧ ∀ col, col ∉ [a, b] → m.data col = s.mem.data col ∧ m.chk col = s.mem.chk col := by
  obtain ⟨u, hu⟩ : ∃ u, u = s.taken (colUnit a) (.lineRead p a b) := ⟨_, rfl⟩
  have hserved : Served s u s.mem := hu ▸ State.taken_served (State.ordQ_of_clear hclear)
  obtain ⟨cs, ps, honly⟩ := hserved.eq
  have hport : u.port p = s.port p := by rw [honly]; rfl
  have hone : u.serveOne (.lineRead p a b) = (u.noteReads .host [a, b]).emit (.cxlData p (s.readPair a b).1 (s.readPair a b).2) := by
    obtain ⟨⟨_, _, _, hlink⟩, -⟩ := u.noteReads_link .host [a, b] p
    rw [hport] at hlink
    rw [← hserved.readPair]
    exact State.toHost_up (by rw [hlink]; exact hup) (by rw [hlink]; exact hret) _
  have hdata := fun col => u.readCol_noteReads .host [a, b] col
  obtain ⟨⟨_, _, _, _, _, _, hreads⟩, hothers⟩ := Reads.noteReads u .host [a, b]
  obtain ⟨ps', hsend⟩ := State.send_line (x := .lineRead p a b) rfl hunit (by simpa [State.readWaits] using hwait) hclear
    (by rw [← hu, hone, hreads]; rfl)
  rw [← hu, hone, hreads, honly] at hsend
  rw [hreads, honly] at hdata hothers
  exact ⟨_, _, _, _, _, _, _, _, hsend, hdata, hothers⟩

/-! ## Writes of a line -/

section
variable {s : State} {src a b : Nat} {p : Fin 4} (hunit : colUnit b = colUnit a) (hclear : s.clearCol src a = true)
  (hup : (s.port p).linkUp = true) (hret : (s.port p).retraining = false)
include hunit hclear hup hret

/-- R94, R243: a write of a line that nothing holds is done at once at its pair, and completes. -/
theorem State.send_lineWrite {line : BitVec 512} {be : Word64} {poison : Bool} {m : DMem}
    (hwrite : ∀ u, Served s u s.mem → u.writeHost a b line be poison = { u with mem := m }) :
    ∃ cs ps, s.send src (.lineWrite p a b line be poison) = { s with mem := m, chans := cs, pairs := ps, out := .cxlDone p :: s.out } := by
  obtain ⟨u, hu⟩ : ∃ u, u = s.taken (colUnit a) (.lineWrite p a b line be poison) := ⟨_, rfl⟩
  have hserved : Served s u s.mem := hu ▸ State.taken_served (State.ordQ_of_clear hclear)
  obtain ⟨cs, ps, honly⟩ := hserved.eq
  have hone : u.serveOne (.lineWrite p a b line be poison) = ({ u with mem := m } : State).emit (.cxlDone p) := by
    have hport : u.port p = s.port p := by rw [honly]; rfl
    rw [← hport] at hup hret
    show (u.writeHost a b line be poison).toHost p (.cxlDone p) = _
    rw [hwrite u hserved]
    exact State.toHost_up (s := { u with mem := m }) hup hret _
  obtain ⟨ps', hsend⟩ := State.send_line (x := .lineWrite p a b line be poison) rfl hunit rfl hclear (by rw [← hu, hone]; rfl)
  rw [← hu, hone, honly] at hsend
  exact ⟨cs, ps', hsend⟩

variable (hf : ∀ ch, Tbl.get none s.mem.flips ch = none) (hua : s.colUp a = true) (hub : s.colUp b = true)
include hf hua hub

theorem State.send_lineWrite_full (line : BitVec 512) (poison : Bool) :
    ∃ cs ps, s.send src (.lineWrite p a b line (BitVec.allOnes 64) poison) = { s with
      mem := (s.mem.store a (lineHalf line 0) (freshCheck (lineHalf line 0) poison)).store b (lineHalf line 1) (freshCheck (lineHalf line 1) poison)
      chans := cs, pairs := ps, out := .cxlDone p :: s.out } :=
  State.send_lineWrite hunit hclear hup hret fun u h => by
    have hwrite := State.writeHost_full (by rw [h.mem]; exact hf) ((h.colUp a).trans hua) ((h.colUp b).trans hub) line poison
    rwa [h.mem] at hwrite

theorem State.send_lineWrite_bytes (line : BitVec 512) (be : Word64) (poison : Bool) :
    ∃ m m' cs ps, s.send src (.lineWrite p a b line be poison) = { s with mem := m', chans := cs, pairs := ps, out := .cxlDone p :: s.out }
      ∧ BytesIn s.mem m a (lineHalf line 0) (be.getLsbD ·) ∧ BytesIn m m' b (lineHalf line 1) fun i => be.getLsbD (32 + i) := by
  obtain ⟨m, m', hbytes, hbytes', hwrite⟩ := State.writeHost_bytes hf a b line be poison
  obtain ⟨cs, ps, hsend⟩ := State.send_lineWrite hunit hclear hup hret fun u h =>
    hwrite u h.mem ((h.colUp a).trans hua) ((h.colUp b).trans hub)
  exact ⟨m, m', cs, ps, hsend, hbytes, hbytes'⟩

end

end Sys2Proof.Machine
end

section
/-! SUPPORT. CXL.mem reads and writes on a host port (R243 to R246, R336, R370, R394), and all that the statement says of them. -/

namespace Sys2Proof.Machine

open Sys2Proof

/-! ## What a command does on a port whose link is up -/

section
variable {s : State} {p : Fin 4} {hpa : Nat} (hup : (s.port p).linkUp = true)
include hup

/-- R246, R394: a read that reaches memory goes to its line. -/
theorem exec_memrd_line (hopen : s.memOpen p = true) {dpa : Nat} (hdpa : (s.port p).dpaOf hpa = some dpa) :
    exec (.memrd p hpa) s = .next (s.send rachis (.lineRead p (s.lay.colOf dpa) (s.lay.colOf (dpa + 32)))) := by
  show execMemrd p hpa s = _
  unfold execMemrd
  rw [hup, hopen, hdpa]
  rfl

/-- R246, R336, R370, R394: a read that reaches no memory, its port's writes having arrived. -/
theorem exec_memrd_poison (hnone : s.memOpen p = false ∨ (s.port p).dpaOf hpa = none)
    (hwait : ∀ h ∈ s.underway, OrdAccess.writeOf p h.2 = false) :
    exec (.memrd p hpa) s
      = .next (s.fresh.toHost p (.cxlData p (BitVec.ofNat 512 (Config.freeWord s.free).toNat) true)) := by
  have hread : exec (.memrd p hpa) s = .next (s.poisonRead p) := by
    show execMemrd p hpa s = _
    unfold execMemrd
    rw [hup]
    rcases hnone with hclosed | hdpa
    · rw [hclosed]; rfl
    · rw [hdpa]; cases s.memOpen p <;> rfl
  have hin : s.writesIn p = s := if_neg (by simpa using hwait)
  rw [hread]
  unfold State.poisonRead
  rw [hin]

variable (line : BitVec 512) (be : Word64) (poison : Bool)

/-- R243, R394: a write of the owner that reaches memory goes to its line. -/
theorem cxlWrite_line (hopen : s.memOpen p = true) (howner : s.isOwner p = true) {dpa : Nat} (hdpa : (s.port p).dpaOf hpa = some dpa) :
    cxlWrite p hpa line be poison s = s.send rachis (.lineWrite p (s.lay.colOf dpa) (s.lay.colOf (dpa + 32)) line be poison) := by
  simp only [State.memOpen, Bool.and_eq_true, beq_iff_eq, Bool.not_eq_true'] at hopen
  obtain ⟨hready, hfence⟩ := hopen
  unfold cxlWrite
  rw [hup, hdpa]
  dsimp only
  rw [if_neg (by decide), if_neg (by simp [hready, howner]), hfence]
  rfl

/-- R370: on the fenced port of the owner a write only completes. -/
theorem cxlWrite_fenced (hret : (s.port p).retraining = false) (hready : s.phase = .ready) (howner : s.isOwner p = true)
    (hdpa : (s.port p).dpaOf hpa ≠ none) (hfence : (s.port p).fence = true) :
    cxlWrite p hpa line be poison s = s.emit (.cxlDone p) := by
  obtain ⟨dpa, hdpa⟩ := Option.ne_none_iff_exists'.1 hdpa
  unfold cxlWrite
  rw [hup, hdpa]
  dsimp only
  rw [if_neg (by decide), if_neg (by simp [hready, howner]), if_pos hfence]
  exact State.toHost_up hup hret _

/-- R243, R336, R394: a write that is discarded completes. -/
theorem cxlWrite_discard (h : s.phase ≠ .ready ∨ s.isOwner p = false ∨ (s.port p).dpaOf hpa = none) :
    ∃ addr, cxlWrite p hpa line be poison s = (s.discard p addr (bits line.toNat 0 64)).toHost p (.cxlDone p) := by
  unfold cxlWrite
  rw [hup, if_neg (by decide)]
  cases hdpa : (s.port p).dpaOf hpa with
  | none => exact ⟨hpa, rfl⟩
  | some dpa =>
    refine ⟨dpa, if_pos ?_⟩
    rcases h with hphase | howner | hnone
    · exact .inl hphase
    · exact .inr (by simp [howner])
    · simp [hdpa] at hnone

end

/-- R255: what a port sends its host waits while the link retrains. -/
theorem State.toHost_wait {s : State} {p : Fin 4} (hup : (s.port p).linkUp = true) (hret : (s.port p).retraining = true) (o : Out) :
    s.toHost p o = s.setPort p { s.port p with heldOut := (s.port p).heldOut ++ [o] } := by
  simp [State.toHost, hup, hret]

/-! ## Writes that are discarded (R243) -/

/-- R243: a discarded write is counted at its port, logged once in 1,024, and reported; nothing else comes of it. -/
theorem State.discard_sends (s : State) (p : Fin 4) (addr value : Nat) :
    ∃ l v, Sends { s.setPort p v with evlog := l } (s.discard p addr value) ∧ v.discarded = (s.port p).discarded + 1
      ∧ v.linkUp = (s.port p).linkUp ∧ v.retraining = (s.port p).retraining
      ∧ l.nextSeq = s.evlog.nextSeq + (if (s.port p).discarded % 1024 = 0 then 1 else 0) := by
  have hlog : ∀ v kind st unit d0 d1 d2, ∃ l, Sends { s.setPort p v with evlog := l }
        (if (s.port p).discarded % 1024 = 0 then (s.setPort p v).ev kind st unit d0 d1 d2 else s.setPort p v)
      ∧ l.nextSeq = s.evlog.nextSeq + (if (s.port p).discarded % 1024 = 0 then 1 else 0) := fun v kind st unit d0 d1 d2 => by
    split
    · obtain ⟨l, hsends, hseq, -⟩ := (s.setPort p v).evAdd_sends { seq := 0, time := 0, kind, status := st, unit, d0, d1, d2 }
      exact ⟨l, hsends, hseq⟩
    · exact ⟨s.evlog, .refl _, rfl⟩
  obtain ⟨l, hsends, hseq⟩ := hlog _ _ _ _ _ _ _
  exact ⟨l, _, .ite (hsends.toHost p _) hsends, rfl, rfl, rfl, hseq⟩

theorem State.discard_completes {s : State} {p : Fin 4} (hup : (s.port p).linkUp = true) (hret : (s.port p).retraining = false) (addr value : Nat) :
    let t := (s.discard p addr value).toHost p (.cxlDone p)
    ∃ o, t.out = .cxlDone p :: o ∧ t.mem = s.mem ∧ t.pairs = s.pairs ∧ (t.port p).discarded = (s.port p).discarded + 1 ∧ SameModule s t
      ∧ t.queues = s.queues ∧ t.evlog.nextSeq = s.evlog.nextSeq + (if (s.port p).discarded % 1024 = 0 then 1 else 0) := by
  obtain ⟨l, v, hsends, hcount, hv, hv', hseq⟩ := s.discard_sends p addr value
  obtain ⟨⟨_, _, _, hport⟩, -⟩ := hsends.link p
  rw [show ({ s.setPort p v with evlog := l } : State).port p = v from State.port_setPort s p v] at hport
  obtain ⟨_, _, honly⟩ := hsends.only
  intro t
  have ht : t = (s.discard p addr value).emit (.cxlDone p) :=
    State.toHost_up (by rw [hport]; exact hv.trans hup) (by rw [hport]; exact hv'.trans hret) _
  have hdiscarded : (t.port p).discarded = v.discarded := by
    rw [ht]
    show ((s.discard p addr value).port p).discarded = _
    rw [hport]
  rw [hdiscarded, hcount, ht, honly]
  exact ⟨_, rfl, rfl, rfl, rfl, by simp [SameModule, State.setPort], rfl, hseq⟩

/-! ## Lines -/

theorem State.readPair_halves (s : State) (a b : Nat) :
    (s.readPair a b).1.extractLsb' 0 256 = (s.readCol a).2 ∧ (s.readPair a b).1.extractLsb' 256 256 = (s.readCol b).2 :=
  ⟨BitVec.extractLsb'_append_eq_right, BitVec.extractLsb'_append_eq_left⟩

theorem Layout.colOf_line_ne (l : Layout) {dpa : Nat} (h : dpa % 64 = 0) : l.colOf dpa ≠ l.colOf (dpa + 32) := by
  rw [l.colOf_add_32 h]
  exact Nat.ne_of_lt (Nat.lt_succ_self _)

section
variable {s : State} {p : Fin 4} {hpa dpa : Nat} (hup : (s.port p).linkUp = true) (hret : (s.port p).retraining = false)
  (hopen : s.memOpen p = true) (hdpa : (s.port p).dpaOf hpa = some dpa) (h64 : dpa % 64 = 0) (hclear : s.clearLine dpa = true)
include hup hret hopen hdpa h64 hclear

/-- R244, R246, R255: a read of a line that nothing holds. -/
theorem memrd_returns_line (hwait : ∀ h ∈ s.underway, OrdAccess.writeOf p h.2 = false) :
    let a := s.lay.colOf dpa
    let b := s.lay.colOf (dpa + 32)
    ∃ t o line poison, exec (.memrd p hpa) s = .next t ∧ t.out = .cxlData p line poison :: o
      ∧ line.extractLsb' 0 256 = (s.readCol a).2 ∧ line.extractLsb' 256 256 = (s.readCol b).2
      ∧ poison = (!(s.readCol a).1.good || !(s.readCol b).1.good || !s.colUp a || !s.colUp b)
      ∧ (t.readCol a).2 = (s.readCol a).2 ∧ (t.readCol b).2 = (s.readCol b).2 ∧ (∀ col, col ≠ a → col ≠ b → SameCol s t col)
      ∧ SameModule s t ∧ t.queues = s.queues ∧ t.recs = s.recs ∧ t.flags = s.flags := by
  intro a b
  obtain ⟨hfirst, -⟩ := List.forall_mem_cons.1 (List.all_eq_true.1 hclear)
  obtain ⟨_, _, _, _, _, _, _, o, hsend, hdata, hothers⟩ := State.send_lineRead (s.lay.colUnit_line h64) hfirst hwait hup hret
  obtain ⟨hlow, hhigh⟩ := s.readPair_halves a b
  refine ⟨_, o, _, _, (exec_memrd_line hup hopen hdpa).trans (congrArg _ hsend), rfl, hlow, hhigh, rfl, hdata a, hdata b, fun col ha hb => ?_, ?_,
    rfl, rfl, rfl⟩
  · exact hothers col (by simp [ha, hb, a, b])
  · simp [SameModule]

variable (howner : s.isOwner p = true) (hf : ∀ ch, Tbl.get none s.mem.flips ch = none) (hua : s.colUp (s.lay.colOf dpa) = true)
  (hub : s.colUp (s.lay.colOf (dpa + 32)) = true)
include howner hf hua hub

/-- R243, R244, R276: a write of a full line that nothing holds. -/
theorem cxlWrite_full_stores (line : BitVec 512) (poison : Bool) :
    let a := s.lay.colOf dpa
    let b := s.lay.colOf (dpa + 32)
    let t := cxlWrite p hpa line (BitVec.allOnes 64) poison s
    t.out = .cxlDone p :: s.out
      ∧ t.mem.data a = line.extractLsb' 0 256 ∧ t.mem.chk a = freshCheck (line.extractLsb' 0 256) poison
      ∧ t.mem.data b = line.extractLsb' 256 256 ∧ t.mem.chk b = freshCheck (line.extractLsb' 256 256) poison
      ∧ (∀ col, col ≠ a → col ≠ b → SameCol s t col) ∧ SameModule s t ∧ t.queues = s.queues ∧ t.recs = s.recs ∧ t.ports = s.ports := by
  intro a b t
  have hab : a ≠ b := s.lay.colOf_line_ne h64
  obtain ⟨hfirst, -⟩ := List.forall_mem_cons.1 (List.all_eq_true.1 hclear)
  obtain ⟨_, _, hsend⟩ := State.send_lineWrite_full (s.lay.colUnit_line h64) hfirst hup hret hf hua hub line poison
  have ht : t = _ := (cxlWrite_line hup line (BitVec.allOnes 64) poison hopen howner hdpa).trans hsend
  clear_value t
  subst ht
  refine ⟨rfl, ?_, ?_, DMem.data_store _ _ _ _, DMem.chk_store _ _ _ _, fun col ha hb => ⟨?_, ?_⟩, ?_, rfl, rfl, rfl⟩
  · exact (DMem.data_store_ne _ _ _ hab).trans (DMem.data_store _ _ _ _)
  · exact (DMem.chk_store_ne _ _ _ hab).trans (DMem.chk_store _ _ _ _)
  · exact (DMem.data_store_ne _ _ _ hb).trans (DMem.data_store_ne _ _ _ ha)
  · exact (DMem.chk_store_ne _ _ _ hb).trans (DMem.chk_store_ne _ _ _ ha)
  · simp [SameModule]

/-- R243, R244, R276: a write of some bytes of a line that nothing holds. -/
theorem cxlWrite_bytes_stored (line : BitVec 512) (be : Word64) (poison : Bool) :
    let a := s.lay.colOf dpa
    let b := s.lay.colOf (dpa + 32)
    let t := cxlWrite p hpa line be poison s
    t.out = .cxlDone p :: s.out
      ∧ (∀ i, i < 32 → colByte (t.mem.data a) i = (if be.getLsbD i then colByte (line.extractLsb' 0 256) i else colByte (s.mem.data a) i)
          ∧ colByte (t.mem.data b) i = (if be.getLsbD (32 + i) then colByte (line.extractLsb' 256 256) i else colByte (s.mem.data b) i))
      ∧ (∀ col, col ≠ a → col ≠ b → SameCol s t col) ∧ SameModule s t ∧ t.queues = s.queues ∧ t.recs = s.recs := by
  intro a b t
  have hab : a ≠ b := s.lay.colOf_line_ne h64
  obtain ⟨hfirst, -⟩ := List.forall_mem_cons.1 (List.all_eq_true.1 hclear)
  obtain ⟨m, m', _, _, hsend, hlow, hhigh⟩ := State.send_lineWrite_bytes (s.lay.colUnit_line h64) hfirst hup hret hf hua hub line be poison
  have ht : t = _ := (cxlWrite_line hup line be poison hopen howner hdpa).trans hsend
  clear_value t
  subst ht
  refine ⟨rfl, fun i hi => ⟨?_, ?_⟩, fun col ha hb => ⟨?_, ?_⟩, ?_, rfl, rfl⟩
  · exact (congrArg (colByte · i) (hhigh.data a hab)).trans (hlow.bytes i hi)
  · rw [← hlow.data b hab.symm]
    exact hhigh.bytes i hi
  · exact (hhigh.data col hb).trans (hlow.data col ha)
  · exact (hhigh.chk col hb).trans (hlow.chk col ha)
  · simp [SameModule]

end

/-! ## The statement -/

/-- Settles O48: what is clear of other traffic is served at once (`State.send_line`), a read with the corrections that it makes
(`State.readCol_noteReads`), a write with the bytes that it names (`BytesIn`); what reaches no memory is answered at the port. -/
theorem cxlReadsAndWrites : Obligations.CxlReadsAndWrites := by
  refine ⟨fun s p hpa hup hwait => ⟨fun hopen hret dpa hdpa h64 hclear => memrd_returns_line hup hret hopen hdpa h64 hclear hwait,
      fun hnone => ⟨fun hret => ⟨_, _, exec_memrd_poison hup hnone hwait, State.toHost_up (s := s.fresh) hup hret _⟩, fun hret => ?_⟩⟩,
    fun s p hpa line be poison hup hret => ⟨fun hopen dpa hdpa h64 hclear => ?_, fun h => ?_,
      fun hready howner hdpa hfence => ?_⟩⟩
  · exact ⟨_, _, (exec_memrd_poison hup hnone hwait).trans (congrArg _ (State.toHost_wait (s := s.fresh) hup hret _)),
      congrArg Port.heldOut (State.port_setPort s.fresh p _), rfl, rfl⟩
  · intro a b howner hf hua hub
    obtain ⟨hout, hda, hka, hdb, hkb, hcols, hmod, hq, hrecs, hports⟩ :=
      cxlWrite_full_stores hup hret hopen hdpa h64 hclear howner hf hua hub line poison
    obtain ⟨hout', hda', -, hdb', -, hcols', hmod', hq', hrecs', -⟩ :=
      cxlWrite_full_stores hup hret hopen hdpa h64 hclear howner hf hua hub line false
    exact ⟨⟨_, rfl, hout, hda, hka, hdb, hkb, hcols, hmod, hq, hrecs, hports⟩, ⟨_, rfl, hout', hda', hdb', hcols', hmod', hq', hrecs'⟩,
      _, _, rfl, cxlWrite_bytes_stored hup hret hopen hdpa h64 hclear howner hf hua hub line be poison⟩
  · intro discards
    have hdiscards : ∀ i be poison, exec i s = .next (cxlWrite p hpa line be poison s) → discards i := fun i be poison hi => by
      obtain ⟨addr, hwrite⟩ := cxlWrite_discard hup line be poison h
      obtain ⟨o, hleaves⟩ := State.discard_completes hup hret addr (bits line.toNat 0 64)
      exact ⟨_, o, hi.trans (congrArg _ hwrite), hleaves⟩
    exact ⟨hdiscards _ _ _ rfl, hdiscards _ _ _ rfl, hdiscards _ _ _ rfl⟩
  · exact ⟨congrArg _ (cxlWrite_fenced hup line _ poison hret hready howner hdpa hfence),
      congrArg _ (cxlWrite_fenced hup line be poison hret hready howner hdpa hfence),
      congrArg _ (cxlWrite_fenced hup line _ false hret hready howner hdpa hfence)⟩

end Sys2Proof.Machine
end
